-- ==== Sys2Proof/Word.lean ====
section
/-! DEFINITION. The word types of the VVD-4820 and their plainest arithmetic (R11, R12). -/

namespace Sys2Proof

/-- One byte. -/
abbrev Byte := BitVec 8

/-- A 32-bit word (R11). -/
abbrev Word := BitVec 32

/-- A W40 value in its register image (R73). -/
abbrev W40 := BitVec 40

/-- An FP32 value in its register image (R73). -/
abbrev F32 := BitVec 32

/-- An S20 short accumulator in its register image (R77). -/
abbrev S20 := BitVec 28

/-- Sparse data by key: keys strictly rising, no entry equal to what an unlisted key reads as
(the operations and the canonical form are in Machine/Maps.lean). -/
abbrev SMap (α : Type) := List (Nat × α)

end Sys2Proof
end

