-- ==== Sys2Proof/Syntax.lean ====
section
/-! DEFINITION. The commands of the VVD-4820: one constructor for each row of the opcode table, and the types of their operands. -/

namespace Sys2Proof

/-- A cell by its flat cell index, die × 384 + bench × 16 + seat (R17). -/
abbrev CellIx := Fin 1536
/-- A compute die CD0-CD3 (R17). -/
abbrev DieIx := Fin 4
/-- A partition (R34). -/
abbrev PartIx := Fin 4
/-- A form F0-F31 (R35). -/
abbrev FormIx := Fin 32
/-- A command ring: 0-3 the host's rings (R319), 4 the management requests' fifth ring (R342). -/
abbrev RingIx := Fin 5
/-- A ring of the host (R319). -/
abbrev HostRing := Fin 4
/-- A clerk core (R20). -/
abbrev ClerkIx := Fin 4
/-- A fabric port, in the order W, N, E, S (R333). -/
abbrev PortIx := Fin 4
/-- A link unit of a port: quads Q0-Q7, then the escape group as 8 (R230, R341). -/
abbrev UnitIx := Fin 9
/-- A tile slot T0-T3 (R49). -/
abbrev SlotIx := Fin 4
/-- A chart slot: 0-7 for F0-F7, 8-11 for Y0-Y3 (R147). -/
abbrev StreamIx := Fin 12
/-- A queue by its code of R145 (0x00-0x13); 20-23 are the producer ends of X0-X3, where entries
wait for the mesh route out of the cell (R45, R47, log 16). -/
abbrev QueueIx := Fin 24
/-- A bucket number (R206). -/
abbrev BucketIx := Fin 1024

/-- One queue entry: 128 bytes read as a 1,024-bit little-endian value (R43), with a poison bit for
each 16-bit lane and the fault policy it carries; `memErr` marks the poisoned lanes that accompany a memory
error already detected, and reported as that (R118). -/
structure Entry where
  data   : BitVec 1024
  poison : BitVec 64 := 0
  policy : BitVec 2 := 0
  memErr : BitVec 64 := 0
  deriving DecidableEq, Repr

/-- What the device gets when it reads a range of host memory (log 7): the bytes, and the offset at
which the read fails, when it does (HOST_READ_FAILED of R326). -/
structure HostData where
  bytes  : List Byte
  failAt : Option Nat := none
  deriving DecidableEq, Repr

/-- A submit entry as the device reads it (R321), with what a read of its PARAM_ADDR gives. -/
structure Submit where
  entry : BitVec 512
  ext   : HostData
  deriving DecidableEq, Repr

/-- A fabric packet: its 32-byte header (R236) and its payload. -/
structure Packet where
  hdr     : BitVec 256
  payload : List Byte
  deriving DecidableEq, Repr

/-- A flit of 256 bytes (R233). -/
abbrev Flit := BitVec 2048

/-- What FEC decoding found since the unit's last flit: symbols it corrected, and codewords it could not (R231, R254). -/
structure Fec where
  corrected     : Nat := 0
  uncorrectable : Nat := 0
  deriving DecidableEq, Repr

/-- A flit as a unit receives it, and what FEC decoding found (R231, R233). -/
structure RxFlit where
  flit : Flit
  fec  : Fec := {}
  deriving DecidableEq, Repr

/-- A flit slot of a unit; `lost`: the unit's last control flit failed at its receiver (R249, log 134). -/
structure UnitSlot where
  u    : UnitIx
  lost : Bool := false
  deriving DecidableEq, Repr

/-- The 64-byte payload of a control packet (R257). -/
abbrev Control := BitVec 512

/-- What the check bits of a memory find in a word or block that is read (R70, R121, R125). -/
inductive Ecc where
  /-- No error. -/
  | clean
  /-- An error the code corrects: counted, nothing else changes. -/
  | corrected
  /-- An error the code detects and cannot correct: poisoned zeros and a detected error. -/
  | uncorrectable
  /-- Three bits or more, taken for a single-bit error: delivered miscorrected, an undefined value (R70). -/
  | miscorrected
  /-- Four bits or more that the check bits do not see: delivered unchanged, an undefined value (R70). -/
  | unseen
  deriving DecidableEq, Repr

/-- What the check bits of several words find, by word (R70): one that is not listed shows no error. -/
abbrev WordErrs := List (Nat × Ecc)

/-- A write of a stream that its memory accepts, and the words that show an error as it is written (R68, R114). -/
structure WriteAt where
  st   : StreamIx
  errs : WordErrs := []
  deriving DecidableEq, Repr

/-- A weight-cache line that a fill brings, and what the check bits of its blocks 0-3 show (R122, R125). -/
structure LineRead where
  line : Nat
  errs : WordErrs := []
  deriving DecidableEq, Repr

/-- The bucket of a run that is complete; `accepted`: its successor has accepted all that the run sent (R215, log 151). -/
structure RunEnd where
  bucket   : BucketIx
  accepted : Bool
  deriving DecidableEq, Repr

/-- A residue mismatch in a site, of the mod-3 or the mod-7 path (R71, R277). -/
inductive SiteFault where
  | mod3
  | mod7
  deriving DecidableEq, Repr

/-- The parts and options of CXL 3.1 that the device does not support (R309). -/
inductive AbsentFeature where
  | flit68
  | latencyOptimisedFlit
  | multiLogicalDevice
  | dynamicCapacity
  | globalFabricMemory
  | portBasedRouting
  | unorderedIo
  | tsp
  | tdisp
  | hotAdd
  deriving DecidableEq, Repr

/-- A register with fields that a write reaches (R14, R319, R385, R439, R311). -/
inductive Reg where
  /-- SUB_BASE of a ring (R319). -/
  | subBase (r : HostRing)
  /-- REP_BASE of a ring. -/
  | repBase (r : HostRing)
  /-- SUB_HEAD of a ring, read only. -/
  | subHead (r : HostRing)
  /-- REP_TAIL of a ring, read only. -/
  | repTail (r : HostRing)
  /-- RING_ERR of a ring, write one to clear. -/
  | ringErr (r : HostRing)
  /-- MSIX of a ring. -/
  | msix (r : HostRing)
  /-- The device status register, read only (R439). -/
  | deviceStatus
  /-- OVF of a clerk's control block, write one to clear (R385). -/
  | ovf (k : ClerkIx)
  /-- OVERDUE of a clerk's control block. -/
  | overdue (k : ClerkIx)
  /-- VBASE of a clerk's control block. -/
  | vbase (k : ClerkIx)
  /-- ENABLE of a clerk's control block. -/
  | enable (k : ClerkIx)
  /-- FAULT of a clerk's control block, write one to clear. -/
  | faultBits (k : ClerkIx)
  /-- HELD, PENDING, IS_SRC, IS_COUNT, FAULT_SRC, FAULT_WR and COUNT of a clerk's control block, read only. -/
  | clerkReadOnly (k : ClerkIx)
  /-- Mem_Enable of the CXL configuration space (R311, step 5). -/
  | memEnable
  /-- Cache_Enable of the CXL configuration space (R311, step 6). -/
  | cacheEnable
  /-- A 64-bit BAR (R309; R311, step 4). -/
  | bar (i : Fin 2)
  /-- MSI-X enable (R311, step 4). -/
  | msixEnable
  /-- The base of the HDM decoder (R309; R311, step 5). -/
  | hdmBase
  /-- The commit of the HDM decoder (R311, step 5). -/
  | hdmCommit
  /-- The enable bit of a CXL feature the device does not support, read only zero (R310). -/
  | absentFeature (f : AbsentFeature)
  deriving DecidableEq, Repr

/-- One sample of the values a telemetry summary reports and the model does not hold (R340). -/
structure TeleSample where
  inputMw : Word
  peakMw  : Word
  tj      : BitVec 64
  thbm    : BitVec 96
  deriving DecidableEq, Repr

/-- A telemetry period: its sample, and whether its record is sent within the period (R272, R340). -/
structure TelePeriod where
  sample   : TeleSample
  finishes : Bool
  deriving DecidableEq, Repr

/-- Where a packet waits to be routed: the head of a unit's input, the oldest packet that a partition
injects, or the oldest multicast copy that goes onward (R245, R246, R248). -/
inductive Input where
  | unit (port : PortIx) (u : UnitIx)
  | own (p : PartIx)
  | relay
  deriving DecidableEq, Repr

/-- What a neighbour says of itself in Train (R252). -/
structure Neighbour where
  x      : BitVec 6
  y      : BitVec 6
  port   : PortIx
  serial : BitVec 64
  deriving DecidableEq, Repr

/-- An event that a detector reports (R277, R282-R284). UNIT 0-3 is a compute die, 4 the hub. The two
flags say what the clocks outside the model say: that the second of R339's rate limit is a new
one, and that 10 ms have passed since the last in-band interrupt (R346). -/
structure ErrEvent where
  reason    : BitVec 16
  unit      : Fin 5
  part      : PartIx
  loc       : Word
  detail    : BitVec 64
  newSecond : Bool := false
  newIbi    : Bool := false
  deriving DecidableEq, Repr

/-- What one exam of a slice found (R410, R411, R421): its code, whether it passed, its MARGIN and
whether it used more than 75 % of its tolerance. -/
structure ExamOutcome where
  code   : BitVec 16
  ok     : Bool
  margin : Word := 0
  low    : Bool := false
  deriving DecidableEq, Repr

/-- An uncorrectable block that a scrub finds in a mirror body (R293): the partition, and LOC and
DETAIL of its notice. -/
structure BadBlock where
  part   : PartIx
  loc    : Word
  detail : BitVec 64
  deriving DecidableEq, Repr

/-- A scrub period: the bad block found, if any, and whether the scrub ends within the period (R272, R293). -/
structure ScrubPeriod where
  bad      : Option BadBlock
  finishes : Bool
  deriving DecidableEq, Repr

/-- The target of a granted slice, and the words of its bench's cells, cell-store words by address divided by 32 and
side-memory entries from 49,152, that Save reads as double-bit errors (R413, R417). -/
structure SliceStart where
  target : Word
  bad    : List (Fin 16 × Nat) := []
  deriving DecidableEq, Repr

/-- The ways the CXL link resets (R311). -/
inductive LinkReset where
  | functionLevel
  | hot
  | linkLoss
  deriving DecidableEq, Repr

/-- A KMP message (R337): header, payload and signature; whether it came over I3C (R347); the UDP port it was sent to,
and its sender's address and port (R336); and whether the second of the reject limit is a new one (R343). -/
structure Kmp where
  hdr       : BitVec 256
  payload   : List Byte
  sig       : List Byte
  viaI3c    : Bool := false
  port      : BitVec 16 := 17510
  sender    : BitVec 128 × BitVec 16 := (0, 0)
  newSecond : Bool := false
  deriving DecidableEq, Repr

/-- An ICMP or ICMPv6 echo request (R336). -/
structure Echo where
  v6      : Bool
  ident   : BitVec 16
  seq     : BitVec 16
  payload : List Byte
  deriving DecidableEq, Repr

/-- The MCTP control commands that the device answers (R347). -/
inductive MctpControl where
  /-- Set Endpoint ID. -/
  | setEndpointId (eid : Byte)
  | getEndpointId
  | getVersionSupport
  | getMessageTypeSupport
  deriving DecidableEq, Repr

/-- The transports of the SPDM responder (R351). -/
inductive Transport where
  | doe
  | i3c
  deriving DecidableEq, Repr

/-- Whether a requester accepts each algorithm the device offers (R352). -/
structure AlgorithmOffer where
  ed448      : Bool
  sha3x512   : Bool
  rawStream  : Bool
  secp384r1  : Bool
  aes256gcm  : Bool
  keySchedule : Bool
  deriving DecidableEq, Repr

/-- A CXL_IDE_KM request (R318): the stream it keys (0 the link stream, 1-4 selective, 5
CXL.cachemem) and the key it programs. -/
structure IdeKm where
  stream : Fin 6
  key    : List Byte
  deriving DecidableEq, Repr

/-- What the governor's sensors give at a sample (R398, R399): input power as 1 ms mean, input
current, bus current, hottest junction in 1/16 °C, hottest stack in °C, whether power and
temperatures have left room for 1 ms, and whether a millisecond of the hub reference has ended. -/
structure GovSample where
  powerMw : Nat
  inputMa : Nat
  busMa   : Nat
  tj16    : Nat
  thbm    : Nat
  room1ms : Bool
  newMs   : Bool
  deriving DecidableEq, Repr

/-- What a start-up sequence finds (R371, R422, R435): whether the loader slot and the running slot pass
R359, the stacks that fail training after three attempts, and the outcomes of the full exam. -/
structure BootSample where
  loaderOk    : Bool
  runningOk   : Bool
  badStacks   : BitVec 12
  exams       : List (Word × List ExamOutcome)
  deriving DecidableEq, Repr

/-- The I3C common command codes the target answers (R346). -/
inductive I3cCommand where
  /-- ENTDAA: dynamic address assignment. -/
  | entdaa (addr : BitVec 7)
  /-- SETNEWDA: a new dynamic address. -/
  | setnewda (addr : BitVec 7)
  /-- RSTDAA: the dynamic address is given up. -/
  | rstdaa
  /-- ENEC: in-band interrupts enabled. -/
  | enec
  /-- DISEC: in-band interrupts disabled. -/
  | disec
  | getpid
  | getbcr
  | getdcr
  | getstatus
  | getcaps
  /-- SETMWL, SETMRL: the largest write and read. -/
  | setmwl (n : BitVec 16)
  | setmrl (n : BitVec 16)
  | getmwl
  | getmrl
  /-- RSTACT: what a target reset does. -/
  | rstact (action : Byte)
  deriving DecidableEq, Repr

/-- The commands: one constructor for each row of spec/opcode_table.json. -/
inductive Instr where
  /-- IDENTIFY (R442): Command 0x0101 returns the 64 bytes of serial number, stepping and firmware, loader
  and ROM versions. -/
  | identify (r : RingIx)
  /-- FEATURE_READ (R166): Command 0x0102 returns the 64 words of the feature page. -/
  | featureRead (r : RingIx)
  /-- PARTITION_SET (R34): Device-wide command 0x0103 sets the die mask of each partition while every
  partition is Empty. -/
  | partitionSet (r : RingIx)
  /-- FABRIC_CONFIG (R441): Device-wide command 0x0104 sets the torus size, the device's own coordinates
  and the quad ownership maps while every port is Off. -/
  | fabricConfig (r : RingIx)
  /-- PORT_ENABLE (R252): Command 0x0105 enables or disables the fabric ports named by its mask, moving
  them to Detect or Off. -/
  | portEnable (r : RingIx)
  /-- DEVICE_RESET (R432): Command 0x0106 replies and then performs a device reset, running start-up again
  from the mask ROM. -/
  | deviceReset (r : RingIx)
  /-- LOAD (R327): Command 0x0201 reads a program image, has Proctor verify it, copies it into the
  partition and replies with Proctor's report. -/
  | loadImage (r : RingIx) (img : HostData)
  /-- LOADER_READ_COMPLETE (R327): A loader read of image bytes from host memory completes and the loader
  continues its parse or copy. -/
  | loaderReadComplete (r : RingIx) (img : HostData)
  /-- START (R328): Command 0x0202 moves the partition to Starting, optionally restores a waypoint, and
  sends restore done to the lodestar. -/
  | startJob (r : RingIx)
  /-- STOP (R325): Command 0x0203 sets a pending stop on the lodestar so that the halt bell is sent at the
  next Ringing. -/
  | stopJob (r : RingIx)
  /-- UNLOAD (R325): Command 0x0204 empties the partition of its image. -/
  | unload (r : RingIx)
  /-- STATUS (R442): Command 0x0205 returns the partition's state, step, attempt, epoch, lodestar seat and
  chart generation. -/
  | status (r : RingIx)
  /-- WRITE (R441): Command 0x0301 copies bytes from host memory into die-local HBM, subject to the per-
  region rules. -/
  | writeHbm (r : RingIx) (data : HostData)
  /-- READ (R441): Command 0x0302 returns bytes of die-local HBM as reply data. -/
  | readHbm (r : RingIx)
  /-- APERTURE_MAP (R313): Command 0x0303 maps or unmaps one 4 GiB aperture of the HDM window onto a die's
  HBM, first back-invalidating lines of the old mapping. -/
  | apertureMap (r : RingIx)
  /-- JOURNAL_READ (R441): Command 0x0304 returns up to 64 journal head entries in step order. -/
  | journalRead (r : RingIx)
  /-- CHART_LOAD (R329): Command 0x0401 loads the seating chart, group table, lodestar parameters,
  waypoint map and reserve list, then checks them. -/
  | chartLoad (r : RingIx)
  /-- CHART_READ (R325): Command 0x0402 returns the partition's seating chart and its generation. -/
  | chartRead (r : RingIx)
  /-- FW_BEGIN (R362): Command 0x0501 resumes the open firmware staging session or clears it and opens a
  new one. -/
  | fwBegin (r : RingIx)
  /-- FW_BLOCK (R363): Command 0x0502 copies a block of the firmware image from host memory into the
  staging area and sets its bitmap bits. -/
  | fwBlock (r : RingIx) (data : HostData)
  /-- FW_STATUS (R361): Command 0x0503 returns the session record and the resumption bitmap. -/
  | fwStatus (r : RingIx)
  /-- FW_ACTIVATE (R368): Command 0x0504 moves a staged session to activating and waits up to WINDOW for a
  switch boundary. -/
  | fwActivate (r : RingIx)
  /-- FW_DISCARD (R362): Command 0x0505 clears the staging session to state 0. -/
  | fwDiscard (r : RingIx)
  /-- FW_FUSE (R373): Command 0x0506 irreversibly raises the SVN floor or blows the debug-disable fuse. -/
  | fwFuse (r : RingIx)
  /-- POWER_STATUS (R407): Command 0x0601 returns the power status record sampled at admission. -/
  | powerStatus (r : RingIx)
  /-- POWER_POLICY (R406): Command 0x0602 sets the partition's target core voltage and whether boost and
  sprint are allowed. -/
  | powerPolicy (r : RingIx)
  /-- BENCH_STATE (R406): Command 0x0603 moves the named benches of one die to Active or Recess. -/
  | benchState (r : RingIx)
  /-- DIE_STATE (R406): Command 0x0604 puts every die of the partition into Dormant or wakes it. -/
  | dieState (r : RingIx)
  /-- DEVICE_STANDBY (R406): Device-wide command 0x0605 enters or leaves Standby. -/
  | deviceStandby (r : RingIx)
  /-- POWER_CAP (R406): Device-wide command 0x0606 sets the input power ceiling. -/
  | powerCap (r : RingIx)
  /-- EXAM_RESULTS (R423): Command 0x0701 returns the exam result records of a range of targets. -/
  | examResults (r : RingIx)
  /-- EXAM_RUN (R423): Command 0x0702 runs the exams of one target, or a full exam, outside the rotation. -/
  | examRun (r : RingIx)
  /-- EXAM_POLICY (R423): Device-wide command 0x0703 enables or disables each target type for service
  exams. -/
  | examPolicy (r : RingIx)
  /-- TELEMETRY_READ (R341): Command 0x0801 returns counter records of one kind selected by record
  selector and count. -/
  | telemetryRead (r : RingIx) (smp : TeleSample)
  /-- TELEMETRY_CLEAR (R341): Command 0x0802 clears the selected counter records. -/
  | telemetryClear (r : RingIx)
  /-- RECORD_READ (R441): Command 0x0803 returns held error records from a first RSEQ onwards. -/
  | recordRead (r : RingIx)
  /-- SERVICE_SET (R441): Command 0x0804 sets the periods of the five services. -/
  | serviceSet (r : RingIx)
  /-- DOORBELL (R320): A host write to SUB_TAIL is admitted as a doorbell and clerk 0 reads the submitted
  entries, ignoring a backward move with RING_ERR. -/
  | doorbell (r : HostRing) (tail : Byte) (subs : (List Submit))
  /-- REP_HEAD_WRITE (R320): A host write to REP_HEAD frees reply slots so that waiting replies can be
  written. -/
  | repHeadWrite (r : HostRing) (head : Byte)
  /-- RING_ENABLE_WRITE (R319): A write to a ring's ENABLE starts the ring, or on clearing discards
  pending commands without reply. -/
  | ringEnableWrite (r : HostRing) (on : Option (List Submit))
  /-- REGISTER_WRITE (R14): A write to a register field with no behaviour of its own stores or clears the
  value by its access code. -/
  | registerWrite (reg : Reg) (v : (BitVec 64))
  /-- COMMAND_REPLY (R323): A finished command writes its reply data and reply into a free slot and sends
  the ring's MSI-X message. -/
  | commandReply (r : RingIx)
  /-- COMPLETE_WRITE (R381): A clerk writes COMPLETE to end the in-service source, or raises a completion
  fault on a wrong value. -/
  | completeWrite (k : ClerkIx) (v : Byte)
  /-- GIE_WRITE (R382): Writing GIE allows or stops later deliveries to the clerk. -/
  | gieWrite (k : ClerkIx) (on : Bool)
  /-- ROUTE_WRITE (R383): Writing a shared source's ROUTE moves its pending bit and count to the new
  clerk. -/
  | routeWrite (src : (Fin 32)) (k : ClerkIx)
  /-- INTERRUPT_DELIVERY (R380): A ready clerk is given its lowest pending enabled source and starts its
  handler at the vector address. -/
  | interruptDelivery (k : ClerkIx) (posts : (List ClerkIx))
  /-- HANDLER_OVERDUE (R386): A source stays in service longer than OVERDUE and a completion fault arises. -/
  | handlerOverdue (k : ClerkIx)
  /-- PERIOD_START (R259): An admitted step bell begins the member's step period, setting tallies and
  releasing the period-start tally. -/
  | periodStart (p : PartIx)
  /-- DESCRIPTOR_LOAD (R139): The sequencer reads the next layer descriptor through the weight cache into
  a free register set. -/
  | descriptorLoad (c : CellIx) (ecc : Ecc)
  /-- DESCRIPTOR_ISSUE (R139): A loaded descriptor whose waits, scalars and chart slots are ready is
  issued, arming its streams and joining its unit's work. -/
  | descriptorIssue (c : CellIx)
  /-- DESCRIPTOR_COMPLETE (R141): A descriptor completes once its operation and streams are done, sends
  its signals and frees its register set. -/
  | descriptorComplete (c : CellIx) (k : (Fin 4))
  /-- TALLY_SIGNAL (R153): A signal's amount lands on its tally, saturating at 0xF_FFFF. -/
  | tallySignal (p : PartIx)
  /-- NOP (R144): Layer operation 0x00 completes at issue. -/
  | nop (c : CellIx)
  /-- ENGINE (R144): Layer operation 0x01 runs an engine operation on one tile slot, optionally draining
  it. -/
  | engine (c : CellIx)
  /-- MULTIPLY_ADD (R41): Engine mode 0x00 adds the rank-r outer product of the operands to the slot. -/
  | multiplyAdd (c : CellIx) (fault : (Option SiteFault))
  /-- ABSOLUTE_DIFFERENCE (R65): Engine mode 0x01 accumulates absolute differences of the operands. -/
  | absoluteDifference (c : CellIx) (fault : (Option SiteFault))
  /-- SQUARED_DIFFERENCE (R65): Engine mode 0x02 accumulates squared differences of the operands. -/
  | squaredDifference (c : CellIx) (fault : (Option SiteFault))
  /-- MIN_PLUS (R65): Engine mode 0x03 keeps the minimum of operand sums in W40. -/
  | minPlus (c : CellIx) (fault : (Option SiteFault))
  /-- MAX_PLUS (R65): Engine mode 0x04 keeps the maximum of operand sums in W40. -/
  | maxPlus (c : CellIx) (fault : (Option SiteFault))
  /-- COMPARE_AND_COUNT (R65): Engine mode 0x05 counts operand pairs with a less than b. -/
  | compareAndCount (c : CellIx) (fault : (Option SiteFault))
  /-- DRAIN (R144): Layer operation 0x02 takes a slot's token and drains its contents without computing. -/
  | drain (c : CellIx)
  /-- VECTOR (R144): Layer operation 0x03 runs a vector-engine function. -/
  | vector (c : CellIx)
  /-- ADD (R149): Vector function 0x01 adds IN0, IN1 and optionally IN2 by RNE40. -/
  | vecAdd (c : CellIx)
  /-- DEQUANT (R94): Vector function 0x02 multiplies each lane by its BF16 channel scale. -/
  | dequant (c : CellIx)
  /-- SPLIT32 (R95): Vector function 0x03 splits FP32 values into three BF16 pieces. -/
  | splitFp32 (c : CellIx)
  /-- SPLIT16 (R97): Vector function 0x04 splits BF16 values into two E4M3 pieces under window scales. -/
  | splitBf16 (c : CellIx)
  /-- FMA (R149): Vector function 0x05 computes a fused multiply-add in FP32. -/
  | vecFma (c : CellIx)
  /-- CONVERT (R149): Vector function 0x06 converts IN0 to the output format. -/
  | convert (c : CellIx)
  /-- OPTIM (R199): Vector function 0x07 applies the optimizer update and writes new weights and state
  records. -/
  | optim (c : CellIx)
  /-- ROW (R144): Layer operation 0x04 runs a row-engine function over rows of V vectors. -/
  | row (c : CellIx)
  /-- SOFTMAX_FORWARD (R191): Row function 0x01 computes softmax, block softmax, merge or finish by mode. -/
  | softmaxForward (c : CellIx)
  /-- SOFTMAX_BACKWARD (R192): Row function 0x02 computes the softmax gradient. -/
  | softmaxBackward (c : CellIx)
  /-- NORMALISATION_FORWARD (R193): Row function 0x03 computes layer or RMS normalisation and stores its
  statistics. -/
  | normalisationForward (c : CellIx)
  /-- NORMALISATION_BACKWARD (R194): Row function 0x04 computes normalisation data or parameter gradients. -/
  | normalisationBackward (c : CellIx)
  /-- ORTHONORMALISATION (R227): Row function 0x05 computes a Cholesky factor and its inverse from a Gram
  matrix. -/
  | orthonormalisation (c : CellIx)
  /-- SCALAR (R150): Layer operation 0x05 reduces entries of IN0 to one FP32 value in a scalar register of
  every cell of the form. -/
  | scalar (c : CellIx)
  /-- SCALAR_SUM (R150): Scalar function 0x01 sums the elements. -/
  | scalarSum (c : CellIx)
  /-- SCALAR_SUM_OF_SQUARES (R150): Scalar function 0x02 sums the squares of the elements. -/
  | scalarSumOfSquares (c : CellIx)
  /-- SCALAR_MAXIMUM (R150): Scalar function 0x03 finds the maximum element. -/
  | scalarMaximum (c : CellIx)
  /-- SCALAR_MINIMUM (R150): Scalar function 0x04 finds the minimum element. -/
  | scalarMinimum (c : CellIx)
  /-- NAN_COUNT (R150): Scalar function 0x05 counts NaN elements. -/
  | nanCount (c : CellIx)
  /-- INFINITY_COUNT (R150): Scalar function 0x06 counts infinite elements. -/
  | infinityCount (c : CellIx)
  /-- MOVE (R144): Layer operation 0x06 moves data by its stream references alone. -/
  | move (c : CellIx)
  /-- END (R137): Control descriptor 0x80 ends the period's walk of the chain in this cell. -/
  | endWalk (c : CellIx)
  /-- LOOP (R156): Control descriptor 0x81 waits for its entry wait, latches its count and runs its body. -/
  | loop (c : CellIx)
  /-- LOOP_EXIT_SIGNAL (R158): Once the last pass has ended and every body descriptor has completed, the
  loop's on-exit signal is sent. -/
  | loopExitSignal (c : CellIx)
  /-- BRANCH (R160): Control descriptor 0x82 tests a scalar register and goes on at TARGET when the test
  holds. -/
  | branch (c : CellIx)
  /-- SETC (R161): Control descriptor 0x83 writes a count register from an immediate or a scalar. -/
  | setCount (c : CellIx)
  /-- JOIN (R164): Control descriptor 0x84 is reached after every earlier descriptor of the cell completes
  and then waits for its join wait. -/
  | join (c : CellIx)
  /-- JOIN_SIGNAL (R164): When every cell of the form has reached the JOIN, the form sends the join signal
  once. -/
  | joinSignal (f : FormIx)
  /-- FEATURE (R166): Control descriptor 0x85 reads a feature-page word into a scalar register. -/
  | feature (c : CellIx)
  /-- SKIP (R136): Control descriptor 0x86 does nothing. -/
  | skipPad (c : CellIx)
  /-- FORM_PERIOD_END (R137): When every cell has reached END and every descriptor has completed, the form
  reports period end to the ingress sequencer. -/
  | formPeriodEnd (f : FormIx)
  /-- SLOT_TOKEN_TAKE (R51): An operation receives its slot's ownership token and initialises the slot. -/
  | slotTokenTake (c : CellIx) (sl : SlotIx)
  /-- ENGINE_STEP (R58): The engine pops a column and row operand entry and performs one rank-r step at
  every site over one or more handshakes. -/
  | engineStep (c : CellIx) (fault : (Option SiteFault))
  /-- DRAIN_START (R50): A drain begins once the previous drain has read its last row, reading one row per
  handshake into the slot buffer or a Y queue. -/
  | drainStart (c : CellIx)
  /-- SLOT_BUFFER_PUSH (R63): The slot buffer passes a drained entry to its Y queue when the queue accepts
  it. -/
  | slotBufferPush (c : CellIx) (sl : SlotIx)
  /-- QUEUE_PUSH (R45): A producer's push to a queue completes once the queue has a free entry. -/
  | queuePush (c : CellIx) (q : QueueIx) (e : Entry)
  /-- QUEUE_POP (R45): A consumer's pop from a queue completes once an entry is present, returning a
  credit to its read stream. -/
  | queuePop (c : CellIx) (q : QueueIx) (out : (Option (Fin 4)))
  /-- STREAM_ENTRY_START (R112): A read stream holding a credit starts assembling its next entry and
  issues its memory requests or puts. -/
  | streamEntryStart (c : CellIx) (st : StreamIx) (errs : WordErrs)
  /-- MEMORY_RETURN (R111): A returned block's bytes are placed by index and entries are pushed in order
  once complete. -/
  | memoryReturn (c : CellIx) (st : StreamIx) (errs : WordErrs) (k : Nat)
  /-- WRITE_STREAM_ENTRY (R108): A write stream pops an arriving Y-queue entry and issues the writes of
  its EMITs. -/
  | writeStreamEntry (c : CellIx) (st : StreamIx)
  /-- WRITE_ACCEPTED (R114): A memory accepts a write after invalidating covered weight-cache lines,
  advancing the stream toward completion. -/
  | writeAccepted (c : CellIx) (w : WriteAt)
  /-- WEIGHT_CACHE_FILL (R122): A miss fill returns from HBM and is installed unless a covering write
  intervened. -/
  | weightCacheFill (d : DieIx) (x : LineRead)
  /-- HBM_TURN (R124): A pseudo-channel's turn goes to the next owner of its class rotation, which hands a
  request or passes. -/
  | hbmTurn (d : DieIx) (pc : (Fin 96))
  /-- REMOTE_WRITE_PACKET (R132): A received remote write packet is written at ADDR, and when an arming is
  whole its arrival tally is raised. -/
  | remoteWritePacket (p : PartIx) (pkt : Packet)
  /-- READ_REQUEST (R133): A received remote read request is served in the remote share and answered with
  a read response. -/
  | readRequest (p : PartIx) (pkt : Packet) (ecc : Ecc)
  /-- READ_RESPONSE (R133): A received read response is placed by its tag into the gather context's entry. -/
  | readResponse (p : PartIx) (pkt : Packet)
  /-- RUN_START (R208): A filled reduction run whose predecessors have started takes a free run slot and
  sends its open. -/
  | runStart (d : DieIx) (kind : (Fin 4)) (bad : Option (Nat × Ecc))
  /-- REDUCTION_OPEN (R216): A received open lets the member stream its chunk to the successor. -/
  | reductionOpen (p : PartIx) (pkt : Packet)
  /-- REDUCTION_PARTIAL (R222): A received partial has the member's contribution added and is sent on, or
  completed and sent as a final. -/
  | reductionPartial (p : PartIx) (pkt : Packet) (bad : Option (Nat × Ecc))
  /-- REDUCTION_FINAL (R212): A received final is written to RBASE and forwarded unless this member is its
  last receiver. -/
  | reductionFinal (p : PartIx) (pkt : Packet)
  /-- RUN_COMPLETE (R215): A run whose writes are complete and sends accepted adds DAMOUNT to its done
  tally and frees its slot. -/
  | runComplete (d : DieIx) (x : RunEnd)
  /-- DATA_FLIT (R249): A received data flit is checked by CRC and sequence and taken in order, or
  discarded with a NAK. -/
  | dataFlit (port : PortIx) (u : UnitIx) (rx : RxFlit)
  /-- IDLE_FLIT (R233): A received idle flit carries the next data SEQ and is consumed. -/
  | idleFlit (port : PortIx) (u : UnitIx) (rx : RxFlit)
  /-- CONTROL_FLIT (R234): A received control flit returns credits and acknowledges flits, triggering a
  replay on NAK. -/
  | controlFlit (port : PortIx) (u : UnitIx) (rx : RxFlit)
  /-- FLIT_SLOT (R235): A unit's flit slot goes to the next ready virtual channel in rotation, or carries
  an idle or control flit. -/
  | flitSlot (port : PortIx) (x : UnitSlot)
  /-- REPLAY_LIMIT (R250): A flit replayed eight times or more than 16 uncorrectable codewords in 1 ms
  sends the unit to retraining. -/
  | replayLimit (port : PortIx) (u : UnitIx) (fec : Bool)
  /-- LANE_SIGNAL_LOSS (R253): A lane of a unit loses signal and the unit enters retraining, or the port
  goes Down for the escape group. -/
  | laneSignalLoss (port : PortIx) (lane : (Fin 36))
  /-- RETRAIN_COMPLETE (R253): A retraining unit returns to service and resends its replay buffer, or goes
  out of service on failure. -/
  | retrainComplete (port : PortIx) (u : UnitIx) (ok : Bool)
  /-- PACKET_ROUTE (R245): A packet at the head of an input takes an output and quad, is delivered
  locally, or is discarded. -/
  | packetRoute (src : Input)
  /-- PACKET_SEND (R251): A packet starts on a unit and channel once credits for the whole packet are
  held. -/
  | packetSend (port : PortIx) (u : UnitIx) (vc : (Fin 8))
  /-- PACKET_ESCAPE (R246): A packet that has waited 256 ns without credit escapes onto the escape groups. -/
  | packetEscape (src : Input)
  /-- MULTICAST_RELAY (R248): Once a multicast delivery is written, the receiver sends a copy onward with
  MSPAN lowered. -/
  | multicastRelay
  /-- DETECT_SIGNAL (R252): Signal found on the escape lanes and a quad moves the port from Detect to
  Train. -/
  | detectSignal (port : PortIx) (quads : (BitVec 8))
  /-- DETECT_TIMEOUT (R252): 100 ms in Detect without signal sends the port Down. -/
  | detectTimeout (port : PortIx)
  /-- TRAIN_COMPLETE (R252): Training locks and exchanges identity, moving the port to Verify or Down with
  a wiring record. -/
  | trainComplete (port : PortIx) (nb : Neighbour)
  /-- TRAIN_TIMEOUT (R252): 25 ms in Train without lock sends the port Down. -/
  | trainTimeout (port : PortIx)
  /-- VERIFY_COMPLETE (R252): After 1 ms of test flits the port goes Up with failing quads out of service,
  or Down. -/
  | verifyComplete (port : PortIx) (pass : (BitVec 9))
  /-- MIRROR_BRIDGE_WAIT (R308): A mirror flit that has waited 10 µs for reserved bridge transit takes the
  next bridge slot of any timetable. -/
  | mirrorBridgeWait (port : PortIx) (u : UnitIx)
  /-- STEP_BELL (R259): A step bell is received, forwarded by a relay to its row, and admitted to begin
  the step. -/
  | stepBell (p : PartIx) (ctl : Control)
  /-- RESTART_BELL (R269): A restart bell resets the partition and begins the step again with the next
  attempt. -/
  | restartBell (p : PartIx) (ctl : Control)
  /-- HOLD_BELL (R266): A member receiving a hold bell keeps working and sends one hold answer. -/
  | holdBell (p : PartIx) (ctl : Control)
  /-- HALT_BELL (R267): A halt bell moves the partition to Halted. -/
  | haltBell (p : PartIx) (ctl : Control)
  /-- BEACON (R275): A received beacon restarts the member's watch. -/
  | beacon (p : PartIx) (ctl : Control)
  /-- MEMBER_TOKEN (R256): A relay records a member's own roll-call token and sends a row token when its
  row is complete. -/
  | memberToken (p : PartIx) (ctl : Control)
  /-- ROW_TOKEN (R267): The lodestar records a row token, completing roll call and ringing the next bell
  when all are present. -/
  | rowToken (p : PartIx) (ctl : Control) (us : Nat)
  /-- HOLD_ANSWER (R267): The lodestar records a member's hold answer. -/
  | holdAnswer (p : PartIx) (ctl : Control) (us : Nat)
  /-- SLOW_NOTICE (R264): The lodestar admits a slow notice and recomputes the current step's patience. -/
  | slowNotice (p : PartIx) (ctl : Control)
  /-- TROUBLE_NOTICE (R267): A trouble notice moves the lodestar to Holding, or makes rank 1 take over
  when it names the lodestar. -/
  | troubleNotice (p : PartIx) (ctl : Control)
  /-- CLAIM (R275): A member accepts a claim of a higher epoch and follows the new lodestar. -/
  | claim (p : PartIx) (ctl : Control)
  /-- PACE_CHANGE (R264): A member whose pace has moved by 32 or more sends a slow notice, at most one per
  millisecond. -/
  | paceChange (p : PartIx) (tj : BitVec 64) (msPassed : Bool)
  /-- PATIENCE_EXPIRY (R267): The step's patience runs out in Collecting and the lodestar sends a hold
  bell. -/
  | patienceExpiry (p : PartIx)
  /-- ANSWER_WINDOW_EXPIRY (R267): The answer window closes in Holding and the lodestar decides when no
  DROPPED member is pending. -/
  | answerWindowExpiry (p : PartIx)
  /-- EXAMINATION_ALLOWANCE_EXPIRY (R268): The examination allowance passes and the lodestar decides,
  marking unready members late. -/
  | examinationAllowanceExpiry (p : PartIx)
  /-- BEACON_TIMER (R275): Every 250 ms in Holding, Deciding or Recovering the lodestar sends a beacon. -/
  | beaconTimer (p : PartIx)
  /-- WATCH_EXPIRY (R275): A member's watch expires without a further bell of the group. -/
  | watchExpiry (p : PartIx)
  /-- TAKEOVER (R275): A successor whose watch and rank delay have passed without a claim sends a claim
  and enters Holding. -/
  | takeover (p : PartIx)
  /-- FIRST_STEP_TIMEOUT (R328): The first-step patience runs out without every restore done and the
  lodestar sends a halt bell. -/
  | firstStepTimeout (p : PartIx)
  /-- PERIOD_CLOSE (R260): When forms have ended, reductions completed, the mirror is acknowledged and the
  journal head written, the member closes and sends its token. -/
  | periodClose (p : PartIx)
  /-- MIRROR_PACKET (R291): A received mirror packet is placed into the mirror log by its header. -/
  | mirrorPacket (p : PartIx) (pkt : Packet)
  /-- MIRROR_COMMIT (R290): A commit packet is checked against bytes logged and answered with a mirror
  acknowledgement. -/
  | mirrorCommit (p : PartIx) (pkt : Packet)
  /-- MIRROR_APPLY_COMPLETE (R290): The deskmate finishes applying the log to the body, copying it to
  waypoint staging on a waypoint step. -/
  | mirrorApplyComplete (p : PartIx)
  /-- MIRROR_ACKNOWLEDGE (R290): A received mirror acknowledgement commits the mirror through the step. -/
  | mirrorAcknowledge (p : PartIx) (ctl : Control)
  /-- SNAPSHOT_PACKET (R300): A reserve places a received snapshot packet at its entry's address. -/
  | snapshotPacket (p : PartIx) (pkt : Packet)
  /-- SNAPSHOT_STREAM_COMPLETE (R300): A refill's snapshot stream finishes and the reserve sends refill
  done. -/
  | snapshotStreamComplete (p : PartIx)
  /-- CHART_UPDATE (R297): A received chart update holds one seating-chart entry of a new generation. -/
  | chartUpdate (p : PartIx) (ctl : Control)
  /-- CHART_COMMIT (R298): A received chart commit installs the generation and is answered with a chart
  acknowledge. -/
  | chartCommit (p : PartIx) (ctl : Control)
  /-- CHART_ACKNOWLEDGE (R300): The lodestar records a member's installation of a generation. -/
  | chartAcknowledge (p : PartIx) (ctl : Control)
  /-- SEAT_REQUEST (R300): A primed reserve loads its image into the seat and sends seat ready. -/
  | seatRequest (p : PartIx) (ctl : Control)
  /-- SEAT_READY (R300): The lodestar issues the generation that seats the reserve. -/
  | seatReady (p : PartIx) (ctl : Control)
  /-- REFILL_REQUEST (R300): The deskmate streams the seat's mirror body as snapshot packets. -/
  | refillRequest (p : PartIx) (ctl : Control)
  /-- REFILL_DONE (R300): The lodestar records a refill and sends the restart bell once every reserve is
  done. -/
  | refillDone (p : PartIx) (ctl : Control)
  /-- WAYPOINT_SEALED (R296): The lodestar records a seat's sealed waypoint and announces it whole once
  all are in. -/
  | waypointSealed (p : PartIx) (ctl : Control)
  /-- WAYPOINT_WHOLE (R296): A member records the whole waypoint in its journal head. -/
  | waypointWhole (p : PartIx) (ctl : Control)
  /-- RESTORE_ORDER (R306): A member reads its seat's sealed waypoint from pooled memory and restores its
  state. -/
  | restoreOrder (p : PartIx) (ctl : Control)
  /-- WAYPOINT_RESTORE_COMPLETE (R306): The waypoint read and digest check finish and the device sends
  restore done. -/
  | waypointRestoreComplete (p : PartIx) (wp : HostData)
  /-- RESTORE_DONE (R328): The lodestar records restore done and rings the step once every member has
  reported. -/
  | restoreDone (p : PartIx) (ctl : Control)
  /-- FENCE_NOTICE (R300): The lodestar records a fenced device's notice. -/
  | fenceNotice (p : PartIx) (ctl : Control)
  /-- ERROR_REPORT (R285): An admitted detected error drops its period's work, sends a trouble notice and
  record, and starts re-examination. -/
  | errorReport (e : ErrEvent)
  /-- REEXAMINATION_COMPLETE (R286): Re-examination of the named unit ends, and the device reports READY
  or is late. -/
  | reexaminationComplete (unit : (Fin 5)) (passed : Bool)
  /-- QUIZ_TIMER (R279): A quiz period expiry starts a quiz on the next bench pair. -/
  | quizTimer
  /-- QUIZ_DIGESTS_COMPLETE (R280): Clerk 1 compares the 32 digests and raises 0x5001 for failed cells. -/
  | quizDigestsComplete (faulty : (List (Fin 32 × BitVec 64)))
  /-- TELEMETRY_TIMER (R340): A telemetry period expiry samples the device and sends a telemetry summary. -/
  | telemetryTimer (x : TelePeriod)
  /-- EXAM_TIMER (R412): An exam period expiry begins the period's bench, weight-cache, privileged and
  sextant or hub slices. -/
  | examTimer
  /-- WAYPOINT_TIMER (R295): A waypoint stream period expiry streams staged waypoint data and seals a
  finished slot. -/
  | waypointTimer (finishes : Bool)
  /-- SCRUB_TIMER (R293): A scrub period expiry reads mirror bodies under ECC and invalidates a body with
  a bad block. -/
  | scrubTimer (x : ScrubPeriod)
  /-- SLICE_GRANT (R413): The governor grants a slice its power and the slice pauses its target. -/
  | sliceGrant (x : SliceStart)
  /-- EXAM_SLICE_COMPLETE (R414): A slice restores and releases its target and records pass, fail or
  margin notice. -/
  | examSliceComplete (t : Word) (rs : (List ExamOutcome))
  /-- SLICE_BUDGET_EXPIRY (R419): A privileged slice reaching 40 µs is stopped and its target returns to
  service with a late result. -/
  | sliceBudgetExpiry (t : Word)
  /-- HOST_MEM_READ (R314): A CXL.mem read through an aperture returns HBM data, or poison when unmapped
  or before Memory_Active. -/
  | hostMemRead (line : (BitVec 30))
  /-- HOST_MEM_WRITE (R314): A CXL.mem write through an aperture is written or discarded by region and
  invalidates the weight cache. -/
  | hostMemWrite (line : (BitVec 30)) (data : (BitVec 512)) (be : (BitVec 64))
  /-- BISNP_RESPONSE (R315): The host's response to a back-invalidate snoop lets the waiting device access
  proceed. -/
  | bisnpResponse (d : DieIx) (line : Nat)
  /-- H2D_SNOOP (R309): A host snoop is answered RspIHitI. -/
  | h2dSnoop (addr : (BitVec 64))
  /-- DATA_SERVICE_LINE (R317): A CXL.cache line of step inputs returns and is placed by address,
  signalling FTALLY when an entry's bytes are all in place. -/
  | dataServiceLine (p : PartIx) (i : (Fin 256)) (off : Nat) (data : (BitVec 512)) (poison : Bool)
  /-- CXL_LINK_UP (R311): The CXL link trains after PERST# release and configuration space answers. -/
  | cxlLinkUp (width : (Fin 8)) (rate : (Fin 8)) (flit256 : Bool)
  /-- CXL_LINK_RESET (R311): Function-level reset, hot reset or link loss resets ring registers and
  discards unreplied commands. -/
  | cxlLinkReset (kind : LinkReset)
  /-- VIRAL_RECEIVED (R311): Viral from the host stops CXL.cache and CXL.mem traffic until conventional
  reset. -/
  | viralReceived
  /-- IDE_INTEGRITY_FAILURE (R318): An IDE integrity failure takes the CXL link down. -/
  | ideIntegrityFailure
  /-- CONTROL_REQUEST (R342): A KMP control request is verified and its command run as a fifth ring, or
  rejected. -/
  | controlRequest (m : Kmp)
  /-- FIRMWARE_PIECE (R364): A KMP firmware piece is written into staging when consistent with the open
  session, or counted as refused. -/
  | firmwarePiece (m : Kmp)
  /-- NETWORK_CONFIGURATION (R345): A KMP network configuration message sets the port's addresses and
  collector. -/
  | networkConfiguration (m : Kmp)
  /-- KEY_MANAGEMENT (R345): A KMP key management message installs, replaces or empties an operator key
  slot. -/
  | keyManagement (m : Kmp)
  /-- ANNOUNCEMENT_TIMER (R339): At link-up and every 10 s the device sends an announcement. -/
  | announcementTimer
  /-- ARP_REQUEST (R336): The management port answers an ARP request. -/
  | arpRequest (ip : (BitVec 32))
  /-- NEIGHBOR_SOLICITATION (R336): The management port answers IPv6 Neighbor Discovery. -/
  | neighborSolicitation (ip : (BitVec 128))
  /-- ECHO_REQUEST (R336): The management port answers an ICMP or ICMPv6 echo. -/
  | echoRequest (m : Echo)
  /-- MCTP_CONTROL (R347): An MCTP control message on I3C is answered, including endpoint ID assignment. -/
  | mctpControl (m : MctpControl)
  /-- GET_VERSION (R351): SPDM GET_VERSION is answered. -/
  | getVersion (t : Transport)
  /-- GET_CAPABILITIES (R351): SPDM GET_CAPABILITIES is answered. -/
  | getCapabilities (t : Transport)
  /-- NEGOTIATE_ALGORITHMS (R352): SPDM NEGOTIATE_ALGORITHMS selects the device's single algorithm set or
  fails. -/
  | negotiateAlgorithms (t : Transport) (a : AlgorithmOffer)
  /-- GET_DIGESTS (R350): SPDM GET_DIGESTS returns the digest of certificate slot 0. -/
  | getDigests (t : Transport)
  /-- GET_CERTIFICATE (R350): SPDM GET_CERTIFICATE returns the slot 0 chain. -/
  | getCertificate (t : Transport) (slot : Byte) (off : Nat) (len : Nat)
  /-- CHALLENGE (R351): SPDM CHALLENGE is answered signed by the attestation key. -/
  | challenge (t : Transport) (nonce : (BitVec 256))
  /-- GET_MEASUREMENTS (R353): SPDM GET_MEASUREMENTS returns the measurements in force at admission,
  signed. -/
  | getMeasurements (t : Transport) (ix : Byte) (nonce : (BitVec 256)) (sign : Bool)
  /-- KEY_EXCHANGE (R351): SPDM KEY_EXCHANGE opens a session, refusing a fifth. -/
  | keyExchange (t : Transport) (pub : (List Byte))
  /-- FINISH (R351): SPDM FINISH completes session establishment. -/
  | finish (t : Transport) (sess : Nat) (macOk : Bool)
  /-- HEARTBEAT (R351): SPDM HEARTBEAT keeps a session alive. -/
  | heartbeat (t : Transport) (sess : Nat)
  /-- KEY_UPDATE (R351): SPDM KEY_UPDATE updates a session's keys. -/
  | keyUpdate (t : Transport) (sess : Nat)
  /-- END_SESSION (R351): SPDM END_SESSION closes a session. -/
  | endSession (t : Transport) (sess : Nat)
  /-- VENDOR_DEFINED_REQUEST (R318): SPDM VENDOR_DEFINED_REQUEST carries CXL_IDE_KM to program IDE keys. -/
  | vendorDefinedRequest (t : Transport) (sess : Nat) (km : IdeKm)
  /-- FW_VERIFICATION_DONE (R366): Verification of a fully received image ends, staging it or failing the
  session. -/
  | fwVerificationDone
  /-- SWITCH_BOUNDARY (R369): At a switch boundary the staged image is written over its slot, verified and
  started. -/
  | switchBoundary (badWrites : (Fin 3))
  /-- ACTIVATE_WINDOW_EXPIRY (R368): No switch boundary arises within WINDOW and FW_ACTIVATE fails with
  BOUNDARY_TIMEOUT. -/
  | activateWindowExpiry
  /-- FIRMWARE_READY (R369): The started firmware reports ready, the attestation key is derived again and
  held work resumes. -/
  | firmwareReady
  /-- FIRMWARE_READY_TIMEOUT (R370): Firmware fails to report ready within 500 ms and the hub resets into
  recovery mode. -/
  | firmwareReadyTimeout
  /-- GOVERNOR_SAMPLE (R399): Every 10 µs the governor samples its limits and ends sprint, removes boost,
  lowers or raises rails. -/
  | governorSample (smp : GovSample)
  /-- SPRINT_LIMIT (R402): Sprint time in the 2 s window reaches 200 ms and every sprint is ended. -/
  | sprintLimit
  /-- WEAR_HOUR (R403): An hourly wear sum is stored and sprint is disallowed while the 24-hour sum
  reaches the allowance. -/
  | wearHour
  /-- SHUTDOWN_EVENT_COMPLETE (R395): A Dormant shutdown event completes and the die proceeds to the next
  event or Waking. -/
  | shutdownEventComplete (d : DieIx)
  /-- WAKE_STEP_COMPLETE (R396): A wake-order step gives its ready signal and the next step begins. -/
  | wakeStepComplete (d : DieIx)
  /-- STAGE_FAULT (R404): A conversion stage stops, the ceiling drops to 1,800 W and notice 0xA001 is
  raised. -/
  | stageFault (k : (Fin 4)) (code : (BitVec 64))
  /-- INPUT_UNDERVOLTAGE (R404): Input below 52 V for 100 µs stops the stages and the device is Off. -/
  | inputUndervoltage
  /-- OVER_TEMPERATURE_STOP (R404): A junction or stack at 105 °C stops all stages and drives THERMTRIP_N
  low. -/
  | overTemperatureStop
  /-- VIN_RISE (R432): VIN rising through 54 V begins a cold start. -/
  | vinRise
  /-- COLD_N_ASSERT (R432): COLD_N held low stops the conversion stages and the device is Off. -/
  | coldNAssert
  /-- COLD_N_RELEASE (R432): Release of COLD_N after at least 10 µs low begins a cold start. -/
  | coldNRelease (held10us : Bool)
  /-- COLD_START (R435): The start-up sequence runs from conversion soft start through mask ROM, loader
  and wake to ready. -/
  | coldStart (st : BootSample)
  /-- PERST_ASSERT (R432): A PERST# assertion causes a device reset from the mask ROM event. -/
  | perstAssert (held1us : Bool)
  /-- PERST_RELEASE (R433): Release of PERST# lets CXL link training start. -/
  | perstRelease
  /-- STARTUP_READY (R435): After the full exam, Memory_Active is set, benches enter Recess, READY goes
  high and an announcement is sent. -/
  | startupReady (ms : Word)
  /-- START_HOLD (R438): A failed HBM training or overdue wake step powers down the compute dies and
  raises notice 0xB001. -/
  | startHold (order : (Fin 16)) (failed : (BitVec 12)) (dies : (BitVec 4))
  /-- TRST_N_ASSERT (R432): TRST_N low resets the test access port alone. -/
  | trstNAssert
  /-- BYPASS (R355): Boundary-scan instruction BYPASS. -/
  | bypass
  /-- IDCODE (R355): Boundary-scan instruction IDCODE. -/
  | idcode
  /-- SAMPLE_PRELOAD (R355): Boundary-scan instruction SAMPLE/PRELOAD. -/
  | samplePreload
  /-- EXTEST (R355): Boundary-scan instruction EXTEST disconnects the functions from the balls. -/
  | extest
  /-- CLAMP (R355): Boundary-scan instruction CLAMP. -/
  | clamp
  /-- DEBUG_UNLOCK (R356): The private unlock instruction shifts out the serial and a challenge, unless
  debug is fused off. -/
  | debugUnlock
  /-- UNLOCK_RESPONSE (R356): A shifted-in response is verified, then partitions stop, keys and memories
  are zeroised and debug access opens. -/
  | unlockResponse (key : (List Byte)) (sig : (List Byte))
  /-- WAYPOINT_COPY_COMPLETE (R295): The deskmate finishes copying a seat's committed body into its
  waypoint staging region and may accept that seat's next update. -/
  | waypointCopyComplete (p : PartIx)
  /-- BODY_INVALID_REPORT (R292): A device receives its deskmate's report that the mirror body held for it
  is invalid, so its next close sends a full update. -/
  | bodyInvalidReport (p : PartIx)
  /-- MANAGEMENT_LINK_LOSS (R378): The 25GBASE-R management link goes down, asserting shared source 41,
  and records are kept until it returns. -/
  | managementLinkLoss
  /-- I3C_COMMON_COMMAND (R346): The board controller sends an I3C common command code, such as dynamic
  address assignment, and the target answers it. -/
  | i3cCommonCommand (cc : I3cCommand)
  deriving DecidableEq, Repr

end Sys2Proof
end

