-- ==== Sys2Proof/Decode.lean ====
section
/-! DEFINITION. The decoder of command words. -/

namespace Sys2Proof

/-- The command that a word of the opcode table spells. The commands are events and ring entries; the
table gives none of its rows bits, so no word spells a command. (A submit entry's own opcode is read
where the ring's clerk reads it: `Sys2Proof.Machine.opcodeOf`, R321, R325.) -/
def decodeTableWord (_nbits _w : Nat) : Option Instr := none

end Sys2Proof
end

