-- ==== Sys2Proof/Config.lean ====
section
/-! DEFINITION. What one device fixes, and the values the manual leaves open (uninterpreted). -/

namespace Sys2Proof

/-- The values the manual leaves open, one fresh value for each argument (log 6).
DESIGN CHOICE, safe: no claim can see what it is. -/
opaque Config.freeWord : Nat → BitVec 64

/-- The device's 64-bit serial number (R8), in its fuses. -/
opaque Config.serial : BitVec 64

/-- Version of the mask ROM (R442). -/
opaque Config.romVersion : BitVec 32

/-- The mask ROM's bytes, which measurement 1 covers (R353). -/
opaque Config.romImage : List Byte

/-- The firmware and resident loader images as shipped (R360, log 20). -/
opaque Config.shippedFirmware : List Byte
/-- As `Config.shippedFirmware`, for the loader slot. -/
opaque Config.shippedLoader : List Byte
/-- VERSION of the shipped firmware (R358, log 20). -/
opaque Config.shippedFirmwareVersion : BitVec 32
/-- VERSION of the shipped loader (R358, log 20). -/
opaque Config.shippedLoaderVersion : BitVec 32
/-- SVN of the shipped firmware (R358, log 20). -/
opaque Config.shippedFirmwareSvn : BitVec 6

/-- The key the SRAM PUF reconstructs, 32 bytes (R348). -/
opaque Config.puf : List Byte
/-- The fused device secret, 32 bytes (R348). -/
opaque Config.fuseSecret : List Byte

/-- The Kloale firmware public key in the mask ROM, 57 bytes (R359). -/
opaque Config.firmwareKey : List Byte
/-- The digest of the debug authority key in the fuses, 64 bytes (R349). -/
opaque Config.debugKeyDigest : List Byte

/-- Certificates of the slot 0 chain other than the attestation certificate (R350). -/
opaque Config.certificates : List Byte
/-- What the attestation certificate certifies, of a public key and measurements 1-3, and the certificate with its
signature: their X.509 encoding is not in the manual (R348, log 158). -/
opaque Config.certBody : (key measurements : List Byte) → List Byte
opaque Config.certOf : (body sig : List Byte) → List Byte

/-- The keys of an SPDM session, of 32 random bytes of the device and the requester's exchange data, and those that follow
a key update: R352 names secp384r1 and the SPDM key schedule, whose text is not in the manual (log 21). -/
opaque Config.sessionKeys : (random exchange : List Byte) → List Byte
opaque Config.nextSessionKeys : List Byte → List Byte

/-- What a network configuration message sets (R336, R345); `none` leaves an address unset. -/
structure NetworkConfig where
  ipv4      : Option (BitVec 32)
  ipv6      : Option (BitVec 128)
  vlan      : Option (BitVec 12)
  collector : Option (BitVec 128 × BitVec 16)
  deriving DecidableEq, Repr

/-- What a key management message does (R345): a slot takes a key and a mask, or is emptied. -/
structure KeyChange where
  slot : Fin 4
  key  : Option (List Byte)
  mask : BitVec 7
  deriving DecidableEq, Repr

/-- The payloads of network configuration and key management messages, whose layouts the manual does not give
(R345, log 47): what a payload says, or that it does not parse. DESIGN CHOICE, safe. -/
opaque Config.parseNetwork : List Byte → Option NetworkConfig
opaque Config.parseKeyChange : List Byte → Option KeyChange

/-- The I3C provisioned ID derived from the serial number, the bus and device characteristics registers (R346,
log 48). -/
opaque Config.i3cPid : BitVec 64 → BitVec 48
opaque Config.i3cBcr : Byte
opaque Config.i3cDcr : Byte
/-- What GETCAPS answers, and the IANA enterprise number that vendor-defined MCTP messages carry (R346, R347, log 48). -/
opaque Config.i3cCaps : BitVec 32
opaque Config.enterprise : BitVec 32

/-- The MCTP base version the device reports (R347, log 48). -/
opaque Config.mctpVersion : BitVec 32

/-- IDCODE of the test access port (R355 names the instruction, the BSDL holds the value). -/
opaque Config.idcode : BitVec 32

/-- The operands that clerk 1 draws for a quiz (R279): the entry of a quiz, an operation, a side (column when true) and an
engine step; the rounding bits of a site at a step (R280); and the fold of the 4,096 results into a digest. The manual
fixes none of them (log 150). DESIGN CHOICE, safe. -/
opaque Config.quizEntry : (quiz op : Nat) → (col : Bool) → (step : Nat) → BitVec 1024
opaque Config.quizRound : (quiz op step site : Nat) → BitVec 10
opaque Config.quizDigest : List W40 → BitVec 64

/-- The 30 parity symbols of RS(544,514) for 514 data symbols, and the 40-bit pair marker of a unit, of which R231 gives
what they hold and no bits (log 152). DESIGN CHOICE, safe. -/
opaque Config.rsParity : List (BitVec 10) → List (BitVec 10)
opaque Config.pairMarker : (unit : Nat) → BitVec 40

/-- An engine step rate in 10^6 steps a second at a core voltage in mV and a junction temperature in 1/16 °C, where
R5 gives bounds and no value (log 106). DESIGN CHOICE, safe. -/
opaque Config.stepRate : (mv tj16 : Nat) → Nat

/-- The far end of a mesh route (R48): the flat cell and the X queue where the route ends whose source is X queue
`q` of a cell, in a timetable. The manual's records name the links a route owns and not the queue at its far end
(R333, log 52). DESIGN CHOICE, safe. -/
opaque Config.routeEnd : List (BitVec 2176) → (cell q : Nat) → Option (Nat × Nat)

end Sys2Proof
end

