-- ==== Sys2Proof/Machine/CellTypes.lean ====
section
/-! DEFINITION. The state of one cell (chapters 02, 04, 05, 07) and of one compute die. -/

namespace Sys2Proof.Machine

/-- A layer descriptor of 256 bytes (R142), a control descriptor of 64 (R155), a form record (R135). -/
abbrev Desc := BitVec 2048
abbrev CDesc := BitVec 512
abbrev FormRec := BitVec 512

/-- A queue (R45): its entries, oldest first, and the pushes that wait for a free entry (R46). `late`: the oldest
entry came while its consumer waited for it, so that its pop counts as one that waited (R129). -/
structure Queue where
  entries : List Entry := []
  waiting : List Entry := []
  late    : Bool := false
  deriving DecidableEq, Repr

/-- The states of a tile slot (state table of "Tile slots and ownership tokens", R51); the number is
that of the operation that holds the token. -/
inductive SlotPhase where
  | unowned
  | held (op : Nat)
  | draining (op : Nat)
  deriving DecidableEq, Repr

/-- A drained entry in a slot buffer, with the drain it belongs to and its Y queue (R63). -/
structure BufEntry where
  op    : Nat
  queue : QueueIx
  entry : Entry
  deriving DecidableEq, Repr

/-- A tile slot (R49): 4,096 wide accumulators in row order without trailing +0, the token, the
taint of R71 and R119, and the slot buffer. -/
structure Slot where
  acc       : List W40 := []
  phase     : SlotPhase := .unowned
  waiters   : List Nat := []
  rowTaint  : BitVec 64 := 0
  colTaint  : BitVec 64 := 0
  elemTaint : List Nat := []
  faulty    : Bool := false
  buf       : List BufEntry := []
  deriving DecidableEq, Repr

/-- An issued layer operation (R139, R140): its number in issue order, the register set and chain
offset of its descriptor, the slot it resolved to (R165), and the scalars SSEL1-SSEL3 it read. -/
structure Op where
  id   : Nat
  set  : Fin 4
  off  : Nat
  desc : Desc
  slot : SlotIx
  s1   : F32
  s2   : F32
  s3   : F32
  deriving DecidableEq, Repr

/-- The engine's running operation (R50-R60): Load entries taken, engine steps done, steps in the
present window, handshakes done, columns left in the operation, the chaining decided (R56), and the
two scale registers (R44). -/
structure EngineRun where
  op       : Op
  owned    : Bool := false
  loaded   : Nat := 0
  ready    : Bool := false
  steps    : Nat := 0
  inWindow : Nat := 0
  hs       : Nat := 0
  work     : Nat := 0
  chainIn  : Bool := false
  chainOut : Option Bool := none
  colScale : BitVec 512 := 0
  rowScale : BitVec 512 := 0
  deriving DecidableEq, Repr

/-- One byte on its way into an entry, with the poison of its 16-bit lane, and whether a detected memory
error is its cause (R118). -/
structure LByte where
  byte   : Byte
  poison : Bool
  memErr : Bool := false
  deriving DecidableEq, Repr

/-- One element on its way through a unit: its register image and its poison. -/
structure LVal where
  bits   : BitVec 40
  poison : Bool
  deriving DecidableEq, Repr

/-- A drain in issue order (R50, R61): whether its slot is ready to be read, the next row, the bytes
of an entry under packing (R62) and of a statistics entry (R64). -/
structure DrainRun where
  op    : Op
  ready : Bool := false
  row   : Nat := 0
  pack  : List LByte := []
  stats : List LByte := []
  deriving DecidableEq, Repr

/-- One byte of a popped entry: whether its lane was poisoned, and whether that goes on as poison (R118). -/
structure InByte where
  byte   : Byte
  bad    : Bool
  spread : Bool
  deriving DecidableEq, Repr

/-- Results of a unit on their way into entries: vectors that wait to fill an entry of a rank format, bytes
of an FP32 or W40 entry (R183), and the block of the pack buffer (R184). -/
structure OutBuf where
  pend  : List (List LVal) := []
  bytes : List LByte := []
  cross : List (List LVal) := []
  deriving DecidableEq, Repr

/-- The vector engine's running VECTOR operation: vectors done, bytes taken from each input and not
yet used, the scale or parameter entry, its outputs, the window of SPLIT16 (R149), and the poison of a
parameter entry (R119). -/
structure VecRun where
  op     : Op
  done   : Nat := 0
  buf0   : List InByte := []
  buf1   : List InByte := []
  buf2   : List InByte := []
  par    : Option Entry := none
  outs   : OutBuf := {}
  window : List (List LVal) := []
  taint  : Bool := false
  deriving DecidableEq, Repr

/-- The vector engine's running SCALAR operation (R150): entries taken, the bytes of a W40 element
that continues, the running sum or extreme, the count, and poison consumed under Propagate; `given`: its
partial has gone to the form. -/
structure ScalRun where
  op    : Op
  done  : Nat := 0
  buf   : List InByte := []
  acc   : W40 := 0
  any   : Bool := false
  count : Nat := 0
  taint : Bool := false
  given : Bool := false
  deriving DecidableEq, Repr

/-- The row engine's running operation (R190): rows done, input bytes not yet used, the sums of dγ
and dβ (R194), its outputs, whether the sums have been pushed, and the vectors discarded after the last
whole row. -/
structure RowRun where
  op     : Op
  row    : Nat := 0
  buf0   : List InByte := []
  buf1   : List InByte := []
  buf2   : List InByte := []
  dg     : List LVal := []
  db     : List LVal := []
  outs   : OutBuf := {}
  pushed : Bool := false
  skip   : Nat := 0
  deriving DecidableEq, Repr

/-- How far a memory request has come: without a request slot yet (R109, R110), waiting for its turn, accepted
by the pseudo-channel (R127), waiting for a weight-cache fill (R122), of a block whose fill met an uncorrectable error
(R125), or sent to a partner (R133). -/
inductive ReqState where
  | queued
  | waiting
  | accepted (order : Nat)
  | filling
  | spoiled
  | remote
  deriving DecidableEq, Repr

/-- A memory request of one 64-byte block of an EMIT (R110, R111): the bytes [addr, addr + size) of its
space go to byte `pos` of the stream's entry number `entry`, and those past its end to the next entry (R107).
`data` holds them from the request's acceptance on (R127). `ctx` and `blk` are the gather context of its EMIT
and the block's number in the EMIT (R110, R133). -/
structure Req where
  id    : Nat
  ctx   : Nat := 0
  blk   : Nat := 0
  space : BitVec 2
  addr  : Nat
  size  : Nat
  entry : Nat
  pos   : Nat
  state : ReqState := .queued
  data  : List Byte := []
  deriving DecidableEq, Repr

/-- An entry under assembly (R111) and how many of its requests are outstanding. -/
structure AsmEntry where
  num     : Nat
  data    : BitVec 1024 := 0
  poison  : BitVec 64 := 0
  memErr  : BitVec 64 := 0
  missing : Nat := 0
  deriving DecidableEq, Repr

/-- A write of a write stream not yet accepted, within one 64-byte block of HBM (R114, R124); `slot`: it holds a
request slot of the fetch engine (R109); `granted`: the pseudo-channel has accepted it in a write turn, in this
order (R127). -/
structure PendWrite where
  space   : BitVec 2
  addr    : Nat
  bytes   : List Byte
  slot    : Bool := false
  granted : Option Nat := none
  deriving DecidableEq, Repr

/-- A chart slot (R103): the chart, its base, the number and chain offset of the operation that armed it,
the place in its walk (R106: `pos` body instructions done, `off` bytes of the present one), entries,
entries under assembly, outstanding requests, writes not yet accepted, whether it has reported 0x4003,
armings in the period, for remote charts the packet being packed (R132), re-arms to come (R116), bytes of an EMIT that
have come for an entry not yet started (R107), and the cached line that last served it (R129). -/
structure Stream where
  armed   : Bool := false
  done    : Bool := false
  hdr     : BitVec 256 := 0
  instrs  : List (BitVec 64) := []
  base    : Int := 0
  op      : Nat := 0
  pos     : Nat := 0
  off     : Nat := 0
  entries : Nat := 0
  asm     : List AsmEntry := []
  reqs    : List Req := []
  nextReq : Nat := 0
  writes  : List PendWrite := []
  warned  : Bool := false
  arming  : Nat := 0
  pkt     : List Byte := []
  pktOff  : Nat := 0
  pkts    : Nat := 0
  chainOff : Nat := 0
  rearms  : List (Int × Nat × Nat) := []
  carry   : List LByte := []
  hitLine : Option Nat := none
  deriving DecidableEq, Repr

/-- A loop that the sequencer is in (R156): where it starts and ends, its latched count, iteration
number, on-exit signal, its number, and the first operation number issued inside it. -/
structure Loop where
  start   : Nat
  bodyEnd : Nat
  count   : Nat
  iter    : Nat
  sig     : BitVec 64
  num     : Nat
  firstOp : Nat
  deriving DecidableEq, Repr

/-- A loop left for the last time whose on-exit signal waits for body descriptors (R158); `off` is the chain
offset of its LOOP. -/
structure LoopExit where
  num     : Nat
  sig     : BitVec 64
  firstOp : Nat
  lastOp  : Nat
  off     : Nat
  deriving DecidableEq, Repr

/-- A descriptor register set (R139): its number in load order, the descriptor, its chain offset, the
iteration numbers of the loops around it (innermost first), and once issued the operation's number and
whether the operation has reached its release point (R141). -/
structure RegSet where
  num    : Nat
  desc   : Desc
  off    : Nat
  iters  : List Nat
  issued : Option Nat := none
  opDone : Bool := false
  deriving DecidableEq, Repr

/-- A JOIN that the cell has reached (R164): its number, its wait and its signal. -/
structure JoinAt where
  num  : Nat
  wait : BitVec 64
  sig  : BitVec 64
  deriving DecidableEq, Repr

/-- A cell's sequencer (R137, R139, R156-R164). `openOps` holds the numbers of operations issued and
not completed, `feats` for a scalar register the number of operations issued when a FEATURE last wrote it (R162). -/
structure Seq where
  running : Bool := false
  ended   : Bool := false
  stopped : Bool := false
  pc      : Nat := 0
  sets    : SMap (Option RegSet) := []
  loops   : List Loop := []
  exits   : List LoopExit := []
  nextLoad : Nat := 0
  nextOp  : Nat := 0
  nextLoop : Nat := 0
  nextJoin : Nat := 0
  openOps : List Nat := []
  join    : Option JoinAt := none
  counts  : SMap (BitVec 24) := []
  scalars : SMap F32 := []
  feats   : SMap Nat := []
  deriving DecidableEq, Repr

/-- One cell (R17). `gatherPos` and `fetchPos` are the positions of the rotas by which charts take request slots (R109,
R120), `nextCtx` the gather context from which the next EMIT takes a free one (R110), `resets` a number that each form
reset raises (R117, log 27). `badWords` names the words whose check bits read as a double-bit error since an exam wrote
them back so: cell-store words by address divided by 32, then side-memory entries from 49,152 (R417). -/
structure Cell where
  queues   : SMap Queue := []
  slots    : SMap Slot := []
  ework    : List Op := []
  eng      : Option EngineRun := none
  chained  : Bool := false
  drains   : List DrainRun := []
  vwork    : List Op := []
  vec      : Option VecRun := none
  scal     : Option ScalRun := none
  rwork    : List Op := []
  rowRun   : Option RowRun := none
  seq      : Seq := {}
  streams  : SMap Stream := []
  short    : List S20 := []
  check    : List W40 := []
  lanes    : SMap (BitVec 64) := []
  store    : SMap Byte := []
  badWords : List Nat := []
  side     : SMap (BitVec 64) := []
  bankMap  : BitVec 160 := 0
  poisoned : Word := 0
  warned   : List Nat := []
  corr     : SMap Word := []
  bankCorr : SMap Word := []
  ctr      : SMap (BitVec 256) := []
  paused   : Bool := false
  quiz     : Bool := false
  resetDue : Bool := false
  gatherPos : Nat := 0
  fetchPos  : Nat := 0
  nextCtx   : Nat := 0
  resets    : BitVec 9 := 0
  deriving DecidableEq, Repr

/-- The states of a compute die (R397, R407). -/
inductive DieMode where
  | up
  | shuttingDown
  | pendingUp
  | dormant
  | waking
  | off
  deriving DecidableEq, Repr

/-- The states of a bench domain (R391, R407). -/
inductive BenchMode where
  | active
  | boost
  | recess
  | sprint
  deriving DecidableEq, Repr

/-- A bench domain: its state, its core rail in mV (R390), and whether its SRAM's write assist and retention assist are on
(R392). -/
structure Bench where
  mode : BenchMode := .active
  mv   : Nat := 550
  writeAssist : Bool := true
  retentionAssist : Bool := false
  deriving DecidableEq, Repr

/-- An HBM pseudo-channel's turns (R124, R125, R127): class turns used in the present cycle of 16, the
class whose turn is next, positions in the read and write lists, seat rota positions by bench,
the number given to the next accepted request, and the position of the bank rota. -/
structure Chan where
  readUsed  : Nat := 0
  writeUsed : Nat := 0
  remUsed   : Nat := 0
  cls       : Nat := 0
  readPos   : Nat := 0
  writePos  : Nat := 0
  seatPos   : SMap Nat := []
  accepted  : Nat := 0
  bankPos   : Nat := 0
  deriving DecidableEq, Repr

/-- A weight-cache fill outstanding (R122-R124): its 256-byte line, how many of its four blocks the
pseudo-channel has accepted, and whether a covering write has come since the first. -/
structure Fill where
  line   : Nat
  blocks : Nat := 0
  stale  : Bool := false
  deriving DecidableEq, Repr

/-- A packet at a die's remote gateway whose HBM accesses take remote turns (R125, R132, R133): its header, the 64-byte
blocks still to be written or read with the bytes to write, what the check bits of a read show,
and for a write packet its remote header. -/
structure GatePkt where
  part  : PartIx
  hdr   : BitVec 256
  write : Bool
  rhdr  : BitVec 128 := 0
  ecc   : Ecc := .clean
  todo  : List (Nat × List Byte)
  deriving DecidableEq, Repr

/-- A reduction run (R208-R215): of a bucket, by its number; `started`: it holds a run slot; whether the
successor's open has come, payloads that wait for it, and how many elements this member has written and
sent. An open that comes before the run starts is kept so. -/
structure Run where
  bucket   : Nat
  run      : Nat
  kind     : Nat
  started  : Bool := false
  stopped  : Bool := false
  succOpen : Bool := false
  queue    : List (Nat × List Byte) := []
  written  : Nat := 0
  sent     : Nat := 0
  deriving DecidableEq, Repr

/-- One compute die (R17): tallies, HBM, weight cache (lines of each set, most recently used first),
the seat rota positions of its bench ports (R122), channels and their corrected errors (R341), the remote gateway's packets, ring engine (its counters and
the bytes that KBYTES counts, R223), power state. -/
structure Die where
  tallies : SMap (BitVec 20) := []
  hbm     : SMap Byte := []
  wc      : SMap (List Nat) := []
  fills   : List Fill := []
  ports   : SMap Nat := []
  chans   : SMap Chan := []
  chanCorr : SMap Word := []
  gateway : List GatePkt := []
  runs    : List Run := []
  runPos  : SMap Nat := []
  runsDone : SMap Nat := []
  redCtr  : SMap (BitVec 128) := []
  redBytes : SMap Nat := []
  mode    : DieMode := .off
  event   : Nat := 0
  heldDormant : Bool := false
  railsOff    : Bool := true
  refsStopped : Bool := true
  retained    : Bool := false
  clamped     : Bool := true
  benches : SMap Bench := []
  deriving DecidableEq, Repr

end Sys2Proof.Machine
end

