-- ==== Sys2Proof/Machine/PartTypes.lean ====
section
/-! DEFINITION. The state of one partition: its image, seating chart, step period, lodestar, mirror and journal (chapters 05-08, 10-12). -/

namespace Sys2Proof.Machine

/-- The partition states, in table order (chapter 12, "Partition states", R442). -/
inductive PartState where
  | empty
  | loaded
  | primed
  | starting
  | running
  | halted
  | fenced
  deriving DecidableEq, Repr

/-- What LOAD locked: the image's records by section (R330) and the parameters of the load (R327).
`digest` is the 64-byte measurement of the bytes LOAD copied (R353). -/
structure Image where
  forms     : List FormRec := []
  grants    : List (BitVec 128) := []
  charts    : List Byte := []
  timetable : List (BitVec 2176) := []
  weights   : List (BitVec 512) := []
  buckets   : List (BitVec 512) := []
  mirror    : List (BitVec 128) := []
  inputs    : List (BitVec 256) := []
  remotes   : List (BitVec 256) := []
  seed      : BitVec 64 := 0
  regions   : BitVec 40 := 0
  shares    : BitVec 15 := 0
  bucketMib : BitVec 7 := 0
  single    : Bool := false
  reserve   : Bool := false
  digest    : List Byte := []
  deriving DecidableEq, Repr

/-- The lodestar's parameters (R265, R295, R329). The values here are the defaults of R265; the
waypoint interval's is R276's, which holds until a chart is loaded. -/
structure LodeParams where
  factor   : Nat := 3
  firstS   : Nat := 120
  windowMs : Nat := 20
  allowMs  : Nat := 500
  limit    : Nat := 3
  interval : Nat := 0
  deriving DecidableEq, Repr

/-- A chart entry held for a generation not yet installed (R298). -/
structure ChartUpdate where
  gen   : BitVec 32
  seat  : Nat
  entry : BitVec 128
  deriving DecidableEq, Repr

/-- The seating chart and what is loaded with it (R204, R239, R265, R295, R299, R329); updates and a commit
not yet installed (R298), the seat that a seat request has asked this reserve to take (R300), and the seats that a
generation has seated again since the last bell, whose reserves are being refilled (R305). -/
structure Chart where
  held     : Bool := false
  gen      : BitVec 32 := 0
  own      : BitVec 12 := 0xFFF
  seats    : SMap (BitVec 128) := []
  groups   : SMap (List Nat) := []
  params   : LodeParams := {}
  wpBase   : BitVec 64 := 0
  wpSize   : BitVec 64 := 0
  reserves : SMap (BitVec 128) := []
  updates  : List ChartUpdate := []
  commit   : Option (BitVec 32 × Nat) := none
  asked    : Option Nat := none
  reseated : List Nat := []
  deriving DecidableEq, Repr

/-- A signal sent and not yet landed (R153, R154): tally address, amount, and the chain offset that a
saturation notice names (R284). -/
structure Signal where
  tally  : BitVec 14
  amount : Nat
  off    : Nat
  deriving DecidableEq, Repr

/-- What a form counts cell by cell (R153, R158, R164): descriptor signals 0 and 1, a loop's on-exit
signal, a JOIN. -/
inductive FormEvent where
  | sig0
  | sig1
  | loopExit
  | join
  deriving DecidableEq, Repr

/-- How many cells of a form have reached one of its events; `num` is the operation, loop or JOIN
number, the same in every cell of the form. -/
structure FormCount where
  form  : Nat
  ev    : FormEvent
  num   : Nat
  cells : Nat
  deriving DecidableEq, Repr

/-- One cell's partial of a SCALAR operation (R150). -/
structure ScalPart where
  cell  : Nat
  acc   : W40
  any   : Bool
  count : Nat
  taint : Bool
  deriving DecidableEq, Repr

/-- A form's SCALAR operation with the partials of the cells that have finished theirs (R150). -/
structure ScalJoin where
  form  : Nat
  num   : Nat
  parts : List ScalPart
  deriving DecidableEq, Repr

/-- One step's reads of the data service (R317): which 64-byte lines of each entry are in place, the bytes as
they came (entry × 2^32 + offset), how often a line has been read again, and the manifest digest once all are
in place (R294). `replay` is a second reading of a restarted step. -/
structure SvcJob where
  step    : BitVec 64
  replay  : Bool := false
  got     : SMap (List Nat) := []
  data    : SMap Byte := []
  retries : SMap Nat := []
  stopped : Bool := false
  digest  : Option (BitVec 64) := none
  deriving DecidableEq, Repr

/-- Packets of one sender's arming that have been written (R132): record, sender's seat, the sending stream's mark
(log 139), arming number, how many, and once LAST has come how many there are. -/
structure Arrival where
  rrec : Nat
  src  : Nat
  tag  : Nat
  arm  : Nat
  got  : Nat := 0
  total : Option Nat := none
  deriving DecidableEq, Repr

/-- The rota of a timetable record that does not pass by itself, a mesh link's or a bridge or hub-link slot's (R29, R178):
the owner entry whose turn it is, and the items that each entry has handed over in the period. -/
structure Rota where
  turn  : Nat := 0
  given : SMap Nat := []
  deriving DecidableEq, Repr

/-- The step period on a member (R257, R259-R262). `waiting` is a bell admitted whose period has not
begun; `bell` is its ingress sequence number (R261); `begun`: a bell has begun the attempt that
STEP and ATTEMPT name; `saidDropped`: the member has answered DROPPED to a hold of the attempt (R266); and the
deadlock records it has sent in the attempt (R271). `rotas` holds the rotas by timetable record, `hops` the entries
on their way along each mesh route, by its source 4 × cell + X queue: how many of the route's resources each has
crossed, the foremost first (R48; log 16). -/
structure Period where
  step      : BitVec 64 := 0
  attempt   : BitVec 8 := 0
  bell      : BitVec 64 := 0
  waiting   : Option (BitVec 64 × BitVec 8) := none
  isOpen    : Bool := false
  closed    : Bool := false
  ended     : List Nat := []
  versions  : Bool := false
  token     : Bool := false
  dropped   : Bool := false
  begun     : Bool := false
  saidDropped : Bool := false
  deadSent  : Nat := 0
  examining : Bool := false
  carried   : SMap (BitVec 20) := []
  signals   : List Signal := []
  counts    : List FormCount := []
  scalars   : List ScalJoin := []
  svc       : List SvcJob := []
  arrivals  : List Arrival := []
  last      : BitVec 64 := 0
  clamped   : List Nat := []
  rotas     : SMap Rota := []
  hops      : SMap (List (Nat × Entry)) := []
  deriving DecidableEq, Repr

/-- The kinds of event the ingress sequencer admits (R27). -/
inductive IngressKind where
  | vc1
  | doorbell
  | kmp
  | i3c
  | timer
  | error
  | periodEnd
  deriving DecidableEq, Repr

/-- An admitted event: its ingress sequence number, its kind, and the key of the interrupt source that
asserted for it (R26, R376): 32 k + n for private source n of clerk k, 96 + n for shared source n, 999
for none. -/
structure IngressEvent where
  num  : BitVec 64
  kind : IngressKind
  src  : Nat := 999
  deriving DecidableEq, Repr

/-- An entry of the journal head (R294), less the digest, which its other bits fix. -/
structure JEntry where
  step     : BitVec 64
  attempt  : BitVec 8
  gen      : BitVec 32
  bell     : BitVec 64
  seed     : BitVec 64
  manifest : BitVec 64
  waypoint : BitVec 64
  last     : BitVec 64
  carried  : SMap (BitVec 20)
  deriving DecidableEq, Repr

/-- The states of the lodestar's step (R267). `idle`: no job runs. -/
inductive LodeState where
  | idle
  | collecting
  | holding
  | deciding
  | restarting
  | recovering
  | ringing
  | halted
  deriving DecidableEq, Repr

/-- A hold answer the lodestar holds (R266). -/
structure Answer where
  seat   : Nat
  status : Nat
  blocks : List Nat
  ready  : Bool := false
  deriving DecidableEq, Repr

/-- The phases of recovery (R300, R306). -/
inductive RecPhase where
  | none
  | fence
  | seat
  | seating
  | refill
  | restore
  deriving DecidableEq, Repr

/-- A late seat under recovery: the reserve-list index chosen for it, whether its reserve is ready, whether
a generation has seated it, whether its refill is done (R300), and whether its mirror is lost (R305). -/
structure LateSeat where
  seat    : Nat
  reserve : Option Nat := none
  ready   : Bool := false
  seated  : Bool := false
  refilled : Bool := false
  lost    : Bool := false
  deriving DecidableEq, Repr

/-- The lodestar's state for a partition's bell group (R263-R270, R300-R306). -/
structure Lodestar where
  state     : LodeState := .idle
  step      : BitVec 64 := 0
  attempt   : BitVec 8 := 0
  tokens    : List Nat := []
  answers   : List Answer := []
  cause     : Nat := 0
  named     : Nat := 0
  windowOver : Bool := false
  allowOver : Bool := false
  base      : Nat := 0
  patience  : Nat := 0
  paces     : SMap Nat := []
  history   : List Nat := []
  restarted : Bool := false
  replaced  : Bool := false
  stop      : Bool := false
  late      : List LateSeat := []
  phase     : RecPhase := .none
  gen       : BitVec 32 := 0
  acks      : List Nat := []
  ackReserves : Nat := 0
  fenced    : List Nat := []
  sealed    : List (BitVec 64 × Nat) := []
  restores  : List (Nat × BitVec 64) := []
  firstStep : Option (BitVec 64) := none
  passedOn  : Bool := false
  deriving DecidableEq, Repr

/-- What a member knows of its lodestar (R274, R275) and of its own pace (R264). -/
structure Watch where
  epoch     : BitVec 32 := 0
  lodestar  : Option Nat := none
  running   : Bool := false
  expired   : Bool := false
  patience  : Nat := 0
  pace      : Nat := 1024
  relayed   : BitVec 64 := 0
  deriving DecidableEq, Repr

/-- A member's own mirroring (R290, R292): entries written, entries in an update not yet acknowledged; and,
as a deskmate, the mirror it holds: log, body (bytes keyed by entry × 2^40 + offset, log 14), staging copy
and stream (R290-R295), the attempt that committed, and how many bytes of journal log and body hold. `inbox` holds the journal that
snapshot packets bring a reserve, `inboxLen` its length (R300). -/
structure Mirror where
  written   : List Nat := []
  unacked   : List Nat := []
  fullDue   : Bool := false
  exposed   : Bool := false
  sent      : Option (BitVec 64) := none
  sentFull  : Bool := false
  sentBytes : Nat := 0
  acked     : Option (BitVec 64) := none
  log       : SMap Byte := []
  logStep   : BitVec 32 := 0
  logAttempt : BitVec 8 := 0
  logBytes  : Nat := 0
  logFull   : Bool := false
  commit    : Option Nat := none
  body      : SMap Byte := []
  bodyValid : Bool := false
  committed : Option (BitVec 64) := none
  commAttempt : BitVec 8 := 0
  applying  : Bool := false
  copying   : Bool := false
  staged    : Option (BitVec 64 × List Byte) := none
  streaming : Bool := false
  refillTo  : Option (Nat × BitVec 64) := none
  refilled  : Nat := 0
  logJournal : Nat := 0
  bodyJournal : Nat := 0
  inbox     : SMap Byte := []
  inboxLen  : Nat := 0
  deriving DecidableEq, Repr

/-- A partition's power policy (R406). -/
structure PowerPolicy where
  target : Nat := 750
  boost  : Bool := false
  sprint : Bool := false
  deriving DecidableEq, Repr

/-- A LOAD between Proctor's verdict and the end of its copy (R327): the image as verified, its load segments, the
header's digest, and the report's bytes. -/
structure Loading where
  image  : Image
  segs   : List (BitVec 128)
  digest : List Byte
  report : List Byte
  deriving DecidableEq, Repr

/-- What START found in a partition and a failed START gives back (R326). -/
structure Before where
  state  : PartState := .loaded
  lode   : Lodestar := {}
  watch  : Watch := {}
  period : Period := {}
  mirror : Mirror := {}
  deriving DecidableEq, Repr

/-- One partition (R34). `before`: what START found, while it reads a waypoint
(R326). `loading`: the accepted LOAD whose image is read a second time (R327). -/
structure Partition where
  dies     : BitVec 4 := 0
  state    : PartState := .empty
  image    : Image := {}
  chart    : Chart := {}
  period   : Period := {}
  lode     : Lodestar := {}
  watch    : Watch := {}
  mirror   : Mirror := {}
  journal  : List JEntry := []
  bulk     : List (BitVec 64 × List IngressEvent) := []
  waypoint : Option (BitVec 64) := none
  refilling : Bool := false
  restoring : Option (BitVec 64) := none
  before   : Before := {}
  policy   : PowerPolicy := {}
  loading  : Option Loading := none
  deriving DecidableEq, Repr

end Sys2Proof.Machine
end

