-- ==== Sys2Proof/Machine/HubTypes.lean ====
section
/-! DEFINITION. The state of the hub: rings, clerks, fabric, host port, management, firmware, services, power (chapters 09, 11-18). -/

namespace Sys2Proof.Machine

/-- What a telemetry summary takes of the device's state (R340): its fields but the measured ones and PACE, and the die and
the core voltage in mV of each bench domain that holds forms. -/
structure TeleView where
  fields : BitVec 2048 := 0
  rails  : List (Nat × Nat) := []
  deriving DecidableEq, Repr

/-- Where a KMP message goes (R336, R338, R347): from UDP port 17,510 to an address and port, in a frame with a VLAN tag
where one is set; or to the board controller. -/
inductive KmpDest where
  | udp (addr : BitVec 128) (port : BitVec 16) (vlan : Option (BitVec 12))
  | i3c
  deriving DecidableEq, Repr

/-- An MCTP packet: whether it is its message's first and last, its place modulo 4, and its body of at most 64 bytes, which
with the 4-byte transport header is the transmission unit of R346 (log 48). -/
structure MctpPacket where
  first : Bool
  last  : Bool
  seq   : Nat
  body  : List Byte
  deriving DecidableEq, Repr

/-- A doorbell whose entries are not all read: its tail, its ingress sequence number, and the device as it was then. -/
structure Doorbell where
  tail : Byte
  num  : BitVec 64
  view : TeleView
  deriving DecidableEq, Repr

/-- A command read from a ring and not yet started (R320, R324): its submit entry index, the entry,
what a read of PARAM_ADDR gives, the ingress sequence number it was admitted under, and for a management request
its SEQ, path and sender (R342); what telemetry showed as it was admitted (R341). `mute`: its ring was cleared while it ran, so it gets no reply (R311, R319). -/
structure PendCmd where
  index : Byte
  entry : BitVec 512
  ext   : HostData
  num   : BitVec 64 := 0
  seq   : BitVec 64 := 0
  i3c   : Bool := false
  peer  : BitVec 128 × BitVec 16 := (0, 0)
  view  : Option TeleView := none
  mute  : Bool := false
  deriving DecidableEq, Repr

/-- A finished command whose reply is not yet written (R320, R323). -/
structure Reply where
  cmd    : PendCmd
  status : BitVec 16
  detail : Word := 0
  data   : List Byte := []
  deriving DecidableEq, Repr

/-- A command ring (R319): its registers, the phase of R323, the commands waiting, running and
finished, in order, and the doorbells whose entries are not all read (R320). -/
structure Ring where
  subBase : BitVec 64 := 0
  repBase : BitVec 64 := 0
  subTail : Byte := 0
  subHead : Byte := 0
  repTail : Byte := 0
  repHead : Byte := 0
  enable  : Bool := false
  ringErr : Bool := false
  msix    : BitVec 6 := 0
  phase   : Bool := true
  pend    : List PendCmd := []
  running : List PendCmd := []
  done    : List Reply := []
  bells   : List Doorbell := []
  deriving DecidableEq, Repr

/-- A clerk's interrupt control block (R385) and the vector address its running handler was started
at (R380). -/
structure Clerk where
  gie      : Bool := false
  held     : Bool := false
  ovf      : Bool := false
  overdue  : BitVec 10 := 100
  vbase    : BitVec 32 := 0
  enable   : BitVec 64 := 1
  pending  : BitVec 64 := 0
  isSrc    : Byte := 0xFF
  isCount  : Byte := 0
  fault    : BitVec 3 := 0
  faultSrc : Byte := 0xFF
  faultWr  : Byte := 0xFF
  counts   : SMap Byte := []
  vector   : Option (BitVec 32) := none
  deriving DecidableEq, Repr

/-- COUNT of an error record (R283): detected errors with one REASON and LOC since cold start. -/
structure ErrCount where
  reason : BitVec 16
  loc    : Word
  count  : Word
  deriving DecidableEq, Repr

/-- How far an exam slice has come (R414, R419): waiting for its grant, or holding it. `cmd`: run by
EXAM_RUN of that ring; `reexam`: part of a re-examination; `saved`: where in its die's HBM a bench slice has
saved what it tests (R417, log 146); `empty`: at Pause every slot buffer and queue of the bench was empty (R410). -/
structure Slice where
  target  : Word
  granted : Bool := false
  woke    : Bool := false
  cmd     : Option RingIx := none
  reexam  : Bool := false
  late    : Bool := false
  saved   : Option Nat := none
  empty   : Bool := true
  deriving DecidableEq, Repr

/-- An exam target's result record (R421), less its TARGET. -/
structure ExamRec where
  code   : BitVec 16 := 0
  result : BitVec 2 := 0
  margin : Word := 0
  passes : BitVec 16 := 0
  fails  : BitVec 16 := 0
  deriving DecidableEq, Repr

/-- The services of the device (R272): periods in ms in table order, period numbers, late counts
(R340); quiz pair (R279); exam slices and results (R412, R421); telemetry counts (R340); whether a telemetry record or
a scrub is still under way, and the scrub's position in scrub periods done (R272, log 93). -/
structure Services where
  periods   : SMap Nat := [(0, 100), (1, 1000), (2, 10), (3, 900000), (4, 1000)]
  numbers   : SMap Nat := []
  late      : SMap Byte := []
  quizPos   : Nat := 0
  quizPair  : Option (Nat × Nat) := none
  quizWait  : Bool := false
  slices    : List Slice := []
  results   : SMap ExamRec := []
  policy    : BitVec 7 := 0x7F
  reexam    : List Nat := []
  reexamBad : List Nat := []
  limited   : BitVec 16 := 0
  limitedNow : Bool := false
  corrected : Word := 0
  withheld  : BitVec 16 := 0
  teleOpen  : Bool := false
  scrubOpen : Bool := false
  scrubPos  : Nat := 0
  deriving DecidableEq, Repr

/-- The hub's sequencer, logs, records and clerks (R26, R282, R339, R376, R385); `rateMs`: the milliseconds of the present
second of R339's rate limit; `given`: the ingress sequence number of
an event that a firmware switch has kept waiting and that is handled now (R369, R384). -/
structure Hub where
  ingress : BitVec 64 := 0
  log     : List IngressEvent := []
  rseq    : BitVec 16 := 0
  records : List (BitVec 512) := []
  counts  : List ErrCount := []
  sentNow : Nat := 0
  rateMs  : Nat := 0
  clerks  : SMap Clerk := []
  route   : BitVec 64 := 0
  reports : List ErrEvent := []
  given   : Option (BitVec 64) := none
  services : Services := {}
  deriving DecidableEq, Repr

/-- The states of a port (R252). -/
inductive PortState where
  | off
  | detect
  | train
  | verify
  | up
  | down
  deriving DecidableEq, Repr

/-- A data flit in the replay buffer: the flit and how often it has been replayed (R250). -/
structure SentFlit where
  flit    : Flit
  replays : Nat := 0
  deriving DecidableEq, Repr

/-- A packet at an input or waiting for credits at an output (R245, R251), and its class on an escape
group: E1 when set (R246). -/
structure OutPacket where
  pkt    : Packet
  cls    : Bool := false
  deriving DecidableEq, Repr

/-- A link unit (R230): service flags, sequence numbers, retry, replay buffer, credits in use by
channel, flits freed since the last control flit and those that it told of, flits to send, bytes of packets being received,
packets received, packets waiting for credits, the positions of R231 and R235, the flits of the codeword pair being sent
(R231), and the uncorrectable codewords received since it last came into service (R250). -/
structure LinkUnit where
  inService : Bool := false
  retrain   : Bool := false
  txSeq     : BitVec 12 := 0
  rxSeq     : BitVec 12 := 0
  nak       : Bool := false
  replay    : List SentFlit := []
  resend    : List Flit := []
  used      : SMap Nat := []
  freed     : SMap Nat := []
  told      : SMap Nat := []
  txq       : List Flit := []
  rx        : SMap (List Byte) := []
  inq       : List OutPacket := []
  outq      : List OutPacket := []
  rota      : Nat := 0
  slot      : Nat := 0
  pair      : List Flit := []
  badWords  : Nat := 0
  deriving DecidableEq, Repr

/-- A fabric port (R230, R252). -/
structure Port where
  state : PortState := .off
  units : SMap LinkUnit := []
  nb    : Option Neighbour := none
  deriving DecidableEq, Repr

/-- A packet of this device waiting to enter the fabric (R245). -/
structure Inject where
  part : PartIx
  pkt  : Packet
  deriving DecidableEq, Repr

/-- A multicast packet delivered here whose copy is to go onward from its port of arrival, and the escape class in which it
came (R248). -/
structure Relay where
  port : PortIx
  pkt  : Packet
  cls  : Bool := false
  deriving DecidableEq, Repr

/-- The fabric (chapter 09): parameters, ownership maps, ports, counters, packets, the turns of the rotas at output quads,
of transit from one input port to one quad by 64 × input + 8 × output + quad, of local owners by 256 + 8 × output + quad
(R205, R243), and the bridge slots of other timetables that mirror packets have taken (R308). The default map is R241's. -/
structure Fabric where
  sizeX : Nat := 1
  sizeY : Nat := 1
  ownX  : Nat := 0
  ownY  : Nat := 0
  maps  : SMap (BitVec 16) := [(0, 0xE400), (1, 0xE155), (2, 0xD2AA), (3, 0x93FF)]
  ports : SMap Port := []
  ctr   : SMap (BitVec 256) := []
  inject    : List Inject := []
  delivered : List (PartIx × Packet) := []
  relays    : List Relay := []
  turns     : SMap Nat := []
  bridges   : SMap Nat := []
  deriving DecidableEq, Repr

/-- An aperture of the HDM window (R313). -/
structure Aperture where
  die  : DieIx
  unit : Fin 27
  deriving DecidableEq, Repr

/-- The CXL port (R309-R318): the link, and of its configuration space the enables of R311, the two BARs, MSI-X enable and
the HDM decoder's base and commit (after reset 0, log 147). `snoop` is the filter, oldest entry first; `shared` its lines for which BISnpData has
been answered since the host read them; `bisnp` the snoops not yet answered: die, line, and whether it is
BISnpInv. -/
structure Cxl where
  width     : Nat := 0
  rate      : Nat := 0
  failed    : Bool := false
  viral     : Bool := false
  memEn     : Bool := false
  cacheEn   : Bool := false
  msixEn    : Bool := false
  bars      : SMap (BitVec 64) := []
  hdmBase   : BitVec 64 := 0
  hdmCommit : Bool := false
  apertures : SMap (Option Aperture) := []
  remap     : List (Fin 16 × Option Aperture) := []
  snoop     : List (Nat × Nat) := []
  shared    : List (Nat × Nat) := []
  bisnp     : List (Nat × Nat × Bool) := []
  ideKeys   : SMap (List Byte) := []
  deriving DecidableEq, Repr

/-- An operator key slot (R344, R349). -/
structure KeySlot where
  key     : List Byte := []
  mask    : BitVec 7 := 0
  lastSeq : BitVec 64 := 0
  deriving DecidableEq, Repr

/-- The management port and I3C (R335-R347). -/
structure Mgmt where
  linkUp    : Bool := false
  trained   : Bool := false
  ipv4      : Option (BitVec 32) := none
  ipv6      : Option (BitVec 128) := none
  vlan      : Option (BitVec 12) := none
  collector : Option (BitVec 128 × BitVec 16) := none
  seq       : BitVec 64 := 0
  keys      : SMap KeySlot := []
  rejects   : Nat := 0
  dynAddr   : Option (BitVec 7) := none
  eid       : Byte := 0
  ibiOff    : Bool := false
  mwl       : BitVec 16 := 69
  mrl       : BitVec 16 := 69
  rstAct    : Byte := 0
  kept      : List (BitVec 512) := []
  deriving DecidableEq, Repr

/-- An SPDM session (R349, R351): its number, transport, whether FINISH has completed it, and its keys. -/
structure Session where
  num       : Nat
  transport : Transport
  ready     : Bool := false
  keys      : List Byte := []
  deriving DecidableEq, Repr

/-- The SPDM responder (R351-R354): for each transport how far its connection has come (0 before
GET_VERSION, 1 version, 2 capabilities, 3 algorithms), and the sessions. -/
structure Spdm where
  doe      : Nat := 0
  i3c      : Nat := 0
  sessions : List Session := []
  next     : Nat := 0
  deriving DecidableEq, Repr

/-- How far a firmware switch has come (R369). -/
inductive SwitchStage where
  | idle
  | waitingBoundary
  | starting
  deriving DecidableEq, Repr

/-- Firmware slots, staging session and fuses (R358-R373). `none` in a slot is the image as shipped
(log 20). `before` is what the loader slot and the running slot held before the switch under way wrote one: until its
event 5 these are the images that measurements 2 and 3 take (R369). -/
structure Firmware where
  running    : Option (List Byte) := none
  loader     : Option (List Byte) := none
  before     : Option (Option (List Byte) × Option (List Byte)) := none
  staging    : SMap Byte := []
  state      : Nat := 0
  kind       : BitVec 4 := 0
  paths      : BitVec 2 := 0
  length     : Nat := 0
  imageId    : BitVec 64 := 0
  pieces     : List Nat := []
  lastFail   : BitVec 16 := 0
  refused    : Word := 0
  opened     : BitVec 64 := 0
  switchFlag : Bool := false
  startFailed : Bool := false
  stage      : SwitchStage := .idle
  window     : Nat := 60
  svnFloor   : BitVec 6 := 0
  debugFuse  : Bool := false
  deriving DecidableEq, Repr

/-- The instructions of the test access port (R355, R356). -/
inductive TapInstr where
  | bypass
  | idcode
  | samplePreload
  | extest
  | clamp
  | unlock
  deriving DecidableEq, Repr

/-- Identity, debug and the test access port (R348, R349, R355-R357): the attestation private key and its certificate. -/
structure Security where
  attKey    : Option (List Byte) := none
  attCert   : List Byte := []
  idBlocked : Bool := false
  unlocked  : Bool := false
  access    : Bool := false
  challenge : Option (List Byte) := none
  tap       : TapInstr := .idcode
  deriving DecidableEq, Repr

/-- The STATE field of the device status register (R439). -/
inductive DevState where
  | starting
  | ready
  | startHold
  | recovery
  deriving DecidableEq, Repr

/-- Power input, pins, device status, governor (R388-R408, R428-R439). `memAct`: every HBM stack is trained and order 13 of
the start-up sequence has come; `inputMw` is the input power of the governor's latest sample, and `newMw` what slices were
granted since then (R401, log 148). -/
structure Power where
  on        : Bool := true
  vinHigh   : Bool := true
  coldN     : Bool := true
  perstN    : Bool := true
  ready     : Bool := false
  thermtripN : Bool := true
  order     : Nat := 0
  state     : DevState := .starting
  memAct    : Bool := false
  failDie   : BitVec 4 := 0
  failStack : BitVec 12 := 0
  startMs   : Word := 0
  coldDone  : Bool := false
  standby   : Bool := false
  stages    : BitVec 4 := 0xF
  ceiling   : Nat := 2500
  cap       : Nat := 2500
  sprintMs  : List Bool := []
  sprintOff : Bool := false
  msHot     : Bool := false
  wearHours : List Nat := []
  wearNow   : Nat := 0
  limits    : Byte := 0
  grantedMw : Nat := 0
  inputMw   : Nat := 0
  newMw     : Nat := 0
  deriving DecidableEq, Repr

end Sys2Proof.Machine
end

