-- ==== Sys2Proof/Machine/State.lean ====
section
/-! DEFINITION. The state of the VVD-4820, what it sends outside, its faults and refusals, and its reset state. -/

namespace Sys2Proof.Machine

/-- What the device sends outside (log 8). -/
inductive Out where
  /-- Bytes written to host memory by CXL.io DMA (R319, R323). -/
  | hostWrite (addr : BitVec 64) (bytes : List Byte)
  /-- A read of host memory by CXL.io DMA: of a submit entry (R319, R320). -/
  | dmaRead (addr : BitVec 64) (len : Nat)
  /-- CXL.cache WrCur of full 64-byte lines from an address on (R295, R316). -/
  | wrCur (addr : BitVec 64) (bytes : List Byte)
  /-- CXL.cache RdCurr of the 64-byte lines of [addr, addr + len), but those listed, which are in place (R316, R317). -/
  | rdCurr (addr : BitVec 64) (len : Nat) (skip : List Nat)
  /-- An MSI-X message (R323). -/
  | msix (vector : BitVec 6)
  /-- The data of a CXL.mem read; poisoned or not (R312-R314). -/
  | memData (line : BitVec 30) (data : BitVec 512) (poison : Bool)
  /-- A CXL.mem write is complete (R314). -/
  | memDone (line : BitVec 30)
  /-- A back-invalidate snoop: BISnpInv or BISnpData (R315). -/
  | biSnoop (die line : Nat) (inv : Bool)
  /-- RspIHitI (R309). -/
  | rspIHitI (addr : BitVec 64)
  /-- A KMP datagram: header, payload, signature, or none (R337). -/
  | kmp (hdr : BitVec 256) (payload sig : List Byte) (dest : KmpDest)
  /-- An MCTP message of several packets on I3C (R346, R347). -/
  | mctpPackets (packets : List MctpPacket)
  /-- A flit sent on a unit (R233). -/
  | flit (port unit : Nat) (flit : Flit)
  /-- The symbols of a pair of codewords on the four lanes of a unit (R231). -/
  | codewords (port unit : Nat) (lanes : List (List (BitVec 10)))
  /-- An in-band interrupt on I3C (R346). -/
  | ibi
  /-- The answer to an I3C common command (R346). -/
  | i3c (bytes : List Byte)
  /-- An MCTP control response: command code and bytes (R347). -/
  | mctp (code : Byte) (bytes : List Byte)
  /-- An ARP reply, a neighbour advertisement, an echo reply (R336). -/
  | arp (mac : BitVec 48) (ip : BitVec 32)
  | advert (mac : BitVec 48) (ip : BitVec 128)
  | echo (e : Echo)
  /-- An SPDM response: code, parameters, bytes, signed by the attestation key (R351). -/
  | spdm (t : Transport) (code : Byte) (bytes : List Byte) (signed : Bool)
  /-- A deskmate tells the seat it mirrors that its body is invalid (R292, R293); the manual gives the message no packet
  (log 144). -/
  | bodyInvalid (part seat : Nat)
  /-- Bits shifted out of the test access port (R355, R356). -/
  | tdo (bytes : List Byte)
  deriving DecidableEq, Repr

/-- Why the machine stops with a fault. No command raises one: the manual gives every command of the
table an effect or a wait (log 2). -/
inductive Fault where
  /-- Raised by nobody: an access outside a memory's address space is turned into the manual's own
  report where it can arise (R102, R108). Safe. -/
  | outsideMemory
  deriving DecidableEq, Repr

/-- Why the machine refuses a command. -/
inductive Refusal where
  /-- Answered by exec's arm for a command that has no meaning yet. Safe: nothing is claimed of it. -/
  | notModelled (mnemonic : String)
  deriving DecidableEq, Repr

/-- The state of the device. -/
structure State where
  /-- Commands waiting, first in, first out. -/
  pending  : List Instr := []
  /-- Commands that came during a firmware switch, to be handled after it, with the ingress sequence numbers of those that
  were admitted (R369, R384, log 1). -/
  deferred : List (Instr × Option (BitVec 64)) := []
  cells    : SMap Cell := []
  dies     : SMap Die := []
  fabric   : Fabric := {}
  parts    : SMap Partition := [(0, { dies := 0xF })]
  hub      : Hub := { route := 0x6F1CAAAA }
  rings    : SMap Ring := [(1, { msix := 1 }), (2, { msix := 2 }), (3, { msix := 3 })]
  cxl      : Cxl := {}
  mgmt     : Mgmt := {}
  spdm     : Spdm := {}
  fw       : Firmware := {}
  sec      : Security := {}
  power    : Power := {}
  /-- The argument of the next open value (log 6). -/
  free     : Nat := 0
  /-- What has been sent outside, oldest first (log 8). -/
  out      : List Out := []
  deriving DecidableEq, Repr

/-- The device at the first event of the start-up sequence, every field at its value after reset (R14,
R434, R435, R437, R439; log 3, log 5). -/
def State.reset : State := {}

end Sys2Proof.Machine
end

