-- ==== Sys2Proof/Machine/Maps.lean ====
section
/-! DEFINITION. Sparse maps in canonical form, and bytes and bit fields (R11, R12). -/

namespace Sys2Proof.Machine

/-- The value at a key; an unlisted key reads as `d`. -/
def look {α : Type} (d : α) : SMap α → Nat → α
  | [], _ => d
  | (k, v) :: m, i => if i = k then v else look d m i

/-- The map with the value at a key replaced; the value `d` removes the entry. -/
def put {α : Type} [DecidableEq α] (d : α) : SMap α → Nat → α → SMap α
  | [], i, v => if v = d then [] else [(i, v)]
  | (k, w) :: m, i, v =>
    if i = k then (if v = d then m else (i, v) :: m)
    else if i < k then (if v = d then (k, w) :: m else (i, v) :: (k, w) :: m)
    else (k, w) :: put d m i v

/-- The map with the value at a key changed by a function. -/
def alter {α : Type} [DecidableEq α] (d : α) (m : SMap α) (i : Nat) (f : α → α) : SMap α :=
  put d m i (f (look d m i))

/-- The map with every listed value changed by a function that keeps `d`. -/
def mapVals {α : Type} [DecidableEq α] (d : α) (f : α → α) (m : SMap α) : SMap α :=
  (m.map fun e => (e.1, f e.2)).filter fun e => decide (e.2 ≠ d)

/-- The canonical form: keys strictly rising, no entry equal to `d`. -/
def SMap.wf {α : Type} [DecidableEq α] (d : α) : SMap α → Bool
  | [] => true
  | (k, v) :: m => decide (v ≠ d) && (m.all fun e => decide (k < e.1)) && SMap.wf d m

/-- The canonical form of a memory of bytes (log 4: an unlisted byte reads as 0). -/
abbrev Memory.wf (m : SMap Byte) : Bool := SMap.wf (0 : Byte) m

/-- The bytes at [a, a + n). -/
def readBytes (m : SMap Byte) (a : Nat) : Nat → List Byte
  | 0 => []
  | n + 1 => look 0 m a :: readBytes m (a + 1) n

/-- The memory with the bytes written from address `a` up. -/
def writeBytes (m : SMap Byte) (a : Nat) : List Byte → SMap Byte
  | [] => m
  | b :: bs => writeBytes (put 0 m a b) (a + 1) bs

/-- The memory without its bytes at [a, b): they read as 0. -/
def eraseRange (m : SMap Byte) (a b : Nat) : SMap Byte :=
  m.filter fun e => decide (e.1 < a ∨ b ≤ e.1)

/-- A dense array without trailing entries equal to `d`. -/
def trimEnd {α : Type} [DecidableEq α] (d : α) (l : List α) : List α :=
  l.foldr (fun x acc => if acc.isEmpty && decide (x = d) then [] else x :: acc) []

/-- The number a byte string holds, first byte least significant (R12). -/
def natOfBytes : List Byte → Nat
  | [] => 0
  | b :: bs => b.toNat + 256 * natOfBytes bs

/-- The `n` low bytes of a number, least significant first (R12). -/
def bytesOfNat : Nat → Nat → List Byte
  | 0, _ => []
  | n + 1, v => BitVec.ofNat 8 v :: bytesOfNat n (v / 256)

/-- The value of a byte string as `w` bits (R12). -/
def bvOfBytes (w : Nat) (bs : List Byte) : BitVec w := BitVec.ofNat w (natOfBytes bs)

/-- The `n` bytes of a bit vector (R12). -/
def bytesOfBv {w : Nat} (n : Nat) (v : BitVec w) : List Byte := bytesOfNat n v.toNat

/-- Field [lo + len - 1 : lo] of a register or record (R11). -/
abbrev fld {w : Nat} (v : BitVec w) (lo len : Nat) : BitVec len := v.extractLsb' lo len

/-- Field [lo + len - 1 : lo] as a number. -/
def fldN {w : Nat} (v : BitVec w) (lo len : Nat) : Nat := (v.extractLsb' lo len).toNat

/-- Field [lo + len - 1 : lo] as a signed number. -/
def fldZ {w : Nat} (v : BitVec w) (lo len : Nat) : Int := (v.extractLsb' lo len).toInt

/-- One bit. -/
def bit {w : Nat} (v : BitVec w) (i : Nat) : Bool := v.getLsbD i

/-- A number placed at bit `lo` of a record of `w` bits, cut to `len` bits. -/
def at' (w lo len n : Nat) : BitVec w := BitVec.ofNat w ((n % 2 ^ len) * 2 ^ lo)

/-- A bit placed at bit `lo` of a record of `w` bits. -/
def bitAt (w lo : Nat) (b : Bool) : BitVec w := at' w lo 1 b.toNat

/-- A saturating increment (R129, R340). -/
def satAdd {w : Nat} (v : BitVec w) (n : Nat) : BitVec w :=
  BitVec.ofNat w (min (v.toNat + n) (2 ^ w - 1))

/-- Field [lo + len - 1 : lo] of a record raised by `n`, saturating at all ones. -/
def satField {w : Nat} (v : BitVec w) (lo len n : Nat) : BitVec w :=
  let x := fldN v lo len
  BitVec.ofNat w (v.toNat - x * 2 ^ lo + min (x + n) (2 ^ len - 1) * 2 ^ lo)

/-- Field [lo + len - 1 : lo] of a record replaced. -/
def setField {w : Nat} (v : BitVec w) (lo len n : Nat) : BitVec w :=
  BitVec.ofNat w (v.toNat - fldN v lo len * 2 ^ lo + (n % 2 ^ len) * 2 ^ lo)

/-- The lowest bit position below `n` that is set. -/
def lowestBit {w : Nat} (v : BitVec w) (n : Nat) : Option Nat :=
  (List.range n).find? fun i => v.getLsbD i

/-- Split a list into pieces of `n`. -/
def chunksOf {α : Type} (n : Nat) : Nat → List α → List (List α)
  | 0, _ => []
  | fuel + 1, l => if l.isEmpty then [] else l.take n :: chunksOf n fuel (l.drop n)

end Sys2Proof.Machine
end

