-- ==== Sys2Proof/Machine/Crypto.lean ====
section
/-! DEFINITION. SHAKE256 and SHA3-512 (FIPS 202, log 9), Ed448 keys and signatures (RFC 8032, log 10), CRC-32C (R233, log 11). The manual names these standards; their text is not in it. -/

namespace Sys2Proof.Machine

/-! ## SHAKE256 and SHA3-512 -/

/-- Lane (x, y) of a state, at position x + 5 y. -/
def lane (a : List (BitVec 64)) (x y : Nat) : BitVec 64 := a.getD (x % 5 + 5 * (y % 5)) 0

/-- A state given lane by lane. -/
def byLanes (f : Nat → Nat → BitVec 64) : List (BitVec 64) := (List.range 25).map fun i => f (i % 5) (i / 5)

/-- The rotations of the lanes (FIPS 202, 3.2.2): on the walk (x, y), (y, 2 x + 3 y), … from (1, 0), the lane met at step t
turns by (t + 1)(t + 2) / 2. -/
def laneTurns : List Nat :=
  ((List.range 24).foldl (fun s t =>
    ((s.1.2, (2 * s.1.1 + 3 * s.1.2) % 5), s.2.set (s.1.1 + 5 * s.1.2) ((t + 1) * (t + 2) / 2 % 64)))
    ((1, 0), List.replicate 25 0)).2

/-- The round constants (FIPS 202, 3.2.5): bit 2^j - 1 of that of round i is bit 0 of the shift register at step 7 i + j. -/
def roundConsts : List (BitVec 64) :=
  ((List.range 24).foldl (fun (s : Nat × List (BitVec 64)) _ =>
    let r := (List.range 7).foldl (fun (u : Nat × Nat) j =>
      (if u.1 < 128 then 2 * u.1 else (2 * u.1) ^^^ 0x171, u.2 + u.1 % 2 * 2 ^ (2 ^ j - 1))) (s.1, 0)
    (r.1, s.2 ++ [BitVec.ofNat 64 r.2])) (1, [])).2

/-- θ: each lane takes the parities of two columns. -/
def keccakTheta (a : List (BitVec 64)) : List (BitVec 64) :=
  let col := (List.range 5).map fun x => lane a x 0 ^^^ lane a x 1 ^^^ lane a x 2 ^^^ lane a x 3 ^^^ lane a x 4
  byLanes fun x y => lane a x y ^^^ col.getD ((x + 4) % 5) 0 ^^^ (col.getD ((x + 1) % 5) 0).rotateLeft 1

/-- ρ, then π: lane (x, y) comes from (x + 3 y, x), turned. -/
def keccakRhoPi (a : List (BitVec 64)) : List (BitVec 64) :=
  byLanes fun x y => (lane a (x + 3 * y) x).rotateLeft (laneTurns.getD ((x + 3 * y) % 5 + 5 * x) 0)

/-- χ, then ι. -/
def keccakChiIota (rc : BitVec 64) (a : List (BitVec 64)) : List (BitVec 64) :=
  byLanes fun x y =>
    lane a x y ^^^ (~~~ lane a (x + 1) y &&& lane a (x + 2) y) ^^^ if x = 0 ∧ y = 0 then rc else 0

/-- One round on 25 lanes. -/
def keccakRound (a : List (BitVec 64)) (rc : BitVec 64) : List (BitVec 64) :=
  keccakChiIota rc (keccakRhoPi (keccakTheta a))

def keccakF (a : List (BitVec 64)) : List (BitVec 64) := roundConsts.foldl keccakRound a

/-- A block of 136 bytes xored into the state. -/
def keccakXor (a : List (BitVec 64)) (blk : List Byte) : List (BitVec 64) :=
  a.zipIdx.map fun e => e.1 ^^^ bvOfBytes 64 ((blk.drop (8 * e.2)).take 8)

/-- Squeeze `n` blocks. -/
def keccakSqueeze : Nat → List (BitVec 64) → List Byte
  | 0, _ => []
  | n + 1, a => (a.take 17).flatMap (bytesOfBv 8) ++ keccakSqueeze n (keccakF a)

/-- The first `n` bytes of SHAKE256. -/
def shake256 (msg : List Byte) (n : Nat) : List Byte :=
  let r := msg.length % 136
  let pad : List Byte :=
    if r = 135 then [0x9F] else 0x1F :: (List.replicate (134 - r) 0 ++ [0x80])
  let blks := chunksOf 136 (msg.length / 136 + 1) (msg ++ pad)
  let st := blks.foldl (fun a b => keccakF (keccakXor a b)) (List.replicate 25 0)
  (keccakSqueeze (n / 136 + 1) st).take n

/-- SHA3-512. -/
def sha3x512 (msg : List Byte) : List Byte :=
  let r := msg.length % 72
  let pad : List Byte :=
    if r = 71 then [0x86] else 0x06 :: (List.replicate (70 - r) 0 ++ [0x80])
  let blks := chunksOf 72 (msg.length / 72 + 1) (msg ++ pad)
  let st := blks.foldl (fun a b => keccakF (keccakXor a b)) (List.replicate 25 0)
  (keccakSqueeze 1 st).take 64

/-- The bytes of an ASCII string. -/
def ascii (t : String) : List Byte := t.toList.map fun c => BitVec.ofNat 8 c.toNat

/-! ## CRC-32C -/

/-- One bit of the reflected CRC (polynomial 0x1EDC_6F41, reflected 0x82F6_3B78). -/
def crcBit (c : Word) : Word := if c.getLsbD 0 then (c >>> 1) ^^^ 0x82F63B78#32 else c >>> 1

def crcByte (c : Word) (b : Byte) : Word :=
  (List.range 8).foldl (fun x _ => crcBit x) (c ^^^ b.zeroExtend 32)

/-- CRC-32C of a byte string. -/
def crc32c (bs : List Byte) : Word := ~~~ (bs.foldl crcByte (~~~ 0#32))

/-! ## Ed448 -/

/-- The field's prime, the group's order, the curve constant -d. -/
def edP : Nat := 2 ^ 448 - 2 ^ 224 - 1
def edL : Nat := 2 ^ 446 - 13818066809895115352007386748515426880336692474882178609894547503885
def edD : Nat := edP - 39081

/-- b^e mod p, by the bits of e below 2^n. -/
def powMod (p : Nat) : Nat → Nat → Nat → Nat
  | 0, _, _ => 1 % p
  | n + 1, b, e =>
    let h := powMod p n (b * b % p) (e / 2)
    if e % 2 = 1 then h * b % p else h

/-- A point in projective coordinates. -/
structure EdPoint where
  x : Nat
  y : Nat
  z : Nat
  deriving DecidableEq, Repr

def EdPoint.zero : EdPoint := ⟨0, 1, 1⟩

/-- Addition (RFC 8032, 5.2.4). -/
def EdPoint.add (a b : EdPoint) : EdPoint :=
  let zz := a.z * b.z % edP
  let bb := zz * zz % edP
  let c := a.x * b.x % edP
  let d := a.y * b.y % edP
  let e := edD * c % edP * d % edP
  let f := (bb + edP - e) % edP
  let g := (bb + e) % edP
  let h := (a.x + a.y) * (b.x + b.y) % edP
  ⟨zz * f % edP * (h + 2 * edP - c - d) % edP, zz * g % edP * (d + edP - c) % edP, f * g % edP⟩

/-- Scalar multiplication, by the bits of the scalar below 2^n. -/
def EdPoint.mul : Nat → Nat → EdPoint → EdPoint
  | 0, _, _ => .zero
  | n + 1, k, q =>
    let h := EdPoint.mul n (k / 2) (q.add q)
    if k % 2 = 1 then h.add q else h

def EdPoint.same (a b : EdPoint) : Bool :=
  a.x * b.z % edP == b.x * a.z % edP && a.y * b.z % edP == b.y * a.z % edP

/-- Decode 57 bytes as a point (RFC 8032, 5.2.3). -/
def edDecode (bs : List Byte) : Option EdPoint :=
  let n := natOfBytes bs
  let sign := n / 2 ^ 455 % 2
  let y := n % 2 ^ 455
  if bs.length ≠ 57 ∨ edP ≤ y then none
  else
    let u := (y * y + edP - 1) % edP
    let v := (edD * (y * y % edP) + edP - 1) % edP
    let u3v := u * u % edP * u % edP * v % edP
    let x := u3v * powMod edP 448 (u3v * (u * u % edP) % edP * (v * v % edP) % edP) ((edP - 3) / 4) % edP
    if v * (x * x % edP) % edP ≠ u then none
    else if x = 0 ∧ sign = 1 then none
    else some ⟨if x % 2 = sign then x else edP - x, y, 1⟩

/-- The base point. -/
def edBase : EdPoint :=
  ⟨224580040295924300187604334099896036246789641632564134246125461686950415467406032909029192869357953282578032075146446173674602635247710,
   298819210078481492676017930443930673437544040154080242095928241372331506189835876003536878655418784733982303233503462500531545062832660, 1⟩

/-- Whether a signature over a message verifies under a public key, with a context string (RFC 8032,
5.2.7). -/
def ed448Verify (key msg sig ctx : List Byte) : Bool :=
  let r := sig.take 57
  let sn := natOfBytes (sig.drop 57)
  let dom := ascii "SigEd448" ++ [0, BitVec.ofNat 8 ctx.length] ++ ctx
  let k := natOfBytes (shake256 (dom ++ r ++ key ++ msg) 114) % edL
  if sig.length ≠ 114 ∨ edL ≤ sn then false
  else
    match edDecode key, edDecode r with
    | some a, some rp => (EdPoint.mul 446 sn edBase).same (rp.add (EdPoint.mul 446 k a))
    | _, _ => false

/-- A point's 57 bytes (RFC 8032, 5.2.2). -/
def edEncode (q : EdPoint) : List Byte :=
  let i := powMod edP 448 q.z (edP - 2)
  let x := q.x * i % edP
  let y := q.y * i % edP
  bytesOfNat 57 (y + x % 2 * 2 ^ 455)

/-- The secret scalar of a private key, and its public key (RFC 8032, 5.2.5). -/
def edScalar (seed : List Byte) : Nat := natOfBytes ((shake256 seed 114).take 57) % 2 ^ 447 / 4 * 4 + 2 ^ 447
def edPublic (seed : List Byte) : List Byte := edEncode (EdPoint.mul 448 (edScalar seed) edBase)

/-- The 114-byte signature of a message under a private key, with a context string (RFC 8032, 5.2.6). -/
def ed448Sign (seed msg ctx : List Byte) : List Byte :=
  let dom := ascii "SigEd448" ++ [0, BitVec.ofNat 8 ctx.length] ++ ctx
  let r := natOfBytes (shake256 (dom ++ (shake256 seed 114).drop 57 ++ msg) 114) % edL
  let rp := edEncode (EdPoint.mul 446 r edBase)
  let k := natOfBytes (shake256 (dom ++ rp ++ edPublic seed ++ msg) 114) % edL
  rp ++ bytesOfNat 57 ((r + k * edScalar seed) % edL)

end Sys2Proof.Machine
end

