-- ==== Sys2Proof/Machine/Ops.lean ====
section
/-! DEFINITION. The named operations over the state: its parts, what is sent, clerk sources (chapter 15), the ingress sequencer (R26, R27), error records (R281-R284, R339), control packets (R256-R258), memory (R99, R100, R123, R290), queues (R45-R47). -/

namespace Sys2Proof.Machine

/-- The outcome of a command that takes effect as `f` says. -/
abbrev Res := Host.Outcome State Fault Refusal

/-! ## Parts of the state -/

def State.cell (s : State) (c : Nat) : Cell := look {} s.cells c
def State.setCell (s : State) (c : Nat) (x : Cell) : State := { s with cells := put {} s.cells c x }
def State.modCell (s : State) (c : Nat) (f : Cell → Cell) : State := s.setCell c (f (s.cell c))
def State.die (s : State) (d : Nat) : Die := look {} s.dies d
def State.setDie (s : State) (d : Nat) (x : Die) : State := { s with dies := put {} s.dies d x }
def State.modDie (s : State) (d : Nat) (f : Die → Die) : State := s.setDie d (f (s.die d))
def State.part (s : State) (p : Nat) : Partition := look {} s.parts p
def State.setPart (s : State) (p : Nat) (x : Partition) : State := { s with parts := put {} s.parts p x }
def State.modPart (s : State) (p : Nat) (f : Partition → Partition) : State := s.setPart p (f (s.part p))
def State.ring (s : State) (r : Nat) : Ring := look {} s.rings r
def State.setRing (s : State) (r : Nat) (x : Ring) : State := { s with rings := put {} s.rings r x }
def State.modRing (s : State) (r : Nat) (f : Ring → Ring) : State := s.setRing r (f (s.ring r))
def State.clerk (s : State) (k : Nat) : Clerk := look {} s.hub.clerks k
def State.modHub (s : State) (f : Hub → Hub) : State := { s with hub := f s.hub }
def State.modClerk (s : State) (k : Nat) (f : Clerk → Clerk) : State :=
  s.modHub fun h => { h with clerks := put {} h.clerks k (f (look {} h.clerks k)) }
def State.port (s : State) (i : Nat) : Port := look {} s.fabric.ports i
def State.modPort (s : State) (i : Nat) (f : Port → Port) : State :=
  { s with fabric := { s.fabric with ports := put {} s.fabric.ports i (f (s.port i)) } }
def State.unit (s : State) (i u : Nat) : LinkUnit := look {} (s.port i).units u
def State.modUnit (s : State) (i u : Nat) (f : LinkUnit → LinkUnit) : State :=
  s.modPort i fun p => { p with units := put {} p.units u (f (look {} p.units u)) }
def State.modServices (s : State) (f : Services → Services) : State :=
  s.modHub fun h => { h with services := f h.services }

/-- Send something outside (log 8). -/
def State.emit (s : State) (o : Out) : State := { s with out := s.out ++ [o] }

/-- A value the manual leaves open: the first free value not yet used, and the state that has used it (log 6). -/
def State.fresh (s : State) : BitVec 64 × State := (Config.freeWord s.free, { s with free := s.free + 1 })

/-- An event of a cell waits while an exam slice holds the cell's bench (R414, R415). -/
def State.onCell (s : State) (c : Nat) (r : Res) : Res := if (s.cell c).paused then .next s else r

/-- R369: a fabric packet that comes during a firmware switch is handled after it. -/
def State.defers (s : State) (i : Instr) (r : Res) : Res :=
  if s.fw.stage = .starting then .next { s with deferred := s.deferred ++ [(i, none)] } else r

/-- A list of numbers with one more, kept in rising order without repeats. -/
def insNat (x : Nat) : List Nat → List Nat
  | [] => [x]
  | y :: l => if x = y then y :: l else if x < y then x :: y :: l else y :: insNat x l

/-- Erase keys of a sparse map. -/
def eraseKeys {α : Type} (m : SMap α) (f : Nat → Bool) : SMap α := m.filter fun e => !f e.1

/-! ## Geometry and partitions (R17, R34, R35) -/

def dieOf (c : Nat) : Nat := c / 384
def benchOf (c : Nat) : Nat := c / 16
def seatOf (c : Nat) : Nat := c % 16

/-- A number as a partition number. -/
def partIx (p : Nat) : PartIx := ⟨p % 4, Nat.mod_lt _ (by decide)⟩

/-- The partition that holds a die (R34). -/
def State.partOf (s : State) (d : Nat) : Option Nat :=
  (List.range 4).find? fun p => bit (s.part p).dies d

/-- The dies of a partition. -/
def Partition.dieList (P : Partition) : List Nat := (List.range 4).filter fun d => bit P.dies d

/-- The lowest die of a partition; 0 where it has none. -/
def Partition.lowDie (P : Partition) : Nat := P.dieList.headD 0

/-- The lodestar's parameters in force (R265, R276). -/
def Partition.params (P : Partition) : LodeParams := if P.image.single then {} else P.chart.params

/-- The logical seat a partition's records and packets carry (R276, R282). -/
def Partition.seat (P : Partition) : BitVec 12 := if P.image.single then 0 else P.chart.own

/-- The chart generation the partition reports (R276, R442). -/
def Partition.gen (P : Partition) : BitVec 32 :=
  if P.image.single then 0 else if P.chart.held then P.chart.gen else 0

/-- The region, in the order of R22, of a die-local address, as the partition's sizes put it (R100). -/
def Partition.region (P : Partition) (a : Nat) : Option Nat :=
  (List.range 5).find? fun i =>
    let lo := ((List.range i).map fun j => fldN P.image.regions (8 * j) 8).sum
    decide (3 * 0x10000000 * lo ≤ a ∧ a < 3 * 0x10000000 * (lo + fldN P.image.regions (8 * i) 8))

/-! ## Clerk sources (R377-R379) -/

/-- R379: one assertion of a source at a clerk. -/
def Clerk.assert (src : Nat) (k : Clerk) : Clerk :=
  let c := look 0 k.counts src
  { k with
    pending := k.pending ||| (1#64 <<< src)
    ovf := k.ovf || decide (c = 255)
    counts := put 0 k.counts src (satAdd c 1) }

/-- The clerk that a shared source is routed to (R383, R385). -/
def State.routeOf (s : State) (src : Nat) : Nat := fldN s.hub.route (2 * (src - 32)) 2

/-- Assert private source `src` of clerk `k`. -/
def State.assertAt (s : State) (k src : Nat) : State := s.modClerk k (Clerk.assert src)

/-- Assert a shared source at the clerk it is routed to (R377). -/
def State.assertShared (s : State) (src : Nat) : State := s.assertAt (s.routeOf src) src

/-- Assert the source of a key: 32 k + n for private source n of clerk k, 96 + n for shared source n; any
other key is none. -/
def State.assertKey (s : State) (key : Nat) : State :=
  if key < 128 then s.assertAt (key / 32) (key % 32)
  else if key < 160 then s.assertShared (key - 96) else s

/-- R383: a partition's state changes (shared sources 48-51). -/
def State.setPartState (s : State) (p : Nat) (x : PartState) : State :=
  let s' := s.modPart p fun P => { P with state := x }
  if (s.part p).state = x then s' else s'.assertShared (48 + p)

/-! ## The ingress sequencer (R26, R27, R261, R376) -/

/-- The journal bulk with an event added under a step (R294); the bulk keeps the last 64 steps. -/
def bulkAdd (b : List (BitVec 64 × List IngressEvent)) (step : BitVec 64) (e : IngressEvent) :
    List (BitVec 64 × List IngressEvent) :=
  match b.reverse with
  | (t, es) :: r => if t = step then ((t, es ++ [e]) :: r).reverse
      else let l := b ++ [(step, [e])]; l.drop (l.length - 64)
  | [] => [(step, [e])]

/-- A partition that journals an event admitted in its period (R261). -/
def Partition.journalEvent (e : IngressEvent) (P : Partition) : Partition :=
  if P.state = .running then
    { P with period := { P.period with last := e.num }, bulk := bulkAdd P.bulk P.period.step e }
  else P

/-- Admit an event: it takes the next ingress sequence number, waits in the event log, is journalled by
every partition that runs a period, and asserts its source. The answer holds its number. An event admitted during a
firmware switch and handled now has its number already (R369, R384). -/
def State.intake (s : State) (kind : IngressKind) (key : Nat) : BitVec 64 × State :=
  match s.hub.given with
  | some n => (n, s.modHub fun h => { h with given := none })
  | none =>
  let e : IngressEvent := { num := s.hub.ingress, kind := kind, src := key }
  let s1 := s.modHub fun h => { h with ingress := h.ingress + 1, log := h.log ++ [e] }
  let s2 := (List.range 4).foldl (fun t p => t.modPart p (Partition.journalEvent e)) s1
  (e.num, s2.assertKey key)

/-- An event that a firmware switch is in the way of: it is admitted now and handled afterwards (R369, R384). -/
def State.holdOver (s : State) (i : Instr) (kind : IngressKind) (key : Nat) : State :=
  let a := s.intake kind key
  { a.2 with deferred := a.2.deferred ++ [(i, some a.1)] }

/-- As `intake`, for an event whose number is not needed. -/
def State.admitted (s : State) (kind : IngressKind) (key : Nat) : State := (s.intake kind key).2

/-! ## KMP messages from the device (R337, R338) -/

/-- A KMP header from the device. -/
def kmpHdr (type : Nat) (signed : Bool) (len seq frag nfrag : Nat) : BitVec 256 :=
  at' 256 0 32 0x31504D4B ||| at' 256 32 8 type ||| bitAt 256 40 signed ||| at' 256 48 16 len |||
  at' 256 64 64 Config.serial.toNat ||| at' 256 128 64 seq ||| at' 256 200 8 frag ||| at' 256 208 8 nfrag

/-- The packets of an MCTP message (R346). -/
def mctpPackets (msg : List Byte) : List MctpPacket :=
  let parts := chunksOf 64 msg.length msg
  parts.zipIdx.map fun e => ⟨decide (e.2 = 0), decide (e.2 + 1 = parts.length), e.2 % 4, e.1⟩

/-- Send a KMP message: signed by the attestation key if asked (R337, R338); on I3C it travels whole in a vendor-defined
MCTP message (R347). -/
def State.kmpTo (s : State) (hdr : BitVec 256) (payload : List Byte) (signed : Bool) (dest : KmpDest) : State :=
  let text := bytesOfBv 32 hdr ++ payload
  let sig := if signed then ed448Sign (s.sec.attKey.getD []) text (ascii "KMP1") else []
  match dest with
  | .udp _ _ _ => s.emit (.kmp hdr payload sig dest)
  | .i3c => s.emit (.mctpPackets (mctpPackets (0x7F :: (bytesOfBv 4 Config.enterprise).reverse ++ text ++ sig)))

/-- Send a message of the device's own to the collector; it takes the next message count. With no collector set there is
nowhere to send it (R336, log 47). -/
def State.sendKmp (s : State) (type : Nat) (signed : Bool) (payload : List Byte) : State :=
  match s.mgmt.collector with
  | none => s
  | some c =>
    let s1 := s.kmpTo (kmpHdr type signed payload.length s.mgmt.seq.toNat 0 1) payload signed (.udp c.1 c.2 s.mgmt.vlan)
    { s1 with mgmt := { s1.mgmt with seq := s1.mgmt.seq + 1 } }

/-! ## Error records (R281-R284, R339) -/

/-- PSTATE of a record: 0 period open, 1 closed, 2 no step period (R283). -/
def Partition.pstate (P : Partition) : Nat :=
  if P.state = .running then (if P.period.isOpen || P.period.waiting.isSome then 0 else 1) else 2

/-- COUNT after one more record with this REASON and LOC (R283). -/
def countUp (reason : BitVec 16) (loc : Word) : List ErrCount → Word × List ErrCount
  | [] => (1, [⟨reason, loc, 1⟩])
  | c :: l =>
    if c.reason = reason ∧ c.loc = loc then
      (satAdd c.count 1, { c with count := satAdd c.count 1 } :: l)
    else let r := countUp reason loc l; (r.1, c :: r.2)

/-- The header of a record (R282). -/
def recordHdr (reason unit part lseat rseq ingress : Nat) : BitVec 512 :=
  at' 512 0 16 reason ||| at' 512 16 4 1 ||| at' 512 20 2 part ||| at' 512 22 3 unit |||
  at' 512 32 12 lseat ||| at' 512 48 16 rseq ||| at' 512 64 64 ingress

/-- Store a record in the store of the latest 256, and send it on the management port at most 1,000 times
a second; a record withheld by the limit is counted, and one raised while the link is down is kept for
its return (R339, R378). -/
def State.storeRecord (s : State) (rcd : BitVec 512) (newSecond : Bool) : State :=
  let sent := if newSecond then 0 else s.hub.sentNow
  let recs := s.hub.records ++ [rcd]
  let s1 := s.modHub fun h => { h with records := recs.drop (recs.length - 256), rseq := h.rseq + 1, sentNow := sent }
  if s.mgmt.linkUp = false then { s1 with mgmt := { s1.mgmt with kept := s1.mgmt.kept ++ [rcd] } }
  else if sent < 1000 then
    (s1.modHub fun h => { h with sentNow := sent + 1 }).sendKmp 1 false (bytesOfBv 64 rcd)
  else s1.modServices fun v => { v with withheld := satAdd v.withheld 1 }

/-- Make the record of an admitted event (R282, R283). The header of a hub record carries partition 0. -/
def State.makeRecord (s : State) (e : ErrEvent) (num : BitVec 64) : State :=
  let p : Nat := if e.unit.val = 4 then 0 else e.part.val
  let P := s.part p
  let c := countUp e.reason e.loc s.hub.counts
  let rcd := recordHdr e.reason.toNat e.unit.val p P.seat.toNat s.hub.rseq.toNat num.toNat |||
    at' 512 128 32 e.loc.toNat ||| at' 512 160 32 c.1.toNat ||| at' 512 192 64 e.detail.toNat |||
    at' 512 256 64 P.period.step.toNat ||| at' 512 320 8 P.period.attempt.toNat ||| at' 512 328 2 P.pstate
  (s.modHub fun h => { h with counts := c.2 }).storeRecord rcd e.newSecond

/-- A notice (R277): admitted, it makes its record and drops nothing. -/
def State.notice (s : State) (e : ErrEvent) : State :=
  let a := s.intake .error 999
  a.2.makeRecord e a.1

/-- A detected error: its detector reports it, and ERROR_REPORT is its admission (R27, R277). -/
def State.detect (s : State) (reason : BitVec 16) (unit : Fin 5) (part : Nat) (loc detail : Nat) : State :=
  s.modHub fun h => { h with reports := h.reports ++
    [{ reason := reason, unit := unit, part := partIx part,
       loc := BitVec.ofNat 32 loc, detail := BitVec.ofNat 64 detail }] }

/-- A compute die as the UNIT of a record. -/
def dieUnit (d : Nat) : Fin 5 := ⟨d % 4, Nat.lt_of_lt_of_le (Nat.mod_lt _ (by decide)) (by decide)⟩

/-- A detected error in a cell: its die's unit, its die's partition. -/
def State.detectCell (s : State) (c : Nat) (reason : BitVec 16) (loc detail : Nat) : State :=
  s.detect reason (dieUnit (dieOf c)) ((s.partOf (dieOf c)).getD 0) loc detail

/-- The events the reason table of R284 marks Notice, and the notices of R404, R411 and R438. -/
def isNotice (reason : BitVec 16) : Bool :=
  [0x2005#16, 0x3002#16, 0x3003#16, 0x4001#16, 0x6001#16, 0x7001#16, 0x7002#16, 0x7003#16, 0x7004#16,
   0x7005#16, 0x7006#16, 0x8002#16, 0xA001#16, 0xB001#16].contains reason

/-! ## Control packets (R236, R239, R240, R256-R258) -/

/-- The seating-chart entry of a seat (R239). -/
def Chart.entry (c : Chart) (seat : Nat) : BitVec 128 := look 0 c.seats seat
def seatState (e : BitVec 128) : Nat := fldN e 12 2
def seatX (e : BitVec 128) : Nat := fldN e 0 6
def seatY (e : BitVec 128) : Nat := fldN e 6 6
def seatDomain (e : BitVec 128) : Nat := fldN e 16 16
def seatDesk (e : BitVec 128) : Nat := fldN e 32 12

/-- The seated members, by rising seat (R239, R274). -/
def Chart.members (c : Chart) : List Nat :=
  (c.seats.filter fun e => decide (seatState e.2 = 1)).map Prod.fst

/-- The members of a partition's bell group; in single-device operation, seat 0 alone (R255, R276). -/
def Partition.members (P : Partition) : List Nat := if P.image.single then [0] else P.chart.members

/-- Every control packet's payload (R257). -/
def mkCtl (ctype attempt lseat epoch step a0 a1 a2 : Nat) : Control :=
  at' 512 0 8 ctype ||| at' 512 8 8 attempt ||| at' 512 16 12 lseat ||| at' 512 32 32 epoch |||
  at' 512 64 64 step ||| at' 512 128 64 a0 ||| at' 512 192 64 a1 ||| at' 512 256 64 a2

def ctype (c : Control) : Nat := fldN c 0 8
def ctlAttempt (c : Control) : BitVec 8 := fld c 8 8
def ctlSeat (c : Control) : Nat := fldN c 16 12
def ctlEpoch (c : Control) : BitVec 32 := fld c 32 32
def ctlStep (c : Control) : BitVec 64 := fld c 64 64
def arg0 (c : Control) : BitVec 64 := fld c 128 64
def arg1 (c : Control) : BitVec 64 := fld c 192 64
def arg2 (c : Control) : BitVec 64 := fld c 256 64

/-- A packet header (R236): destination coordinates, die and partition, source, channel, seats, kind,
length, address, tag, generation. -/
def mkHdr (dx dy ddie dpart sx sy vc ldst lsrc kind len addr tag gen : Nat) : BitVec 256 :=
  at' 256 0 6 dx ||| at' 256 6 6 dy ||| at' 256 12 2 ddie ||| at' 256 14 2 dpart ||| at' 256 16 6 sx |||
  at' 256 22 6 sy ||| at' 256 28 3 vc ||| at' 256 32 12 ldst ||| at' 256 44 12 lsrc ||| at' 256 56 4 kind |||
  at' 256 64 13 len ||| at' 256 96 40 addr ||| at' 256 160 32 tag ||| at' 256 192 32 gen

/-- The port by which a partition's packets are counted where no output is taken: its first in the order W,
N, E, S (R23, R245). -/
def Partition.firstPort (P : Partition) : Nat := P.lowDie

/-- One more in a counter field of a fabric record (R254). -/
def State.countFabric (s : State) (port unit lo len n : Nat) : State :=
  { s with fabric := { s.fabric with ctr := alter 0 s.fabric.ctr (9 * port + unit) fun r => satField r lo len n } }

/-! ## Header fields (R236) -/

def pktDx (h : BitVec 256) : Nat := fldN h 0 6
def pktDy (h : BitVec 256) : Nat := fldN h 6 6
def pktDdie (h : BitVec 256) : Nat := fldN h 12 2
def pktDpart (h : BitVec 256) : Nat := fldN h 14 2
def pktVc (h : BitVec 256) : Nat := fldN h 28 3
def pktEsc (h : BitVec 256) : Bool := bit h 31
def pktLdst (h : BitVec 256) : Nat := fldN h 32 12
def pktLsrc (h : BitVec 256) : Nat := fldN h 44 12
def pktKind (h : BitVec 256) : Nat := fldN h 56 4
def pktMcast (h : BitVec 256) : Nat := fldN h 77 2
def pktMdir (h : BitVec 256) : Bool := bit h 79
def pktMspan (h : BitVec 256) : Nat := fldN h 80 6
def pktHops (h : BitVec 256) : Nat := fldN h 88 8
def pktAddr (h : BitVec 256) : Nat := fldN h 96 40
def pktTag (h : BitVec 256) : Nat := fldN h 160 32
def pktGen (h : BitVec 256) : BitVec 32 := fld h 192 32

/-- R237: whether the device discards a packet addressed to it. One for the memory of an isolated die is (R393,
R394); a control packet goes to the hub. -/
def State.unwanted (s : State) (h : BitVec 256) : Bool :=
  let P := s.part (pktDpart h)
  (decide (pktKind h ≠ 6) && (s.die (pktDdie h)).clamped) || decide (P.dies = 0) || !bit P.dies (pktDdie h) || decide (pktLdst h ≠ P.seat.toNat) || decide (pktGen h < P.gen)

/-- A packet of partition `p` to seated coordinates: into the fabric, or straight to this device's own
owner, unless that discards and counts it (R237, R245). A fenced partition sends nothing (R300). -/
def State.placePacket (s : State) (p : Nat) (dx dy : Nat) (pkt : Packet) : State :=
  let q := partIx p
  if (s.part p).state = .fenced then s
  else if dx = s.fabric.ownX ∧ dy = s.fabric.ownY then
    if s.unwanted pkt.hdr then s.countFabric (s.part p).firstPort 0 192 16 1
    else { s with fabric := { s.fabric with delivered := s.fabric.delivered ++ [(q, pkt)] } }
  else { s with fabric := { s.fabric with inject := s.fabric.inject ++ [⟨q, pkt⟩] } }

/-- Send a packet to a logical seat (R239, R240): a seat that is not seated gets none, and the sender
counts it under UNSENT. In single-device operation seat 0 is the device itself (R276). `mark` is bit 60 of the header,
the poison of a read response (log 27). -/
def State.sendMarked (s : State) (mark : Bool) (p seat ddie kind vc addr tag : Nat) (payload : List Byte) : State :=
  let P := s.part p
  let e := P.chart.entry seat
  let hdr (dx dy : Nat) := mkHdr dx dy ddie p s.fabric.ownX s.fabric.ownY vc seat P.seat.toNat kind
    payload.length addr tag P.gen.toNat ||| bitAt 256 60 mark
  if P.image.single then
    if seat = 0 then s.placePacket p s.fabric.ownX s.fabric.ownY ⟨hdr s.fabric.ownX s.fabric.ownY, payload⟩
    else s.countFabric P.firstPort 0 208 16 1
  else if seatState e = 1 then s.placePacket p (seatX e) (seatY e) ⟨hdr (seatX e) (seatY e), payload⟩
  else s.countFabric P.firstPort 0 208 16 1

def State.sendPacket (s : State) (p seat ddie kind vc addr tag : Nat) (payload : List Byte) : State :=
  s.sendMarked false p seat ddie kind vc addr tag payload

/-- A packet straight to physical coordinates, for a reserve that holds no seat (R297, R299). -/
def State.sendDirect (s : State) (p dx dy seat kind vc : Nat) (payload : List Byte) : State :=
  let P := s.part p
  s.placePacket p dx dy ⟨mkHdr dx dy P.lowDie p s.fabric.ownX s.fabric.ownY vc seat P.seat.toNat kind
    payload.length 0 0 P.gen.toNat, payload⟩

/-- Send a control packet to a seat on VC1 (R256, R257). -/
def State.sendCtl (s : State) (p seat : Nat) (c : Control) : State :=
  s.sendPacket p seat (s.part p).lowDie 6 1 0 0 (bytesOfBv 64 c)

/-- A control packet of a partition's own, for the step it is in. -/
def State.ownCtl (s : State) (p ctype a0 a1 a2 : Nat) : Control :=
  let P := s.part p
  mkCtl ctype P.period.attempt.toNat P.seat.toNat P.watch.epoch.toNat P.period.step.toNat a0 a1 a2

/-- The members after the lodestar in the order of succession (R274). -/
def successors (members : List Nat) (lode : Nat) : List Nat := members.filter fun m => decide (lode < m)

/-- A trouble notice that names a seat goes to the lodestar and to its first successor (R256, R262, R275). -/
def State.sendTrouble (s : State) (p seat reason : Nat) : State :=
  let P := s.part p
  let c := s.ownCtl p 0x0B (seat + reason * 2 ^ 16) 0 0
  match P.watch.lodestar with
  | none => s
  | some l =>
    let s1 := s.sendCtl p l c
    match successors P.members l with
    | r :: _ => s1.sendCtl p r c
    | [] => s1

/-- A control packet that has come by the fabric leaves the place where it waited. -/
def State.takeDelivered (s : State) (p : PartIx) (f : Packet → Bool) : State :=
  let d := s.fabric.delivered
  match d.findIdx? fun e => decide (e.1 = p) && f e.2 with
  | some i => { s with fabric := { s.fabric with delivered := d.eraseIdx i } }
  | none => s

/-- A partition that a control packet reaches counts and discards it under R258: reserved type, older
epoch, or an earlier (STEP, ATTEMPT) than the attempt it is in. -/
def Partition.staleCtl (P : Partition) (c : Control) : Bool :=
  decide (ctlEpoch c < P.watch.epoch) ||
  (decide (P.state = .running) &&
    (decide (ctlStep c < P.period.step) ||
      (decide (ctlStep c = P.period.step) && decide (ctlAttempt c < P.period.attempt))))

/-! ## Memory -/

/-- The weight-cache set of a die-local address (R121). -/
def wcSet (a : Nat) : Nat := a / 256 % 16384

/-- The 256-byte lines that [a, a + n) touches. -/
def linesOf (a n : Nat) : List Nat :=
  if n = 0 then [] else (List.range ((a + n - 1) / 256 - a / 256 + 1)).map fun i => 256 * (a / 256 + i)

/-- The weight cache without one line. -/
def wcDrop (wc : SMap (List Nat)) (line : Nat) : SMap (List Nat) :=
  alter [] wc (wcSet line) fun l => l.filter fun x => decide (x ≠ line)

/-- A die after a write to [a, a + n) of its HBM: covered cached lines invalidated, and fills whose data
was read before the write not to be installed (R123). -/
def Die.writeHbm (D : Die) (a : Nat) (bs : List Byte) : Die :=
  let ls := linesOf a bs.length
  { D with
    hbm := writeBytes D.hbm a bs
    wc := ls.foldl wcDrop D.wc
    fills := D.fills.map fun f => if ls.contains f.line then { f with stale := f.stale || decide (0 < f.blocks) } else f }

/-- A mirror-list entry's die, first address and length in bytes, while it is in use (R288). -/
def mirrorEntry (e : BitVec 128) : Option (Nat × Nat × Nat) :=
  if bit e 2 then some (fldN e 0 2, fldN e 8 40, 256 * fldN e 64 32) else none

/-- R290, 1: the written flags set by a write to [a, a + n) of die d. -/
def Partition.markWritten (d a n : Nat) (P : Partition) : Partition :=
  let hit := (List.range P.image.mirror.length).filter fun i =>
    match mirrorEntry (P.image.mirror.getD i 0) with
    | some (ed, ea, el) => decide (ed = d ∧ a < ea + el ∧ ea < a + n)
    | none => false
  if hit.isEmpty then P
  else { P with mirror := { P.mirror with written := hit.foldl (fun l i => insNat i l) P.mirror.written } }

/-- Recorded snoop-filter lines in a range of a die's HBM (R315). -/
def Cxl.recorded (x : Cxl) (d a n : Nat) : List (Nat × Nat) :=
  x.snoop.filter fun e => decide (e.1 = d ∧ e.2 < a + n ∧ a < e.2 + 64)

/-- The recorded lines that an access must snoop first: for a read, those not yet answered for (R315). -/
def Cxl.mustSnoop (x : Cxl) (d a n : Nat) (inv : Bool) : List (Nat × Nat) :=
  (x.recorded d a n).filter fun e => inv || !x.shared.contains e

/-- R315: a device access to lines that the host holds issues a back-invalidate snoop for each. -/
def State.snoopRange (s : State) (d a n : Nat) (inv : Bool) : State :=
  let hit := (s.cxl.mustSnoop d a n inv).map fun e => (e.1, e.2, inv)
  let new := hit.filter fun e => !s.cxl.bisnp.contains e
  let s1 := new.foldl (fun t e => t.emit (.biSnoop e.1 e.2.1 inv)) s
  { s1 with cxl := { s1.cxl with bisnp := s1.cxl.bisnp ++ new } }

/-- What accesses HBM waits until the host has answered for every recorded line that it needs (R315): die, address,
length, and whether it writes. -/
def State.afterSnoops (s : State) (acc : List (Nat × Nat × Nat × Bool)) (r : Res) : Res :=
  if acc.all fun e => (s.cxl.mustSnoop e.1 e.2.1 e.2.2.1 e.2.2.2).isEmpty then r
  else .next (acc.foldl (fun t e => t.snoopRange e.1 e.2.1 e.2.2.1 e.2.2.2) s)

/-- A write to a die's HBM (R115, R123, R290). -/
def State.storeHbm (s : State) (d a : Nat) (bs : List Byte) : State :=
  let s1 := s.modDie d fun D => D.writeHbm a bs
  match s1.partOf d with
  | some p => s1.modPart p (Partition.markWritten d a bs.length)
  | none => s1

/-- A device write to a die's HBM, which snoops the host's lines (R315). -/
def State.writeHbm (s : State) (d a : Nat) (bs : List Byte) : State := (s.snoopRange d a bs.length true).storeHbm d a bs

/-- The bytes of a die's HBM at [a, a + n). -/
def State.readHbm (s : State) (d a n : Nat) : List Byte := readBytes (s.die d).hbm a n

/-- A read of a die's HBM by a service, which snoops the host's lines (R315). -/
def State.serviceRead (s : State) (d a n : Nat) : List Byte × State :=
  (s.readHbm d a n, s.snoopRange d a n false)

/-- A stack, pseudo-channel and bank of a die-local address, and the stack-local address (R100). -/
def stackOf (a : Nat) : Nat := a / 256 % 3
def unitIn (a : Nat) : Nat := a / 256 / 3
def chanOf (a : Nat) : Nat := 32 * stackOf a + unitIn a % 32

/-- A corrected error of a die's HBM (R125, R341): its pseudo-channel counts it. -/
def State.hbmCorrected (s : State) (d a : Nat) : State :=
  (s.modDie d fun D => { D with chanCorr := alter 0 D.chanCorr (chanOf a) fun v => satAdd v 1 }).modServices fun v =>
    { v with corrected := satAdd v.corrected 1 }
def bankOf (a : Nat) : Nat := unitIn a / 32 % 48
def stackLocal (a : Nat) : Nat := 256 * unitIn a + a % 256

/-! ## Queues (R45, R46) -/

/-- The depth of a queue by its code: F and V 16 and 8, X 8, Y 16 (R45). An X queue's two ends stand in two cells, and the
manual does not say how its 8 entries lie between them: the producer end (codes 20-23) holds 8 that wait for the
route, and the consumer end 8 (DESIGN CHOICE, log 16). -/
def queueDepth (q : Nat) : Nat := if q < 8 then 16 else if q < 16 then 8 else if q < 20 then 16 else 8

def Cell.queue (c : Cell) (q : Nat) : Queue := look {} c.queues q

/-- A push: the entry enters, or waits for a free entry behind those that wait already (R46). `late`: the consumer
waits for it, where the queue is empty (R129). -/
def Queue.push (depth : Nat) (late : Bool) (e : Entry) (q : Queue) : Queue :=
  if q.waiting.isEmpty ∧ q.entries.length < depth then
    { q with entries := q.entries ++ [e], late := q.late || (q.entries.isEmpty && late) }
  else { q with waiting := q.waiting ++ [e] }

/-- A pop: the oldest entry leaves, and the oldest push that waits completes (R45, R46). -/
def Queue.pop (depth : Nat) (q : Queue) : Option (Entry × Queue) :=
  match q.entries with
  | [] => none
  | e :: es =>
    match q.waiting with
    | w :: ws => if es.length < depth then some (e, ⟨es ++ [w], ws, false⟩) else some (e, ⟨es, w :: ws, false⟩)
    | [] => some (e, ⟨es, [], false⟩)

/-- The consumer of a queue waits for its next entry: the engine's running operation in its steps or its Load, or a
VECTOR, SCALAR or ROW operation under way reads it. -/
def Cell.awaits (c : Cell) (q : Nat) : Bool :=
  let ins (d : Desc) : Bool := [fldN d 96 8, fldN d 104 8, fldN d 112 8].contains q
  (match c.eng with
    | some e => e.owned && (if e.ready then decide (fldN e.op.desc 96 8 = q ∨ fldN e.op.desc 104 8 = q)
        else decide (fldN e.op.desc 112 8 = q))
    | none => false) ||
  (c.vec.any fun v => ins v.op.desc) || (c.scal.any fun v => !v.given && decide (fldN v.op.desc 96 8 = q)) ||
  (c.rowRun.any fun v => ins v.op.desc)

/-- A push to a queue of a cell. A Y queue's is counted in its write stream's record: one that finds space, or one
that waits (R129). -/
def Cell.push (c : Cell) (q : Nat) (e : Entry) : Cell :=
  let lo := if (c.queue q).waiting.isEmpty ∧ (c.queue q).entries.length < queueDepth q then 96 else 128
  { c with
    queues := put {} c.queues q ((c.queue q).push (queueDepth q) (c.awaits q) e)
    ctr := if 16 ≤ q ∧ q < 20 then alter 0 c.ctr (q - 8) fun r => satField r lo 32 1 else c.ctr }

def Cell.pop (c : Cell) (q : Nat) : Option (Entry × Cell) :=
  ((c.queue q).pop (queueDepth q)).map fun r => (r.1, { c with queues := put {} c.queues q r.2 })

/-- Whether a producer of a queue may go on: no push of it waits (R46). -/
def Cell.outFree (c : Cell) (q : Nat) : Bool := (c.queue q).waiting.isEmpty

/-! ## Tallies (R151, R153) -/

/-- A tally of the partition, by its TALLY address: die [13:12], number [11:0] (R146). -/
def State.tally (s : State) (t : BitVec 14) : BitVec 20 := look 0 (s.die (fldN t 12 2)).tallies (fldN t 0 12)

/-- A tally of one of the partition's own dies; no other partition's tallies can be read or written (R34). -/
def State.ownsTally (s : State) (p : Nat) (t : BitVec 14) : Bool := bit (s.part p).dies (fldN t 12 2)

/-- An add to a tally (R153): saturating, with the notice 0x4001 when it would carry the value above
0xF_FFFF. -/
def State.addTally (s : State) (t : BitVec 14) (n off : Nat) : State :=
  let d := fldN t 12 2
  let v := (s.tally t).toNat + n
  let s1 := s.modDie d fun D => { D with tallies := put 0 D.tallies (fldN t 0 12) (BitVec.ofNat 20 (min v 0xFFFFF)) }
  if v ≤ 0xFFFFF then s1
  else
    let p := (s.partOf d).getD 0
    s1.notice
      { reason := 0x4001, unit := dieUnit d, part := partIx p,
        loc := BitVec.ofNat 32 t.toNat, detail := BitVec.ofNat 64 off }

/-- An add to a tally by a partition's own work; one to another partition's tally changes nothing (R34, R134). -/
def State.addOwn (s : State) (p : Nat) (t : BitVec 14) (n off : Nat) : State :=
  if s.ownsTally p t then s.addTally t n off else s

end Sys2Proof.Machine
end

