-- ==== Sys2Proof/Machine/Resets.lean ====
section
/-! DEFINITION. The resets of the device (R432-R434), Off (R404), recovery mode (R370, R372), and the staging session's clearing (R367). -/

namespace Sys2Proof.Machine

/-- The firmware state without staged bytes and bitmap, in a given STATE (R366, R367). LAST and REFUSED
stand over sessions (R361). -/
def Firmware.clear (f : Firmware) (state : Nat) : Firmware :=
  { f with staging := [], pieces := [], state := state }

/-- The session ended in STATE 0 (R362, R367). -/
def Firmware.endSession (f : Firmware) : Firmware :=
  { f.clear 0 with kind := 0, paths := 0, length := 0, imageId := 0, opened := 0, before := none }

/-- What a reset leaves of the firmware: MRAM and fuses (R360). A switch that waited for its boundary has
written nothing, so its session is staged again (log 24). -/
def Firmware.afterReset (f : Firmware) : Firmware :=
  { f with
    stage := .idle
    state := if f.state = 4 ∧ f.switchFlag = false then 3 else f.state
    before := none
    window := 60 }

/-- What a reset leaves of a partition: the journal head, in MRAM (R22, R432). -/
def keptParts (s : State) : SMap Partition :=
  (List.range 4).foldl (fun m p => put {} m p
    { dies := if p = 0 then 0xF else 0, journal := (s.part p).journal }) []

/-- What a device reset leaves of a cell: its counters (R129, R70; log 25), not that of poisoned lanes (log 156). -/
def Cell.afterDeviceReset (c : Cell) : Cell := { corr := c.corr, bankCorr := c.bankCorr, ctr := c.ctr }

/-- What a device reset leaves of a die: its rails, and its reduction counters (R129, R223, R432). -/
def Die.afterDeviceReset (d : Die) : Die := { redCtr := d.redCtr, redBytes := d.redBytes, chanCorr := d.chanCorr, railsOff := d.railsOff }

/-- What a device reset leaves of the hub (R432, R340, R412, R421): the record store, RSEQ, COUNT, the ingress sequence
number, how many records the present second has sent (R339), the counts that run since cold start, the period numbers, and the exam results but those that a start-up sequence which it
abandons has `taken` (R433). -/
def Hub.afterDeviceReset (h : Hub) (taken : Bool) : Hub :=
  { ingress := h.ingress, rseq := h.rseq, records := h.records, counts := h.counts, route := 0x6F1CAAAA
    sentNow := h.sentNow, rateMs := h.rateMs
    services := { limited := h.services.limited, corrected := h.services.corrected
                  numbers := h.services.numbers, results := if taken then [] else h.services.results } }

/-- What a cold start leaves of the management port: what MRAM holds (R336, R344). -/
def Mgmt.afterReset (m : Mgmt) : Mgmt :=
  { ipv4 := m.ipv4, ipv6 := m.ipv6, vlan := m.vlan, collector := m.collector, keys := m.keys }

/-- A device reset (R432): the state at the mask ROM event, order 4 of R435. -/
def State.deviceReset (s : State) : State :=
  { s with
    deferred := []
    cells := s.cells.foldl (fun m e => put {} m e.1 e.2.afterDeviceReset) []
    dies := s.dies.foldl (fun m e => put {} m e.1 e.2.afterDeviceReset) []
    fabric := { ctr := s.fabric.ctr }
    parts := keptParts s
    hub := s.hub.afterDeviceReset (decide (s.power.state = .starting) && decide (s.power.order = 12))
    rings := State.reset.rings
    cxl := {}
    mgmt := { s.mgmt.afterReset with seq := s.mgmt.seq, kept := s.mgmt.kept }
    spdm := {}
    fw := s.fw.afterReset
    sec := { s.sec with attKey := none, challenge := none }
    power := { on := s.power.on, vinHigh := s.power.vinHigh, coldN := s.power.coldN, perstN := s.power.perstN,
               thermtripN := s.power.thermtripN, order := 3, wearHours := s.power.wearHours } }

/-- A cold start's first event (R432, R435): every field at its value after reset but what MRAM and fuses
hold. -/
def State.coldReset (s : State) : State :=
  { s with
    deferred := []
    cells := []
    dies := []
    fabric := {}
    parts := keptParts s
    hub := State.reset.hub
    rings := State.reset.rings
    cxl := {}
    mgmt := s.mgmt.afterReset
    spdm := {}
    fw := s.fw.afterReset
    sec := {}
    power := { on := true, vinHigh := s.power.vinHigh, coldN := s.power.coldN, perstN := s.power.perstN,
               order := 1, wearHours := s.power.wearHours } }

/-- The conversion stages stop and the device is in Off (R404, R432). -/
def State.powerOff (s : State) : State :=
  let t := s.coldReset
  { t with power := { t.power with on := false, order := 0 } }

/-- Every die without power: recovery mode and Standby keep only the hub powered (R372, R391). -/
def Die.unpowered (d : Die) : Die :=
  { d.afterDeviceReset with mode := .off, railsOff := true, refsStopped := true, clamped := true }

/-- Recovery mode (R371, R372): the management port trains, and only the hub is powered. -/
def State.recoveryMode (s : State) : State :=
  { s with
    dies := s.dies.foldl (fun m e => put {} m e.1 e.2.unpowered) []
    cells := s.cells.foldl (fun m e => put {} m e.1 e.2.afterDeviceReset) []
    hub := { s.hub with clerks := [] }
    mgmt := { s.mgmt with trained := true }
    power := { s.power with state := .recovery, ready := false, standby := true, memAct := false } }

/-- A failed start, or a clerk failure (R370, R387): the hub resets into the mask ROM with the
start-failed mark, every partition stops, and recovery mode follows with LAST = START_FAILED and the
session cleared (R371). -/
def State.startFailure (s : State) : State :=
  let t := s.deviceReset.recoveryMode
  { t with
    fw := { t.fw.endSession with startFailed := true, lastFail := 0x050D, switchFlag := false }
    power := { t.power with order := 4 } }

end Sys2Proof.Machine
end

