-- ==== Sys2Proof/Machine/Clerks.lean ====
section
/-! DEFINITION. The interrupt controller (chapter 15): completion, GIE, routes, delivery, overdue handlers. -/

namespace Sys2Proof.Machine

/-- R380: a clerk is ready. -/
def Clerk.ready (k : Clerk) : Bool := k.gie && !k.held && decide (k.isSrc = 0xFF)

/-- R380: the delivery of a source, in one act: its count into IS_COUNT, its count and pending bit
cleared, IS_SRC set, and the handler started at VBASE + 32 × source. -/
def Clerk.deliver (src : Nat) (k : Clerk) : Clerk :=
  { k with
    isCount := look 0 k.counts src
    counts := put 0 k.counts src 0
    pending := k.pending &&& ~~~(1#64 <<< src)
    isSrc := BitVec.ofNat 8 src
    vector := some (k.vbase + BitVec.ofNat 32 (32 * src)) }

/-- The key of source `src` at clerk `k`, as the event log records it. -/
def srcKey (k src : Nat) : Nat := if src < 32 then 32 * k + src else 96 + src

/-- The event log without the first `n` events of a source: its handler has taken them (R376). -/
def takeEvents (key : Nat) : Nat → List IngressEvent → List IngressEvent
  | 0, l => l
  | _, [] => []
  | n + 1, e :: l => if e.src = key then takeEvents key n l else e :: takeEvents key (n + 1) l

/-- R386, step 1, and the handler abandoned: the fault fields, and no source in service. -/
def Clerk.abandon (cause : Nat) (wr : Byte) (k : Clerk) : Clerk :=
  { k with fault := BitVec.ofNat 3 (2 ^ cause), faultSrc := k.isSrc, faultWr := wr, isSrc := 0xFF, vector := none }

/-- A source pending again with `n` more on its count. -/
def Clerk.pendAgain (src n : Nat) (k : Clerk) : Clerk :=
  { k with pending := k.pending ||| (1#64 <<< src), counts := put 0 k.counts src (satAdd (look 0 k.counts src) n) }

/-- The clerk at which a source that clerk `k` has in service is delivered next: `k`, or of a shared source the clerk its
ROUTE now names (R383). -/
def State.nextClerk (s : State) (k src : Nat) : Nat := if src < 32 then k else s.routeOf src

/-- R386, steps 1 and 2: the handler of clerk `k` is abandoned, and its source is pending again with its IS_COUNT added
back. -/
def State.abandon (s : State) (k cause : Nat) (wr : Byte) : State :=
  let c := s.clerk k
  let s1 := s.modClerk k (Clerk.abandon cause wr)
  if c.isSrc = 0xFF then s1
  else s1.modClerk (s.nextClerk k c.isSrc.toNat) (Clerk.pendAgain c.isSrc.toNat c.isCount.toNat)

/-- A completion fault (R386, R387). One that arises while source 0 is in service is a clerk failure. -/
def State.completionFault (s : State) (k cause : Nat) (wr : Byte) : State :=
  let c := s.clerk k
  let s1 := (s.abandon k cause wr).modClerk k fun c => (Clerk.assert 0 c).deliver 0
  let s2 := s1.detect 0x9001 4 0 (k + 2 ^ cause * 256) (c.isSrc.toNat + wr.toNat * 256)
  if c.isSrc = 0 then s2.startFailure else s2

/-- COMPLETE_WRITE (R381, R386): the number of the source in service ends it, and its handler has taken
its events from the log; any other write is a completion fault. -/
def execCompleteWrite (k : ClerkIx) (v : Byte) (s : State) : Res :=
  let c := s.clerk k
  if c.isSrc = 0xFF then .next (s.completionFault k 1 v)
  else if c.isSrc = v then
    .next ((s.modClerk k fun c => { c with isSrc := 0xFF, vector := none }).modHub fun h =>
      { h with log := takeEvents (srcKey k v.toNat) c.isCount.toNat h.log })
  else .next (s.completionFault k 0 v)

/-- GIE_WRITE (R382): only later deliveries change. -/
def execGieWrite (k : ClerkIx) (on : Bool) (s : State) : Res :=
  .next (s.modClerk k fun c => { c with gie := on })

/-- ROUTE_WRITE (R383): the route of shared source 32 + src, whose pending bit and count move at once. -/
def execRouteWrite (src : Fin 32) (k : ClerkIx) (s : State) : Res :=
  let n := 32 + src.val
  let old := s.routeOf n
  let s1 := s.modHub fun h => { h with route := setField h.route (2 * src.val) 2 k.val }
  if old = k.val then .next s1
  else
    let o := s.clerk old
    let s2 := s1.modClerk old fun c => { c with pending := c.pending &&& ~~~(1#64 <<< n), counts := put 0 c.counts n 0 }
    .next (s2.modClerk k fun c =>
      { c with pending := c.pending ||| (o.pending &&& (1#64 <<< n)), counts := put 0 c.counts n (look 0 o.counts n) })

/-- INTERRUPT_DELIVERY (R380): a ready clerk is given its lowest pending, enabled source; its handler may
post messages to the message sources 24 + k of clerks (R375, R377). -/
def execInterruptDelivery (k : ClerkIx) (posts : List ClerkIx) (s : State) : Res :=
  let c := s.clerk k
  match (if c.ready then lowestBit (c.pending &&& c.enable) 64 else none) with
  | some n => .next (posts.foldl (fun t q => t.assertAt q (24 + k.val)) (s.modClerk k (Clerk.deliver n)))
  | none => .next s

/-- HANDLER_OVERDUE (R386): a source has been in service longer than OVERDUE. -/
def execHandlerOverdue (k : ClerkIx) (s : State) : Res :=
  if (s.clerk k).isSrc = 0xFF then .next s else .next (s.completionFault k 2 0xFF)

end Sys2Proof.Machine
end

