-- ==== Sys2Proof/Machine/Numbers.lean ====
section
/-! DEFINITION. Exact values, the storage formats and their rounding (R73-R76, R82, R89, R90), W40 and FP32 arithmetic (R87, R92), elementary functions (R189). -/

namespace Sys2Proof.Machine

/-- A value: NaN, an infinity, or (-1)^neg × m × 2^e exactly; m = 0 is a signed zero. -/
inductive Val where
  | nan
  | inf (neg : Bool)
  | num (neg : Bool) (m : Nat) (e : Int)
  deriving DecidableEq, Repr

/-- +0. -/
abbrev Val.zero : Val := .num false 0 0

/-- ⌊log₂ m⌋ for m > 0. -/
def floorLog2 (m : Nat) : Nat := Nat.log2 m

/-- ⌊log₂⌋ of the magnitude m × 2^e, for m > 0. -/
def magLog2 (m : Nat) (e : Int) : Int := (floorLog2 m : Int) + e

/-- m × 2^k for a k of either sign, rounded down, and whether anything was lost. -/
def scaleNat (m : Nat) (k : Int) : Nat × Bool :=
  if 0 ≤ k then (m * 2 ^ k.toNat, false)
  else (m / 2 ^ (-k).toNat, decide (m % 2 ^ (-k).toNat ≠ 0))

/-- A signed format's parameters (R73): exponent bits, fraction bits, bias, and how it treats the top
of its range: an infinity (E5M2, BF16, FP32, W40), or none (E4M3, E2M1). -/
structure Fmt where
  ebits : Nat
  fbits : Nat
  bias  : Nat
  hasInf : Bool
  /-- Magnitude bits of the largest finite value. -/
  maxMag : Nat
  /-- Magnitude bits of the canonical NaN (R75); E2M1 has none. -/
  nanMag : Nat
  deriving DecidableEq, Repr

def fmtE4M3 : Fmt := ⟨4, 3, 7, false, 0x7E, 0x7F⟩
def fmtE5M2 : Fmt := ⟨5, 2, 15, true, 0x7B, 0x7E⟩
def fmtE2M1 : Fmt := ⟨2, 1, 1, false, 0x7, 0x7⟩
def fmtBF16 : Fmt := ⟨8, 7, 127, true, 0x7F7F, 0x7FC0⟩
def fmtFP32 : Fmt := ⟨8, 23, 127, true, 0x7F7FFFFF, 0x7FC00000⟩
def fmtW40 : Fmt := ⟨8, 31, 127, true, 0x7F7FFFFFFF, 0x7FC0000000⟩

/-- Width of an element. -/
def Fmt.width (f : Fmt) : Nat := 1 + f.ebits + f.fbits

/-- The format of a FMT field's code (R142): 0 BF16, 1 E4M3, 2 E5M2, 3 E2M1, 4 FP32, 5 W40. -/
def fmtOfCode : Nat → Fmt
  | 0 => fmtBF16
  | 1 => fmtE4M3
  | 2 => fmtE5M2
  | 3 => fmtE2M1
  | 4 => fmtFP32
  | _ => fmtW40

/-- The rank of an operand format's code (R41); FP32 and W40 have none (0). -/
def rankOfCode : Nat → Nat
  | 0 => 1
  | 1 => 2
  | 2 => 2
  | 3 => 4
  | _ => 0

/-- The value of an element's bits (R74). -/
def decodeBits (f : Fmt) (bits : Nat) : Val :=
  let neg := decide (bits / 2 ^ (f.ebits + f.fbits) % 2 = 1)
  let mag := bits % 2 ^ (f.ebits + f.fbits)
  let ex := mag / 2 ^ f.fbits
  let fr := mag % 2 ^ f.fbits
  if f.hasInf then
    if ex = 2 ^ f.ebits - 1 then (if fr = 0 then .inf neg else .nan)
    else if ex = 0 then .num neg fr (1 - f.bias - f.fbits)
    else .num neg (fr + 2 ^ f.fbits) ((ex : Int) - f.bias - f.fbits)
  else if f = fmtE4M3 ∧ mag = 0x7F then .nan
  else if ex = 0 then .num neg fr (1 - f.bias - f.fbits)
  else .num neg (fr + 2 ^ f.fbits) ((ex : Int) - f.bias - f.fbits)

/-- How a conversion rounds (R89, R95): to nearest with ties to even, stochastically with n random
bits (R82), or toward zero. -/
inductive Rounding where
  | nearest
  | stochastic (n rnd : Nat)
  | towardZero
  deriving DecidableEq, Repr

/-- R82: the magnitude in ulps for an exact magnitude of lo ulps and a remainder rem / den. -/
def roundUnits (r : Rounding) (lo rem den : Nat) : Nat :=
  match r with
  | .nearest =>
    if 2 * rem < den then lo
    else if den < 2 * rem then lo + 1
    else if rem = 0 then lo
    else lo + lo % 2
  | .stochastic n rnd => if rem * 2 ^ n / den + rnd ≥ 2 ^ n then lo + 1 else lo
  | .towardZero => lo

/-- The magnitude m × 2^e rounded to a grid with f fraction bits and smallest exponent emin, in units
of the returned exponent (R77, R89). -/
def gridRound (r : Rounding) (fbits : Nat) (emin : Int) (m : Nat) (e : Int) : Nat × Int :=
  if m = 0 then (0, emin - fbits)
  else
    let u := max (magLog2 m e) emin - fbits
    if u ≤ e then (m * 2 ^ (e - u).toNat, u)
    else
      let den := 2 ^ (u - e).toNat
      (roundUnits r (m / den) (m % den) den, u)

/-- The magnitude bits of q × 2^u, where u is the grid spacing gridRound gave. -/
def packMag (f : Fmt) (q : Nat) (u : Int) : Nat :=
  if q < 2 ^ f.fbits then q
  else if q < 2 ^ (f.fbits + 1) then ((u + f.fbits + f.bias).toNat) * 2 ^ f.fbits + (q - 2 ^ f.fbits)
  else ((u + 1 + f.fbits + f.bias).toNat) * 2 ^ f.fbits

/-- The conversion of a value into a format (R89 step 2, R90). -/
def encodeVal (f : Fmt) (r : Rounding) (v : Val) : Nat :=
  let sgn (neg : Bool) : Nat := neg.toNat * 2 ^ (f.ebits + f.fbits)
  match v with
  | .nan => f.nanMag
  | .inf neg => if f.hasInf then sgn neg + (f.maxMag + 1) else f.nanMag
  | .num neg m e =>
    let g := gridRound r f.fbits (1 - f.bias) m e
    let mag := packMag f g.1 g.2
    if f.maxMag < mag then (if f.hasInf then sgn neg + (f.maxMag + 1) else sgn neg + f.maxMag)
    else sgn neg + mag

/-- The exact negation. -/
def Val.neg : Val → Val
  | .nan => .nan
  | .inf n => .inf (!n)
  | .num n m e => .num (!n) m e

/-- The exact sum (R80, R87): +0 for an exact zero unless both addends are -0. -/
def Val.add : Val → Val → Val
  | .nan, _ => .nan
  | _, .nan => .nan
  | .inf a, .inf b => if a = b then .inf a else .nan
  | .inf a, _ => .inf a
  | _, .inf b => .inf b
  | .num a m e, .num b n g =>
    let lo := min e g
    let x : Int := (if a then -1 else 1) * (m * 2 ^ (e - lo).toNat : Nat)
    let y : Int := (if b then -1 else 1) * (n * 2 ^ (g - lo).toNat : Nat)
    let s := x + y
    if s = 0 then .num (m = 0 && n = 0 && a && b) 0 0
    else .num (decide (s < 0)) s.natAbs lo

/-- The exact product (R80, IEEE 754). -/
def Val.mul : Val → Val → Val
  | .nan, _ => .nan
  | _, .nan => .nan
  | .inf a, .inf b => .inf (a != b)
  | .inf a, .num b n _ => if n = 0 then .nan else .inf (a != b)
  | .num a m _, .inf b => if m = 0 then .nan else .inf (a != b)
  | .num a m e, .num b n g => .num (a != b) (m * n) (e + g)

/-- The value times 2^k, exactly. -/
def Val.scale (k : Int) : Val → Val
  | .num n m e => .num n m (e + k)
  | v => v

/-- Whether a value is NaN, infinite. -/
def Val.isNan : Val → Bool
  | .nan => true
  | _ => false
def Val.isInf : Val → Bool
  | .inf _ => true
  | _ => false

/-- Whether a value's sign is negative. -/
def Val.isNeg : Val → Bool
  | .nan => false
  | .inf n => n
  | .num n _ _ => n

/-- IEEE 754 less-than: false for a NaN, and -0 is not less than +0 (R91, R160). -/
def Val.lt : Val → Val → Bool
  | .nan, _ => false
  | _, .nan => false
  | .inf a, .inf b => a && !b
  | .inf a, .num _ _ _ => a
  | .num _ _ _, .inf b => !b
  | .num a m e, .num b n g =>
    let lo := min e g
    decide ((if a then -1 else 1) * ((m * 2 ^ (e - lo).toNat : Nat) : Int)
      < (if b then -1 else 1) * ((n * 2 ^ (g - lo).toNat : Nat) : Int))

/-- IEEE 754 equality: false for a NaN. -/
def Val.eq (a b : Val) : Bool := !a.isNan && !b.isNan && !a.lt b && !b.lt a

/-- The exact minimum; of two zeros -0; a NaN gives NaN (R91). -/
def Val.min (a b : Val) : Val :=
  if a.isNan || b.isNan then .nan
  else if a.lt b then a else if b.lt a then b
  else if a.isNeg then a else b

/-- The exact maximum; of two zeros +0; a NaN gives NaN (R91). -/
def Val.max (a b : Val) : Val :=
  if a.isNan || b.isNan then .nan
  else if a.lt b then b else if b.lt a then a
  else if a.isNeg then b else a

/-- W40 and FP32 registers as values, and their roundings to nearest even (R87, R92). -/
def w40Val (w : W40) : Val := decodeBits fmtW40 w.toNat
def f32Val (w : F32) : Val := decodeBits fmtFP32 w.toNat
def rne40 (v : Val) : W40 := BitVec.ofNat 40 (encodeVal fmtW40 .nearest v)
def rne32 (v : Val) : F32 := BitVec.ofNat 32 (encodeVal fmtFP32 .nearest v)

/-- An FP32 value in W40, exactly: its bits shifted left by 8 (R76); a NaN is canonical (R75). -/
def f32ToW40 (w : F32) : W40 := rne40 (f32Val w)

/-- RNE40(a + b) (R87, R93). -/
def add40 (a b : W40) : W40 := rne40 ((w40Val a).add (w40Val b))

/-- FP32 addition, subtraction, multiplication and fused multiply-add, each rounded once (R92). -/
def add32 (a b : F32) : F32 := rne32 ((f32Val a).add (f32Val b))
def sub32 (a b : F32) : F32 := rne32 ((f32Val a).add (f32Val b).neg)
def mul32 (a b : F32) : F32 := rne32 ((f32Val a).mul (f32Val b))
def fma32 (a b c : F32) : F32 := rne32 (((f32Val a).mul (f32Val b)).add (f32Val c))
def neg32 (a : F32) : F32 := a ^^^ 0x80000000#32
def max32 (a b : F32) : F32 := rne32 ((f32Val a).max (f32Val b))

/-- An FP32 value truncated toward zero to an integer in [lo, hi]; a NaN gives `onNan` (R161, R165, R190). -/
def truncClamp (lo hi onNan : Int) (w : F32) : Int :=
  match f32Val w with
  | .nan => onNan
  | .inf n => if n then lo else hi
  | .num n m e =>
    let mag : Int := (scaleNat m e).1
    max lo (min hi (if n then -mag else mag))

/-- An unsigned integer as FP32, to nearest even (R166). -/
def f32OfNat (n : Nat) : F32 := rne32 (.num false n 0)

/-- ⌊√x⌋ by bits, from 2^i down. -/
def isqrtLoop (x : Nat) : Nat → Nat → Nat
  | 0, r => if (r + 1) * (r + 1) ≤ x then r + 1 else r
  | i + 1, r => isqrtLoop x i (if (r + 2 ^ (i + 1)) * (r + 2 ^ (i + 1)) ≤ x then r + 2 ^ (i + 1) else r)

/-- A positive real with ⌊value × 2^k⌋ = q, known to lie strictly above q × 2^-k when `more`, as a value
that rounds to FP32 as the real does (q has more than 26 bits). -/
def stickyVal (q : Nat) (more : Bool) (k : Int) : Val := .num false (2 * q + more.toNat) (-k - 1)

/-- rsqrt (R189): the FP32 value nearest to 1/√x. -/
def rsqrt32 (w : F32) : F32 :=
  match f32Val w with
  | .nan => 0x7FC00000#32
  | .inf n => if n then 0x7FC00000#32 else 0#32
  | .num n m e =>
    if m = 0 then 0x7F800000#32
    else if n then 0x7FC00000#32
    else
      -- 1/√(m 2^e) = √(2^-e / m); with an even shift 2j: ⌊√(2^(2j - e) / m)⌋ has over 40 bits
      let j : Int := 60 + (magLog2 m e + 400) / 2 - 200
      let num := 2 ^ (2 * j - e).toNat
      let q := isqrtLoop (num / m) 130 0
      rne32 (stickyVal q (decide (q * q * m ≠ num)) j)

/-- rcp (R189): the FP32 value nearest to 1/x. -/
def rcp32 (w : F32) : F32 :=
  match f32Val w with
  | .nan => 0x7FC00000#32
  | .inf n => if n then 0x80000000#32 else 0#32
  | .num n m e =>
    if m = 0 then (if n then 0xFF800000#32 else 0x7F800000#32)
    else
      let k := floorLog2 m + 60
      let q := 2 ^ k / m
      match stickyVal q (decide (2 ^ k % m ≠ 0)) ((k : Int) + e) with
      | .num _ a b => rne32 (.num n a b)
      | v => rne32 v

/-- Fraction bits of the fixed-point arithmetic inside exp32 (log 15). -/
def expBits : Nat := 320

/-- ln 2 in units of 2^-expBits: Σ 1 / (k 2^k). -/
def ln2Loop : Nat → Nat
  | 0 => 0
  | k + 1 => ln2Loop k + 2 ^ (expBits + 20) / ((k + 1) * 2 ^ (k + 1))
def ln2Fixed : Nat := ln2Loop 340 / 2 ^ 20

/-- Σ rⁱ / i! from term i on, in units of 2^-expBits. -/
def expLoop (r : Nat) : Nat → Nat → Nat → Nat
  | 0, _, _ => 0
  | fuel + 1, i, term => term + expLoop r fuel (i + 1) (term * r / 2 ^ expBits / (i + 1))

/-- exp (R189): the FP32 value nearest to the exponential. -/
def exp32 (w : F32) : F32 :=
  match f32Val w with
  | .nan => 0x7FC00000#32
  | .inf n => if n then 0#32 else 0x7F800000#32
  | .num n m e =>
    if m = 0 then 0x3F800000#32
    else if 7 ≤ magLog2 m e then (if n then 0#32 else 0x7F800000#32)
    else
      let x : Int := (if n then -1 else 1) * ((scaleNat m (e + expBits)).1 : Int)
      let k := x / (ln2Fixed : Int)
      let r := (x - k * ln2Fixed).toNat
      rne32 (stickyVal (expLoop r 120 0 (2 ^ expBits)) true ((expBits : Int) - k))

end Sys2Proof.Machine
end

