-- ==== Sys2Proof/Machine/Operands.lean ====
section
/-! DEFINITION. The operand forms: fields of layer descriptors, waits, signals, stream references and control descriptors (R142, R146, R147, R155), form records (R135), charts (R103, R104). -/

namespace Sys2Proof.Machine

/-! ## Layer descriptors (R142) -/

def Desc.op (d : Desc) : Nat := fldN d 0 8
def Desc.func (d : Desc) : Nat := fldN d 8 8
def Desc.slot (d : Desc) : Nat := fldN d 16 2
def Desc.init (d : Desc) : Nat := fldN d 18 2
def Desc.chain (d : Desc) : Bool := bit d 20
def Desc.freeze (d : Desc) : Bool := bit d 21
def Desc.drains (d : Desc) : Bool := bit d 22
def Desc.slotInd (d : Desc) : Bool := bit d 23
/-- L of R55. -/
def Desc.ramp (d : Desc) : Nat := if fldN d 24 5 = 0 then 32 else 4 * fldN d 24 5
def Desc.steps (d : Desc) : Nat := fldN d 32 24
/-- P of R88. -/
def Desc.promo (d : Desc) : Nat := if fldN d 56 8 = 0 then 16 else fldN d 56 8
def Desc.pass (d : Desc) : Nat := fldN d 64 16
def Desc.fmtA (d : Desc) : Nat := fldN d 80 4
def Desc.fmtB (d : Desc) : Nat := fldN d 84 4
def Desc.wsclA (d : Desc) : Bool := bit d 88
def Desc.wsclB (d : Desc) : Bool := bit d 89
def Desc.rank (d : Desc) : Nat := 2 ^ fldN d 90 2
def Desc.in0 (d : Desc) : Nat := fldN d 96 8
def Desc.in1 (d : Desc) : Nat := fldN d 104 8
def Desc.in2 (d : Desc) : Nat := fldN d 112 8
def Desc.out0 (d : Desc) : Nat := fldN d 120 8
def Desc.out1 (d : Desc) : Nat := fldN d 128 8
def Desc.fwd0 (d : Desc) : Nat := fldN d 136 8
def Desc.fwd1 (d : Desc) : Nat := fldN d 144 8
def Desc.ofmt (d : Desc) : Nat := fldN d 160 4
def Desc.ornd (d : Desc) : Bool := bit d 164
def Desc.statSm (d : Desc) : Bool := bit d 165
def Desc.statY (d : Desc) : Bool := bit d 166
def Desc.oscale (d : Desc) : Nat := fldN d 168 8
def Desc.smbase (d : Desc) : Nat := fldN d 176 11
/-- SSEL0-SSEL3. -/
def Desc.ssel (d : Desc) (i : Nat) : Nat := fldN d (192 + 4 * i) 4
def Desc.wait (d : Desc) (i : Nat) : BitVec 64 := fld d (256 + 64 * i) 64
def Desc.sig (d : Desc) (i : Nat) : BitVec 64 := fld d (384 + 64 * i) 64
def Desc.bankMap (d : Desc) : BitVec 160 := fld d 512 160
def Desc.sref (d : Desc) (i : Nat) : BitVec 128 := fld d (1024 + 128 * i) 128

/-- A queue-end field that names a queue (R145). -/
def named (q : Nat) : Bool := decide (q < 20)

/-- The producer end of an output field: a push to an X queue waits at the producer end of its mesh route
(R47, R48; log 16). -/
def outEnd (q : Nat) : Nat := if 8 ≤ q ∧ q < 12 then q + 12 else q

/-! ## Waits and signals (R146) -/

def sigTally (w : BitVec 64) : BitVec 14 := fld w 0 14
def sigEn (w : BitVec 64) : Bool := bit w 14
def sigForm (w : BitVec 64) : Bool := bit w 15
def sigValue (w : BitVec 64) : Nat := fldN w 16 20
def waitLoop (w : BitVec 64) : Nat := fldN w 36 3
def waitInc (w : BitVec 64) : Nat := fldN w 40 20

/-- The effective threshold of a wait (R152); `iters` holds the iteration numbers, innermost first. -/
def threshold (iters : List Nat) (w : BitVec 64) : Nat :=
  sigValue w + waitInc w * (if waitLoop w = 0 then 0 else iters.getD (waitLoop w - 1) 0)

/-- R152: a wait is met. A wait that is not enabled is no wait. -/
def State.waitMet (s : State) (p : Nat) (iters : List Nat) (w : BitVec 64) : Bool :=
  !sigEn w || (s.ownsTally p (sigTally w) && decide (threshold iters w ≤ (s.tally (sigTally w)).toNat))

/-! ## Stream references (R147) -/

def srefChart (r : BitVec 128) : Nat := fldN r 0 24
def srefSlot (r : BitVec 128) : Nat := fldN r 24 4
def srefEn (r : BitVec 128) : Bool := bit r 28
def srefLoop (r : BitVec 128) : Nat := fldN r 29 3
/-- BASE + 32 × (n × CSTRIDE + i × ISTRIDE). -/
def srefBase (r : BitVec 128) (n : Nat) (iters : List Nat) : Int :=
  let i : Nat := if srefLoop r = 0 then 0 else iters.getD (srefLoop r - 1) 0
  fldN r 32 40 + 32 * ((n : Int) * fldZ r 72 28 + (i : Int) * fldZ r 100 28)

/-- The enabled stream references of a descriptor. -/
def Desc.srefs (d : Desc) : List (BitVec 128) := ((List.range 8).map d.sref).filter srefEn

/-! ## Control descriptors (R155) -/

def CDesc.op (d : CDesc) : Nat := fldN d 0 8
def loopCreg (d : CDesc) : Nat := fldN d 16 3
def loopCsrc (d : CDesc) : Bool := bit d 19
def loopCount (d : CDesc) : Nat := fldN d 20 24
def loopLimit (d : CDesc) : Nat := fldN d 44 24
def loopBodyEnd (d : CDesc) : Nat := fldN d 96 32
/-- WAIT and SIG of LOOP and JOIN. -/
def cWait (d : CDesc) : BitVec 64 := fld d 128 64
def cSig (d : CDesc) : BitVec 64 := fld d 192 64
def brSreg (d : CDesc) : Nat := fldN d 16 4
def brCmp (d : CDesc) : Nat := fldN d 20 4
def brSrc (d : CDesc) : Bool := bit d 24
def brSreg2 (d : CDesc) : Nat := fldN d 28 4
def brImm (d : CDesc) : F32 := fld d 32 32
def brTarget (d : CDesc) : Nat := fldN d 64 32
def setcSrc (d : CDesc) : Bool := bit d 19
def setcSreg (d : CDesc) : Nat := fldN d 20 4
def setcImm (d : CDesc) : BitVec 24 := fld d 24 24
def featWord (d : CDesc) : Nat := fldN d 16 8
def featSreg (d : CDesc) : Nat := fldN d 24 4

/-! ## Form records (R135) -/

def FormRec.num (r : FormRec) : Nat := fldN r 0 5
def FormRec.valid (r : FormRec) : Bool := bit r 5
def FormRec.benches (r : FormRec) : BitVec 96 := fld r 16 96
def FormRec.chain (r : FormRec) : Nat := fldN r 128 40
def FormRec.cinit (r : FormRec) (m : Nat) : BitVec 24 := fld r (192 + 24 * m) 24

/-- The flat bench indices of a form, rising. -/
def FormRec.benchList (r : FormRec) : List Nat := (List.range 96).filter fun b => bit r.benches b

/-- The cells of a form in form cell number order (R134). -/
def FormRec.cellList (r : FormRec) : List Nat :=
  r.benchList.flatMap fun b => (List.range 16).map fun i => 16 * b + i

/-- The forms of a partition's image. -/
def Partition.forms (P : Partition) : List FormRec := P.image.forms.filter FormRec.valid

/-- The form record of a cell's form in its die's partition. -/
def State.formOf (s : State) (c : Nat) : Option FormRec :=
  match s.partOf (dieOf c) with
  | some p => (s.part p).forms.find? fun r => bit r.benches (benchOf c)
  | none => none

/-- The partitions and records of a form number, by rising partition. The manual lets no two forms of one image have one
number, and says nothing of two partitions: an event of the form is then that of the lowest partition in which it can
happen (DESIGN CHOICE, log 141). -/
def State.formsNumbered (s : State) (f : Nat) : List (Nat × FormRec) :=
  (List.range 4).flatMap fun p => ((s.part p).forms.filter fun r => decide (r.num = f)).map fun r => (p, r)

/-- The form cell number of a cell (R134). -/
def FormRec.cellNum (r : FormRec) (c : Nat) : Nat := 16 * (r.benchList.idxOf (benchOf c)) + seatOf c

/-- The cells of a partition's forms. -/
def Partition.formCells (P : Partition) : List Nat := P.forms.flatMap FormRec.cellList

/-- The partition of a cell's die; 0 for a die of none. -/
def State.cellPart (s : State) (c : Nat) : Nat := (s.partOf (dieOf c)).getD 0

/-! ## The timetable (R333) -/

abbrev TtRec := BitVec 2176

def ttType (t : TtRec) : Nat := fldN t 0 4

/-- RTYPE 0, 3 and 4: the links of mesh routes, whose rotas do not pass by themselves (R178, R333). -/
def ttDeclared (t : TtRec) : Bool := ttType t == 0 || ttType t == 3 || ttType t == 4
def ttNown (t : TtRec) : Nat := fldN t 8 8
def ttRes (t : TtRec) : Nat := fldN t 16 16
def ttDie (t : TtRec) : Nat := fldN t 32 2
def ttOwner (t : TtRec) (k : Nat) : Nat := fldN t (128 + 64 * k) 16
def ttCount (t : TtRec) (k : Nat) : Nat := fldN t (144 + 64 * k) 24
/-- The owners in turn order. -/
def ttOwners (t : TtRec) : List Nat := (List.range (min (ttNown t) 32)).map (ttOwner t)

/-! ## Charts (R103-R105) -/

abbrev ChartHdr := BitVec 256

def chSpace (h : ChartHdr) : Nat := fldN h 0 2
def chWrite (h : ChartHdr) : Bool := bit h 2
def chPersist (h : ChartHdr) : Bool := bit h 3
def chPolicy (h : ChartHdr) : BitVec 2 := fld h 4 2
def chQueue (h : ChartHdr) : Nat := fldN h 8 4
def chNinstr (h : ChartHdr) : Nat := fldN h 12 4 + 1
def chRrec (h : ChartHdr) : Nat := fldN h 72 8
def chExtent (h : ChartHdr) : Nat := fldN h 96 32
def chEntries (h : ChartHdr) : Nat := fldN h 128 24

/-- An instruction of a chart (R104). -/
inductive ChartInstr where
  | level (l count : Nat) (stride : Int)
  | index (l width ibase : Nat)
  | emit (size : Nat) (disp : Int)
  | pad (size : Nat)
  | close
  | reserved
  deriving DecidableEq, Repr

def chartInstr (w : BitVec 64) : ChartInstr :=
  match fldN w 60 4 with
  | 1 => .level (fldN w 57 3) (fldN w 32 24) (fldZ w 0 32)
  | 2 => .index (fldN w 57 3) (if bit w 56 then 4 else 2) (fldN w 32 21)
  | 3 => .emit (fldN w 48 8) (fldZ w 0 32)
  | 4 => .pad (fldN w 48 8)
  | 5 => .close
  | _ => .reserved

/-- A chart's declarations and body (R105): COUNT and STRIDE by level, the index-driven level, and EMIT,
PAD and CLOSE in program order. -/
structure Walk where
  counts  : List Nat
  strides : List Int
  index   : Option (Nat × Nat × Nat)
  body    : List ChartInstr
  deriving DecidableEq, Repr

def walkOf (is : List (BitVec 64)) : Walk :=
  let xs := is.map chartInstr
  let lev (l : Nat) : Option (Nat × Int) := xs.findSome? fun
    | .level m c st => if m = l then some (c, st) else none
    | _ => none
  let n := ((List.range 5).takeWhile fun l => (lev l).isSome).length
  { counts := (List.range n).map fun l => ((lev l).map Prod.fst).getD 0
    strides := (List.range n).map fun l => ((lev l).map Prod.snd).getD 0
    index := xs.findSome? fun
      | .index l w b => some (l, w, b)
      | _ => none
    body := xs.filter fun
      | .emit _ _ | .pad _ | .close => true
      | _ => false }

/-- Iterations of a walk: the product of its COUNTs. -/
def Walk.iters (w : Walk) : Nat := w.counts.foldl (· * ·) 1

/-- The iteration numbers of combination `k`, innermost level fastest (R106). -/
def digits : List Nat → Nat → List Nat
  | [], _ => []
  | c :: cs, k => (k % c) :: digits cs (k / c)

/-- The index position of combination `k`: the number of the combination of levels l and above (R106). -/
def Walk.indexPos (w : Walk) (l k : Nat) : Nat := k / (w.counts.take l).foldl (· * ·) 1

/-- The grants that allow a chart do so at load (R102); a chart's window check for one EMIT (R106). -/
def inWindow (base : Int) (extent : Nat) (a : Int) (size : Nat) : Bool :=
  decide (base ≤ a) && decide (a + size ≤ base + 32 * extent)

end Sys2Proof.Machine
end

