-- ==== Sys2Proof/Machine/Benches.lean ====
section
/-! DEFINITION. Bench domains: Recess and Active (R35, R390-R393). -/

namespace Sys2Proof.Machine

/-- A bench by its flat number (R407). -/
def State.bench (s : State) (k : Nat) : Bench := look {} (s.die (k / 24)).benches (k % 24)

def State.modBench (s : State) (k : Nat) (f : Bench → Bench) : State :=
  s.modDie (k / 24) fun D => { D with benches := alter {} D.benches (k % 24) f }

/-- The partition with a form that holds a bench (R35). -/
def State.benchForm (s : State) (k : Nat) : Option Nat :=
  (List.range 4).find? fun p => (s.part p).forms.any fun r => bit r.benches k

/-- The core rail goes to a new setting (R390, R392): write assist is on before the rail is below 0.65 V, and goes off only
once the rail is above 0.65 V. -/
def Bench.rail (n : Nat) (b : Bench) : Bench :=
  { b with writeAssist := decide (n < 650) || (b.writeAssist && decide (n = 650)), mv := n }

/-- A bench domain enters a state; retention assist is on in Recess alone (R392). -/
def Bench.enter (m : BenchMode) (b : Bench) : Bench := { b with mode := m, retentionAssist := decide (m = .recess) }

/-- Recess: the core rail at 0.55 V (R391). -/
def Bench.toRecess (b : Bench) : Bench := (b.rail 550).enter .recess

/-- Back to Active from Recess (R393): the rail starts from 0.55 V, and the governor raises it (R399). -/
def Bench.toActive (b : Bench) : Bench := if b.mode = .recess then (b.rail 550).enter .active else b

/-- The flat benches of a partition's dies. -/
def Partition.benchList (P : Partition) : List Nat :=
  P.dieList.flatMap fun d => (List.range 24).map fun b => 24 * d + b

/-- R393: when a LOAD or UNLOAD completes, benches in no form enter Recess, and benches that the LOAD put in a
form leave it. -/
def State.settleBenches (s : State) (p : Nat) : State :=
  (s.part p).benchList.foldl (fun t k =>
    t.modBench k (if (t.benchForm k).isSome then Bench.toActive else Bench.toRecess)) s

end Sys2Proof.Machine
end

