-- ==== Sys2Proof/Machine/Links.lean ====
section
/-! DEFINITION. Flits, retry, credits and link states (R230-R235, R249-R254). -/

namespace Sys2Proof.Machine

/-! ## Flits (R233, R234) -/

def flitSeq (f : Flit) : BitVec 12 := fld f 0 12
def flitType (f : Flit) : Nat := fldN f 12 2
def flitVc (f : Flit) : Nat := fldN f 14 3
def flitSop (f : Flit) : Bool := bit f 17
def flitEop (f : Flit) : Bool := bit f 18
def flitClass (f : Flit) : Bool := bit f 19

/-- The flit with its CRC-32C over bytes 0-251 in bytes 252-255. -/
def sealFlit (f : Flit) : Flit :=
  let body := f % (1#2048 <<< 2016)
  body ||| at' 2048 2016 32 (crc32c (bytesOfBv 252 body)).toNat

def flitCrcOk (f : Flit) : Bool := decide (sealFlit f = f)

/-- Whether a flit's reserved values are zero: TYPE 3, header bits [31:20], the channel a unit may carry,
CLASS on a quad (R233), and for a control flit the bytes R234 leaves zero. -/
def flitFormOk (u : Nat) (f : Flit) : Bool :=
  decide (flitType f ≠ 3) && decide (fldN f 20 12 = 0) && (decide (u = 8) || !flitClass f) &&
  (match flitType f with
   | 0 => (if u = 8 then decide (flitVc f = 0) else decide (flitVc f ≠ 0))
   | 2 => decide (fldN f 45 3 = 0) && (if u = 8 then decide (fldN f 80 1936 = 0) else decide (fldN f 160 1856 = 0))
   | _ => true)

/-- The channel of a data flit as the unit's credits count it: VC on a quad, the escape class on the
escape group. -/
def flitChan (u : Nat) (f : Flit) : Nat := if u = 8 then (flitClass f).toNat else flitVc f

/-- The buffer of a receiving unit for one channel, in flits (R251). -/
def unitBuffer (u : Nat) : Nat := if u = 8 then 64 else 32

/-- The flits a packet fills (R236). -/
def flitCount (p : Packet) : Nat := (32 + p.payload.length + 247) / 248

/-- The data flits of a packet on a channel, still without SEQ and CRC (R236). -/
def packetFlits (u chan : Nat) (p : Packet) : List Flit :=
  let cs := chunksOf 248 (flitCount p) (bytesOfBv 32 p.hdr ++ p.payload)
  cs.zipIdx.map fun e =>
    at' 2048 14 3 (if u = 8 then 0 else chan) ||| bitAt 2048 17 (e.2 == 0) |||
    bitAt 2048 18 (e.2 + 1 == cs.length) ||| bitAt 2048 19 (u == 8 && chan == 1) |||
    (bvOfBytes 2048 e.1 <<< 32)

/-- The packet that received payload bytes hold. -/
def packetOf (bs : List Byte) : Packet :=
  let h := bvOfBytes 256 (bs.take 32)
  ⟨h, (bs.drop 32).take (fldN h 64 13)⟩

/-! ## Codewords (R231) -/

/-- The 10,280 data bits of a pair of codewords: five flits, then the pair marker (log 152). -/
def pairBits (u : Nat) (flits : List Flit) : BitVec 10280 :=
  (List.range 5).foldl (fun v i => v ||| at' 10280 (2048 * i) 2048 (flits.getD i 0).toNat)
    (at' 10280 10240 40 (Config.pairMarker u).toNat)

/-- A codeword of a pair: 514 data symbols, then its parity (log 152). -/
def codeword (bits : BitVec 10280) (k : Nat) : List (BitVec 10) :=
  let data := (List.range 514).map fun i => fld bits (5140 * k + 10 * i) 10
  data ++ Config.rsParity data

/-- The symbols of a unit's four lanes: symbol s of each codeword travels on lane s mod 4. -/
def laneSymbols (u : Nat) (flits : List Flit) : List (List (BitVec 10)) :=
  (List.range 4).map fun l => (List.range 2).flatMap fun k =>
    ((codeword (pairBits u flits) k).zipIdx.filter fun e => decide (e.2 % 4 = l)).map Prod.fst

/-! ## Units -/

/-- A unit sends and receives: its port is Up, it is in service and does not retrain (R252, R253). -/
def State.unitLive (s : State) (i u : Nat) : Bool :=
  decide ((s.port i).state = .up) && (s.unit i u).inService && !(s.unit i u).retrain

/-- Take a data flit in order: the next SEQ, and its payload to the packet under assembly, which is whole
at EOP (R236, R249). -/
def LinkUnit.takeData (u : Nat) (f : Flit) (x : LinkUnit) : LinkUnit :=
  let ch := flitChan u f
  let bs := (if flitSop f then [] else look [] x.rx ch) ++ (bytesOfBv 252 (f % (1#2048 <<< 2016))).drop 4
  let y := { x with rxSeq := x.rxSeq + 1, nak := false }
  if flitEop f then
    { y with rx := put [] x.rx ch [], inq := x.inq ++ [{ pkt := packetOf bs, cls := flitClass f }] }
  else { y with rx := put [] x.rx ch bs }

/-- What FEC decoding found is counted (R250, R254). -/
def State.countFec (s : State) (port u : Nat) (fec : Fec) : State :=
  if fec = {} then s
  else ((s.countFabric port u 64 32 fec.corrected).countFabric port u 96 16 fec.uncorrectable).modUnit port u fun x =>
    { x with badWords := x.badWords + fec.uncorrectable }

/-- A flit on a live unit, after FEC decoding: one whose CRC fails or that holds a reserved value, TYPE 3 among them, is
discarded and counted, with a NAK in the next control flit unless it came as a control flit (R234, R249). -/
def State.takeFlit (s : State) (port u type : Nat) (flit : Flit) (fec : Fec) (f : State → State) : State :=
  if s.unitLive port u = false then s
  else
    let t := s.countFec port u fec
    if !flitCrcOk flit || !flitFormOk u flit then
      let t1 := t.countFabric port u 112 16 1
      if type = 2 then t1 else t1.modUnit port u fun x => { x with nak := true }
    else if flitType flit ≠ type then s
    else f t

/-- DATA_FLIT (R249): checked by CRC and SEQ, then taken, or discarded with a NAK in the next control flit. -/
def execDataFlit (port : PortIx) (u : UnitIx) (rx : RxFlit) (s : State) : Res :=
  .next <| s.takeFlit port u 0 rx.flit rx.fec fun s =>
    if flitSeq rx.flit ≠ (s.unit port u).rxSeq then s.modUnit port u fun x => { x with nak := true }
    else (s.countFabric port u 32 32 1).modUnit port u (LinkUnit.takeData u rx.flit)

/-- IDLE_FLIT (R233, R249): it carries the next data SEQ; another SEQ shows that a data flit was lost. -/
def execIdleFlit (port : PortIx) (u : UnitIx) (rx : RxFlit) (s : State) : Res :=
  .next <| s.takeFlit port u 1 rx.flit rx.fec fun s =>
    if flitSeq rx.flit ≠ (s.unit port u).rxSeq then s.modUnit port u fun x => { x with nak := true } else s

/-- The replay buffer after an acknowledgement: flits through ACK leave it (R250). -/
def ackReplay (ack : BitVec 12) (l : List SentFlit) : List SentFlit :=
  match l.findIdx? fun e => decide (flitSeq e.flit = ack) with
  | some i => l.drop (i + 1)
  | none => l

/-- The credit count of a channel in a control flit (R234). -/
def creditOf (u : Nat) (f : Flit) (ch : Nat) : Nat :=
  fldN f (8 * 6 + 16 * (if u = 8 then ch else ch - 1)) 16

/-- The channels of a unit (R235). -/
def unitChans (u : Nat) : List Nat := if u = 8 then [0, 1] else [1, 2, 3, 4, 5, 6, 7]

/-- CONTROL_FLIT (R234, R250): acknowledged flits leave the replay buffer, credits return, and a NAK
resends the flits after ACK in order. One whose CRC fails is ignored. -/
def execControlFlit (port : PortIx) (u : UnitIx) (rx : RxFlit) (s : State) : Res :=
  .next <| s.takeFlit port u 2 rx.flit rx.fec fun s =>
    let nak := bit rx.flit 44
    let ack : BitVec 12 := fld rx.flit 32 12
    let s1 := if nak then s.countFabric port u 128 16 1 else s
    s1.modUnit port u fun x =>
      let left := ackReplay ack x.replay
      let used := (unitChans u).foldl (fun m ch => alter 0 m ch fun n => n - creditOf u rx.flit ch) x.used
      let y := { x with used := used, nak := x.nak || decide (flitSeq rx.flit ≠ x.rxSeq) }
      { y with
        replay := left
        resend := if nak then left.map SentFlit.flit else x.resend.filter fun f => left.any fun e => decide (e.flit = f) }

/-- An idle or control flit's header (R233). -/
def plainFlit (type : Nat) (seq : BitVec 12) : Flit := at' 2048 0 12 seq.toNat ||| at' 2048 12 2 type

/-- The control flit a receiver sends (R234). Where its last one failed (R249), it tells of that one's credits again. -/
def controlFlitOf (u : Nat) (x : LinkUnit) : Flit :=
  let cs := (unitChans u).zipIdx.map fun e => at' 2048 (48 + 16 * e.2) 16 (look 0 x.freed e.1)
  sealFlit (cs.foldl (· ||| ·)
    (plainFlit 2 x.txSeq ||| at' 2048 32 12 (x.rxSeq - 1).toNat ||| bitAt 2048 44 x.nak))

/-- The channel that takes the next data slot: the first, from the one whose turn it is, that has a flit ready (R235). -/
def nextChan (u : Nat) (x : LinkUnit) : Option Nat :=
  let cs := unitChans u
  ((cs.filter fun c => decide (x.rota ≤ c)) ++ cs).find? fun c => x.txq.any fun f => decide (flitChan u f = c)

/-- The first element that meets a test, and the list without it. -/
def takeFirst {α : Type} (f : α → Bool) : List α → Option (α × List α)
  | [] => none
  | a :: l => if f a then some (a, l) else (takeFirst f l).map fun r => (r.1, a :: r.2)

/-- The credits of the last control flit are told of again, since it failed at its receiver (R249). -/
def LinkUnit.retell (u : Nat) (x : LinkUnit) : LinkUnit :=
  { x with freed := (unitChans u).foldl (fun m ch => alter 0 m ch fun n => n + look 0 x.told ch) x.freed, told := [] }

/-- What a unit's next flit slot carries, and the unit after it: every 32nd slot a control flit, otherwise
a flit under resending, a new data flit while the replay buffer has room, or an idle flit (R231, R235,
R250). The Bool says that a data flit was sent. -/
def LinkUnit.nextSlot (u : Nat) (x : LinkUnit) : Flit × Bool × LinkUnit :=
  if x.slot = 31 then (controlFlitOf u x, false, { x with slot := 0, nak := false, freed := [], told := x.freed })
  else
    let y := { x with slot := x.slot + 1 }
    match x.resend with
    | f :: r => (f, true, { y with
        resend := r
        replay := y.replay.map fun e => if e.flit = f then { e with replays := e.replays + 1 } else e })
    | [] =>
      let idle := (sealFlit (plainFlit 1 x.txSeq), false, y)
      if 512 ≤ x.replay.length then idle
      else
        match nextChan u x with
        | none => idle
        | some c =>
          match takeFirst (fun f => decide (flitChan u f = c)) x.txq with
          | none => idle
          | some (f, rest) =>
            let g := sealFlit (f ||| at' 2048 0 12 x.txSeq.toNat)
            (g, true, { y with rota := c + 1, txq := rest, txSeq := x.txSeq + 1, replay := x.replay ++ [⟨g, 0⟩] })

/-- FLIT_SLOT (R231, R235): the unit's next slot; every fifth completes a pair of codewords. `lost` says that the unit's last
control flit failed at its receiver: R249 has the next carry its credits again, and gives no sign by which the sender knows
(log 134). -/
def execFlitSlot (port : PortIx) (w : UnitSlot) (s : State) : Res :=
  if s.unitLive port w.u = false then .next s
  else
    let x := s.unit port w.u
    let r := (if w.lost then x.retell w.u else x).nextSlot w.u
    let flits := r.2.2.pair ++ [r.1]
    let whole := decide (5 ≤ flits.length)
    let s1 := (s.modUnit port w.u fun _ => { r.2.2 with pair := if whole then [] else flits }).emit (.flit port w.u r.1)
    let s2 := if whole then s1.emit (.codewords port w.u (laneSymbols w.u flits)) else s1
    .next (if r.2.1 then s2.countFabric port w.u 0 32 1 else s2)

/-! ## Link states (R252, R253) -/

/-- The neighbour that R238 gives for a port. -/
def Fabric.neighbour (f : Fabric) (port : Nat) : Nat × Nat :=
  match port with
  | 0 => ((f.ownX + f.sizeX - 1) % f.sizeX, f.ownY)
  | 1 => (f.ownX, (f.ownY + 1) % f.sizeY)
  | 2 => ((f.ownX + 1) % f.sizeX, f.ownY)
  | _ => (f.ownX, (f.ownY + f.sizeY - 1) % f.sizeY)

/-- An event record about a port: its die's unit and partition (R23, R284). -/
def State.portEvent (s : State) (reason : BitVec 16) (port : Nat) (loc detail : Nat) : ErrEvent :=
  { reason := reason, unit := dieUnit port, part := partIx ((s.partOf port).getD 0),
    loc := BitVec.ofNat 32 loc, detail := BitVec.ofNat 64 detail }

/-- DETAIL of a port's records: the neighbour's physical x [5:0] and y [11:6] (R284). -/
def State.neighbourDetail (s : State) (port : Nat) : Nat :=
  (s.fabric.neighbour port).1 + (s.fabric.neighbour port).2 * 64

/-- A port goes Down (R252, R253): its flits are lost, and a link-loss error is reported. -/
def State.portDown (s : State) (port : Nat) : State :=
  ((s.modPort port fun _ => { state := .down }).assertShared 42).detect 0x3001 (dieUnit port)
    ((s.partOf port).getD 0) port (s.neighbourDetail port)

/-- A port's state changes (shared source 42, R378). -/
def State.portTo (s : State) (port : Nat) (x : PortState) : State :=
  (s.modPort port fun p => { p with state := x }).assertShared 42

/-- A unit enters retraining; the escape group's retraining sends the port Down (R253). -/
def State.retrainUnit (s : State) (port u : Nat) : State :=
  let s1 := s.countFabric port u 144 16 1
  if u = 8 then s1.portDown port else s1.modUnit port u fun x => { x with retrain := true }

/-- REPLAY_LIMIT (R250): a flit replayed eight times, or more than 16 uncorrectable codewords, which `fec` says came within
1 ms, sends the unit to retraining. -/
def execReplayLimit (port : PortIx) (u : UnitIx) (fec : Bool) (s : State) : Res :=
  let x := s.unit port u
  if s.unitLive port u && ((fec && decide (16 < x.badWords)) || x.replay.any fun e => decide (8 ≤ e.replays)) then
    .next (s.retrainUnit port u)
  else .next s

/-- LANE_SIGNAL_LOSS (R253): lane 4 q + i is of quad q, lanes 32-35 of the escape group (R230). -/
def execLaneSignalLoss (port : PortIx) (lane : Fin 36) (s : State) : Res :=
  if s.unitLive port (lane.val / 4) then .next (s.retrainUnit port (lane.val / 4)) else .next s

/-- RETRAIN_COMPLETE (R253): the unit returns and resends its replay buffer, or goes out of service, which
notice 0x3003 reports. -/
def execRetrainComplete (port : PortIx) (u : UnitIx) (ok : Bool) (s : State) : Res :=
  if (s.port port).state ≠ .up ∨ (s.unit port u).retrain = false then .next s
  else if ok then
    .next (s.modUnit port u fun x => { x with retrain := false, badWords := 0, resend := x.replay.map SentFlit.flit })
  else
    .next ((s.modUnit port u fun x => { x with retrain := false, inService := false }).notice
      (s.portEvent 0x3003 port (port.val + u.val * 4) 0))

/-- DETECT_SIGNAL (R252): signal on the escape lanes and on every lane of the quads given, at least one. -/
def execDetectSignal (port : PortIx) (quads : BitVec 8) (s : State) : Res :=
  if (s.port port).state = .detect ∧ quads ≠ 0 then .next (s.portTo port .train) else .next s

/-- DETECT_TIMEOUT (R252). -/
def execDetectTimeout (port : PortIx) (s : State) : Res :=
  if (s.port port).state = .detect then .next (s.portDown port) else .next s

/-- The port that faces a port: West faces East, North faces South (R238). -/
def facing (port : Nat) : Nat := (port + 2) % 4

/-- TRAIN_COMPLETE (R252): the neighbour is the one R238 gives, or a wiring record (0x3002) and Down. -/
def execTrainComplete (port : PortIx) (nb : Neighbour) (s : State) : Res :=
  if (s.port port).state ≠ .train then .next s
  else
    let s1 := s.modPort port fun p => { p with nb := some nb }
    if (nb.x.toNat, nb.y.toNat) = s.fabric.neighbour port ∧ nb.port.val = facing port then
      .next (s1.portTo port .verify)
    else
      .next ((s1.notice (s.portEvent 0x3002 port port (nb.x.toNat + nb.y.toNat * 64))).portDown port)

/-- TRAIN_TIMEOUT (R252). -/
def execTrainTimeout (port : PortIx) (s : State) : Res :=
  if (s.port port).state = .train then .next (s.portDown port) else .next s

/-- VERIFY_COMPLETE (R252): `pass` has bit q for quad q and bit 8 for the escape group. The units that
pass are in service. -/
def execVerifyComplete (port : PortIx) (pass : BitVec 9) (s : State) : Res :=
  if (s.port port).state ≠ .verify then .next s
  else if bit pass 8 && decide (fldN pass 0 8 ≠ 0) then
    let s1 := (List.range 9).foldl (fun t u => t.modUnit port u fun _ => { inService := bit pass u }) s
    .next (s1.portTo port .up)
  else .next (s.portDown port)

end Sys2Proof.Machine
end

