-- ==== Sys2Proof/Machine/Targets.lean ====
section
/-! DEFINITION. Exam targets (R409, R412, R420, R422). -/

namespace Sys2Proof.Machine

/-- A target code of a type and index bits (R409). -/
def target (type ix : Nat) : Word := BitVec.ofNat 32 (type * 2 ^ 28 + ix)

def targetType (t : Word) : Nat := fldN t 28 4
def targetIx (t : Word) : Nat := fldN t 0 28

/-- A bench with a bank group; a weight-cache set group; a link unit; a pseudo-channel PHY; a regulator; a
sextant item; a hub part. -/
def benchTarget (bench group : Nat) : Word := target 0 (bench + 256 * group)
def wcTarget (die group : Nat) : Word := target 1 (die + 4 * group)
def unitTarget (port unit : Nat) : Word := target 2 (port + 4 * unit)
def phyTarget (stack pc : Nat) : Word := target 3 (stack + 16 * pc)
def regTarget (n : Nat) : Word := target 4 n
def sextantTarget (unit item : Nat) : Word := target 5 (unit + 256 * item)
def hubTarget (n : Nat) : Word := target 6 n

/-- The list that a die's privileged slices walk (R412): 131 entries. -/
def privList (d : Nat) : List Word :=
  ((List.range 8).map fun q => unitTarget d q) ++
  ((List.range 96).map fun n => phyTarget (3 * d + n / 32) (n % 32)) ++
  ((List.range 24).map fun b => regTarget (24 * d + b)) ++
  [regTarget (96 + d), regTarget (100 + d), regTarget (104 + d)]

/-- The list that the sextant and hub slice walks (R412): 19 entries. -/
def hubList : List Word :=
  ((List.range 15).map fun n => sextantTarget (n / 3) (n % 3)) ++ (List.range 4).map hubTarget

/-- The targets that a re-examination of a unit examines (R422). -/
def unitTargets (unit : Nat) : List Word :=
  if unit < 4 then
    ((List.range 192).map fun n => benchTarget (24 * unit + n / 8) (n % 8)) ++
    ((List.range 64).map fun g => wcTarget unit g) ++ privList unit ++ (List.range 3).map (sextantTarget unit)
  else (List.range 4).map hubTarget ++ (List.range 3).map (sextantTarget 4)

/-- The die of a target, as UNIT of R421: 4 for the hub's. -/
def targetUnit (t : Word) : Nat :=
  match targetType t with
  | 0 => fldN t 0 7 / 24
  | 1 => fldN t 0 2
  | 2 => fldN t 0 2
  | 3 => fldN t 0 4 / 3
  | 4 =>
    let n := fldN t 0 7
    if n < 96 then n / 24 else (n - 96) % 4
  | 5 => fldN t 0 3
  | _ => 4

/-- A target code of the table of R409, with no other bit set. -/
def isTarget (t : Word) : Bool :=
  match targetType t with
  | 0 => decide (fldN t 0 7 < 96) && decide (t = benchTarget (fldN t 0 7) (fldN t 8 3))
  | 1 => decide (t = wcTarget (fldN t 0 2) (fldN t 2 6))
  | 2 => decide (fldN t 2 4 < 9) && decide (t = unitTarget (fldN t 0 2) (fldN t 2 4))
  | 3 => decide (fldN t 0 4 < 12) && decide (t = phyTarget (fldN t 0 4) (fldN t 4 5))
  | 4 => decide (fldN t 0 7 < 108) && decide (t = regTarget (fldN t 0 7))
  | 5 => decide (fldN t 0 3 < 5) && decide (fldN t 8 2 < 3) && decide (t = sextantTarget (fldN t 0 3) (fldN t 8 2))
  | 6 => decide (t = hubTarget (fldN t 0 2))
  | _ => false

/-- A target of a type and result index, in index order (R409, R423): benches by group within the bench. -/
def typeTargets (type : Nat) : List Word :=
  match type with
  | 0 => (List.range 768).map fun n => benchTarget (n / 8) (n % 8)
  | 1 => (List.range 256).map fun n => wcTarget (n / 64) (n % 64)
  | 2 => (List.range 36).map fun n => unitTarget (n / 9) (n % 9)
  | 3 => (List.range 384).map fun n => phyTarget (n / 32) (n % 32)
  | 4 => (List.range 108).map regTarget
  | 5 => (List.range 15).map fun n => sextantTarget (n / 3) (n % 3)
  | 6 => (List.range 4).map hubTarget
  | _ => []

/-- An escape group, and whether it may be examined: its port is Off, Detect or Down (R420). -/
def isEscape (t : Word) : Bool := targetType t == 2 && fldN t 2 4 == 8
def State.escapeFree (s : State) (t : Word) : Bool :=
  match (s.port (fldN t 0 2)).state with
  | .off | .detect | .down => true
  | _ => false

/-- A slice holds a target (R413, R414, R419). -/
def State.examHolds (s : State) (t : Word) : Bool := s.hub.services.slices.any fun x => x.granted && decide (x.target = t)

/-- The targets of a full exam (R420, R422, R423). -/
def State.fullExam (s : State) : List Word :=
  ((List.range 7).flatMap typeTargets).filter fun t => !isEscape t || s.escapeFree t

/-- Slices added for targets, unless one for the same purpose is under way there. -/
def addSlices (ts : List Word) (f : Word → Slice) (l : List Slice) : List Slice :=
  l ++ (ts.filter fun t => l.all fun x => decide ¬(x.target = t ∧ x.cmd = (f t).cmd ∧ x.reexam = (f t).reexam)).map f

end Sys2Proof.Machine
end

