-- ==== Sys2Proof/Machine/Packets.lean ====
section
/-! DEFINITION. Packets through the device: quad ownership, routing, escape, multicast, delivery (R236-R248, R251, R302, R308). -/

namespace Sys2Proof.Machine

/-! ## Outputs (R241, R244) -/

/-- The productive outputs in one dimension of `n` devices, for distance `d`: `up` the rising port (R244). -/
def productive (n d up down : Nat) : List Nat :=
  if d = 0 then [] else if 2 * d < n then [up] else if n < 2 * d then [down] else [up, down]

/-- The productive outputs in x (East 2, West 0) and in y (North 1, South 3). -/
def Fabric.xOuts (f : Fabric) (h : BitVec 256) : List Nat :=
  productive f.sizeX ((pktDx h + f.sizeX - f.ownX) % f.sizeX) 2 0
def Fabric.yOuts (f : Fabric) (h : BitVec 256) : List Nat :=
  productive f.sizeY ((pktDy h + f.sizeY - f.ownY) % f.sizeY) 1 3

/-- The owner code of a quad at an output (R241, R441). -/
def Fabric.owner (f : Fabric) (port q : Nat) : Nat := fldN (look 0 f.maps port) (2 * q) 2

/-- Where a packet comes from: a port's transit, or a partition of the device. -/
inductive Source where
  | transit (port : Nat)
  | home (p : Nat)
  deriving DecidableEq, Repr

/-- The owner code that a source holds at an output. -/
def Source.code (src : Source) (out : Nat) : Nat :=
  match src with
  | .transit i => i
  | .home _ => out

/-- The outputs a source may use at all: local traffic leaves by ports of the partition's own dies (R241). -/
def State.mayUse (s : State) (src : Source) (out : Nat) : Bool :=
  match src with
  | .transit _ => true
  | .home p => bit (s.part p).dies out

/-- Whose a local packet is by the codes of a lane quad's owners (R333): a reduction kind's, or a form's, whose cell the TAG of
its remote reads and writes names (logs 27, 139). The services' packets have none. -/
def State.localOwner (s : State) (h : BitVec 256) : Option Nat :=
  match pktKind h with
  | 3 => some (28 + pktVc h)
  | 0 | 1 => (s.formOf (pktTag h % 2048)).map FormRec.num
  | _ => none

/-- A partition's timetable record of a lane quad (R333). -/
def Partition.laneRec (P : Partition) (out q : Nat) : Option TtRec :=
  P.image.timetable.find? fun t => ttType t == 5 && ttRes t == 8 * out + q

/-- A local packet may use a quad (R28, R205): where the timetable lists the quad, its owner is listed there. -/
def State.laneOk (s : State) (src : Source) (h : BitVec 256) (out q : Nat) : Bool :=
  match src with
  | .transit _ => true
  | .home p =>
    match (s.part p).laneRec out q, s.localOwner h with
    | some t, some x => (ttOwners t).contains x
    | _, _ => true

/-- Flits queued for a channel on a unit (R245). -/
def LinkUnit.queued (u ch : Nat) (x : LinkUnit) : Nat :=
  (x.txq.filter fun f => decide (flitChan u f = ch)).length +
  ((x.outq.filter fun o => decide ((if u = 8 then o.cls.toNat else pktVc o.pkt.hdr) = ch)).map fun o =>
    flitCount o.pkt).sum

/-- The quads of an output that a source owns, that it may use, and that hold a credit for the packet's channel (R245, R253); a
quad under an exam slice takes no new packet (R419). -/
def State.quads (s : State) (src : Source) (h : BitVec 256) (out : Nat) : List Nat :=
  (List.range 8).filter fun q =>
    decide (s.fabric.owner out q = src.code out) && s.unitLive out q && s.laneOk src h out q &&
    decide (look 0 (s.unit out q).used (pktVc h) < unitBuffer q) && !s.examHolds (unitTarget out q)

/-- The element of least weight; the first of those that tie. -/
def leastBy {α : Type} (w : α → Nat) : List α → Option α
  | [] => none
  | a :: l =>
    match leastBy w l with
    | some b => if w b < w a then some b else some a
    | none => some a

/-- What a packet at its input does next. -/
inductive Route where
  | deliver
  | discard
  | hopLimit
  | out (port unit : Nat) (cls esc : Bool)
  | wait
  deriving DecidableEq, Repr

/-- The least-filled quad among the outputs given, in their order (R245, 2 and 3). -/
def State.pickQuad (s : State) (src : Source) (h : BitVec 256) (outs : List Nat) : Route :=
  let vc := pktVc h
  let depth (o : Nat) : Nat := ((s.quads src h o).map fun q => (s.unit o q).queued q vc).sum
  match leastBy depth (outs.filter fun o => !(s.quads src h o).isEmpty) with
  | none => .wait
  | some o =>
    match leastBy (fun q => (s.unit o q).queued q vc) (s.quads src h o) with
    | some q => .out o q false false
    | none => .wait

/-- Whether a hop by an output crosses the dateline of its dimension (R246). -/
def Fabric.crosses (f : Fabric) (out : Nat) : Bool :=
  match out with
  | 0 => f.ownX == 0
  | 1 => f.ownY + 1 == f.sizeY
  | 2 => f.ownX + 1 == f.sizeX
  | _ => f.ownY == 0

/-- The escape class of a hop by `out`: E1 from the dateline on, within one dimension (R246). -/
def Fabric.escClass (f : Fabric) (src : Source) (cls : Bool) (out : Nat) : Bool :=
  let same := match src with
    | .transit i => decide (i % 2 = out % 2)
    | .home _ => false
  (same && cls) || f.crosses out

/-- The outputs of a source among the productive ones (R241, R245): a partition that holds none of them sends by its first
port. -/
def State.usable (s : State) (src : Source) (outs : List Nat) : List Nat :=
  match outs.filter (s.mayUse src), src with
  | [], .home p => ((List.range 4).find? fun o => bit (s.part p).dies o).toList
  | use, _ => use

/-- R302: every output the packet may take lies on a Down port, `x` among them or only y. The productive
output of the other dimension, or its output of rising coordinate, on the escape group in class E1. -/
def State.detour (s : State) (src : Source) (x : Bool) (h : BitVec 256) : Route :=
  let other := if x then s.fabric.yOuts h ++ [1] else s.fabric.xOuts h ++ [2]
  match other.find? fun o => s.mayUse src o && decide ((s.port o).state ≠ .down) with
  | some o => if s.unitLive o 8 then .out o 8 true false else .wait
  | none => .wait

/-- The output that a multicast packet takes (R248). -/
def mcastPort (h : BitVec 256) : Nat :=
  if pktMcast h = 1 then (if pktMdir h then 0 else 2) else (if pktMdir h then 3 else 1)

/-- The outputs of a multicast packet: the port of its direction, where the source may use it (R241, R248). The manual says
nothing of a partition that does not hold that port: its packet waits (DESIGN CHOICE, log 153). -/
def State.mcastOuts (s : State) (src : Source) (h : BitVec 256) : List Nat := [mcastPort h].filter (s.mayUse src)

/-- The escape route of a packet: dimension order, East or North where both are productive; a multicast
copy keeps its port (R246, R248). -/
def State.escapeRoute (s : State) (src : Source) (cls : Bool) (h : BitVec 256) : Route :=
  let outs := if pktMcast h ≠ 0 then s.mcastOuts src h else s.usable src (s.fabric.xOuts h ++ s.fabric.yOuts h)
  match outs with
  | o :: _ =>
    if s.unitLive o 8 then .out o 8 (s.fabric.escClass src cls o) true
    else if (s.port o).state = .down ∧ pktMcast h = 0 then s.detour src (o % 2 == 0) h else .wait
  | [] => .wait

/-- R301: the port by which a die sends its own part of a snapshot, unless it is Down. -/
def State.ownPort (s : State) (src : Source) (h : BitVec 256) : Option Nat :=
  match src with
  | .home p => if pktKind h = 5 ∧ s.mayUse (.home p) (pktDdie h) ∧ (s.port (pktDdie h)).state ≠ .down then some (pktDdie h) else none
  | .transit _ => none

/-- What a packet does (R237, R244-R246, R248, R301, R302). -/
def State.route (s : State) (src : Source) (cls : Bool) (pkt : Packet) : Route :=
  let h := pkt.hdr
  if pktDx h = s.fabric.ownX ∧ pktDy h = s.fabric.ownY then
    (if s.unwanted h then .discard else .deliver)
  else if 128 < pktHops h + 1 then .hopLimit
  else if pktMcast h ≠ 0 then
    (if pktEsc h then s.escapeRoute src cls h else s.pickQuad src h (s.mcastOuts src h))
  else
    match s.ownPort src h with
    | some o => s.pickQuad src h [o]
    | none =>
      let outs := s.usable src (s.fabric.xOuts h ++ s.fabric.yOuts h)
      if outs.all fun o => decide ((s.port o).state = .down) then s.detour src (outs.any fun o => o % 2 == 0) h
      else if pktEsc h then s.escapeRoute src cls h
      else s.pickQuad src h outs

/-- A packet on its way out: HOPS one more, ESC as it travels. -/
def onward (esc : Bool) (pkt : Packet) : Packet :=
  let h := setField pkt.hdr 88 8 (pktHops pkt.hdr + 1)
  { pkt with hdr := if esc then h ||| bitAt 256 31 true else h }

/-- A packet placed at an output unit. -/
def State.toOutput (s : State) (port unit : Nat) (cls esc : Bool) (pkt : Packet) : State :=
  s.modUnit port unit fun x => { x with outq := x.outq ++ [{ pkt := onward esc pkt, cls := cls }] }

/-- The channel of a packet at a unit's input. -/
def OutPacket.chan (u : Nat) (o : OutPacket) : Nat := if u = 8 then o.cls.toNat else pktVc o.pkt.hdr

/-- A packet that may leave an input next: its source, the packet, and the state without it. -/
structure Cand where
  src   : Source
  pkt   : OutPacket
  taken : State

/-- The next device's copy of a multicast packet that goes onward from its port of arrival: MSPAN lowered, DX, DY and LDST
those of the next device (R248). -/
def State.relayCopy (s : State) (r : Relay) : Option Packet :=
  let h := r.pkt.hdr
  let nb := s.fabric.neighbour (mcastPort h)
  let C := (s.part (pktDpart h)).chart
  (C.members.find? fun m => decide (seatX (C.entry m) = nb.1 ∧ seatY (C.entry m) = nb.2)).map fun seat =>
    { r.pkt with hdr := setField (setField (setField (setField h 0 6 nb.1) 6 6 nb.2) 32 12 seat) 80 6 (pktMspan h - 1) }

/-- The elements of a list that are the first with their key, each with its place. -/
def firsts {α : Type} (key : α → Nat) (l : List α) : List (α × Nat) :=
  l.zipIdx.filter fun e => (l.take e.2).all fun x => decide (key x ≠ key e.1)

/-- The packets at the heads of an input, oldest first: one of each channel of a unit, whose buffer the packet then frees
for the next control flit (R251); of a partition one of each owner and channel (R205); of the copies that go onward one of
each port of arrival and channel, once its delivery is written (R248). -/
def State.candidates (s : State) : Input → List Cand
  | .unit i u =>
    let x := s.unit i u
    (firsts (OutPacket.chan u) x.inq).map fun e =>
      ⟨.transit i, e.1, s.modUnit i u fun x =>
        { x with inq := x.inq.eraseIdx e.2, freed := alter 0 x.freed (e.1.chan u) fun n => n + flitCount e.1.pkt }⟩
  | .own p =>
    let key (e : Inject) : Nat := 8 * (match s.localOwner e.pkt.hdr with | some x => x + 1 | none => 0) + pktVc e.pkt.hdr
    (firsts (fun e : Inject => if e.part = p then key e else 0x1000) s.fabric.inject).filterMap fun e =>
      if e.1.part = p then
        some ⟨.home p, { pkt := e.1.pkt }, { s with fabric := { s.fabric with inject := s.fabric.inject.eraseIdx e.2 } }⟩
      else none
  | .relay =>
    let key (r : Relay) : Nat := 16 * r.port.val + (if pktEsc r.pkt.hdr then 8 + r.cls.toNat else pktVc r.pkt.hdr)
    (firsts key s.fabric.relays).filterMap fun e =>
      if s.fabric.delivered.any fun d => decide (d.2 = e.1.pkt) then none
      else (s.relayCopy e.1).map fun c =>
        ⟨.transit e.1.port, { pkt := c, cls := e.1.cls }, { s with fabric := { s.fabric with relays := s.fabric.relays.eraseIdx e.2 } }⟩

/-! ## Turns at an output quad (R205, R243) -/

/-- The place of an input's packet in the rota at an output quad, the rota's places, and its key among the turns: of the
eight quads of an input port, or of a lane quad's owners. -/
def State.rotaAt (s : State) (inp : Input) (c : Cand) (out q : Nat) : Option (Nat × Nat × Nat) :=
  match inp with
  | .unit i u => if u.val = 8 ∨ q = 8 then none else some (u, 8, 64 * i.val + 8 * out + q)
  | .own p =>
    match (s.part p).laneRec out q, s.localOwner c.pkt.pkt.hdr with
    | some t, some x => ((ttOwners t).idxOf? x).map fun k => (k, ttNown t, 256 + 8 * out + q)
    | _, _ => none
  | .relay => none

/-- The inputs that share rotas with one. -/
def rivals : Input → List Input
  | .unit i _ => (List.range 8).map fun u => .unit i ⟨u % 9, Nat.mod_lt _ (by decide)⟩
  | inp => [inp]

/-- A packet that would leave by a quad has its turn there: every owner whose turn comes before has nothing for that quad, and
passes (R243). -/
def State.hasTurn (s : State) (inp : Input) (c : Cand) (out q : Nat) : Bool :=
  match s.rotaAt inp c out q with
  | none => true
  | some (k, n, key) =>
    let t := look 0 s.fabric.turns key
    (rivals inp).all fun j => (s.candidates j).all fun d =>
      match s.route d.src d.pkt.cls d.pkt.pkt, s.rotaAt j d out q with
      | .out o v _ _, some (k', _, _) => !(decide (o = out ∧ v = q)) || decide ((k + n - t) % n ≤ (k' + n - t) % n)
      | _, _ => true

/-- The turn goes on after an owner has sent a packet. -/
def State.passTurn (s : State) (inp : Input) (c : Cand) (out q : Nat) (t : State) : State :=
  match s.rotaAt inp c out q with
  | none => t
  | some (k, n, key) => { t with fabric := { t.fabric with turns := put 0 t.fabric.turns key ((k + 1) % n) } }

/-- The record that counts an input's packets. -/
def inputUnit (s : State) (c : Cand) : Input → Nat × Nat
  | .unit i u => (i, u)
  | .own p => ((s.part p).firstPort, 0)
  | .relay => match c.src with
    | .transit i => (i, 0)
    | .home _ => (0, 0)

/-- A packet for this device goes to its owner; one of a multicast also goes onward from its port of
arrival once it is written (R245, R248). -/
def State.deliver (s : State) (src : Source) (cls : Bool) (pkt : Packet) : State :=
  let f := s.fabric
  let rel := match src with
    | .transit i => if pktMcast pkt.hdr ≠ 0 ∧ 1 < pktMspan pkt.hdr then
        f.relays ++ [{ port := ⟨i % 4, Nat.mod_lt _ (by decide)⟩, pkt := pkt, cls := cls }] else f.relays
    | .home _ => f.relays
  { s with fabric := { f with delivered := f.delivered ++ [(partIx (pktDpart pkt.hdr), pkt)], relays := rel } }

/-- Carry out a route. -/
def State.carry (s : State) (inp : Input) (c : Cand) : Route → State
  | .deliver => c.taken.deliver c.src c.pkt.cls c.pkt.pkt
  | .discard => let w := inputUnit s c inp; c.taken.countFabric w.1 w.2 192 16 1
  | .hopLimit =>
    let w := inputUnit s c inp
    (c.taken.countFabric w.1 w.2 192 16 1).detect 0x3004 (dieUnit w.1) ((s.partOf w.1).getD 0) w.1
      (fldN c.pkt.pkt.hdr 16 6 + fldN c.pkt.pkt.hdr 22 6 * 64)
  | .out i u cls esc => s.passTurn inp c i u (c.taken.toOutput i u cls esc c.pkt.pkt)
  | .wait => s

/-- The route that a packet at an input takes now: it waits for its turn at the quad it would leave by. -/
def State.move (s : State) (inp : Input) (c : Cand) : Route :=
  match s.route c.src c.pkt.cls c.pkt.pkt with
  | .out i u cls esc => if s.hasTurn inp c i u then .out i u cls esc else .wait
  | r => r

/-- The oldest packet at the heads of an input that can move, moves. -/
def State.moveFirst (s : State) (inp : Input) : State :=
  match (s.candidates inp).find? fun c => decide (s.move inp c ≠ .wait) with
  | some c => s.carry inp c (s.move inp c)
  | none => s

/-- PACKET_ROUTE (R243, R245): of the packets at the heads of an input, the oldest that can takes an output and a quad, is
delivered, or is discarded; the others wait. -/
def execPacketRoute (src : Input) (s : State) : Res := .next (s.moveFirst src)

/-- PACKET_SEND (R251): the oldest packet that waits for a channel starts once the unit holds credits for
all its flits. -/
def execPacketSend (port : PortIx) (u : UnitIx) (vc : Fin 8) (s : State) : Res :=
  let x := s.unit port u
  match takeFirst (fun o => decide ((if u.val = 8 then o.cls.toNat else pktVc o.pkt.hdr) = vc.val)) x.outq with
  | none => .next s
  | some (o, rest) =>
    let n := flitCount o.pkt
    if s.unitLive port u && decide (look 0 x.used vc.val + n ≤ unitBuffer u) then
      let s1 := s.modUnit port u fun x =>
        { x with outq := rest, used := alter 0 x.used vc.val (· + n), txq := x.txq ++ packetFlits u vc.val o.pkt }
      .next (if u.val = 8 then s1.countFabric port u 160 32 1 else s1)
    else .next s

/-- The way in which a packet at an input escapes now (R246): it waits for an output, and an escape group takes it. -/
def State.escapeOf (s : State) (c : Cand) : Option (Nat × Nat × Bool × Bool) :=
  if pktEsc c.pkt.pkt.hdr then none
  else
    match s.route c.src c.pkt.cls c.pkt.pkt, s.escapeRoute c.src c.pkt.cls c.pkt.pkt.hdr with
    | .wait, .out i u cls esc => some (i, u, cls, esc)
    | _, _ => none

/-- PACKET_ESCAPE (R246, R248): the oldest packet at the heads of an input that has waited 256 ns with no productive output
holding a credit leaves on an escape group. The output quad where it waited counts it. -/
def execPacketEscape (src : Input) (s : State) : Res :=
  match (s.candidates src).findSome? fun c => (s.escapeOf c).map fun r => (c, r) with
  | some (c, i, u, cls, esc) =>
    let q := ((List.range 8).find? fun q => decide (s.fabric.owner i q = c.src.code i)).getD 0
    .next ((c.taken.toOutput i u cls esc c.pkt.pkt).countFabric i q 160 32 1)
  | none => .next s

/-- A copy whose next device is not seated is not sent, and counted (R240). -/
def State.dropRelays (s : State) : State :=
  match s.fabric.relays.findIdx? fun r => (s.relayCopy r).isNone && !s.fabric.delivered.any fun d => decide (d.2 = r.pkt) with
  | some k =>
    match s.fabric.relays[k]? with
    | some r => State.countFabric { s with fabric := { s.fabric with relays := s.fabric.relays.eraseIdx k } } r.port 0 208 16 1
    | none => s
  | none => s

/-- MULTICAST_RELAY (R237, R248): once a delivery is written, its copy goes onward from the port of arrival, on
the next port in the same direction; one past the hop limit is discarded as any packet. A next device that is not seated gets
none (R240). -/
def execMulticastRelay (s : State) : Res := .next (s.dropRelays.moveFirst .relay)

/-- The bridges on the path between two ports' dies (R242): 0-3 are CD0-CD1, CD1-CD2, CD2-CD3, CD3-CD0. -/
def bridgePath (i o : Nat) : List Nat :=
  let a := min i o
  let b := max i o
  match a, b with
  | 0, 1 => [0]
  | 1, 2 => [1]
  | 2, 3 => [2]
  | 0, 3 => [3]
  | 0, 2 => [0, 1]
  | 1, 3 => [1, 2]
  | _, _ => []

/-- The way of a mirror packet in transit that waits for a bridge's reserved transit (R308). -/
def State.bridgeOf (s : State) (port : Nat) (c : Cand) : Option (Nat × Nat × Bool × Bool) :=
  match s.route c.src c.pkt.cls c.pkt.pkt with
  | .out i v cls esc => if pktKind c.pkt.pkt.hdr = 4 ∧ bridgePath port i ≠ [] then some (i, v, cls, esc) else none
  | _ => none

/-- MIRROR_BRIDGE_WAIT (R308): a mirror packet in transit that has waited 10 µs for a bridge's reserved
transit takes the next slot of any timetable, and goes on. -/
def execMirrorBridgeWait (port : PortIx) (u : UnitIx) (s : State) : Res :=
  match (s.candidates (.unit port u)).findSome? fun c => (s.bridgeOf port c).map fun r => (c, r) with
  | some (c, i, v, cls, esc) =>
    let s1 := c.taken.toOutput i v cls esc c.pkt.pkt
    .next { s1 with fabric := { s1.fabric with
      bridges := (bridgePath port i).foldl (fun m b => alter 0 m b (· + 1)) s1.fabric.bridges } }
  | none => .next s

end Sys2Proof.Machine
end

