-- ==== Sys2Proof/Machine/Streams.lean ====
section
/-! DEFINITION. Queues and stream charts: pushes and pops, reading and writing streams (R45-R47, R67-R70, R103-R118, R129, R132, R133). -/

namespace Sys2Proof.Machine

/-! ## Bytes, counters -/

/-- A byte with its poison. -/
def LByte.of (b : Byte) (p : Bool) : LByte := { byte := b, poison := p }

/-- `n` open bytes (log 6). -/
def State.freeBytes (s : State) (n : Nat) : List Byte × State :=
  (((List.range ((n + 7) / 8)).flatMap fun i => bytesOfBv 8 (Config.freeWord (s.free + i))).take n,
   { s with free := s.free + (n + 7) / 8 })

/-- One more in a field of a stream's counter record (R129). -/
def State.countStream (s : State) (c st lo len n : Nat) : State :=
  s.modCell c fun x => { x with ctr := alter 0 x.ctr st fun r => satField r lo len n }

/-- A corrected error: detector 0 cell store, 1 side memory, 2 weight-cache port (R277, R341). -/
def State.corrected (s : State) (c kind : Nat) : State :=
  (s.modCell c fun x => { x with corr := alter 0 x.corr kind fun v => satAdd v 1 }).modServices fun v =>
    { v with corrected := satAdd v.corrected 1 }

/-! ## The cell store (R67-R70) -/

def csBank (a : Nat) : Nat := a / 32 % 32
def csWord (a : Nat) : Nat := a / 1024

/-- Whether an agent owns a bank (R69, R148): 0 fetch engine, 1 gather unit, 2 vector engine, 3 row engine,
4 mesh write path. -/
def Cell.owns (c : Cell) (agent bank : Nat) : Bool := bit c.bankMap (5 * bank + agent)

/-- The bytes of the cell store at [a, a + n) as an agent reads them; a bank that is not its own delivers
poisoned zeros (R69). -/
def Cell.csBytes (c : Cell) (agent a n : Nat) : List LByte :=
  (List.range n).map fun i =>
    if c.owns agent (csBank (a + i)) then .of (look 0 c.store (a + i)) false else .of 0 true

/-- What check bits do to the bytes of one word or block that was read (R70, R125): `count` counts a
corrected error, `err` reports a detected one, and a pattern outside the code's guarantee is open. -/
def State.checked (s : State) (ecc : Ecc) (bs : List LByte) (count err : State → State) : List LByte × State :=
  match ecc with
  | .clean => (bs, s)
  | .corrected => (bs, count s)
  | .uncorrectable => (bs.map fun _ => { byte := 0, poison := true, memErr := true }, err s)
  | .miscorrected => let r := (count s).freeBytes bs.length; (r.1.map fun b => .of b false, r.2)
  | .unseen => let r := s.freeBytes bs.length; (r.1.map fun b => .of b false, r.2)

/-- What the check bits of a word show. -/
def errOf (errs : WordErrs) (w : Nat) : Ecc :=
  match errs.find? fun e => decide (e.1 = w) with
  | some e => e.2
  | none => .clean

/-- The words of a list that show an error, each once: what its detection does, and the first of the four open values
that stand for a word whose pattern is outside the code's guarantee (R70). `seen` holds the words that have shown
theirs in this access. -/
def State.seeWords (eff : Nat → Ecc → State → State) (errs : WordErrs) :
    List Nat → List (Nat × Nat) → State → List (Nat × Nat) × State
  | [], seen, s => (seen, s)
  | w :: ws, seen, s =>
    let x := errOf errs w
    if x = .clean ∨ seen.any (fun e => e.1 == w) then s.seeWords eff errs ws seen
    else (eff w x { s with free := s.free + 4 }).seeWords eff errs ws (seen ++ [(w, s.free)])

/-- Byte `i` of a word as it is delivered (R70): a detected error delivers poisoned zeros, and a pattern outside the
code's guarantee an open value. -/
def seenByte (errs : WordErrs) (seen : List (Nat × Nat)) (w i : Nat) (b : Byte) : LByte :=
  match errOf errs w with
  | .clean | .corrected => .of b false
  | .uncorrectable => { byte := 0, poison := true, memErr := true }
  | _ => .of (BitVec.ofNat 8 (fldN (Config.freeWord (look 0 seen w + i / 8)) (8 * (i % 8)) 8)) false

/-- What a cell-store word's check bits do (R70): a corrected error is counted in the bank's counter, also where three
bits or more are taken for one; a double-bit error is detected. -/
def csSeen (c w : Nat) (x : Ecc) (s : State) : State :=
  match x with
  | .corrected | .miscorrected => (s.corrected c 0).modCell c fun y =>
      { y with bankCorr := alter 0 y.bankCorr (w % 32) fun v => satAdd v 1 }
  | .uncorrectable => s.detectCell c 0x2001 (c + w % 32 * 2 ^ 16) (w / 32)
  | _ => s

/-- The 32-byte words of [a, a + n), by address divided by 32. -/
def wordsOf (a n : Nat) : List Nat :=
  if n = 0 then [] else (List.range ((a + n - 1) / 32 - a / 32 + 1)).map fun i => a / 32 + i

/-- The cell-store words that show an error: those that an exam wrote back as a double-bit error (R417), and the others
listed. -/
def Cell.storeErrs (x : Cell) (errs : WordErrs) : WordErrs := (x.badWords.map fun w => (w, Ecc.uncorrectable)) ++ errs

/-- A read of the cell store by an agent (R69, R70): a bank that is not its own delivers poisoned zeros; `errs` are the
words that show an error. -/
def State.csRead (s : State) (c agent a n : Nat) (errs : WordErrs) (seen : List (Nat × Nat)) :
    List LByte × List (Nat × Nat) × State :=
  let x := s.cell c
  let errs := x.storeErrs errs
  let r := s.seeWords (csSeen c) errs ((wordsOf a n).filter fun w => x.owns agent (w % 32)) seen
  ((x.csBytes agent a n).zipIdx.map fun b =>
    if b.1.poison then b.1 else seenByte errs r.1 ((a + b.2) / 32) ((a + b.2) % 32) b.1.byte, r.1, r.2)

/-- A write of the cell store by an agent, in the banks it owns (R69). Each word's check bits are written with it. -/
def Cell.csWrite (c : Cell) (agent a : Nat) (bs : List Byte) : Cell :=
  { c with
    badWords := c.badWords.filter fun w => !((wordsOf a bs.length).contains w && c.owns agent (w % 32))
    store := bs.zipIdx.foldl (fun m e =>
      if c.owns agent (csBank (a + e.2)) then put 0 m (a + e.2) e.1 else m) c.store }

/-- A write of the cell store (R68): of a word written in part, the whole word is read first and written back with the
new bytes, so that what its check bits show comes about (R70). -/
def State.csStore (s : State) (c agent a : Nat) (bs : List Byte) (errs : WordErrs) : State :=
  let part := (wordsOf a bs.length).filter fun w =>
    decide (32 * w < a ∨ a + bs.length < 32 * w + 32) && (s.cell c).owns agent (w % 32)
  let t := part.foldl (fun (t : State) w =>
    if errOf ((t.cell c).storeErrs errs) w = .clean then t
    else
      let r := t.csRead c agent (32 * w) 32 errs []
      r.2.2.modCell c fun x => x.csWrite agent (32 * w) (r.1.map LByte.byte)) s
  t.modCell c fun x => x.csWrite agent a bs

/-! ## Pushes and pops (R45-R48) -/

/-- QUEUE_PUSH (R45): the push completes once the queue has a free entry; until then it waits (R46). -/
def execQueuePush (c : CellIx) (q : QueueIx) (e : Entry) (s : State) : Res := s.onCell c <| .next (s.modCell c fun x => x.push q e)

/-- A number of handshakes that the manual does not fix, added to a stream's WAIT_HS (R129; log 133). -/
def State.countWait (s : State) (c st : Nat) : State :=
  let f := s.fresh
  f.2.countStream c st 160 32 (fldN f.1 0 32)

/-- A consumer's pop of a queue; a read stream's queue counts it, as one that waited where its entry came while the
consumer waited for it (R129). -/
def State.consume (s : State) (c q : Nat) : Option (Entry × State) :=
  ((s.cell c).pop q).map fun r =>
    let s1 := s.setCell c r.2
    (r.1, if 8 ≤ q then s1
      else if ((s.cell c).queue q).late then (s1.countStream c q 128 32 1).countWait c q
      else s1.countStream c q 96 32 1)

/-! ## Walking a chart (R106, R107) -/

/-- A put of an entry under assembly: bytes of memory, with `before` and `after` of the same EMIT's bytes in the entries
before and after it, or zeros. -/
inductive Put where
  | mem (pos : Nat) (addr : Nat) (size : Nat) (before after : Nat)
  | zero (pos size : Nat) (poison mem : Bool)
  deriving DecidableEq, Repr

/-- What an iteration gives its EMITs: a poisoned zero (`mem`: by a memory error), a hole, or an offset (R106). -/
inductive Target where
  | bad (mem : Bool)
  | hole
  | off (o : Int)
  deriving DecidableEq, Repr

/-- The target of combination `k`; `rd a n` reads an index of n bytes, or says whether a memory error refuses it. -/
def Walk.target (w : Walk) (rd : Nat → Nat → Bool ⊕ Nat) (k : Nat) : Target :=
  let is := digits w.counts k
  let plain (skip : Nat) : Int :=
    ((List.range w.counts.length).map fun l => if l = skip then 0 else (is.getD l 0 : Int) * w.strides.getD l 0).sum
  match w.index with
  | none => .off (plain 9)
  | some (l, n, base) =>
    match rd (base + w.indexPos l k * n) n with
    | .inl m => .bad m
    | .inr x => if x = 2 ^ (8 * n) - 1 then .hole else .off (plain l + (x : Int) * w.strides.getD l 0)

/-- The puts of the next entry, from body instruction `pos`, byte `off` of it, with `fill` bytes of the
entry in place: the puts, and the place in the walk after the entry. An entry is whole at 128 bytes, at a
CLOSE and at the walk's end (R106). -/
def fillEntry (w : Walk) (base : Int) (ext : Nat) (rd : Nat → Nat → Bool ⊕ Nat) :
    Nat → Nat → Nat → Nat → List Put → List Put × Nat × Nat
  | 0, pos, off, _, acc => (acc, pos, off)
  | fuel + 1, pos, off, fill, acc =>
    let n := w.body.length
    if 128 ≤ fill ∨ n = 0 ∨ w.iters * n ≤ pos then (acc, pos, off)
    else
      match w.body.getD (pos % n) .reserved with
      | .emit size disp =>
        let k := min (size - off) (128 - fill)
        let pt := match w.target rd (pos / n) with
          | .bad m => Put.zero fill k true m
          | .hole => .zero fill k false false
          | .off o =>
            let a := base + o + disp
            if inWindow base ext a size then .mem fill (a.toNat + off) k off (size - off - k) else .zero fill k true false
        if size ≤ off + k then fillEntry w base ext rd fuel (pos + 1) 0 (fill + k) (acc ++ [pt])
        else fillEntry w base ext rd fuel pos (off + k) (fill + k) (acc ++ [pt])
      | .pad size =>
        let k := min (size - off) (128 - fill)
        if size ≤ off + k then fillEntry w base ext rd fuel (pos + 1) 0 (fill + k) (acc ++ [.zero fill k false false])
        else fillEntry w base ext rd fuel pos (off + k) (fill + k) (acc ++ [.zero fill k false false])
      | _ => if 0 < fill then (acc, pos + 1, 0) else fillEntry w base ext rd fuel (pos + 1) 0 fill acc

/-- Steps that suffice for one entry: 64 puts, and at most 15 CLOSEs before each. -/
def entryFuel : Nat := 1200

/-! ## Reading streams -/

/-- Bytes placed into an entry under assembly at byte `pos`; a lane is poisoned when a byte of it is
(R107). -/
def AsmEntry.place (e : AsmEntry) (pos : Nat) (bs : List LByte) : AsmEntry :=
  { e with
    data := e.data ||| (bvOfBytes 1024 (bs.map LByte.byte) <<< (8 * pos))
    poison := bs.zipIdx.foldl (fun m b => if b.1.poison then m ||| (1#64 <<< ((pos + b.2) / 2)) else m) e.poison
    memErr := bs.zipIdx.foldl (fun m b => if b.1.memErr then m ||| (1#64 <<< ((pos + b.2) / 2)) else m) e.memErr }

/-- The pieces of [a, a + n) by 64-byte aligned blocks: position in the put, address, size. -/
def blocksOf (a n : Nat) : List (Nat × Nat × Nat) :=
  if n = 0 then []
  else (List.range ((a + n - 1) / 64 - a / 64 + 1)).map fun i =>
    let lo := max a (64 * (a / 64 + i))
    (lo - a, lo, min (a + n) (64 * (a / 64 + i + 1)) - lo)

def Cell.stream (c : Cell) (st : Nat) : Stream := look {} c.streams st
def State.modStream (s : State) (c st : Nat) (f : Stream → Stream) : State :=
  s.modCell c fun x => { x with streams := put {} x.streams st (f (x.stream st)) }

/-- Start a fill of a line that is neither cached nor under fill (R122). -/
def Die.wantLine (D : Die) (line : Nat) : Die :=
  if (look [] D.wc (wcSet line)).contains line || D.fills.any fun f => decide (f.line = line) then D
  else { D with fills := D.fills ++ [{ line := line }] }

/-- A request of the stream's newest entry. -/
def Stream.addReq (r : Req) (x : Stream) : Stream :=
  { x with
    reqs := x.reqs ++ [{ r with id := x.nextReq, entry := x.entries }]
    nextReq := x.nextReq + 1
    asm := x.asm.map fun e => if e.num = x.entries then { e with missing := e.missing + 1 } else e }

/-- The newest entry takes the bytes of the block in which its first EMIT was cut (R107): those that have come, or it
waits for the request of the entry before. -/
def Stream.takeCarry (x : Stream) : Stream :=
  if x.reqs.any fun r => decide (r.entry + 1 = x.entries ∧ 128 < r.pos + r.size) then
    { x with asm := x.asm.map fun e => if e.num = x.entries then { e with missing := e.missing + 1 } else e }
  else
    { x with carry := [], asm := x.asm.map fun e => if e.num = x.entries then e.place 0 x.carry else e }

/-- The bytes of a request have come (R110, R111): they are placed in its entry and, past its end, in the next, or kept
for that one until it starts. -/
def Stream.fillReq (r : Req) (bs : List LByte) (x : Stream) : Stream :=
  let past := bs.drop (128 - r.pos)
  let next := x.asm.any fun e => decide (e.num = r.entry + 1)
  { x with
    reqs := x.reqs.filter fun q => decide (q.id ≠ r.id)
    carry := if past.isEmpty || next then x.carry else past
    asm := x.asm.map fun e =>
      if e.num = r.entry then { e.place r.pos (bs.take (128 - r.pos)) with missing := e.missing - 1 }
      else if e.num = r.entry + 1 ∧ past ≠ [] then { e.place 0 past with missing := e.missing - 1 } else e }

/-- Place bytes into the entry under assembly with number `n`. -/
def Stream.placeIn (n pos : Nat) (bs : List LByte) (x : Stream) : Stream :=
  { x with asm := x.asm.map fun e => if e.num = n then e.place pos bs else e }

/-- The remote record of a chart, in its partition's image (R131). -/
def State.remoteRec (s : State) (c : Nat) (h : ChartHdr) : BitVec 256 :=
  (s.part (s.cellPart c)).image.remotes.getD (chRrec h) 0

/-- The ring of a group kind: the valid entries of its list, in ring order (R204, R329); the device alone in
single-device operation (R207). -/
def Partition.ring (P : Partition) (kind : Nat) : List Nat :=
  if P.image.single then [0] else look [] P.chart.groups kind

/-- The seat at ring position p + off of a group, p the partition's own position (R131, R204). -/
def Partition.ringSeat (P : Partition) (kind off : Nat) : Option Nat :=
  let r := P.ring kind
  if r.isEmpty then none else some (r.getD ((r.idxOf P.seat.toNat + off) % r.length) 0)

/-- TAG of a read request (R133): its gather context [20:11] and the block of its EMIT [22:21]; the cell [10:0] and the
number of the cell's form resets [31:23], by which a response from before one is discarded (R117; log 27). -/
def readTag (c ctx blk : Nat) (resets : BitVec 9) : Nat :=
  c + ctx % 1024 * 2048 + blk % 4 * 2097152 + resets.toNat * 8388608

/-- One read request of a remote chart (R133). -/
def State.sendRead (s : State) (c ctx blk addr : Nat) (h : ChartHdr) : State :=
  let p := s.cellPart c
  let r := s.remoteRec c h
  match (s.part p).ringSeat (fldN r 3 2) (fldN r 8 12) with
  | some seat => s.sendPacket p seat (fldN r 26 2) 1 (4 + fldN r 3 2) (fldN r 32 40 + addr) (readTag c ctx blk (s.cell c).resets) []
  | none => s

/-! ### Request slots and gather contexts (R109, R110) -/

/-- Request slots: 64 of the gather unit, which runs the charts with an INDEX and the remote ones, 32 of the fetch
engine, which runs the others (R109, R133). -/
def slotsOf (gather : Bool) : Nat := if gather then 64 else 32
def Stream.onGather (x : Stream) : Bool := !chWrite x.hdr && ((walkOf x.instrs).index.isSome || chSpace x.hdr == 3)
def Stream.slotsHeld (x : Stream) : Nat :=
  (x.reqs.filter fun r => decide (r.state ≠ .queued)).length + (x.writes.filter PendWrite.slot).length
def Cell.slotsUsed (c : Cell) (gather : Bool) : Nat :=
  (c.streams.map fun x => if x.2.onGather == gather then x.2.slotsHeld else 0).sum

/-- The gather contexts in use (R110): those of the EMITs whose requests have not all returned. -/
def Cell.contexts (c : Cell) : List Nat :=
  (c.streams.flatMap fun x => if x.2.onGather then x.2.reqs.map Req.ctx else []).dedup

/-- The next free gather context, in ascending number from the one last given, wrapping from 1,023 to 0 (R110). -/
def Cell.freeCtx (c : Cell) : Nat :=
  (((List.range 1024).map fun i => (c.nextCtx + i) % 1024).find? fun k => !c.contexts.contains k).getD c.nextCtx

/-- A request that has its slot is issued: to the weight cache, which asks for its line (R122), to the HBM's turns,
or to the partner (R133). WC_HITS counts each line that serves the stream without a fill (R129). -/
def State.issueReq (s : State) (c st : Nat) (r : Req) : State :=
  let h := ((s.cell c).stream st).hdr
  let set (x : ReqState) : State := s.modStream c st fun y =>
    { y with reqs := y.reqs.map fun q => if q.id = r.id then { q with state := x } else q }
  if r.space = 1 then
    let line := 256 * (r.addr / 256)
    let D := s.die (dieOf c)
    let t := (set .filling).modDie (dieOf c) fun D => D.wantLine line
    if (look [] D.wc (wcSet line)).contains line then
      if ((s.cell c).stream st).hitLine = some line then t
      else (t.modStream c st fun y => { y with hitLine := some line }).countStream c st 224 32 1
    else if D.fills.any fun f => decide (f.line = line) then t else t.countStream c st 64 32 256
  else if r.space = 2 then (set .waiting).countStream c st 64 32 64
  else ((set .remote).countStream c st 64 32 64).sendRead c r.ctx r.blk (64 * (r.addr / 64)) h

/-- What a stream has waiting for a request slot: a request, or else a write to HBM (R109). -/
def Stream.wantsSlot (x : Stream) : Option (Option Req) :=
  match x.reqs.find? fun r => decide (r.state = .queued) with
  | some r => some (some r)
  | none => if x.writes.any fun w => decide (w.space = 2 ∧ w.slot = false) then some none else none

/-- The rota by which charts take request slots (R109, R120): from its position the first stream of the fetch engine or
of the gather unit that has something waiting for one. -/
def Cell.nextForSlot (x : Cell) (gather : Bool) : Option (Nat × Option Req) :=
  let pos := if gather then x.gatherPos else x.fetchPos
  ((List.range 12).map fun i => (pos + i) % 12).findSome? fun st =>
    if (x.stream st).onGather == gather then (x.stream st).wantsSlot.map fun r => (st, r) else none

/-- A write takes its request slot. -/
def slotFirst (l : List PendWrite) : List PendWrite :=
  match l.findIdx? fun w => decide (w.space = 2 ∧ w.slot = false) with
  | some i => l.modify i fun w => { w with slot := true }
  | none => l

/-- The queued requests and writes of the fetch engine, or the requests of the gather unit, take the free slots in rota
(R109, R110); the gather unit issues every request of an EMIT before it turns to the next. SLOTS_PEAK keeps the
most slots that a stream has seen in use (R129). At most `fuel` requests. -/
def State.issueReqs (c : Nat) (gather : Bool) : Nat → State → State
  | 0, s => s
  | fuel + 1, s =>
    let x := s.cell c
    if slotsOf gather ≤ x.slotsUsed gather then s
    else
      match x.nextForSlot gather with
      | none => s
      | some (st, r) =>
        let t := match r with
          | some q => s.issueReq c st q
          | none => s.modStream c st fun y => { y with writes := slotFirst y.writes }
        let more : Bool := match r with
          | some q => gather && ((t.cell c).stream st).reqs.any fun o => decide (o.ctx = q.ctx ∧ o.state = .queued)
          | none => false
        let pos := if more then st else (st + 1) % 12
        let used := (t.cell c).slotsUsed gather
        State.issueReqs c gather fuel (t.modCell c fun y => { y with
          gatherPos := if gather then pos else y.gatherPos
          fetchPos := if gather then y.fetchPos else pos
          ctr := alter 0 y.ctr st fun v => if fldN v 192 16 < used then setField v 192 16 used else v })

/-- The requests of a put (R110): one for each 64-byte block that its EMIT touches and that no earlier entry has asked
for, with their places. -/
def putBlocks (a n before after : Nat) : List (Nat × Nat × Nat) :=
  (blocksOf a (n + after)).filter fun b => decide (b.2.1 < a + n) && !(decide (0 < before) && decide (b.1 = 0 ∧ a % 64 ≠ 0))

/-- One put of an entry: zeros and cell-store bytes at once, HBM and remote bytes by requests (R107,
R110, R122, R133). `errs` are the cell-store words that show an error, `acc.2` those that have shown it. -/
def State.putOne (st : Nat) (h : ChartHdr) (agent c : Nat) (errs : WordErrs) (acc : State × List (Nat × Nat)) :
    Put → State × List (Nat × Nat)
  | .zero pos n poison mem =>
    if poison then
      (acc.1.modStream c st fun x => x.placeIn x.entries pos (List.replicate n { byte := 0, poison := true, memErr := mem }), acc.2)
    else acc
  | .mem pos a n before after =>
    let s := acc.1.countStream c st 32 32 n
    if chSpace h = 0 then
      let r := s.csRead c agent a n errs acc.2
      ((r.2.2.modStream c st fun x => x.placeIn x.entries pos r.1).countStream c st 64 32
        (32 * ((a + n - 1) / 32 - a / 32 + 1)), r.2.1)
    else
      let x := s.cell c
      let ctx := if before = 0 then x.freeCtx else (x.nextCtx + 1023) % 1024
      let s1 := if before = 0 then s.modCell c fun y => { y with nextCtx := (ctx + 1) % 1024 } else s
      let s2 := if 0 < before ∧ a % 64 ≠ 0 then s1.modStream c st Stream.takeCarry else s1
      ((putBlocks a n before after).foldl (fun t b => State.issueReqs c (agent == 1) 1 (t.modStream c st
        (Stream.addReq { id := 0, ctx := ctx, blk := b.2.1 / 64 - (a - before) / 64, space := BitVec.ofNat 2 (chSpace h)
                         addr := b.2.1, size := b.2.2, entry := 0, pos := pos + b.1 }))) s2, acc.2)

/-- Push the entries that are whole, in order; each carries the chart's policy (R111, R118). At the last
entry of the arming the stream is done: disarmed unless it persists (R116, R117). -/
def pushWhole (q : Nat) : Nat → Cell → Cell
  | 0, c => c
  | fuel + 1, c =>
    let x := c.stream q
    match x.asm with
    | e :: rest =>
      if e.missing = 0 then
        let last := decide (e.num + 1 = chEntries x.hdr)
        let y := { x with asm := rest, done := x.done || last, armed := x.armed && (!last || chPersist x.hdr) }
        let c1 := c.push q { data := e.data, poison := e.poison, policy := chPolicy x.hdr, memErr := e.memErr }
        pushWhole q fuel { c1 with
          streams := put {} c1.streams q y
          ctr := alter 0 c1.ctr q fun r => satField r 0 32 1 }
      else c
    | [] => c

/-- A persistent stream that has ended its arming takes its next re-arm (R116). -/
def Stream.nextArming (x : Stream) : Stream :=
  match x.rearms with
  | (b, o, co) :: r =>
    if x.done then
      { x with rearms := r, done := false, base := b, op := o, chainOff := co, pos := 0, off := 0, entries := 0,
               warned := false, arming := x.arming + 1, pkt := [], pkts := 0, carry := [] }
    else x
  | [] => x

def State.settleRead (s : State) (c q : Nat) : State :=
  (s.modCell c (pushWhole q 17)).modStream c q Stream.nextArming

/-- Credits of a read stream: free entries of its queue not yet spoken for (R112). -/
def Cell.credits (c : Cell) (q : Nat) : Nat :=
  16 - ((c.queue q).entries.length + (c.queue q).waiting.length + (c.stream q).asm.length)

/-- A read of an index by the gather unit (R70, R107): refused in a bank that is not its own, and by a memory error. -/
def Cell.readIndex (c : Cell) (errs : WordErrs) (seen : List (Nat × Nat)) (a n : Nat) : Bool ⊕ Nat :=
  if c.owns 1 (csBank a) = false then .inl false
  else if errOf errs (a / 32) = .uncorrectable then .inl true
  else .inr (natOfBytes ((List.range n).map fun i =>
    (seenByte errs seen ((a + i) / 32) ((a + i) % 32) (look 0 c.store (a + i))).byte))

/-- The cell-store words in which the indices of an entry stand that begins at body instruction `pos` and ends before
`stop`. -/
def Walk.indexWords (w : Walk) (pos stop : Nat) : List Nat :=
  match w.index with
  | none => []
  | some (l, n, base) =>
    let b := max 1 w.body.length
    ((List.range ((stop + b - 1) / b - pos / b)).map fun k => (base + w.indexPos l (pos / b + k) * n) / 32).dedup

/-- The gather contexts that the puts of an entry begin with (R110): one for each EMIT that needs memory and is not
carried on from the entry before. -/
def newContexts (ps : List Put) : Nat :=
  (ps.filter fun
    | .mem _ _ _ before _ => decide (before = 0)
    | _ => false).length

/-- STREAM_ENTRY_START (R112): a read stream that holds a credit starts its next entry; a gathered one once there are
contexts for its EMITs (R110). `errs` are the cell-store words of the entry, its indices among them, that show an
error (R70). -/
def execStreamEntryStart (c : CellIx) (st : StreamIx) (errs : WordErrs) (s : State) : Res := s.onCell c <|
  let x := (s.cell c).stream st
  if st.val < 8 ∧ x.armed ∧ x.done = false ∧ x.entries < chEntries x.hdr ∧ 0 < (s.cell c).credits st then
    let w := walkOf x.instrs
    let agent := if x.onGather then 1 else 0
    -- the index words' own check bits; where the entry ends does not depend on the indices
    let stop := (fillEntry w x.base (chExtent x.hdr) (fun _ _ => .inl false) entryFuel x.pos x.off 0 []).2.1
    let bad := (s.cell c).storeErrs errs
    let ix := s.seeWords (csSeen c) bad ((w.indexWords x.pos stop).filter fun v => (s.cell c).owns 1 (v % 32)) []
    let f := fillEntry w x.base (chExtent x.hdr) ((s.cell c).readIndex bad ix.1) entryFuel x.pos x.off 0 []
    if agent = 1 ∧ chSpace x.hdr ≠ 0 ∧ 1024 < (s.cell c).contexts.length + newContexts f.1 then .next s
    else
      let s2 := ix.2.modStream c st fun y => { y with asm := y.asm ++ [{ num := y.entries }] }
      let s3 := (f.1.foldl (State.putOne st x.hdr agent c errs) (s2, ix.1)).1
      let s4 := s3.modStream c st fun y => { y with pos := f.2.1, off := f.2.2, entries := y.entries + 1 }
      .next (s4.settleRead c st)
  else .next s

/-- The bytes of a request arrive: placed by index, entries pushed in order; its slot goes to the next request that
waits for one (R110, R111). -/
def State.returned (s : State) (c st : Nat) (r : Req) (bs : List LByte) : State :=
  State.issueReqs c ((s.cell c).stream st).onGather 1 ((s.modStream c st (Stream.fillReq r bs)).settleRead c st)

/-- Every request and write that a pseudo-channel's bank has accepted on a die and not served: its order (R127). -/
def State.bankQueue (s : State) (d a : Nat) : List Nat :=
  let here (b : Nat) : Bool := decide (chanOf b = chanOf a ∧ bankOf b = bankOf a)
  s.cells.flatMap fun e =>
    if dieOf e.1 = d then e.2.streams.flatMap fun x =>
      (x.2.reqs.filterMap fun r => match r.state with
        | .accepted n => if here r.addr then some n else none
        | _ => none) ++
      (x.2.writes.filterMap fun w => if here w.addr then w.granted else none)
    else []

/-- The bank rota of a pseudo-channel visits a bank and goes on from it (R127). Banks with nothing to serve have passed;
which of the others are ready is timing (R120, log 76). -/
def State.visitBank (s : State) (d a : Nat) : State :=
  s.modDie d fun D => { D with chans := alter {} D.chans (chanOf a) fun y => { y with bankPos := (bankOf a + 1) % 48 } }

/-- A bench port gives its turn to a seat and goes on from it; seats with nothing ready have passed (R120, R122). -/
def State.portTurn (s : State) (c : Nat) : State :=
  s.modDie (dieOf c) fun D => { D with ports := put 0 D.ports (benchOf c % 24) ((seatOf c + 1) % 16) }

/-- LOC of an uncorrectable HBM block (R284). -/
def hbmLoc (d a : Nat) : Nat := (3 * d + stackOf a) + (unitIn a % 32) * 16 + bankOf a * 1024

/-- A bank's wait may be the longest that a stream has seen (R129): an open question of time (log 133). -/
def State.noteBank (s : State) (c st a : Nat) : State :=
  let f := s.fresh
  if bit f.1 0 then
    f.2.modCell c fun x => { x with ctr := alter 0 x.ctr st fun v => setField (setField v 208 7 (chanOf a)) 215 6 (bankOf a) }
  else f.2

/-- MEMORY_RETURN (R111): request number `k` of a stream returns. A bank serves its accepted requests in
order (R127); a weight-cache read returns by the bench's port once its line is cached, and asks for its fill again
when the fill was discarded (R122, R123); a block whose fill met an uncorrectable error returns poisoned (R125).
`errs` gives what the block's check bits show as word 0, or those of a cached block's two words as 0 and 1. -/
def execMemoryReturn (c : CellIx) (st : StreamIx) (errs : WordErrs) (k : Nat) (s : State) : Res := s.onCell c <|
  let d := dieOf c
  match (((s.cell c).stream st).reqs)[k]? with
  | none => .next s
  | some r =>
    match r.state with
    | .accepted n =>
      if (s.bankQueue d r.addr).all fun m => decide (n ≤ m) then
        let q := s.checked (errOf errs 0) (r.data.map fun b => .of b false) (fun t => t.hbmCorrected d r.addr)
          (fun t => t.detect 0x2004 (dieUnit d) (s.cellPart c) (hbmLoc d r.addr) (stackLocal r.addr))
        .next (((q.2.visitBank d r.addr).noteBank c st r.addr).returned c st r q.1)
      else .next s
    | .filling =>
      let line := 256 * (r.addr / 256)
      let D := s.die d
      let l := look [] D.wc (wcSet line)
      if l.contains line then
        let s1 := (s.portTurn c).modDie d fun D =>
          { D with wc := put [] D.wc (wcSet line) (line :: l.filter fun y => decide (y ≠ line)) }
        let seen (w : Nat) (x : Ecc) (t : State) : State :=
          match x with
          | .corrected | .miscorrected => t.corrected c 2
          | .uncorrectable => t.detect 0x2003 (dieUnit d) (s.cellPart c) (d + wcSet line * 2 ^ 16) (64 * (r.addr / 64) + 32 * w)
          | _ => t
        let q := s1.seeWords seen errs ((wordsOf (r.addr % 64) r.size)) []
        .next (q.2.returned c st r ((s.readHbm d r.addr r.size).zipIdx.map fun b =>
          seenByte errs q.1 ((r.addr % 64 + b.2) / 32) ((r.addr + b.2) % 32) b.1))
      else .next (s.modDie d fun D => D.wantLine line)
    | .spoiled => .next (s.returned c st r (List.replicate r.size { byte := 0, poison := true, memErr := true }))
    | _ => .next s

/-! ## Writing streams (R108, R114, R132) -/

/-- What a write chart does with the bytes of an entry: bytes [pos, pos + size) go to an address, or
outside the window. -/
inductive Take where
  | write (pos : Nat) (addr : Int) (size : Nat) (ok : Bool)
  deriving DecidableEq, Repr

/-- The writes of the next entry, and the place in the walk after it (R108). A CLOSE with no byte used
pops nothing. -/
def takeEntry (w : Walk) (base : Int) (ext : Nat) : Nat → Nat → Nat → Nat → List Take → List Take × Nat × Nat
  | 0, pos, off, _, acc => (acc, pos, off)
  | fuel + 1, pos, off, fill, acc =>
    let n := w.body.length
    if 128 ≤ fill ∨ n = 0 ∨ w.iters * n ≤ pos then (acc, pos, off)
    else
      match w.body.getD (pos % n) .reserved with
      | .emit size disp =>
        let k := min (size - off) (128 - fill)
        let a : Int := match w.target (fun _ _ => .inl false) (pos / n) with
          | .off o => base + o + disp
          | _ => -1
        let t := Take.write fill (a + off) k (inWindow base ext a size)
        if size ≤ off + k then takeEntry w base ext fuel (pos + 1) 0 (fill + k) (acc ++ [t])
        else takeEntry w base ext fuel pos (off + k) (fill + k) (acc ++ [t])
      | .pad size =>
        let k := min (size - off) (128 - fill)
        if size ≤ off + k then takeEntry w base ext fuel (pos + 1) 0 (fill + k) acc
        else takeEntry w base ext fuel pos (off + k) (fill + k) acc
      | _ => if 0 < fill then (acc, pos + 1, 0) else takeEntry w base ext fuel (pos + 1) 0 fill acc

/-- The bytes of an entry with poisoned lanes as zeros (R108). -/
def cleanBytes (e : Entry) : List Byte :=
  (bytesOfBv 128 e.data).zipIdx.map fun b => if bit e.poison (b.2 / 2) then 0 else b.1

/-- The poisoned lanes of bytes [pos, pos + n) of an entry. -/
def poisonIn (m : BitVec 64) (pos n : Nat) : Nat :=
  ((List.range ((n + 1) / 2)).filter fun i => bit m (pos / 2 + i)).length

/-- The remote header of a write packet (R132). -/
def remoteHdr (rrec arm : Nat) (last : Bool) (pkt npkt : Nat) (step : BitVec 64) (attempt : BitVec 8) : BitVec 128 :=
  at' 128 0 8 rrec ||| at' 128 8 16 arm ||| bitAt 128 24 last ||| at' 128 32 20 pkt ||| at' 128 52 20 npkt |||
  at' 128 72 32 step.toNat ||| at' 128 104 8 attempt.toNat

/-- The mark of a remote write's sending stream in TAG, which R236 gives no use in a write: the cell and its chart slot, by
which a receiver tells the armings of one sender apart (log 139). -/
def writeTag (c st : Nat) : Nat := c + st * 2048

/-- Send the packet a remote write stream has packed (R132): unicast to the peer of its ring position,
multicast to the first receiver of the row or column (R248). -/
def State.flushRemote (s : State) (c st : Nat) (last : Bool) : State :=
  let x := (s.cell c).stream st
  let p := s.cellPart c
  let P := s.part p
  let r := s.remoteRec c x.hdr
  let hd := remoteHdr (chRrec x.hdr) x.arming last x.pkts (if last then x.pkts + 1 else 0) P.period.step P.period.attempt
  let payload := bytesOfBv 16 hd ++ x.pkt
  let addr := fldN r 32 40 + x.pktOff
  let vc := 4 + fldN r 3 2
  let s1 :=
    if fldN r 5 2 = 0 then
      match P.ringSeat (fldN r 3 2) (fldN r 8 12) with
      | some seat => s.sendPacket p seat (fldN r 26 2) 0 vc addr (writeTag c st) payload
      | none => s
    else
      let port := if fldN r 5 2 = 1 then (if bit r 7 then 0 else 2) else (if bit r 7 then 3 else 1)
      let nb : Nat × Nat := match port with
        | 0 => ((s.fabric.ownX + s.fabric.sizeX - 1) % s.fabric.sizeX, s.fabric.ownY)
        | 1 => (s.fabric.ownX, (s.fabric.ownY + 1) % s.fabric.sizeY)
        | 2 => ((s.fabric.ownX + 1) % s.fabric.sizeX, s.fabric.ownY)
        | _ => (s.fabric.ownX, (s.fabric.ownY + s.fabric.sizeY - 1) % s.fabric.sizeY)
      match P.chart.members.find? fun m => decide (seatX (P.chart.entry m) = nb.1 ∧ seatY (P.chart.entry m) = nb.2) with
      | some seat =>
        let h := mkHdr nb.1 nb.2 (fldN r 26 2) p s.fabric.ownX s.fabric.ownY vc seat P.seat.toNat 0 payload.length addr (writeTag c st) P.gen.toNat
        s.placePacket p nb.1 nb.2 ⟨h ||| at' 256 77 2 (fldN r 5 2) ||| bitAt 256 79 (bit r 7) ||| at' 256 80 6 (fldN r 20 6), payload⟩
      | none => s.countFabric P.firstPort 0 208 16 1
  s1.modStream c st fun y => { y with pkt := [], pkts := y.pkts + 1 }

/-- Pack the bytes of an EMIT at a window offset (R132): a packet ends where the offset does not follow on,
and at 4,064 data bytes. -/
def State.packRemote (s : State) (c st : Nat) (off : Nat) (bs : List Byte) : State :=
  bs.zipIdx.foldl (fun t b =>
    let x := (t.cell c).stream st
    let o := off + b.2
    let t1 := if !x.pkt.isEmpty && (decide (x.pktOff + x.pkt.length ≠ o) || decide (x.pkt.length = 4064)) then
      t.flushRemote c st false else t
    t1.modStream c st fun y => { y with pktOff := if y.pkt.isEmpty then o else y.pktOff, pkt := y.pkt ++ [b.1] }) s

/-- One poisoned-lane check of a write chart: every lane is counted, and under the chart's own Error policy
the first of an arming is a detected error (R108, R118; the count as log 156); `new` of them come from no memory error
already reported. -/
def State.writePoison (s : State) (c st n new : Nat) : State :=
  if n = 0 then s
  else
    let x := (s.cell c).stream st
    let s1 := s.modCell c fun y => { y with poisoned := y.poisoned + BitVec.ofNat 32 n }
    if chPolicy x.hdr = 0 ∧ x.warned = false ∧ 0 < new then
      (s1.modStream c st fun y => { y with warned := true }).detectCell c 0x4003 c x.chainOff
    else s1

/-- One EMIT's bytes of a popped entry (R108). -/
def State.takeOne (c st : Nat) (e : Entry) (s : State) : Take → State
  | .write pos a n ok =>
    let x := (s.cell c).stream st
    let s1 := s.writePoison c st (poisonIn e.poison pos n) (poisonIn (e.poison &&& ~~~e.memErr) pos n)
    if ok = false then s1.detectCell c 0x4004 c a.toNat
    else
      let bs := ((cleanBytes e).drop pos).take n
      let s2 := s1.countStream c st 32 32 n
      match chSpace x.hdr with
      | 0 => (s2.modStream c st fun y => { y with writes := y.writes ++ [{ space := 0, addr := a.toNat, bytes := bs }] }).countStream
          c st 64 32 (32 * ((a.toNat + n - 1) / 32 - a.toNat / 32 + 1))
      | 3 => (s2.packRemote c st a.toNat bs).countStream c st 64 32 (64 * (blocksOf a.toNat n).length)
      | _ =>
        (blocksOf a.toNat n).foldl (fun t b =>
          (t.modStream c st fun y => { y with writes := y.writes ++
            [{ space := 2, addr := b.2.1, bytes := (bs.drop b.1).take b.2.2 }] }).countStream c st 64 32 64) s2

/-- Packets of an arming that have not left for their first link unit or local destination (R132). -/
def State.remoteWaiting (s : State) (rrec arm : Nat) : Bool :=
  s.fabric.inject.any fun e =>
    let h := bvOfBytes 128 (e.pkt.payload.take 16)
    decide (fldN e.pkt.hdr 56 4 = 0 ∧ fldN h 0 8 = rrec ∧ fldN h 8 16 = arm)

/-- A write stream is complete when every entry of its arming has been taken, every write accepted, and
every remote packet accepted (R114, R132); it is then disarmed unless it persists (R117). -/
def State.settleWrite (s : State) (c st : Nat) : State :=
  let x := (s.cell c).stream st
  if x.armed && !x.done && decide (x.entries = chEntries x.hdr) && x.writes.isEmpty && x.pkt.isEmpty &&
      !(chSpace x.hdr == 3 && s.remoteWaiting (chRrec x.hdr) x.arming) then
    s.modStream c st fun y => { y with done := true, armed := chPersist y.hdr }.nextArming
  else s

/-- The pop of a Y queue by its write stream: a push that waited completes, and its wait counts (R129). -/
def State.popOut (s : State) (c q : Nat) : Option (Entry × State) :=
  ((s.cell c).pop q).map fun r =>
    let s1 := s.setCell c r.2
    (r.1, if ((s.cell c).queue q).waiting.isEmpty then s1 else s1.countWait c (q - 8))

/-- WRITE_STREAM_ENTRY (R108, R114): a write stream pops the oldest entry of its Y queue and issues the
writes of its EMITs; those to HBM take request slots of the fetch engine (R109). -/
def execWriteStreamEntry (c : CellIx) (st : StreamIx) (s : State) : Res := s.onCell c <|
  let x := (s.cell c).stream st
  if 8 ≤ st.val ∧ x.armed ∧ x.done = false ∧ x.entries < chEntries x.hdr then
    match s.popOut c (st.val + 8) with
    | none => .next s
    | some (e, y) =>
      let f := takeEntry (walkOf x.instrs) x.base (chExtent x.hdr) entryFuel x.pos x.off 0 []
      let s1 := y.countStream c st 0 32 1
      let s2 := f.1.foldl (State.takeOne c st e) s1
      let s3 := s2.modStream c st fun y => { y with pos := f.2.1, off := f.2.2, entries := y.entries + 1 }
      let x3 := (s3.cell c).stream st
      let s4 := if chSpace x.hdr = 3 ∧ x3.entries = chEntries x.hdr ∧ x3.pkt ≠ [] then s3.flushRemote c st true else s3
      .next ((State.issueReqs c false 32 s4).settleWrite c st)
  else .next s

/-- The first write of a stream that its memory takes now: one to the cell store, or one that a pseudo-channel has
accepted and whose bank has served all before it (R127). -/
def State.nextWrite (s : State) (d : Nat) (l : List PendWrite) : Option (Nat × PendWrite) :=
  (l.zipIdx.find? fun e => decide (e.1.space = 0) ||
    match e.1.granted with
    | some n => (s.bankQueue d e.1.addr).all fun m => decide (n ≤ m)
    | none => false).map fun e => (e.2, e.1)

/-- WRITE_ACCEPTED (R114): a write of a stream is accepted by its memory: one to the cell store, where a word written in
part is read first (R68; `x.errs` are the words that show an error), or one to HBM that a write turn has taken (R124)
and whose bank has served all before it (R127). Its request slot goes to what waits for one. A remote stream completes
once its packets have been accepted. -/
def execWriteAccepted (c : CellIx) (x : WriteAt) (s : State) : Res := s.onCell c <|
  let d := dieOf c
  match s.nextWrite d ((s.cell c).stream x.st).writes with
  | none => .next (s.settleWrite c x.st)
  | some (i, w) =>
    let s1 := if w.space = 0 then s.csStore c 0 w.addr w.bytes x.errs else s.visitBank d w.addr
    .next ((State.issueReqs c false 1 (s1.modStream c x.st fun y => { y with writes := y.writes.eraseIdx i })).settleWrite c x.st)

end Sys2Proof.Machine
end

