-- ==== Sys2Proof/Machine/Flags.lean ====
section
/-! DEFINITION. The flag computations: poison bits and their consumption under a policy (R79, R118), the taint of tile slots (R71, R119). -/

namespace Sys2Proof.Machine

/-- The fault policies (R103, R118). -/
def polError : BitVec 2 := 0
def polPropagate : BitVec 2 := 1

/-- The lanes among `ls` that are poisoned in an entry. -/
def badLanes (e : Entry) (ls : List Nat) : List Nat := ls.filter fun l => bit e.poison l

/-- A unit consumes the poisoned lanes among the first `n` of an entry for an operation (R118): each is
counted, and under Error the first of the descriptor in the cell is a detected error 0x4003, unless a memory
error already reported is its cause. The cell's count has 32 bits, wraps, and goes back to 0 at a device reset alone
(DESIGN CHOICE, log 156). -/
def State.consumePoison (s : State) (c : Nat) (op : Op) (e : Entry) (n : Nat) : State :=
  let bad := badLanes e (List.range n)
  if bad.isEmpty then s
  else
    let s1 := s.modCell c fun x => { x with poisoned := x.poisoned + BitVec.ofNat 32 bad.length }
    if e.policy = polError ∧ (s.cell c).warned.contains op.id = false ∧ (bad.any fun l => !bit e.memErr l) then
      (s1.modCell c fun x => { x with warned := op.id :: x.warned }).detectCell c 0x4003 c op.off
    else s1

/-- Whether a consumed poisoned lane of an entry goes on as poison (R118). -/
def spreads (e : Entry) : Bool := decide (e.policy = polPropagate)

/-- A mask with the bits given set. -/
def maskOf (ls : List Nat) : BitVec 64 := ls.foldl (fun m l => m ||| (1#64 <<< l)) 0

/-- R119: rows, columns and elements tainted. -/
def Slot.taintRows (ls : List Nat) (t : Slot) : Slot := { t with rowTaint := t.rowTaint ||| maskOf ls }
def Slot.taintCols (ls : List Nat) (t : Slot) : Slot := { t with colTaint := t.colTaint ||| maskOf ls }
def Slot.taintElems (ls : List Nat) (t : Slot) : Slot :=
  { t with elemTaint := ls.foldl (fun m l => insNat l m) t.elemTaint }

/-- R71, R119: an initialisation by Clear or Load ends every taint of the slot. -/
def Slot.untaint (t : Slot) : Slot :=
  { t with rowTaint := 0, colTaint := 0, elemTaint := [], faulty := false }

/-- Whether the drained element (i, j) carries poison (R71, R119). -/
def Slot.poisonAt (t : Slot) (i j : Nat) : Bool :=
  t.faulty || bit t.rowTaint i || bit t.colTaint j || t.elemTaint.contains (64 * i + j)

end Sys2Proof.Machine
end

