-- ==== Sys2Proof/Machine/Lanes.lean ====
section
/-! DEFINITION. Lane generators (R85, R86), and how elements fill lanes and entries (R43, R62, R183-R185). -/

namespace Sys2Proof.Machine

/-! ## Lane generators (R85, R86) -/

def fmix (x0 : BitVec 64) : BitVec 64 :=
  let x1 := (x0 ^^^ (x0 >>> 33)) * 0xFF51AFD7ED558CCD#64
  let x2 := (x1 ^^^ (x1 >>> 33)) * 0xC4CEB9FE1A85EC53#64
  x2 ^^^ (x2 >>> 33)

def laneSeed (job step : BitVec 64) (die bench seat lane pass : Nat) : BitVec 64 :=
  let loc := BitVec.ofNat 64 (pass * 2 ^ 32) ||| BitVec.ofNat 64 (lane * 2 ^ 16) |||
    BitVec.ofNat 64 (die * 2 ^ 12) ||| BitVec.ofNat 64 (bench * 2 ^ 4) ||| BitVec.ofNat 64 seat
  let r := fmix (fmix (fmix job ^^^ step) ^^^ loc)
  if r = 0 then 0x9E3779B97F4A7C15#64 else r

/-- The next state of a generator, and its output. -/
def laneNext (st : BitVec 64) : BitVec 64 × BitVec 64 :=
  let x1 := st ^^^ (st >>> 12)
  let x2 := x1 ^^^ (x1 <<< 25)
  let x3 := x2 ^^^ (x2 >>> 27)
  (x3, x3 * 0x2545F4914F6CDD1D#64)

/-- Seed the generators of lanes [lo, lo + 64) of a cell for an operation (R86). -/
def State.seedLanes (s : State) (c lo pass : Nat) : State :=
  let P := s.part (s.cellPart c)
  s.modCell c fun x => { x with lanes := (List.range 64).foldl (fun m l => put 0 m (lo + l)
    (laneSeed P.image.seed P.period.step (dieOf c) (benchOf c % 24) (seatOf c) (lo + l) pass)) x.lanes }

/-- `k` outputs of one generator, as one number with the first output lowest, and its state after them. -/
def laneDraw : Nat → BitVec 64 → BitVec 64 × Nat
  | 0, st => (st, 0)
  | k + 1, st =>
    let r := laneNext st
    let t := laneDraw k r.1
    (t.1, r.2.toNat + 2 ^ 64 * t.2)

/-- `k` outputs of each generator of lanes [lo, lo + 64), and the cell after them. A generator reads 0 before its
first seeding, where R85 gives no state (DESIGN CHOICE, log 5); R86 seeds it before every use. -/
def Cell.draw (lo k : Nat) (x : Cell) : List Nat × Cell :=
  let rs := (List.range 64).map fun l => laneDraw k (look 0 x.lanes (lo + l))
  (rs.map Prod.snd,
   { x with lanes := rs.zipIdx.foldl (fun m e => put 0 m (lo + e.2) e.1.1) x.lanes })

/-! ## Lanes and entries -/

/-- A list padded to `n` elements. -/
def padTo {α : Type} (n : Nat) (d : α) (l : List α) : List α := l ++ List.replicate (n - l.length) d

/-- The bytes of an entry, with the poison of their lanes. -/
def lbytesOf (e : Entry) : List LByte :=
  (bytesOfBv 128 e.data).zipIdx.map fun b => .of b.1 (bit e.poison (b.2 / 2))

/-- An entry from up to 128 bytes; a lane is poisoned when a byte of it is. It carries Propagate (R118). -/
def entryOf (bs : List LByte) : Entry :=
  { data := bvOfBytes 1024 (bs.map LByte.byte)
    poison := maskOf ((bs.zipIdx.filter fun b => b.1.poison).map fun b => b.2 / 2)
    policy := polPropagate }

/-- Lane i of an entry. -/
def laneOf (e : Entry) (i : Nat) : BitVec 16 := fld e.data (16 * i) 16

/-- The elements of lane i of an operand entry (R43); a poisoned lane enters as +0 (R79). -/
def elemsOf (e : Entry) (fmt i : Nat) : List Val :=
  let r := rankOfCode fmt
  if bit e.poison i then List.replicate r .zero
  else (List.range r).map fun k => decodeBits (fmtOfCode fmt) (fldN (laneOf e i) (16 / r * k) (16 / r))

/-- The full entries that a byte sequence holds, and the bytes left over. -/
def cutEntries : Nat → List LByte → List Entry × List LByte
  | 0, bs => ([], bs)
  | fuel + 1, bs =>
    if bs.length < 128 then ([], bs)
    else let r := cutEntries fuel (bs.drop 128); (entryOf (bs.take 128) :: r.1, r.2)

/-- Push entries to an output, in order; an output that names no queue receives nothing (R440). -/
def Cell.pushAll (q : Nat) (es : List Entry) (x : Cell) : Cell :=
  if named q then es.foldl (fun y e => y.push (outEnd q) e) x else x

/-- Free entries of an output's producer end, 128 for an output that names no queue. -/
def Cell.room (x : Cell) (q : Nat) : Nat :=
  if named q then
    let t := x.queue (outEnd q)
    if t.waiting.isEmpty then queueDepth (outEnd q) - t.entries.length else 0
  else 128

/-! ## Vectors (R183-R185) -/

/-- The bytes of a popped entry in vector order: a rank format is element-lane packed, and its vectors follow
one another (R185); an E2M1 element takes a byte of its own here. -/
def unpack (fmt : Nat) (e : Entry) : List InByte :=
  let sp := spreads e
  let raw := (bytesOfBv 128 e.data).zipIdx.map fun b => (⟨b.1, bit e.poison (b.2 / 2), sp⟩ : InByte)
  match fmt with
  | 1 | 2 => (List.range 2).flatMap fun k => (raw.zipIdx.filter fun b => decide (b.2 % 2 = k)).map Prod.fst
  | 3 => (List.range 4).flatMap fun k => (List.range 64).map fun l =>
      ⟨BitVec.ofNat 8 (fldN e.data (16 * l + 4 * k) 4), bit e.poison l, sp⟩
  | _ => raw

/-- Bytes of one element, as `unpack` lays them out. -/
def elemSize (fmt : Nat) : Nat := if fmt = 0 then 2 else if fmt ≤ 3 then 1 else if fmt = 4 then 4 else 5

/-- Bytes of one vector, as `unpack` lays them out. -/
def vecSize (fmt : Nat) : Nat := 64 * elemSize fmt

/-- The vector count of an operation (R185). -/
def vecCount (steps fmt : Nat) : Nat :=
  if fmt ≤ 3 then steps * rankOfCode fmt else if fmt = 4 then steps / 2 else steps * 128 / 320

/-- An input element: its exact value, and whether it carries poison on; one in a poisoned lane enters as +0
(R118). -/
structure InElem where
  val    : Val
  poison : Bool
  deriving DecidableEq, Repr

/-- The elements that bytes hold, `n` of them. -/
def elemsIn (fmt n : Nat) (bs : List InByte) : List InElem :=
  (List.range n).map fun i =>
    let b := (bs.drop (elemSize fmt * i)).take (elemSize fmt)
    if b.any InByte.bad then ⟨.zero, b.any fun x => x.bad && x.spread⟩
    else ⟨decodeBits (fmtOfCode fmt) (natOfBytes (b.map InByte.byte)), false⟩

/-- Pop entries of an input until `need` bytes are at hand or the queue is empty; each counts its poisoned
lanes (R118). At most `fuel` entries. -/
def State.pull (c : Nat) (op : Op) (q fmt need : Nat) : Nat → List InByte → State → List InByte × State
  | 0, buf, s => (buf, s)
  | fuel + 1, buf, s =>
    if need ≤ buf.length then (buf, s)
    else
      match s.consume c q with
      | none => (buf, s)
      | some (e, t) => State.pull c op q fmt need fuel (buf ++ unpack fmt e)
          (t.consumePoison c op e 64)

/-- A result element of `w` bits and its poison. -/
def lval (bits : Nat) (poison : Bool) : LVal := ⟨BitVec.ofNat 40 bits, poison⟩

/-- An entry from 64 lanes of elements of a rank format, r to a lane (R43); it carries Propagate. -/
def laneEntry (r : Nat) (lanes : List (List LVal)) : Entry :=
  { data := bvOfBytes 1024 (lanes.flatMap fun es =>
      bytesOfNat 2 ((es.zipIdx.map fun e => e.1.bits.toNat * 2 ^ (16 / r * e.2)).sum))
    poison := maskOf ((lanes.zipIdx.filter fun e => e.1.any LVal.poison).map Prod.snd)
    policy := polPropagate }

/-- An entry in element-lane packing from up to r vectors; missing ones are +0 (R183). -/
def packVectors (r : Nat) (vs : List (List LVal)) : Entry :=
  laneEntry r ((List.range 64).map fun l => (padTo r [] vs).map fun v => v.getD l (lval 0 false))

/-- The entries of a block of 64 vectors in cross packing (R184). -/
def crossEntries (r : Nat) (block : List (List LVal)) : List Entry :=
  (List.range (64 / r)).map fun e => laneEntry r (block.map fun v => (v.drop (r * e)).take r)

/-- The bytes of a result vector in FP32 or W40 (R183). -/
def vecBytes (fmt : Nat) (v : List LVal) : List LByte :=
  v.flatMap fun x => (bytesOfNat (elemSize fmt) x.bits.toNat).map fun b => .of b x.poison

/-- One more result vector in format `fmt`: the entries it completes on OUT0 and, in cross packing when
`crossed`, on OUT1. -/
def OutBuf.add (fmt : Nat) (crossed : Bool) (v : List LVal) (o : OutBuf) : List Entry × List Entry × OutBuf :=
  let r := rankOfCode fmt
  let blk := if crossed then o.cross ++ [v] else []
  let c := if blk.length = 64 then (crossEntries r blk, []) else ([], blk)
  if r = 0 then
    let k := cutEntries 4 (o.bytes ++ vecBytes fmt v)
    (k.1, c.1, { o with bytes := k.2, cross := c.2 })
  else
    let p := o.pend ++ [v]
    if p.length = r then ([packVectors r p], c.1, { o with pend := [], cross := c.2 })
    else ([], c.1, { o with pend := p, cross := c.2 })

/-- The last entry of an output that its vectors have not filled; what is missing is +0 (R183, log 29). -/
def OutBuf.flush (fmt : Nat) (o : OutBuf) : List Entry :=
  (if o.pend.isEmpty then [] else [packVectors (rankOfCode fmt) o.pend]) ++
  (if o.bytes.isEmpty then [] else [entryOf (padTo 128 (.of 0 false) o.bytes)])

end Sys2Proof.Machine
end

