-- ==== Sys2Proof/Machine/Remote.lean ====
section
/-! DEFINITION. Remote writes and reads at their receivers, and the remote gateway's turns (R124, R125, R131-R133). -/

namespace Sys2Proof.Machine

/-! ## Armings (R132) -/

/-- One more packet of an arming written; LAST gives how many there are (R132). An arming is told apart by its record,
sender, number ARM, and the mark of its stream in TAG (DESIGN CHOICE, log 139: the remote header names no stream). -/
def arrive (rrec src tag arm : Nat) (total : Option Nat) : List Arrival → List Arrival
  | [] => [{ rrec := rrec, src := src, tag := tag, arm := arm, got := 1, total := total }]
  | a :: l =>
    if a.rrec = rrec ∧ a.src = src ∧ a.tag = tag ∧ a.arm = arm then
      { a with got := a.got + 1, total := if total.isSome then total else a.total } :: l
    else a :: arrive rrec src tag arm total l

/-- A packet of an arming has been written: when every packet of the arming has been, its arrival tally rises by 1
(R132). A packet of an attempt that has been left counts for none (R229). -/
def State.arrived (s : State) (g : GatePkt) : State :=
  let P := s.part g.part
  let h := g.rhdr
  let rrec := fldN h 0 8
  let src := pktLsrc g.hdr
  let tag := pktTag g.hdr
  let arm := fldN h 8 16
  if fld h 72 32 ≠ P.period.step.setWidth 32 ∨ fld h 104 8 ≠ P.period.attempt then s
  else
    let l := arrive rrec src tag arm (if bit h 24 then some (fldN h 52 20) else none) P.period.arrivals
    let whole := l.any fun a =>
      decide (a.rrec = rrec ∧ a.src = src ∧ a.tag = tag ∧ a.arm = arm ∧ a.total = some a.got)
    let s1 := s.modPart g.part fun P => { P with period := { P.period with arrivals := l } }
    if whole then s1.addOwn g.part (fld (P.image.remotes.getD rrec 0) 96 14) 1 0 else s1

/-- The answer to a read request: the block with the request's TAG. An uncorrectable block is reported and answered
with poisoned zeros; the poison travels in bit 60 of the packet header, which R236 reserves (DESIGN CHOICE, log 27). -/
def State.answerRead (s : State) (g : GatePkt) (bs : List Byte) : State :=
  let h := g.hdr
  let d := pktDdie h
  let q := s.checked g.ecc (bs.map fun b => .of b false) (fun t => t.hbmCorrected d (pktAddr h))
    (fun t => t.detect 0x2004 (dieUnit d) g.part (hbmLoc d (pktAddr h)) (stackLocal (pktAddr h)))
  q.2.sendMarked (decide (g.ecc = .uncorrectable)) g.part (pktLsrc h) (dieOf (pktTag h % 2048)) 2 (pktVc h) (pktAddr h)
    (pktTag h) (q.1.map LByte.byte)

/-! ## The remote gateway (R125) -/

/-- The bytes of a write by 64-byte blocks. -/
def writeBlocks (a : Nat) (bs : List Byte) : List (Nat × List Byte) :=
  (blocksOf a bs.length).map fun b => (b.2.1, (bs.drop b.1).take b.2.2)

/-- A packet takes its place at its die's remote gateway; one without bytes is done at once. -/
def State.toGateway (s : State) (g : GatePkt) : State :=
  if g.todo.isEmpty then s.arrived g
  else s.modDie (pktDdie g.hdr) fun D => { D with gateway := D.gateway ++ [g] }

/-- Place `i` of the gateway without its block at place `j`, or gone when that was its last (R132). -/
def dropBlock (i j : Nat) (l : List GatePkt) : List GatePkt :=
  match l[i]? with
  | some g => if g.todo.length ≤ 1 then l.eraseIdx i else l.modify i fun g => { g with todo := g.todo.eraseIdx j }
  | none => l

/-- The oldest block of the gateway on a pseudo-channel: the packet's place, the packet, the block's place. -/
def gateNext (pc : Nat) (l : List GatePkt) : Option (Nat × GatePkt × Nat × Nat × List Byte) :=
  l.zipIdx.findSome? fun e =>
    (e.1.todo.zipIdx.find? fun b => decide (chanOf b.1.1 = pc)).map fun b => (e.2, e.1, b.2, b.1.1, b.1.2)

/-- The remote turn of a pseudo-channel (R124, R125): the gateway's oldest block there is written or read, once the
host's filter lets it (R315); the turn idles where the gateway has none. -/
def State.remoteTurn (s : State) (d pc : Nat) : State :=
  match gateNext pc (s.die d).gateway with
  | none => s
  | some (i, g, j, a, bs) =>
    let n := if g.write then bs.length else 64
    if !(s.cxl.mustSnoop d a n g.write).isEmpty then s.snoopRange d a n g.write
    else
      let data := s.readHbm d a n
      let s1 := s.modDie d fun D => { D with gateway := dropBlock i j D.gateway }
      let s2 := if g.write then s1.writeHbm d a bs else s1
      if g.write then (if g.todo.length ≤ 1 then s2.arrived g else s2) else s2.answerRead g data

/-! ## Packets -/

/-- REMOTE_WRITE_PACKET (R132): a packet of the attempt the receiver is in goes to its die's remote gateway, which
writes it at ADDR in remote turns, whatever its order (it waits while the attempt's period has not begun); one of another attempt is discarded and counted; one whose
record is not valid, or names another die, is reported as a reduction header mismatch is (R217): LOC holds RREC and
DETAIL the first 64 bits of the remote header (DESIGN CHOICE, log 140: R284 gives them for reductions only). -/
def execRemoteWritePacket (p : PartIx) (pkt : Packet) (s : State) : Res :=
  s.defers (.remoteWritePacket p pkt) <|
  if (s.part p).period.waiting.isSome then .next s
  else
  let s := s.takeDelivered p fun q => decide (q = pkt)
  let P := s.part p
  let h := bvOfBytes 128 (pkt.payload.take 16)
  let rrec := fldN h 0 8
  let r := P.image.remotes.getD rrec 0
  if fld h 72 32 ≠ P.period.step.setWidth 32 ∨ fld h 104 8 ≠ P.period.attempt ∨ P.state ≠ .running then
    .next (s.countFabric P.firstPort 0 192 16 1)
  else if !bit r 2 ∨ fldN r 26 2 ≠ pktDdie pkt.hdr then
    .next (s.detect 0x4002 (dieUnit (pktDdie pkt.hdr)) p rrec (fldN h 0 64))
  else
    .next (s.toGateway { part := p, hdr := pkt.hdr, write := true, rhdr := h
                         todo := writeBlocks (pktAddr pkt.hdr) (pkt.payload.drop 16) })

/-- READ_REQUEST (R133): a block to be read in remote turns and answered. `ecc` is what its check bits will show. -/
def execReadRequest (p : PartIx) (pkt : Packet) (ecc : Ecc) (s : State) : Res :=
  s.defers (.readRequest p pkt ecc) <|
  .next ((s.takeDelivered p fun q => decide (q = pkt)).toGateway
    { part := p, hdr := pkt.hdr, write := false, ecc := ecc, todo := [(pktAddr pkt.hdr, [])] })

/-- READ_RESPONSE (R133): the bytes go to the request that TAG names, whatever the order. A response to a request from
before the cell's last form reset is discarded (R117). -/
def execReadResponse (p : PartIx) (pkt : Packet) (s : State) : Res :=
  s.defers (.readResponse p pkt) <|
  let s := s.takeDelivered p fun q => decide (q = pkt)
  let tag := pktTag pkt.hdr
  let c := tag % 2048
  let ctx := tag / 2048 % 1024
  let blk := tag / 2097152 % 4
  let found := (s.cell c).streams.findSome? fun e =>
    (e.2.reqs.find? fun r => decide (r.state = .remote ∧ r.ctx = ctx ∧ r.blk % 4 = blk)).map fun r => (e.1, r)
  match found with
  | none => .next s
  | some (st, r) =>
    if s.partOf (dieOf c) ≠ some p.val ∨ (s.cell c).resets.toNat ≠ tag / 8388608 then .next s
    else
      let bs : List LByte := if bit pkt.hdr 60 then List.replicate r.size { byte := 0, poison := true, memErr := true }
        else ((pkt.payload.drop (r.addr % 64)).take r.size).map fun b => .of b false
      .next (s.returned c st r bs)

end Sys2Proof.Machine
end

