-- ==== Sys2Proof/Machine/HbmTurns.lean ====
section
/-! DEFINITION. HBM turns and weight-cache fills (R121-R127). -/

namespace Sys2Proof.Machine

/-- The shares of a die's partition in sixteenths: read, write, remote; 8, 4, 4 by default (R124, R327). -/
def State.shares (s : State) (d : Nat) : Nat × Nat × Nat :=
  match s.partOf d with
  | some p =>
    let v := (s.part p).image.shares
    if v = 0 then (8, 4, 4) else (fldN v 0 5, fldN v 5 5, fldN v 10 5)
  | none => (8, 4, 4)

/-- The owners of a resource in the timetable, with their order (R333). -/
def Partition.owners (P : Partition) (rtype d res : Nat) : Option (List Nat) :=
  (P.image.timetable.find? fun r => decide (fldN r 0 4 = rtype ∧ fldN r 32 2 = d ∧ fldN r 16 16 = res)).map fun r =>
    (List.range (fldN r 8 8)).map fun k => fldN r (128 + 64 * k) 16

/-- The read list or the write list of a pseudo-channel (R125): benches 0-23, then for reads the fill
engine, unless the timetable gives it. -/
def State.channelList (s : State) (d pc : Nat) (read : Bool) : List Nat :=
  let dflt := List.range (if read then 25 else 24)
  match s.partOf d with
  | some p => ((s.part p).owners (if read then 1 else 2) d pc).getD dflt
  | none => dflt

/-- The class of the next turn: 0 read, 1 write, 2 remote, in rotation among the classes with share left
in the cycle of 16; a new cycle begins when none has (R124). -/
def Chan.nextClass (sh : Nat × Nat × Nat) (x : Chan) : Nat × Chan :=
  let left (y : Chan) (k : Nat) : Bool :=
    match k with
    | 0 => decide (y.readUsed < sh.1)
    | 1 => decide (y.writeUsed < sh.2.1)
    | _ => decide (y.remUsed < sh.2.2)
  let pick (y : Chan) : Option Nat := [y.cls, (y.cls + 1) % 3, (y.cls + 2) % 3].find? (left y)
  let use (k : Nat) (y : Chan) : Chan :=
    match k with
    | 0 => { y with readUsed := y.readUsed + 1, cls := 1 }
    | 1 => { y with writeUsed := y.writeUsed + 1, cls := 2 }
    | _ => { y with remUsed := y.remUsed + 1, cls := 0 }
  match pick x with
  | some k => (k, use k x)
  | none =>
    let y := { x with readUsed := 0, writeUsed := 0, remUsed := 0, cls := 0 }
    let k := (pick y).getD 0
    (k, use k y)

/-- The reads and writes that a cell has accepted and unserved on a pseudo-channel (R127). -/
def Cell.acceptedOn (c : Cell) (pc : Nat) : Nat :=
  (c.streams.map fun x => (x.2.reqs.filter fun r =>
    match r.state with
    | .accepted _ => decide (chanOf r.addr = pc)
    | _ => false).length + (x.2.writes.filter fun w => decide (w.granted.isSome ∧ chanOf w.addr = pc)).length).sum

/-- The pseudo-channel numbers one more accepted request (R127). -/
def State.countAccepted (s : State) (d pc : Nat) : State :=
  s.modDie d fun D => { D with chans := alter {} D.chans pc fun y => { y with accepted := y.accepted + 1 } }

/-- The oldest read request of a cell on a pseudo-channel that holds a request slot and waits for its turn (R110). -/
def State.nextRead (s : State) (c pc : Nat) : Option (Nat × Req) :=
  (s.cell c).streams.findSome? fun e =>
    (e.2.reqs.find? fun r => decide (r.state = .waiting ∧ chanOf r.addr = pc)).map fun r => (e.1, r)

/-- The read turn of a seat (R125, R127): its request is accepted, or the turn passes, as that of a paused cell does (R415). A recorded line is
snooped first, and the request waits for the host's response (R315). -/
def State.readTurn (s : State) (d pc c : Nat) : State :=
  if (s.cell c).paused ∨ 2 ≤ (s.cell c).acceptedOn pc then s
  else
    match s.nextRead c pc with
    | none => s
    | some (st, r) =>
      if !(s.cxl.mustSnoop d r.addr r.size false).isEmpty then s.snoopRange d r.addr r.size false
      else
        let n := (look {} (s.die d).chans pc).accepted
        let bs := s.readHbm d r.addr r.size
        (s.modStream c st fun x =>
          { x with reqs := x.reqs.map fun q =>
            if q.id = r.id then { q with state := .accepted n, data := bs } else q }).countAccepted d pc

/-- The fill engine's read turn: a block of its oldest unfinished fill on this pseudo-channel, at most 32
accepted and unserved (R122, R127). -/
def State.fillTurn (s : State) (d pc : Nat) : State :=
  let D := s.die d
  match D.fills.find? fun f => decide (chanOf f.line = pc ∧ f.blocks < 4) with
  | none => s
  | some f =>
    let a := f.line + 64 * f.blocks
    if 32 ≤ ((D.fills.filter fun g => decide (chanOf g.line = pc)).map Fill.blocks).sum then s
    else if !(s.cxl.mustSnoop d a 64 false).isEmpty then s.snoopRange d a 64 false
    else s.setDie d { D with fills := D.fills.map fun g => if g.line = f.line then { g with blocks := g.blocks + 1 } else g }

/-- The write turn of a seat (R125, R127): its oldest write on this pseudo-channel that holds a request slot is
accepted, or the turn passes, as that of a paused cell does (R415). A bank serves in the order of acceptance, so the bytes change now; WRITE_ACCEPTED tells
the stream once the bank has served it. The covered weight-cache lines are invalidated first (R123). -/
def State.writeTurn (s : State) (d pc c : Nat) : State :=
  let fits (w : PendWrite) : Bool := decide (w.space = 2 ∧ w.slot ∧ w.granted = none ∧ chanOf w.addr = pc)
  if (s.cell c).paused ∨ 2 ≤ (s.cell c).acceptedOn pc then s
  else
    match (s.cell c).streams.findSome? fun e => (e.2.writes.find? fits).map fun w => (e.1, w) with
    | none => s
    | some (st, w) =>
      if !(s.cxl.mustSnoop d w.addr w.bytes.length true).isEmpty then s.snoopRange d w.addr w.bytes.length true
      else
        let n := (look {} (s.die d).chans pc).accepted
        (((s.writeHbm d w.addr w.bytes).modStream c st fun x =>
          let ws := match x.writes.findIdx? fits with
            | some i => x.writes.modify i fun v => { v with granted := some n }
            | none => x.writes
          { x with writes := ws })).countAccepted d pc

/-- HBM_TURN (R124, R125): one turn of a pseudo-channel. It goes to the next class, and within it to the
next owner of its list and the next seat of the bench's rota; an owner with nothing ready passes, and the
turn idles. A remote turn is the remote gateway's. While an exam slice holds the pseudo-channel its turns pass
(R419). -/
def execHbmTurn (d : DieIx) (pc : Fin 96) (s : State) : Res :=
  let x := look {} (s.die d).chans pc
  let k := x.nextClass (s.shares d)
  let list := s.channelList d pc (k.1 == 0)
  let pos := if k.1 = 0 then k.2.readPos else k.2.writePos
  let o := list.getD (pos % max 1 list.length) 0
  let seat := look 0 k.2.seatPos o % 16
  let y : Chan := if k.1 = 2 then k.2 else
    let z := if k.1 = 0 then { k.2 with readPos := (pos + 1) % max 1 list.length }
      else { k.2 with writePos := (pos + 1) % max 1 list.length }
    if o < 24 then { z with seatPos := put 0 z.seatPos o ((seat + 1) % 16) } else z
  let s1 := s.modDie d fun D => { D with chans := put {} D.chans pc y }
  let c := 384 * d.val + 16 * o + seat
  .next (if s.examHolds (phyTarget (3 * d + pc / 32) (pc % 32)) then s
    else if k.1 = 2 then s1.remoteTurn d pc
    else if 24 ≤ o then s1.fillTurn d pc
    else if k.1 = 0 then s1.readTurn d pc c
    else s1.writeTurn d pc c)

/-- A line installed in its set, most recently used first; the least recently used of more than 16 is
replaced (R121). -/
def wcInstall (wc : SMap (List Nat)) (line : Nat) : SMap (List Nat) :=
  alter [] wc (wcSet line) fun l => (line :: l.filter fun x => decide (x ≠ line)).take 16

/-- A cell whose sequencer is at a descriptor of which a block of its die's HBM is a part (R134). -/
def State.chainAt (s : State) (c a : Nat) (x : Cell) : Bool :=
  match s.formOf c with
  | some r =>
    let lo := r.chain + x.seq.pc
    let n := if (s.readHbm (dieOf c) lo 1).headD 0 < 0x80 then 256 else 64
    x.seq.running && !x.seq.ended && decide (lo < a + 64 ∧ a < lo + n)
  | none => false

/-- What the check bits of a filled block show (R125): a corrected error is counted; an uncorrectable block is reported,
returns poisoned to the requests that wait for it, and stops the walks whose next descriptor it holds (R134). -/
def State.fillBlock (s : State) (d a : Nat) (x : Ecc) : State :=
  match x with
  | .corrected | .miscorrected => s.hbmCorrected d a
  | .uncorrectable =>
    let t := s.detect 0x2004 (dieUnit d) ((s.partOf d).getD 0) (hbmLoc d a) (stackLocal a)
    (t.cells.filter fun e => decide (dieOf e.1 = d)).foldl (fun u e =>
      u.modCell e.1 fun x => { x with
        seq := { x.seq with stopped := x.seq.stopped || s.chainAt e.1 a x }
        streams := mapVals {} (fun y => { y with
          reqs := y.reqs.map fun r =>
            if r.state = .filling ∧ r.addr / 64 = a / 64 then { r with state := .spoiled } else r }) x.streams }) t
  | _ => s

/-- WEIGHT_CACHE_FILL (R122, R123): a fill whose blocks have been read returns; it is installed unless a
covering write came since, or a block of it is uncorrectable (R125). `x.errs` gives what the check bits of its blocks
0-3 show. It waits while an exam slice holds its set group. -/
def execWeightCacheFill (d : DieIx) (x : LineRead) (s : State) : Res :=
  match (s.die d).fills.find? fun f => decide (f.line = x.line ∧ f.blocks = 4) with
  | none => .next s
  | some f =>
    .next (if s.examHolds (wcTarget d (wcSet x.line / 256)) then s else
      let s1 := (List.range 4).foldl (fun t b => t.fillBlock d (x.line + 64 * b) (errOf x.errs b)) s
      let bad := (List.range 4).any fun b => decide (errOf x.errs b = .uncorrectable)
      s1.modDie d fun D =>
        { D with fills := D.fills.filter fun g => decide (g.line ≠ x.line)
                 wc := if f.stale || bad then D.wc else wcInstall D.wc x.line })

end Sys2Proof.Machine
end

