-- ==== Sys2Proof/Machine/Sequencer.lean ====
section
/-! DEFINITION. The sequencer, descriptors, signals and control descriptors (R134-R141, R146, R147, R152-R166). -/

namespace Sys2Proof.Machine

/-! ## Small parts -/

def Seq.set (q : Seq) (k : Nat) : Option RegSet := look none q.sets k
def State.modSeq (s : State) (c : Nat) (f : Seq → Seq) : State := s.modCell c fun x => { x with seq := f x.seq }
def State.putSet (s : State) (c k : Nat) (r : Option RegSet) : State :=
  s.modSeq c fun q => { q with sets := put none q.sets k r }

/-- The register sets in use, with their numbers. -/
def Seq.used (q : Seq) : List (Nat × RegSet) :=
  (List.range 4).filterMap fun k => (q.set k).map fun r => (k, r)

/-- The oldest set not yet issued (R139, 1). -/
def Seq.headSet (q : Seq) : Option (Nat × RegSet) :=
  leastLoad (q.used.filter fun e => decide (e.2.issued = none))
where
  leastLoad : List (Nat × RegSet) → Option (Nat × RegSet)
    | [] => none
    | e :: l =>
      match leastLoad l with
      | some g => if e.2.num < g.2.num then some e else some g
      | none => some e

/-- The iteration numbers of the loops the walk is in, innermost first. -/
def Seq.iters (q : Seq) : List Nat := q.loops.map Loop.iter

/-- A scalar register is pending from the issue of a SCALAR that writes it until its completion (R162). -/
def Seq.pending (q : Seq) (k : Nat) : Bool :=
  q.used.any fun e => decide (e.2.issued ≠ none ∧ e.2.desc.op = 5 ∧ e.2.desc.freeze = false ∧ e.2.desc.ssel 0 = k)

def Seq.scalar (q : Seq) (k : Nat) : F32 := look 0 q.scalars k

/-- The walk goes on: the cell's sequencer runs, tally 0x000 of its die is at least 1, no JOIN holds it
(R137, R164). -/
def State.walking (s : State) (c : Nat) : Bool :=
  let q := (s.cell c).seq
  q.running && !q.ended && !q.stopped && decide (q.join = none) &&
  decide (1 ≤ (look 0 (s.die (dieOf c)).tallies 0).toNat)

/-- The bytes of the chain at an offset (R134). -/
def State.chainBytes (s : State) (c off n : Nat) : List Byte :=
  match s.formOf c with
  | some r => s.readHbm (dieOf c) (r.chain + off) n
  | none => []

/-- The control descriptor at the walk's place. -/
def State.control (s : State) (c : Nat) : CDesc := bvOfBytes 512 (s.chainBytes c (s.cell c).seq.pc 64)

/-- The weight-cache lines that hold the next `n` bytes of a cell's chain (R134). -/
def State.chainLines (s : State) (c n : Nat) : List Nat :=
  match s.formOf c with
  | some r => linesOf (r.chain + (s.cell c).seq.pc) n
  | none => []

/-- The next `n` bytes of the chain stand in the weight cache (R122, R134). -/
def State.chainCached (s : State) (c n : Nat) : Bool :=
  (s.chainLines c n).all fun l => (look [] (s.die (dieOf c)).wc (wcSet l)).contains l

/-- A chain read of lines that are not cached asks for their fills (R122, R134). -/
def State.chainFetch (s : State) (c n : Nat) : State :=
  if s.walking c then s.modDie (dieOf c) fun D => (s.chainLines c n).foldl Die.wantLine D else s

/-- Cached chain lines are read by a turn of the bench's port, which makes them the most recently used (R121, R122). -/
def State.chainRead (s : State) (c n : Nat) : State :=
  (s.portTurn c).modDie (dieOf c) fun D => { D with wc := (s.chainLines c n).foldl wcInstall D.wc }

/-- The sequencer handles a control descriptor of code `op` here: every earlier layer descriptor has been
issued (R139), and the descriptor has come from the weight cache (R134). -/
def State.atControl (s : State) (c op : Nat) : Bool :=
  s.walking c && (s.cell c).seq.headSet.isNone && (s.formOf c).isSome && s.chainCached c 64 && decide ((s.control c).op = op)

/-- A control descriptor of code `op`: it is read from the weight cache and handled. Until it stands there its line is
asked for, and elsewhere nothing happens. -/
def State.onControl (s : State) (c op : Nat) (act : State → State) : Res :=
  if s.atControl c op then .next (act (s.chainRead c 64))
  else if s.chainCached c 64 then .next s
  else .next (s.chainFetch c 64)

/-! ## Signals (R153, R158) -/

/-- A signal sent: it lands on its tally later (R154). -/
def State.launch (s : State) (p : Nat) (w : BitVec 64) (off : Nat) : State :=
  s.modPart p fun P => { P with period := { P.period with
    signals := P.period.signals ++ [{ tally := sigTally w, amount := sigValue w, off := off }] } }

/-- One more cell of a form has reached an event: the list, and whether all `n` have. -/
def countForm (f : Nat) (ev : FormEvent) (num n : Nat) : List FormCount → List FormCount × Bool
  | [] => if n ≤ 1 then ([], true) else ([⟨f, ev, num, 1⟩], false)
  | e :: l =>
    if e.form = f ∧ e.ev = ev ∧ e.num = num then
      (if n ≤ e.cells + 1 then (l, true) else ({ e with cells := e.cells + 1 } :: l, false))
    else let r := countForm f ev num n l; (e :: r.1, r.2)

/-- A cell's signal (R153): with SCOPE 0 it is sent, with SCOPE 1 once every cell of the form has come to
it. -/
def State.signal (s : State) (c : Nat) (ev : FormEvent) (num off : Nat) (w : BitVec 64) : State :=
  if sigEn w = false then s
  else
    let p := s.cellPart c
    match s.formOf c with
    | none => s
    | some r =>
      if sigForm w = false then s.launch p w off
      else
        let n := countForm r.num ev num r.cellList.length (s.part p).period.counts
        let s1 := s.modPart p fun P => { P with period := { P.period with counts := n.1 } }
        if n.2 then s1.launch p w off else s1

/-- TALLY_SIGNAL (R153, R154): the oldest signal of a partition lands. -/
def execTallySignal (p : PartIx) (s : State) : Res :=
  match (s.part p).period.signals with
  | [] => .next s
  | g :: rest =>
    .next ((s.modPart p fun P => { P with period := { P.period with signals := rest } }).addOwn p g.tally g.amount g.off)

/-! ## Loops (R156-R159) -/

/-- Ends of passes at the walk's place: the innermost loop begins its next pass, or is left for the last
time and its on-exit signal waits for the body's descriptors. -/
def settleLoops : Nat → Seq → Seq
  | 0, q => q
  | fuel + 1, q =>
    match q.loops with
    | l :: ls =>
      if q.pc = l.bodyEnd ∧ q.headSet.isNone then
        if l.iter + 1 < l.count then { q with pc := l.start, loops := { l with iter := l.iter + 1 } :: ls }
        else
          let x : LoopExit := ⟨l.num, l.sig, l.firstOp, q.nextOp, l.start - 64⟩
          settleLoops fuel { q with loops := ls, exits := q.exits ++ [x] }
      else q
    | [] => q

/-- The walk at a new place. -/
def Seq.goto (pc : Nat) (q : Seq) : Seq := settleLoops 5 { q with pc := pc }

/-- Set the form's count-clamp flag (R156). -/
def State.clampFlag (s : State) (c : Nat) : State :=
  match s.formOf c with
  | some r => s.modPart (s.cellPart c) fun P => { P with period := { P.period with clamped := insNat r.num P.period.clamped } }
  | none => s

/-- LOOP (R156, R157): waits for its entry wait, latches its count, and runs its body or goes to BODYEND. An
empty body is left at once. -/
def execLoop (c : CellIx) (s : State) : Res := s.onCell c <|
  let q := (s.cell c).seq
  let d := s.control c
  if s.atControl c 0x81 ∧ s.waitMet (s.cellPart c) q.iters (cWait d) = false then .next s
  else s.onControl c 0x81 fun s =>
    let n := if loopCsrc d then (look 0 q.counts (loopCreg d)).toNat else loopCount d
    let m := if loopBodyEnd d ≤ q.pc + 64 then 0 else min n (loopLimit d)
    let s1 := if loopLimit d < n then s.clampFlag c else s
    s1.modSeq c fun q =>
      let q1 := { q with nextLoop := q.nextLoop + 1 }
      let x : LoopExit := ⟨q.nextLoop, cSig d, q.nextOp, q.nextOp, q.pc⟩
      let l : Loop := ⟨q.pc + 64, loopBodyEnd d, m, 0, cSig d, q.nextLoop, q.nextOp⟩
      if m = 0 then Seq.goto (loopBodyEnd d) { q1 with exits := q1.exits ++ [x] }
      else Seq.goto (q.pc + 64) { q1 with loops := l :: q1.loops }

/-- LOOP_EXIT_SIGNAL (R158): a loop left for the last time sends its on-exit signal once every body
descriptor has completed. -/
def execLoopExitSignal (c : CellIx) (s : State) : Res := s.onCell c <|
  let q := (s.cell c).seq
  let done (e : LoopExit) : Bool := q.openOps.all fun o => decide (o < e.firstOp ∨ e.lastOp ≤ o)
  match q.exits.find? done with
  | none => .next s
  | some e =>
    .next ((s.modSeq c fun q => { q with exits := q.exits.erase e }).signal c .loopExit e.num e.off e.sig)

/-! ## Other control descriptors -/

/-- BRANCH's test under IEEE 754 ordering (R160). -/
def branchTest (cmp : Nat) (a b : F32) : Bool :=
  let x := f32Val a
  let y := f32Val b
  match cmp with
  | 0 => x.lt y
  | 1 => x.lt y || x.eq y
  | 2 => x.eq y
  | 3 => !x.eq y
  | 4 => y.lt x || x.eq y
  | 5 => y.lt x
  | 6 => x.isNan
  | 7 => x.isInf
  | 8 => true
  | _ => false

/-- BRANCH (R160): waits until its scalar registers are ready, and goes on at TARGET when the test holds. -/
def execBranch (c : CellIx) (s : State) : Res := s.onCell c <|
  let q := (s.cell c).seq
  let d := s.control c
  if s.atControl c 0x82 ∧ (q.pending (brSreg d) ∨ brSrc d ∧ q.pending (brSreg2 d)) then .next s
  else s.onControl c 0x82 fun s =>
    let b := if brSrc d then q.scalar (brSreg2 d) else brImm d
    s.modSeq c (Seq.goto (if branchTest (brCmp d) (q.scalar (brSreg d)) b then brTarget d else q.pc + 64))

/-- SETC (R161). -/
def execSetCount (c : CellIx) (s : State) : Res := s.onCell c <|
  let q := (s.cell c).seq
  let d := s.control c
  if s.atControl c 0x83 ∧ setcSrc d ∧ q.pending (setcSreg d) then .next s
  else s.onControl c 0x83 fun s =>
    let v : BitVec 24 := if setcSrc d then BitVec.ofInt 24 (truncClamp 0 16777215 0 (q.scalar (setcSreg d))) else setcImm d
    s.modSeq c fun q => { q with counts := put 0 q.counts (loopCreg d) v }.goto (q.pc + 64)

/-- The feature page (R166); words 32-63 read as zero. -/
def featurePage : List Nat :=
  [1, 0xA1, 4, 24, 16, 1536, 4096, 64, 0x7F, 0x3F, 4096, 20, 16, 8, 8, 16,
   1536, 32, 2048, 4, 1024, 64, 64, 3, 36, 32, 4, 4, 8, 16, 4, 16]

/-- FEATURE (R166): the word as FP32 into a scalar register. A SCALAR issued before it leaves the register as it is when
it completes later, so that every cell's copy ends with the later writer's value (R162). -/
def execFeature (c : CellIx) (s : State) : Res := s.onCell c <|
  let d := s.control c
  s.onControl c 0x85 fun s => s.modSeq c fun q =>
    { q with scalars := put 0 q.scalars (featSreg d) (f32OfNat (featurePage.getD (featWord d) 0))
             feats := put 0 q.feats (featSreg d) q.nextOp }.goto (q.pc + 64)

/-- SKIP (R136). -/
def execSkipPad (c : CellIx) (s : State) : Res := s.onCell c <|
  s.onControl c 0x86 fun s => s.modSeq c fun q => q.goto (q.pc + 64)

/-- END (R137): the period's walk of the chain ends in this cell. -/
def execEndWalk (c : CellIx) (s : State) : Res := s.onCell c <|
  s.onControl c 0x80 fun s => s.modSeq c fun q => { q with ended := true }

/-- Whether the form has still to send the signal of a JOIN that the cell has reached (R164). -/
def State.joinOpen (s : State) (c num : Nat) : Bool :=
  match s.formOf c with
  | some r => (s.part (s.cellPart c)).period.counts.any fun e => decide (e.form = r.num ∧ e.ev = .join ∧ e.num = num)
  | none => false

/-- JOIN (R164): it is reached once every earlier descriptor has completed in this cell; when the form has sent
its signal, the cell waits for the join wait, and the walk goes on when that is met (log 132). -/
def execJoin (c : CellIx) (s : State) : Res := s.onCell c <|
  let q := (s.cell c).seq
  match q.join with
  | some j =>
    if q.running && !q.stopped && !s.joinOpen c j.num && s.waitMet (s.cellPart c) q.iters j.wait then
      .next (s.modSeq c fun q => { q with join := none }.goto (q.pc + 64))
    else .next s
  | none =>
    if s.atControl c 0x84 && !q.openOps.isEmpty then .next s
    else
      let d := s.control c
      s.onControl c 0x84 fun s =>
        let s1 := s.modSeq c fun q => { q with join := some ⟨q.nextJoin, cWait d, cSig d⟩, nextJoin := q.nextJoin + 1 }
        match s.formOf c with
        | some r =>
          -- the count stays until JOIN_SIGNAL sends the signal
          let n := countForm r.num .join q.nextJoin (r.cellList.length + 1) (s.part (s.cellPart c)).period.counts
          s1.modPart (s.cellPart c) fun P => { P with period := { P.period with counts := n.1 } }
        | none => s1

/-- A JOIN that every cell of a form has reached and whose signal the form has not sent (R164). -/
def State.joinDue (s : State) (e : Nat × FormRec) : Option FormCount :=
  (s.part e.1).period.counts.find? fun n =>
    decide (n.form = e.2.num ∧ n.ev = .join ∧ e.2.cellList.length ≤ n.cells)

/-- JOIN_SIGNAL (R164): every cell of the form has reached a JOIN, and the form sends its signal once (log 141). -/
def execJoinSignal (f : FormIx) (s : State) : Res :=
  match (s.formsNumbered f).findSome? fun e => (s.joinDue e).map fun n => (e, n) with
  | none => .next s
  | some ((p, r), e) =>
    let w := match (s.cell (r.cellList.headD 0)).seq.join with
      | some j => j.sig
      | none => 0
    let s1 := s.modPart p fun P => { P with period := { P.period with counts := P.period.counts.erase e } }
    .next (if sigEn w then s1.launch p w (s.cell (r.cellList.headD 0)).seq.pc else s1)

/-! ## Loading and issue (R139) -/

/-- DESCRIPTOR_LOAD (R139): the next layer descriptor into a free set, once its lines have come into the weight cache
(R122, R134). An uncorrectable block stops the walk at this descriptor and is a detected error (R134): one of the
cache's own, as `ecc` gives it, here; one of HBM at the line's fill. -/
def execDescriptorLoad (c : CellIx) (ecc : Ecc) (s : State) : Res := s.onCell c <|
  match s.formOf c with
  | none => .next s
  | some r =>
    let q := (s.cell c).seq
    let a := r.chain + q.pc
    let inBody := match q.loops with
      | l :: _ => decide (q.pc ≠ l.bodyEnd)
      | [] => true
    let layer := decide (fldN (s.control c) 0 8 < 0x80)
    if s.walking c = false ∨ inBody = false then .next s
    else if s.chainCached c 64 = false then .next (s.chainFetch c 64)
    else if ecc = .uncorrectable then
      .next ((s.modSeq c fun q => { q with stopped := true }).detect 0x2003 (dieUnit (dieOf c)) (s.cellPart c)
        (dieOf c + wcSet a * 2 ^ 16) a)
    else if layer = false then .next s
    else if s.chainCached c 256 = false then .next (s.chainFetch c 256)
    else
      match (List.range 4).find? fun k => (q.set k).isNone with
      | none => .next s
      | some k =>
        let g := s.checked ecc ((s.readHbm (dieOf c) a 256).map fun b => .of b false) (fun t => t.corrected c 2) id
        let set : RegSet := { num := q.nextLoad, desc := bvOfBytes 2048 (g.1.map LByte.byte), off := q.pc, iters := q.iters }
        .next (((g.2.chainRead c 256).putSet c k (some set)).modSeq c fun q =>
          { q with pc := q.pc + 256, nextLoad := q.nextLoad + 1 })

/-- The scalar registers an operation reads (R139, 3; R149, R165, R190, R199, R227): SSEL0 for an indirect
slot, SSEL1-SSEL3 for OPTIM, those that a row function takes. -/
def Desc.reads (d : Desc) : List Nat :=
  match d.op, d.func with
  | 1, _ => if d.slotInd then [d.ssel 0] else []
  | 2, _ => if d.slotInd then [d.ssel 0] else []
  | 3, 7 => [d.ssel 1, d.ssel 2, d.ssel 3]
  | 4, 4 => [d.ssel 1, d.ssel 3]
  | 4, _ => [d.ssel 1, d.ssel 2, d.ssel 3]
  | _, _ => []

/-- The slot an operation resolves to (R165). -/
def Desc.resolve (d : Desc) (q : Seq) : SlotIx :=
  let k : Int := if d.slotInd then truncClamp (-2147483648) 2147483647 0 (q.scalar (d.ssel 0)) else 0
  ⟨(((d.slot : Int) + k) % 4).toNat % 4, Nat.mod_lt _ (by decide)⟩

/-- R139, 4: the chart slot of a reference that loads a chart holds no armed stream that does not persist. -/
def Cell.slotFree (x : Cell) (r : BitVec 128) : Bool :=
  let st := x.stream (srefSlot r)
  decide (srefChart r = 0xFFFFFF) || !st.armed || chPersist st.hdr

/-- R139: a set's descriptor may be issued. One with FREEZE set reads no scalar register but SSEL0 of an indirect slot and
loads no chart (R163), so conditions 3 and 4 do not hold it (DESIGN CHOICE, log 142). -/
def State.mayIssue (s : State) (c : Nat) (r : RegSet) : Bool :=
  let x := s.cell c
  let q := x.seq
  s.waitMet (s.cellPart c) r.iters (r.desc.wait 0) && s.waitMet (s.cellPart c) r.iters (r.desc.wait 1) &&
  (r.desc.freeze || (r.desc.reads.all fun k => !q.pending k) && (r.desc.srefs.all x.slotFree)) &&
  (!(r.desc.slotInd && r.desc.freeze) || !q.pending (r.desc.ssel 0))

/-- Arm or re-arm the stream of one reference (R116, R147): `n` is the form cell number. -/
def armStream (charts : List Byte) (n : Nat) (r : RegSet) (op : Nat) (x : Cell) (ref : BitVec 128) : Cell :=
  let k := srefSlot ref
  let old := x.stream k
  let base := srefBase ref n r.iters
  if srefChart ref = 0xFFFFFF then
    if old.armed ∧ chPersist old.hdr then
      { x with streams := put {} x.streams k ({ old with rearms := old.rearms ++ [(base, op, r.off)] }).nextArming }
    else x
  else
    let bs := charts.drop (32 * srefChart ref)
    let hdr : ChartHdr := bvOfBytes 256 (bs.take 32)
    let new : Stream :=
      { armed := true, hdr := hdr, base := base, op := op, chainOff := r.off
        instrs := (chunksOf 8 (chNinstr hdr) ((bs.drop 32).take (8 * chNinstr hdr))).map (bvOfBytes 64)
        nextReq := old.nextReq
        arming := if old.hdr = 0 then 0 else old.arming + 1 }
    { x with streams := put {} x.streams k new }

/-- Whether an operation names a tile slot. -/
def Desc.namesSlot (d : Desc) : Bool := d.op == 1 || d.op == 2

/-- Remove an operation number from those open. -/
def Seq.close (o : Nat) (q : Seq) : Seq := { q with openOps := q.openOps.filter fun n => decide (n ≠ o) }

/-- The descriptor of set `k` completes (R141): its signals are sent and its set is free. -/
def State.completeSet (s : State) (c k : Nat) (r : RegSet) (o : Nat) : State :=
  let s1 := (s.putSet c k none).modSeq c (Seq.close o)
  (s1.signal c .sig0 o r.off (r.desc.sig 0)).signal c .sig1 o r.off (r.desc.sig 1)

/-- Issue the descriptor of set `k` (R139, R140, R163): bank map, streams, slot, and its unit's work. A
NOP, and a frozen descriptor that names no slot, complete at once (R144, R163). -/
def State.issueSet (s : State) (c k : Nat) (r : RegSet) : State :=
  let x := s.cell c
  let q := x.seq
  let o := q.nextOp
  let d := r.desc
  let sl := d.resolve q
  let op : Op := { id := o, set := ⟨k % 4, Nat.mod_lt _ (by decide)⟩, off := r.off, desc := d, slot := sl
                   s1 := q.scalar (d.ssel 1), s2 := q.scalar (d.ssel 2), s3 := q.scalar (d.ssel 3) }
  let n := match s.formOf c with
    | some f => f.cellNum c
    | none => 0
  let charts := (s.part (s.cellPart c)).image.charts
  let x1 : Cell := if d.freeze then x else d.srefs.foldl (armStream charts n r o) x
  let noWork := d.op == 0 || d.op == 6 || (d.freeze && !d.namesSlot)
  let x2 : Cell := { x1 with
    bankMap := d.bankMap
    slots := if d.namesSlot then alter {} x1.slots sl fun t => { t with waiters := t.waiters ++ [o] } else x1.slots
    ework := if d.op = 1 ∧ d.freeze = false then x1.ework ++ [op] else x1.ework
    drains := if d.freeze = false ∧ (d.op = 2 ∨ d.op = 1 ∧ d.drains) then x1.drains ++ [{ op := op }] else x1.drains
    vwork := if d.freeze = false ∧ (d.op = 3 ∨ d.op = 5) then x1.vwork ++ [op] else x1.vwork
    rwork := if d.freeze = false ∧ d.op = 4 then x1.rwork ++ [op] else x1.rwork
    seq := settleLoops 5 { q with
      nextOp := o + 1, openOps := q.openOps ++ [o]
      sets := put none q.sets k (some { r with issued := some o, opDone := noWork }) } }
  let s1 := s.setCell c x2
  if d.op == 0 || d.freeze && !d.namesSlot then s1.completeSet c k r o else s1

/-- Each stream that the operation armed has ended its arming (R141): it is done, or another operation has
armed the slot since. -/
def Cell.streamsDone (x : Cell) (r : RegSet) (o : Nat) : Bool :=
  r.desc.freeze || r.desc.srefs.all fun ref =>
    let st := x.stream (srefSlot ref)
    (decide (st.op ≠ o) || st.done) && st.rearms.all fun e => decide (e.2.1 ≠ o)

/-- DESCRIPTOR_ISSUE (R139): the oldest loaded descriptor not yet issued is issued when nothing holds it. -/
def execDescriptorIssue (c : CellIx) (s : State) : Res := s.onCell c <|
  match (s.cell c).seq.headSet with
  | some (k, r) => if s.walking c && s.mayIssue c r then .next (s.issueSet c k r) else .next s
  | none => .next s

/-- DESCRIPTOR_COMPLETE (R141): set `k`'s operation has reached its release point, and its streams are done. -/
def execDescriptorComplete (c : CellIx) (k : Fin 4) (s : State) : Res := s.onCell c <|
  match (s.cell c).seq.set k with
  | some r =>
    match r.issued with
    | some o => if r.opDone && (s.cell c).streamsDone r o then .next (s.completeSet c k r o) else .next s
    | none => .next s
  | none => .next s

/-- NOP (R144): operation 0x00 is issued and completes at issue. -/
def execNop (c : CellIx) (s : State) : Res := s.onCell c <|
  match (s.cell c).seq.headSet with
  | some (k, r) =>
    if s.walking c && s.mayIssue c r && decide (r.desc.op = 0) then .next (s.issueSet c k r) else .next s
  | none => .next s

/-- MOVE (R144): operation 0x06 is issued; its streams alone move data. -/
def execMove (c : CellIx) (s : State) : Res := s.onCell c <|
  match (s.cell c).seq.headSet with
  | some (k, r) =>
    if s.walking c && s.mayIssue c r && decide (r.desc.op = 6) then .next (s.issueSet c k r) else .next s
  | none => .next s

/-! ## The period in the cells (R72, R137, R138) -/

/-- A cell after a form reset (R72, R117): nothing under way, queues and slots empty, streams disarmed, and requests to
other devices from before it told apart (log 27). What the cell's memories, counters and generators hold stays. -/
def Cell.formReset (x : Cell) : Cell :=
  { x with
    queues := [], slots := [], ework := [], eng := none, chained := false, drains := []
    vwork := [], vec := none, scal := none, rwork := [], rowRun := none, seq := {}
    streams := [], short := [], warned := [], resetDue := false, resets := x.resets + 1 }

/-- A cell at the start of a period (R137): its sequencer at the chain's start, count registers from
CINIT, scalar registers +0, no loop state. A paused bench takes a reset at Release (R418). -/
def Cell.startWalk (r : FormRec) (x : Cell) : Cell :=
  { x with
    streams := [], warned := [], chained := false
    seq := { running := true
             counts := (List.range 8).foldl (fun m i => put 0 m i (r.cinit i)) [] } }

/-- The release point of an operation: its set knows (R141). -/
def Seq.opDone (o : Nat) (q : Seq) : Seq :=
  match q.used.find? fun e => decide (e.2.issued = some o) with
  | some (k, r) => { q with sets := put none q.sets k (some { r with opDone := true }) }
  | none => q

/-- The carried tallies of a partition's dies, at 256 d + t (R151, R294). -/
def State.carried (s : State) (P : Partition) : SMap (BitVec 20) :=
  P.dieList.foldl (fun m d =>
    ((s.die d).tallies.filter fun e => decide (0xF00 ≤ e.1)).foldl (fun m e => put 0 m (256 * d + (e.1 - 0xF00)) e.2) m) []

/-- The tallies of a die at a period's start, before tally 0x000 is raised (R151). -/
def startTallies (carried : SMap (BitVec 20)) (d : Nat) : SMap (BitVec 20) :=
  (carried.filter fun e => decide (e.1 / 256 = d)).foldl (fun m e => put 0 m (0xF00 + e.1 % 256) e.2) []

/-- The data service's inputs that are in place signal FTALLY (R317). -/
def State.signalInputs (s : State) (p : Nat) (ix : List Nat) : State :=
  ix.foldl (fun t i =>
    let e := (s.part p).image.inputs.getD i 0
    if bit e 2 then t.addOwn p (fld e 224 14) 1 0 else t) s

/-- The entries of the input table whose bytes of a step are all in place (R317). -/
def Partition.inputsReady (P : Partition) (step : BitVec 64) : List Nat :=
  (List.range P.image.inputs.length).filter fun i =>
    let e := P.image.inputs.getD i 0
    bit e 2 && P.period.svc.any fun j => decide (j.step = step ∧ (look [] j.got i).length * 64 = fldN e 192 32)

/-- A cell's streams at its form's period end: none stays armed (R117). -/
def Cell.disarm (x : Cell) : Cell := { x with streams := mapVals {} (fun y => { y with armed := false }) x.streams }

/-- Every cell of a form has reached END and every descriptor has completed, and the form has not yet reported (R137). -/
def State.formDone (s : State) (e : Nat × FormRec) : Bool :=
  let P := s.part e.1
  P.period.isOpen && !P.period.dropped && !P.period.ended.contains e.2.num && e.2.cellList.all fun c =>
    let q := (s.cell c).seq
    q.ended && !q.stopped && q.openOps.isEmpty && q.exits.isEmpty && q.used.isEmpty

/-- FORM_PERIOD_END (R137): every cell of the form has reached END and every descriptor has completed; the
form reports period end to the ingress sequencer, once a period (log 141). -/
def execFormPeriodEnd (f : FormIx) (s : State) : Res :=
  match (s.formsNumbered f).find? s.formDone with
  | none => .next s
  | some (p, r) =>
    let s1 := s.admitted .periodEnd (96 + 36 + p)
    let s2 := s1.modPart p fun P => { P with period := { P.period with ended := insNat f.val P.period.ended } }
    .next (r.cellList.foldl (fun t c => t.modCell c Cell.disarm) s2)

end Sys2Proof.Machine
end

