-- ==== Sys2Proof/Machine/Engine.lean ====
section
/-! DEFINITION. The outer-product engine, tile slots and drains (R40-R66, R71, R77-R91). -/

namespace Sys2Proof.Machine

/-! ## S20 (R77, R83) -/

def s20Val (w : S20) : Val :=
  let neg := bit w 27
  let ex := fldN w 19 8
  let m := fldN w 0 19
  if ex = 255 then (if m = 0 then .inf neg else .nan)
  else if ex = 0 then .num neg m (-144)
  else .num neg m ((ex : Int) - 145)

/-- The image of an infinity or a NaN; the NaN's magnitude bits are the model's (log 28). -/
def s20Special (neg nan : Bool) : S20 :=
  if nan then at' 28 19 8 255 ||| at' 28 0 19 0x40000 else bitAt 28 27 neg ||| at' 28 19 8 255

/-- R83: the exact sum rounded stochastically to S20 with 10 random bits; a zero is +0. -/
def s20Round (rnd : Nat) (v : Val) : S20 :=
  match v with
  | .nan => s20Special false true
  | .inf neg => s20Special neg false
  | .num neg m e =>
    let g := gridRound (.stochastic 10 rnd) 18 (-126) m e
    let q := if g.1 = 2 ^ 19 then 2 ^ 18 else g.1
    let u := if g.1 = 2 ^ 19 then g.2 + 1 else g.2
    if q = 0 then 0
    else if q < 2 ^ 18 then bitAt 28 27 neg ||| at' 28 0 19 q
    else if 110 ≤ u then s20Special neg false
    else bitAt 28 27 neg ||| at' 28 19 8 (u + 145).toNat ||| at' 28 0 19 q

/-! ## One step at one site (R80, R81, R87, R91) -/

/-- R81: terms with their exponents E, aligned to the largest with 3 guard bits, truncated and summed. -/
def alignSum (f : Nat) (ts : List (Int × Val)) : Val :=
  let live := ts.filter fun t => match t.2 with
    | .num _ m _ => decide (m ≠ 0)
    | _ => false
  match live with
  | [] => .zero
  | t :: r =>
    let unit := r.foldl (fun a b => max a b.1) t.1 - f - 3
    let sum : Int := (live.map fun x => match x.2 with
      | .num neg m e => (if neg then -1 else 1) * ((scaleNat m (e - unit)).1 : Int)
      | _ => 0).sum
    .num (decide (sum < 0)) sum.natAbs unit

/-- R80, 3: the step's sum, special values first. -/
def stepSum (f : Nat) (ts : List (Int × Val)) : Val :=
  if ts.any fun t => t.2.isNan then .nan
  else
    let pos := ts.any fun t => decide (t.2 = .inf false)
    let neg := ts.any fun t => decide (t.2 = .inf true)
    if pos && neg then .nan else if pos then .inf false else if neg then .inf true else alignSum f ts

/-- A product with its E (R81): the exponents of its factors, without their fraction widths. -/
def prodTerm (f : Nat) (a b : Val) : Int × Val :=
  let p := a.mul b
  match p with
  | .num _ _ e => (e + f, p)
  | _ => (0, p)

/-- A difference term with E = ⌊log₂ t⌋ (R91). -/
def diffTerm (square : Bool) (a b : Val) : Int × Val :=
  let d := a.add b.neg
  let t := match (if square then d.mul d else d) with
    | .num _ m e => Val.num false m e
    | .inf _ => .inf false
    | .nan => .nan
  match t with
  | .num _ m e => (if m = 0 then 0 else magLog2 m e, t)
  | _ => (0, t)

/-- A value times an E8M0 scale, exactly; 0xFF is NaN (R74, R91). -/
def scaled (code : Nat) (v : Val) : Val := if code = 255 then .nan else v.scale ((code : Int) - 127)

/-- R87: the promotion of an S20 value into W40. -/
def promote (c r : Nat) (s : S20) (w : W40) : W40 :=
  if c = 255 ∨ r = 255 then rne40 .nan
  else rne40 ((w40Val w).add ((s20Val s).scale ((c : Int) + r - 254)))

/-- An operand lane: its elements and its scale code. -/
abbrev OpLane := List Val × Nat

/-- One step of one site in a mode: S20 and W40 after it. `close` says that the step closes a window. -/
def siteStep (mode fmtA fmtB : Nat) (close : Bool) (a b : OpLane) (rnd : Nat) (s : S20) (w : W40) : S20 × W40 :=
  let fa := (fmtOfCode fmtA).fbits
  let fb := (fmtOfCode fmtB).fbits
  let as := a.1.map (scaled a.2)
  let bs := b.1.map (scaled b.2)
  let done (ca cb : Nat) (v : Val) : S20 × W40 :=
    let t := s20Round rnd ((s20Val s).add v)
    if close then (0, promote ca cb t w) else (t, w)
  let sums := List.zipWith (fun x y => rne40 (x.add y)) as bs
  match mode with
  | 0 => done a.2 b.2 (stepSum (fa + fb) (List.zipWith (prodTerm (fa + fb)) a.1 b.1))
  | 1 => done 127 127 (stepSum (2 * max fa fb) (List.zipWith (diffTerm false) as bs))
  | 2 => done 127 127 (stepSum (2 * max fa fb) (List.zipWith (diffTerm true) as bs))
  | 3 => (s, sums.foldl (fun x y => rne40 ((w40Val x).min (w40Val y))) w)
  | 4 => (s, sums.foldl (fun x y => rne40 ((w40Val x).max (w40Val y))) w)
  | _ => (s, rne40 ((w40Val w).add (.num false ((List.zipWith Val.lt as bs).filter id).length 0)))

/-! ## The activity ramp (R55, R56) -/

/-- Columns updated by handshake `h` (R55). -/
def rampCols (h l c w : Nat) (chainedIn chainedOut : Bool) : Nat :=
  let q := l / 4
  let up := if chainedIn then 64 else if h < q then 8 else if h < 2 * q then 16 else if h < 3 * q then 32 else 64
  let down := if chainedOut then 64
    else if w ≤ 8 * q then 8 else if w ≤ 24 * q then 16 else if w ≤ 56 * q then 32 else 64
  min (min up down) (64 - c)

/-- The handshakes of one step: `next` says that a chained descriptor of the same ramp length has been
issued, which decides the chaining at the handshake of R56. -/
def rampStep (next : Bool) : Nat → Nat → EngineRun → EngineRun
  | 0, _, e => e
  | fuel + 1, c, e =>
    if 64 ≤ c then e
    else
      let l := e.op.desc.ramp
      let out := match e.chainOut with
        | some b => some b
        | none => if e.work ≤ 56 * (l / 4) then some next else none
      let k := rampCols e.hs l c e.work e.chainIn (out.getD false)
      rampStep next fuel (c + k) { e with chainOut := out, hs := e.hs + 1, work := e.work - k }

/-! ## Tokens (R49-R53, R163) -/

def Cell.slot (x : Cell) (sl : Nat) : Slot := look {} x.slots sl
def Cell.modSlot (x : Cell) (sl : Nat) (f : Slot → Slot) : Cell := { x with slots := alter {} x.slots sl f }
def State.modSlot (s : State) (c sl : Nat) (f : Slot → Slot) : State := s.modCell c fun x => x.modSlot sl f

/-- The set that holds an issued operation. -/
def Seq.setOf (q : Seq) (o : Nat) : Option (Nat × RegSet) :=
  q.used.find? fun e => decide (e.2.issued = some o)

/-- An operation's release point (R51): the token is free, and its set may complete. -/
def State.release (s : State) (c : Nat) (op : Op) : State :=
  (s.modSlot c op.slot fun t => { t with phase := .unowned }).modSeq c (Seq.opDone op.id)

/-- The identity of an operation's mode (R53). -/
def modeClear (mode : Nat) : W40 :=
  if mode = 3 then rne40 (.inf false) else if mode = 4 then rne40 (.inf true) else 0

/-- One Load entry: elements [32 k, 32 k + 32) of the tile (R53); a poisoned lane loads +0 and taints its
element (R118, R119). -/
def State.loadEntry (s : State) (c : Nat) (op : Op) (k : Nat) (e : Entry) : State :=
  let bad := (badLanes e (List.range 64)).map fun l => 32 * k + l / 2
  let vs := (List.range 32).map fun i =>
    if bad.contains (32 * k + i) then (0 : W40) else f32ToW40 (fld e.data (32 * i) 32)
  let s1 := s.consumePoison c op e 64
  s1.modSlot c op.slot fun t =>
    let acc := padTo 4096 0 t.acc
    let u := { t with acc := trimEnd 0 (acc.take (32 * k) ++ vs ++ acc.drop (32 * k + 32)) }
    if spreads e then u.taintElems bad else u

/-- The Load entries that have come (R53), at most `fuel`. -/
def State.loadSlot (c : Nat) : Nat → State → State
  | 0, s => s
  | fuel + 1, s =>
    match (s.cell c).eng with
    | some e =>
      if e.owned ∧ e.ready = false ∧ e.loaded < 128 then
        match s.consume c e.op.desc.in2 with
        | some (x, t) =>
          State.loadSlot c fuel ((t.loadEntry c e.op e.loaded x).modCell c fun y =>
            { y with eng := some { e with loaded := e.loaded + 1, ready := decide (e.loaded + 1 = 128) } })
        | none => s
      else s
    | none => s

/-- The engine's operation takes its slot's token: the slot is initialised, S20 cleared, and the generators of
lanes 0-63 seeded (R53, R86). -/
def State.engineTake (s : State) (c : Nat) (e : EngineRun) : State :=
  let op := e.op
  let s1 := (s.seedLanes c 0 op.desc.pass).modCell c fun x =>
    { x with short := [], eng := some { e with owned := true, ready := decide (op.desc.init ≠ 2) } }
  s1.modSlot c op.slot fun t =>
    let u := { t with phase := .held op.id, waiters := t.waiters.drop 1 }
    match op.desc.init with
    | 0 => { u.untaint with acc := if modeClear op.desc.func = 0 then [] else List.replicate 4096 (modeClear op.desc.func) }
    | 1 => u
    | _ => u.untaint

/-- A DRAIN operation takes its slot's token: the slot keeps its contents and is ready to be read (R144). -/
def State.drainTake (s : State) (c : Nat) (op : Op) : State :=
  s.modCell c fun x =>
    { (x.modSlot op.slot fun t => { t with phase := .draining op.id, waiters := t.waiters.drop 1 }) with
      drains := x.drains.map fun d => if d.op.id = op.id then { d with ready := true } else d }

/-- The operation whose turn the token is takes it (R51): a frozen descriptor takes and releases it in the
same instant and completes (R163); an ENGINE operation once the engine runs it; a DRAIN at once. While a quiz runs in the
cell, no operation takes a slot (R280). -/
def State.takeToken (s : State) (c sl : Nat) : State :=
  let x := s.cell c
  if x.quiz then s else
  match (x.slot sl).phase, (x.slot sl).waiters with
  | .unowned, o :: rest =>
    match x.seq.setOf o with
    | some (k, r) =>
      if r.desc.freeze then (s.modSlot c sl fun t => { t with waiters := rest }).completeSet c k r o
      else if r.desc.op = 2 then
        match x.drains.find? fun d => decide (d.op.id = o) with
        | some d => s.drainTake c d.op
        | none => s
      else
        match x.eng with
        | some e => if e.op.id = o then s.engineTake c e else s
        | none => s
    | none => s
  | _, _ => s

/-- SLOT_TOKEN_TAKE (R51, R53): the next operation of a slot takes its token and initialises the slot; a
Load takes the entries that have come. -/
def execSlotTokenTake (c : CellIx) (sl : SlotIx) (s : State) : Res := s.onCell c <|
  let t := s.takeToken c sl
  match (t.cell c).eng with
  | some e => if e.op.slot = sl then .next (State.loadSlot c 128 t) else .next t
  | none => .next t

/-- ENGINE (R144, R50, R280): the engine takes up its next operation in issue order, after a quiz that runs. -/
def execEngine (c : CellIx) (s : State) : Res := s.onCell c <|
  let x := s.cell c
  match x.eng, x.ework with
  | none, op :: rest =>
    if x.quiz then .next s else .next (s.setCell c { x with
      ework := rest, chained := false
      eng := some { op := op, work := 64 * op.desc.steps, chainIn := op.desc.chain && x.chained } })
  | _, _ => .next s

/-! ## The engine step (R58) -/

/-- Whether a step of a side pops a scale entry: none with BF16, at the window's start with window scales,
at the operation's start with fixed scales (R44). -/
def wantsScale (fmt : Nat) (window : Bool) (e : EngineRun) : Bool :=
  decide (fmt ≠ 0) && (if window then decide (e.inWindow = 0) else decide (e.steps = 0))

/-- Both queues hold what the step pops, and every forward target has room for it, for both sides' entries
where the sides name one X queue (R47, R58). -/
def Cell.stepReady (x : Cell) (e : EngineRun) : Bool :=
  let d := e.op.desc
  let na := if wantsScale d.fmtA d.wsclA e then 2 else 1
  let nb := if wantsScale d.fmtB d.wsclB e then 2 else 1
  decide (na ≤ (x.queue d.in0).entries.length) && decide (nb ≤ (x.queue d.in1).entries.length) &&
  decide (na ≤ x.room d.fwd0) && decide ((if d.fwd0 = d.fwd1 then na + nb else nb) ≤ x.room d.fwd1)

/-- Pop an entry of a side and forward it unchanged (R47). -/
def State.popSide (s : State) (c q fwd : Nat) : Entry × State :=
  match s.consume c q with
  | some (e, t) => (e, t.modCell c (Cell.pushAll fwd [e]))
  | none => ({ data := 0 }, s)

/-- One side of a step: its scale entry when it is due, then its operand entry. `col` is the column side.
The answer holds the lanes and the scale register. -/
def State.takeSide (s : State) (c : Nat) (e : EngineRun) (col : Bool) : List OpLane × BitVec 512 × State :=
  let d := e.op.desc
  let fmt := if col then d.fmtA else d.fmtB
  let q := if col then d.in0 else d.in1
  let fwd := if col then d.fwd0 else d.fwd1
  let due := wantsScale fmt (if col then d.wsclA else d.wsclB) e
  let taint (ls : List Nat) (t : State) : State :=
    t.modSlot c e.op.slot (if col then Slot.taintRows ls else Slot.taintCols ls)
  let r : BitVec 512 × State :=
    if due then
      let p := s.popSide c q fwd
      let bad := badLanes p.1 (List.range 32)
      let t := p.2.consumePoison c e.op p.1 32
      let reg := bvOfBytes 512 ((bytesOfBv 64 p.1.data).zipIdx.map fun b => if bad.contains (b.2 / 2) then 127 else b.1)
      (reg, if spreads p.1 then taint (bad.flatMap fun l => [2 * l, 2 * l + 1]) t else t)
    else (if col then e.colScale else e.rowScale, s)
  let p := r.2.popSide c q fwd
  let bad := badLanes p.1 (List.range 64)
  let t := p.2.consumePoison c e.op p.1 64
  ((List.range 64).map fun i => (elemsOf p.1 fmt i, if fmt = 0 then 127 else fldN r.1 (8 * i) 8),
   r.1, if spreads p.1 then taint bad t else t)

/-- A residue mismatch of a step (R71): reported, and the slot poisoned until its next initialisation. -/
def State.siteFault (s : State) (c : Nat) (e : EngineRun) : Option SiteFault → State
  | none => s
  | some f =>
    (s.detectCell c (match f with | .mod3 => 0x1001 | .mod7 => 0x1002) (c + e.op.slot * 2 ^ 16) e.steps).modSlot
      c e.op.slot fun t => { t with faulty := true }

/-- The operation after its last promotion (R51, R56): the token is given up, or its drain may begin; the
engine takes its next operation. -/
def State.engineEnd (s : State) (c : Nat) (e : EngineRun) : State :=
  let s1 := s.modCell c fun x => { x with eng := none, chained := e.chainOut.getD false }
  if e.op.desc.drains then
    s1.modCell c fun x =>
      { (x.modSlot e.op.slot fun t => { t with phase := .draining e.op.id }) with
        drains := x.drains.map fun d => if d.op.id = e.op.id then { d with ready := true } else d }
  else s1.release c e.op

/-- One engine step of the running operation (R58): operands and scales, the 4,096 sites, the window's
promotion, the ramp. Where both sides forward to one X queue, which R47 leaves possible and does not order,
the column side's entries go in first (DESIGN CHOICE, log 81). -/
def State.engineStep (s : State) (c : Nat) (e : EngineRun) (fault : Option SiteFault) : State :=
  let d := e.op.desc
  let a := s.takeSide c e true
  let b := a.2.2.takeSide c e false
  let x := b.2.2.cell c
  let g := x.draw 0 10
  let rnds := (List.range 64).flatMap fun i => g.1.map fun n => n / 2 ^ (10 * i) % 1024
  let last := decide (e.steps + 1 = d.steps)
  let close := last || decide (e.inWindow + 1 = d.promo)
  let sites := ((a.1.flatMap fun p => b.1.map fun q => (p, q)).zip rnds).zip
    ((padTo 4096 0 x.short).zip (padTo 4096 0 (x.slot e.op.slot).acc))
  let new := sites.map fun t => siteStep d.func d.fmtA d.fmtB close t.1.1.1 t.1.1.2 t.1.2 t.2.1 t.2.2
  let next := match x.ework with
    | o :: _ => o.desc.chain && decide (o.desc.ramp = d.ramp)
    | [] => false
  let e1 := rampStep next 64 0 { e with
    steps := e.steps + 1, inWindow := if close then 0 else e.inWindow + 1
    colScale := a.2.1, rowScale := b.2.1 }
  let y : Cell := { g.2 with short := trimEnd 0 (new.map Prod.fst), eng := some e1 }
  let s1 := b.2.2.setCell c (y.modSlot e.op.slot fun t => { t with acc := trimEnd 0 (new.map Prod.snd) })
  let s2 := s1.siteFault c e fault
  if last then s2.engineEnd c e1 else s2

/-- A step of the running operation when it holds its token, its slot is initialised and its queues allow it;
`mode` restricts it to one mode. -/
def State.tryStep (s : State) (c : Nat) (mode : Option Nat) (fault : Option SiteFault) : State :=
  match (s.cell c).eng with
  | some e =>
    if e.owned && e.ready && decide (e.steps < e.op.desc.steps) && (s.cell c).stepReady e &&
        (mode.isNone || decide (mode = some e.op.desc.func)) then s.engineStep c e fault else s
  | none => s

/-- ENGINE_STEP (R58): one step in whatever mode the operation has. -/
def execEngineStep (c : CellIx) (fault : Option SiteFault) (s : State) : Res := s.onCell c <| .next (s.tryStep c none fault)

/-- MULTIPLY_ADD (R41): a step of an operation in mode 0x00. -/
def execMultiplyAdd (c : CellIx) (fault : Option SiteFault) (s : State) : Res := s.onCell c <| .next (s.tryStep c (some 0) fault)

/-- ABSOLUTE_DIFFERENCE (R65): a step of an operation in mode 0x01. -/
def execAbsoluteDifference (c : CellIx) (fault : Option SiteFault) (s : State) : Res := s.onCell c <| .next (s.tryStep c (some 1) fault)

/-- SQUARED_DIFFERENCE (R65): a step of an operation in mode 0x02. -/
def execSquaredDifference (c : CellIx) (fault : Option SiteFault) (s : State) : Res := s.onCell c <| .next (s.tryStep c (some 2) fault)

/-- MIN_PLUS (R65): a step of an operation in mode 0x03. -/
def execMinPlus (c : CellIx) (fault : Option SiteFault) (s : State) : Res := s.onCell c <| .next (s.tryStep c (some 3) fault)

/-- MAX_PLUS (R65): a step of an operation in mode 0x04. -/
def execMaxPlus (c : CellIx) (fault : Option SiteFault) (s : State) : Res := s.onCell c <| .next (s.tryStep c (some 4) fault)

/-- COMPARE_AND_COUNT (R65): a step of an operation in mode 0x05. -/
def execCompareAndCount (c : CellIx) (fault : Option SiteFault) (s : State) : Res := s.onCell c <| .next (s.tryStep c (some 5) fault)

/-! ## The drain path (R50, R61-R64, R89) -/

/-- DRAIN (R144): a DRAIN operation whose turn the token of its slot is takes it. -/
def execDrain (c : CellIx) (s : State) : Res := s.onCell c <|
  let x := s.cell c
  if x.quiz then .next s else
  match x.drains.find? fun d => decide (d.op.desc.op = 2) && !d.ready &&
      decide ((x.slot d.op.slot).phase = .unowned) && decide ((x.slot d.op.slot).waiters.head? = some d.op.id) with
  | some d => .next (s.drainTake c d.op)
  | none => .next s

/-- R89, 1: a wide accumulator under the output scale. -/
def outScaled (o : Nat) (w : W40) : Val := scaled o (w40Val w)

/-- The bytes of one element in an output format, low byte first. -/
def elemBytes (fmt : Fmt) (bits : Nat) (poison : Bool) : List LByte :=
  (bytesOfNat (fmt.width / 8) bits).map fun b => .of b poison

/-- The rounding of an output (R89): stochastic with 16 bits of the lane's generator. -/
def outRound (ornd : Bool) (rnd : Nat) : Rounding := if ornd then .stochastic 16 (rnd % 65536) else .nearest

/-- The two statistics of a row of exact values (R64): the exact maximum, and the sum in W40. -/
def rowStats (xs : List Val) : Val × W40 :=
  (match xs with
    | [] => .zero
    | x :: r => r.foldl Val.max x,
   xs.foldl (fun (s : W40) x => rne40 ((w40Val s).add x)) 0)

/-- A statistics record of a row on a Y queue (R64). -/
def statRecord (mx : Val) (sum : W40) (poison : Bool) : List LByte :=
  (bytesOfNat 5 (rne40 mx).toNat ++ [0, 0, 0] ++ bytesOfNat 5 sum.toNat ++ [0, 0, 0]).map fun b => .of b poison

/-- A statistics entry of side memory (R64, R119). -/
def statWord (mx : Val) (sum : W40) (poison : Bool) : BitVec 64 :=
  if poison then 0x7FC000007FC00000
  else BitVec.ofNat 64 ((rne32 mx).toNat + (rne32 (w40Val sum)).toNat * 2 ^ 32)

/-- Whether every earlier drain into a Y queue has passed its last entry (R50). -/
def Cell.earlierPassed (x : Cell) (op q : Nat) : Bool :=
  (List.range 4).all fun sl => (x.slot sl).buf.all fun b => decide (op ≤ b.op ∨ b.queue.val ≠ q)

/-- A number as a queue code. -/
def queueIx (q : Nat) : QueueIx := ⟨q % 24, Nat.mod_lt _ (by decide)⟩

/-- The entries that the next row of a drain completes on OUT0 (R62): its 64 elements after the bytes under
packing. -/
def DrainRun.rowEntries (d : DrainRun) : Nat :=
  (d.pack.length + 64 * ((fmtOfCode d.op.desc.ofmt).width / 8)) / 128

/-- The statistics entries that the next row completes: its 16-byte record after those under packing (R64). -/
def DrainRun.statEntries (d : DrainRun) : Nat := if d.op.desc.statY then (d.stats.length + 16) / 128 else 0

/-- A Y queue takes `n` entries of a drain: every earlier drain into it has passed its last, and it has room. -/
def Cell.takesDrained (x : Cell) (op q n : Nat) : Bool :=
  decide (n = 0) || (decide (n ≤ x.room q) && x.earlierPassed op q)

/-- Room for what a row produces: the slot buffer for a converted drain, the Y queue for W40, OUT1 for
statistics (R51, R63, R64). -/
def Cell.drainRoom (x : Cell) (d : DrainRun) : Bool :=
  let ds := d.op.desc
  (if ds.ofmt = 5 then x.takesDrained d.op.id ds.out0 d.rowEntries
   else !named ds.out0 || decide ((x.slot d.op.slot).buf.length + d.rowEntries ≤ 128)) &&
  x.takesDrained d.op.id ds.out1 d.statEntries

/-- One row of the drain at the head of the drain path. -/
def State.drainRow (s : State) (c : Nat) (d : DrainRun) : State :=
  let ds := d.op.desc
  let sl := d.op.slot
  let s0 := if d.row = 0 then s.seedLanes c 64 ds.pass else s
  let g := (s0.cell c).draw 64 1
  let t := (s0.cell c).slot sl
  let fmt := fmtOfCode ds.ofmt
  let ws := padTo 64 0 ((t.acc.drop (64 * d.row)).take 64)
  let xs := ws.map (outScaled ds.oscale)
  let bytes := (xs.zip g.1).zipIdx.flatMap fun e =>
    elemBytes fmt (encodeVal fmt (outRound ds.ornd e.1.2) e.1.1) (t.poisonAt d.row e.2)
  let poison := (List.range 64).any (t.poisonAt d.row)
  let st := rowStats xs
  let cut := cutEntries 4 (d.pack ++ bytes)
  let recs := if ds.statY then d.stats ++ statRecord st.1 st.2 poison else []
  let scut := cutEntries 2 recs
  let d1 : DrainRun := { d with row := d.row + 1, pack := cut.2, stats := scut.2 }
  let x1 : Cell := { g.2 with
    side := if ds.statSm then put 0 g.2.side (ds.smbase + d.row) (statWord st.1 st.2 poison) else g.2.side
    drains := match g.2.drains with
      | _ :: r => d1 :: r
      | [] => [] }
  let x2 := (if ds.ofmt = 5 then x1.pushAll ds.out0 cut.1
    else if named ds.out0 then x1.modSlot sl fun u =>
      { u with buf := u.buf ++ cut.1.map fun e => ⟨d.op.id, queueIx ds.out0, e⟩ }
    else x1).pushAll ds.out1 scut.1
  let s1 := s0.setCell c x2
  if d.row = 63 then (s1.modCell c fun x => { x with drains := x.drains.drop 1 }).release c d.op else s1

/-- DRAIN_START (R50, R61): the drain at the head of the drain path reads its next row. -/
def execDrainStart (c : CellIx) (s : State) : Res := s.onCell c <|
  match (s.cell c).drains with
  | d :: _ => if d.ready && (s.cell c).drainRoom d then .next (s.drainRow c d) else .next s
  | [] => .next s

/-- SLOT_BUFFER_PUSH (R63, R50): the oldest entry of a slot buffer enters its Y queue when that has a free
entry and every earlier drain into it has passed its last. -/
def execSlotBufferPush (c : CellIx) (sl : SlotIx) (s : State) : Res := s.onCell c <|
  let x := s.cell c
  match (x.slot sl).buf with
  | b :: rest =>
    if 1 ≤ x.room b.queue ∧ x.earlierPassed b.op b.queue then
      .next (s.setCell c ((x.modSlot sl fun t => { t with buf := rest }).push b.queue b.entry))
    else .next s
  | [] => .next s

end Sys2Proof.Machine
end

