-- ==== Sys2Proof/Machine/Vector.lean ====
section
/-! DEFINITION. The vector engine's VECTOR operations (R92-R97, R149, R183-R185, R199). -/

namespace Sys2Proof.Machine

/-! ## Starting and ending -/

/-- VECTOR (R144): the vector engine takes up its next operation, a VECTOR, and seeds its lanes (R86). -/
def execVector (c : CellIx) (s : State) : Res := s.onCell c <|
  let x := s.cell c
  match x.vec, x.scal, x.vwork with
  | none, none, op :: rest =>
    if op.desc.op = 3 then
      .next ((s.seedLanes c 128 op.desc.pass).modCell c fun y => { y with vwork := rest, vec := some { op := op } })
    else .next s
  | _, _, _ => .next s

/-- Whether no push of an output waits (R45). -/
def Cell.clear (x : Cell) (q : Nat) : Bool := !named q || x.outFree (outEnd q)

/-- The outputs of a VECTOR operation have no push waiting. -/
def Cell.vecClear (x : Cell) (d : Desc) : Bool := x.clear d.out0 && x.clear d.out1 && x.clear d.fwd0

/-- The operation ends once its last result has been pushed (R141). -/
def State.vecEnd (s : State) (c : Nat) (v : VecRun) : State :=
  if v.done = vecCount v.op.desc.steps v.op.desc.fmtA ∧ (s.cell c).vecClear v.op.desc then
    (s.modCell c fun x => { x with vec := none }).modSeq c (Seq.opDone v.op.id)
  else s.modCell c fun x => { x with vec := some v }

/-- The results of a vector written in OFMT under OSCALE with the lanes' random bits (R86, R89, R149). -/
def convertOut (fmt : Nat) (ornd : Bool) (oscale : Nat) (rnd : List Nat) (v : List InElem) : List LVal :=
  (v.zip rnd).map fun e =>
    lval (encodeVal (fmtOfCode fmt) (outRound ornd e.2) (scaled oscale e.1.val)) e.1.poison

/-- One result vector to OUT0 and, in cross packing, to OUT1 (R183, R184); a last entry is filled up after
the operation's last vector. -/
def State.vecOut (s : State) (c : Nat) (v : VecRun) (r : List InElem) : State × VecRun :=
  let d := v.op.desc
  let g := (s.cell c).draw 128 1
  let o := v.outs.add d.ofmt (named d.out1) (convertOut d.ofmt d.ornd d.oscale g.1 r)
  let last := decide (v.done + 1 = vecCount d.steps d.fmtA)
  let tail := if last then o.2.2.flush d.ofmt else []
  (s.setCell c ((g.2.pushAll d.out0 (o.1 ++ tail)).pushAll d.out1 o.2.1),
   { v with done := v.done + 1, outs := if last then {} else o.2.2 })

/-! ## The functions of one vector -/

/-- Elements of several inputs taken lane by lane; a lane carries poison when one of its inputs does (R119). -/
def lanewise (f : List Val → Val) (ins : List (List InElem)) : List InElem :=
  (List.range 64).map fun l =>
    let es := ins.map fun v => v.getD l ⟨.zero, false⟩
    ⟨f (es.map InElem.val), es.any InElem.poison⟩

/-- ADD (R93, R149): each addition by RNE40. -/
def vaddFn : List Val → Val
  | a :: r => r.foldl (fun x y => w40Val (rne40 (x.add y))) a
  | [] => .zero

/-- FMA (R149, R440): one rounding; with no IN2 the addend is -0. -/
def fmaFn : List Val → Val
  | [a, b, x] => f32Val (rne32 ((a.mul b).add x))
  | [a, b] => f32Val (rne32 (a.mul b))
  | _ => .zero

/-- DEQUANT (R94). -/
def dequantFn : List Val → Val
  | [a, b] => f32Val (rne32 (a.mul b))
  | _ => .zero

/-- Take one vector of each input, in its format, once all are there; otherwise what has come stays in the
buffers. -/
def State.vecTake (s : State) (c : Nat) (v : VecRun) (q1 q2 : Option (Nat × Nat)) :
    State × VecRun × Option (List (List InElem)) :=
  let d := v.op.desc
  let n0 := vecSize d.fmtA
  let p0 := s.pull c v.op d.in0 d.fmtA n0 8 v.buf0
  let n1 := match q1 with
    | some (_, f) => vecSize f
    | none => 0
  let p1 := match q1 with
    | some (q, f) => p0.2.pull c v.op q f n1 8 v.buf1
    | none => (v.buf1, p0.2)
  let n2 := match q2 with
    | some (_, f) => vecSize f
    | none => 0
  let p2 := match q2 with
    | some (q, f) => p1.2.pull c v.op q f n2 8 v.buf2
    | none => (v.buf2, p1.2)
  if n0 ≤ p0.1.length ∧ n1 ≤ p1.1.length ∧ n2 ≤ p2.1.length then
    (p2.2, { v with buf0 := p0.1.drop n0, buf1 := p1.1.drop n1, buf2 := p2.1.drop n2 },
     some ([elemsIn d.fmtA 64 p0.1] ++
       (match q1 with
        | some (_, f) => [elemsIn f 64 p1.1]
        | none => []) ++
       (match q2 with
        | some (_, f) => [elemsIn f 64 p2.1]
        | none => [])))
  else (p2.2, { v with buf0 := p0.1, buf1 := p1.1, buf2 := p2.1 }, none)

/-- Run one vector of the active VECTOR operation of function `fn` by `work`, when its outputs have no push
waiting; an operation whose vectors are done ends. -/
def State.vecStep (s : State) (c fn : Nat) (work : State → VecRun → State × VecRun) : State :=
  match (s.cell c).vec with
  | some v =>
    if v.op.desc.func = fn ∧ (s.cell c).vecClear v.op.desc then
      if v.done < vecCount v.op.desc.steps v.op.desc.fmtA then
        let r := work s v
        r.1.vecEnd c r.2
      else s.vecEnd c v
    else s
  | none => s

/-- A function whose result vector is lane by lane a function of its inputs'. -/
def lanesOf (c : Nat) (f : List Val → Val) (q1 q2 : Option (Nat × Nat)) (s : State) (v : VecRun) : State × VecRun :=
  let t := s.vecTake c v q1 q2
  match t.2.2 with
  | some ins => t.1.vecOut c t.2.1 (lanewise f ins)
  | none => (t.1, t.2.1)

/-- IN1 and IN2 of an operation in FMT_B; an IN2 that names no queue supplies nothing (R440). -/
def Desc.input1 (d : Desc) : Option (Nat × Nat) := some (d.in1, d.fmtB)
def Desc.input2 (d : Desc) : Option (Nat × Nat) := if named d.in2 then some (d.in2, d.fmtB) else none

/-- ADD (R149): one vector of IN0 + IN1, then + IN2. -/
def execVecAdd (c : CellIx) (s : State) : Res := s.onCell c <|
  .next (s.vecStep c 1 fun t v => lanesOf c vaddFn v.op.desc.input1 v.op.desc.input2 t v)

/-- FMA (R149): one vector of IN0 × IN1 + IN2. -/
def execVecFma (c : CellIx) (s : State) : Res := s.onCell c <|
  .next (s.vecStep c 5 fun t v => lanesOf c fmaFn v.op.desc.input1 v.op.desc.input2 t v)

/-- CONVERT (R149): one vector of IN0 in OFMT. -/
def execConvert (c : CellIx) (s : State) : Res := s.onCell c <|
  .next (s.vecStep c 6 fun t v => lanesOf c (fun es => es.headD .zero) none none t v)

/-- The scale or parameter entry, popped at the operation's start (R199, R440): its lanes below `n` are
consumed. -/
def State.popParam (s : State) (c q n : Nat) (v : VecRun) : State × VecRun :=
  match v.par with
  | some _ => (s, v)
  | none =>
    match s.consume c q with
    | some (e, t) =>
      (t.consumePoison c v.op e n,
       { v with par := some e, taint := spreads e && !(badLanes e (List.range n)).isEmpty })
    | none => (s, v)

/-- One vector of DEQUANT (R94): the entry of channel scales first. -/
def dequantOne (c : Nat) (t : State) (v : VecRun) : State × VecRun :=
  let p := t.popParam c v.op.desc.in1 64 v
  match p.2.par with
  | none => p
  | some e =>
    let scales : List InElem := (List.range 64).map fun l =>
      if bit e.poison l then ⟨.zero, spreads e⟩ else ⟨decodeBits fmtBF16 (laneOf e l).toNat, false⟩
    let t2 := p.1.vecTake c p.2 none none
    match t2.2.2 with
    | some ins => t2.1.vecOut c t2.2.1 (lanewise dequantFn (ins ++ [scales]))
    | none => (t2.1, t2.2.1)

/-- DEQUANT (R94): the entry of channel scales first, then one vector. -/
def execDequant (c : CellIx) (s : State) : Res := s.onCell c <| .next (s.vecStep c 2 (dequantOne c))

/-! ## Splitting (R95, R97) -/

/-- The three BF16 pieces of an FP32 value (R95). -/
def split32 (x : Val) : Nat × Nat × Nat :=
  match x with
  | .nan => (fmtBF16.nanMag, fmtBF16.nanMag, fmtBF16.nanMag)
  | .inf n => (encodeVal fmtBF16 .nearest x, encodeVal fmtBF16 .nearest (.num n 0 0), encodeVal fmtBF16 .nearest (.num n 0 0))
  | _ =>
    let h := encodeVal fmtBF16 .towardZero x
    let y := x.add (decodeBits fmtBF16 h).neg
    let m := encodeVal fmtBF16 .towardZero y
    (h, m, encodeVal fmtBF16 .nearest (y.add (decodeBits fmtBF16 m).neg))

/-- One vector of SPLIT32 (R95): its x_h, x_m and x_l in BF16 to OUT0, OUT1 and FWD0, under OSCALE (R149; log 30).
Each of the three result vectors takes bits of its own (R86), x_h's first and x_l's last (log 30). -/
def splitFp32One (c : Nat) (t : State) (v : VecRun) : State × VecRun :=
  let t2 := t.vecTake c v none none
  match t2.2.2 with
  | some ins =>
    let d := v.op.desc
    let ps := (ins.headD []).map fun e => (split32 (f32Val (rne32 e.val)), e.poison)
    let out (q : Nat) (f : Nat × Nat × Nat → Nat) (x : Cell) : Cell :=
      let g := x.draw 128 1
      g.2.pushAll q
        [packVectors 1 [convertOut 0 d.ornd d.oscale g.1 (ps.map fun p => ⟨decodeBits fmtBF16 (f p.1), p.2⟩)]]
    let x1 := out d.out0 Prod.fst (t2.1.cell c)
    let x2 := out d.out1 (fun p => p.2.1) x1
    let x3 := out d.fwd0 (fun p => p.2.2) x2
    (t2.1.setCell c x3, { t2.2.1 with done := v.done + 1 })
  | none => (t2.1, t2.2.1)

/-- SPLIT32 (R95, R149): one vector. -/
def execSplitFp32 (c : CellIx) (s : State) : Res := s.onCell c <| .next (s.vecStep c 3 (splitFp32One c))

/-- The window scale's exponent X of a lane (R97); none for a lane with no finite non-zero element. -/
def splitExp (xs : List Val) : Option Int :=
  (xs.filterMap fun x => match x with
    | .num _ m e => if m = 0 then none else some (magLog2 m e)
    | _ => none).max?.map fun u => max (u - 7) (-127)

/-- The E4M3 pieces of a BF16 element under the scale 2^X (R97). -/
def split16 (x : Int) (v : Val) : Nat × Nat :=
  match v with
  | .num n m e =>
    let sh := floorLog2 m - 3
    let h : Val := if floorLog2 m < 4 then v else .num n (m / 2 ^ sh) (e + sh)
    (encodeVal fmtE4M3 .nearest (h.scale (-x)), encodeVal fmtE4M3 .nearest ((v.add h.neg).scale (-x)))
  | _ => (fmtE4M3.nanMag, fmtE4M3.nanMag)

/-- The entries of a window of SPLIT16 for one of its two outputs: the scale entry, then the operand entries
(R149). A lane whose window holds poison carries it in its scale and its pieces. -/
def splitEntries (low : Bool) (w : List (List InElem)) : List Entry :=
  let lane (l : Nat) : List InElem := w.map fun v => v.getD l ⟨.zero, false⟩
  let xs := (List.range 64).map fun l => (splitExp ((lane l).map InElem.val), (lane l).any InElem.poison)
  let codes : List LByte := xs.map fun x => .of (BitVec.ofInt 8 (match x.1 with
    | some k => k + 127
    | none => 127)) x.2
  let vs := w.map fun v => (v.zip xs).map fun e =>
    let p := split16 (e.2.1.getD 0) e.1.val
    lval (if low then p.2 else p.1) e.2.2
  entryOf (padTo 128 (.of 0 false) codes) ::
    (List.range ((w.length + 1) / 2)).map fun i => packVectors 2 ((vs.drop (2 * i)).take 2)

/-- An element kept in the window of SPLIT16, and read back. -/
def keepElem (e : InElem) : LVal := lval (encodeVal fmtBF16 .nearest e.val) e.poison
def readElem (e : LVal) : InElem := ⟨decodeBits fmtBF16 e.bits.toNat, e.poison⟩

/-- One vector of SPLIT16 (R97, R149) into its window; a window that is whole, or the operation's last, goes
out. -/
def splitBf16One (c : Nat) (t : State) (v : VecRun) : State × VecRun :=
  let t2 := t.vecTake c v none none
  match t2.2.2 with
  | some ins =>
    let d := v.op.desc
    let w := v.window ++ [(ins.headD []).map keepElem]
    let x := ((t2.1.cell c).draw 128 1).2
    if w.length = 2 * d.promo ∨ v.done + 1 = vecCount d.steps d.fmtA then
      let ws := w.map fun r => r.map readElem
      (t2.1.setCell c ((x.pushAll d.out0 (splitEntries false ws)).pushAll d.out1 (splitEntries true ws)),
       { t2.2.1 with done := v.done + 1, window := [] })
    else (t2.1.setCell c x, { t2.2.1 with done := v.done + 1, window := w })
  | none => (t2.1, t2.2.1)

/-- SPLIT16 (R97, R149): one vector. -/
def execSplitBf16 (c : CellIx) (s : State) : Res := s.onCell c <| .next (s.vecStep c 4 (splitBf16One c))

/-! ## OPTIM (R199) -/

/-- The seven parameters of an OPTIM parameter entry; a poisoned word is +0. -/
def optimParams (e : Entry) : List F32 :=
  (List.range 7).map fun i =>
    if bit e.poison (2 * i) || bit e.poison (2 * i + 1) then 0 else fld e.data (32 * i) 32

/-- One element of OPTIM: the new weight and moments. -/
def optimElem (ps : List F32) (eta sg lam : F32) (g : Val) (w m v : F32) : F32 × F32 × F32 :=
  let p (i : Nat) : F32 := ps.getD i 0
  let g := rne32 (g.mul (f32Val sg))
  let m1 := fma32 (p 0) m (mul32 (p 1) g)
  let v1 := fma32 (p 2) v (mul32 (p 3) (mul32 g g))
  let q := rsqrt32 (fma32 v1 (p 6) (p 4))
  let u := mul32 (mul32 m1 (p 5)) q
  (fma32 (neg32 eta) (fma32 lam w u) w, m1, v1)

/-- One vector of OPTIM (R199): the parameter entry first, then gradients with their six entries of state. -/
def optimOne (c : Nat) (t : State) (v : VecRun) : State × VecRun :=
  let d := v.op.desc
  let p := t.popParam c d.in2 14 v
  match p.2.par with
  | none => p
  | some e =>
    let g := p.1.pull c v.op d.in0 d.fmtA (vecSize d.fmtA) 8 p.2.buf0
    let r := g.2.pull c v.op d.in1 4 768 8 p.2.buf1
    if vecSize d.fmtA ≤ g.1.length ∧ 768 ≤ r.1.length then
      let gs := elemsIn d.fmtA 64 g.1
      let st := elemsIn 4 192 r.1
      let f (l : Nat) : (F32 × F32 × F32) × Bool :=
        let a := gs.getD l ⟨.zero, false⟩
        let w := st.getD l ⟨.zero, false⟩
        let m := st.getD (64 + l) ⟨.zero, false⟩
        let u := st.getD (128 + l) ⟨.zero, false⟩
        (optimElem (optimParams e) v.op.s1 v.op.s2 v.op.s3 a.val (rne32 w.val) (rne32 m.val) (rne32 u.val),
         a.poison || w.poison || m.poison || u.poison || p.2.taint)
      let rs := (List.range 64).map f
      let rec3 := (rs.map fun x => lval x.1.1.toNat x.2) ++ (rs.map fun x => lval x.1.2.1.toNat x.2) ++
        (rs.map fun x => lval x.1.2.2.toNat x.2)
      let o := r.2.vecOut c { p.2 with buf0 := g.1.drop (vecSize d.fmtA), buf1 := r.1.drop 768 }
        (rs.map fun x => ⟨f32Val x.1.1, x.2⟩)
      (o.1.modCell c (Cell.pushAll d.fwd0 (cutEntries 6 (vecBytes 4 rec3)).1), o.2)
    else (r.2, { p.2 with buf0 := g.1, buf1 := r.1 })

/-- OPTIM (R199): one vector. -/
def execOptim (c : CellIx) (s : State) : Res := s.onCell c <| .next (s.vecStep c 7 (optimOne c))

end Sys2Proof.Machine
end

