-- ==== Sys2Proof/Machine/Reductions.lean ====
section
/-! DEFINITION. Reductions and the gradient ring (R203-R223). -/

namespace Sys2Proof.Machine

/-! ## Bucket records and ring geometry (R206, R208, R210, R213) -/

abbrev Bucket := BitVec 512

def bkDie (b : Bucket) : Nat := fldN b 0 2
def bkValid (b : Bucket) : Bool := bit b 2
def bkKind (b : Bucket) : Nat := fldN b 3 2
def bkWire (b : Bucket) : Nat := fldN b 5 2
/-- Bytes of an element in HBM, and its format's code. -/
def bkSrc (b : Bucket) : Nat := if bit b 7 then 4 else 5
def bkOwnerMode (b : Bucket) : Bool := bit b 8
def bkOwner (b : Bucket) : Nat := fldN b 16 12
def bkRuns (b : Bucket) : Nat := fldN b 28 4
def bkBase (b : Bucket) : Nat := fldN b 32 40
def bkResult (b : Bucket) : Nat := fldN b 80 40
def bkElems (b : Bucket) : Nat := fldN b 128 32
def bkFill (b : Bucket) (j : Nat) : Nat := fldN b 176 20 + fldN b 196 20 * j

/-- A partition's bucket record. -/
def Partition.bucket (P : Partition) (b : Nat) : Bucket := P.image.buckets.getD b 0

/-- A member's place on a bucket's ring: members, own position, and the ring as a list of seats. -/
structure Place where
  n    : Nat
  pos  : Nat
  ring : List Nat
  deriving DecidableEq, Repr

def Partition.place (P : Partition) (b : Bucket) : Place :=
  let r := P.ring (bkKind b)
  ⟨r.length, r.idxOf P.seat.toNat, r⟩

/-- Elements of a chunk at most, where a chunk starts, its length, its first member (R210, R213). -/
def chunkMax (b : Bucket) (n : Nat) : Nat :=
  if bkOwnerMode b then bkElems b else 32 * ((bkElems b + 32 * n - 1) / (32 * n))
def chunkLo (b : Bucket) (n c : Nat) : Nat := min (c * chunkMax b n) (bkElems b)
def chunkLen (b : Bucket) (n c : Nat) : Nat := chunkLo b n (c + 1) - chunkLo b n c
def chunkStart (b : Bucket) (n c : Nat) : Nat := if bkOwnerMode b then (bkOwner b + 1) % n else c
def chunkCount (b : Bucket) (n : Nat) : Nat := if bkOwnerMode b then 1 else n

/-- Contributions summed when a chunk's partial arrives at position p (R216). -/
def hopsAt (b : Bucket) (g : Place) (c : Nat) : Nat := (g.pos + g.n - chunkStart b g.n c) % g.n

/-- Elements that a member writes and sends in a run (R210-R215). -/
def runWrites (b : Bucket) (g : Place) : Nat :=
  if bkOwnerMode b && decide (g.n ≠ 1) && decide (g.pos ≠ bkOwner b) then 0 else bkElems b
def runSends (b : Bucket) (g : Place) : Nat :=
  if g.n ≤ 1 then 0
  else if bkOwnerMode b then (if g.pos = bkOwner b then 0 else bkElems b)
  else ((List.range g.n).map fun c =>
    (if c = (g.pos + 1) % g.n then 0 else chunkLen b g.n c) +
    (if c = (g.pos + 2) % g.n then 0 else chunkLen b g.n c)).sum

/-! ## Wire formats (R211, R219-R222) -/

/-- Elements that bytes of a plain wire or memory format hold. -/
def valsOf (fmt : Nat) (bs : List Byte) : List Val :=
  (List.range (bs.length / elemSize fmt)).map fun i =>
    decodeBits (fmtOfCode fmt) (natOfBytes ((bs.drop (elemSize fmt * i)).take (elemSize fmt)))

/-- Elements written in a format, to nearest even (R89, R90). -/
def bytesIn (fmt : Nat) (vs : List Val) : List Byte :=
  vs.flatMap fun v => bytesOfNat (elemSize fmt) (encodeVal (fmtOfCode fmt) .nearest v)

/-- The format code of a plain wire format: W40, FP32, BF16. -/
def wireFmt (w : Nat) : Nat := if w = 0 then 5 else if w = 1 then 4 else 0

/-- An escalated block record (R220). -/
def escBlock (scale : Byte) (vs : List Val) : List Byte := 0x80 :: scale :: bytesIn 0 vs

/-- ⌈log₂ n⌉. -/
def ceilLog2 (n : Nat) : Nat := if n ≤ 1 then 0 else Nat.log2 (n - 1) + 1

/-- The scale code of a block, agreed by its first member (R221). -/
def agreeScale (n : Nat) (vs : List Val) : Nat :=
  let us := vs.filterMap fun v => match v with
    | .num _ m e => if m = 0 then none else some (magLog2 m e)
    | _ => none
  match us.max? with
  | none => 0
  | some u => (max (u + ceilLog2 n - 14) (-127) + 127).toNat

/-- first() of a block (R221). -/
def blockFirst (n : Nat) (vs : List Val) : List Byte :=
  if vs.any fun v => v.isNan || v.isInf then escBlock 0 vs
  else
    let k := agreeScale n vs
    0 :: BitVec.ofNat 8 k :: bytesIn 2 (vs.map fun v => v.scale (127 - (k : Int)))

/-- A block record's scale code, ESC, and the values of its 32 elements (R220). -/
def blockVals (bs : List Byte) : Nat × Bool × List Val :=
  let k := (bs.getD 1 0).toNat
  if bit (bs.getD 0 0) 7 then (k, true, valsOf 0 ((bs.drop 2).take 64))
  else (k, false, (valsOf 2 ((bs.drop 2).take 32)).map fun v => scaled k v)

/-- hop() of a block (R222): the record, and whether this member escalated it. -/
def blockHop (rcd : List Byte) (xs : List Val) : List Byte × Bool :=
  let r := blockVals rcd
  let t := List.zipWith Val.add r.2.2 xs
  if r.2.1 then (escBlock (BitVec.ofNat 8 r.1) t, false)
  else
    let q := t.map fun v => encodeVal fmtE5M2 .nearest (v.scale (127 - (r.1 : Int)))
    if (t.any fun v => v.isNan || v.isInf) || q.any fun b => decide (fmtE5M2.maxMag < b % 128) then
      (escBlock (BitVec.ofNat 8 r.1) t, true)
    else (0 :: BitVec.ofNat 8 r.1 :: q.map (BitVec.ofNat 8), false)

/-- The block records of a payload. -/
def blocksIn : Nat → List Byte → List (List Byte)
  | 0, _ => []
  | fuel + 1, bs =>
    if bs.isEmpty then []
    else let n := if bit (bs.getD 0 0) 7 then 66 else 34
      bs.take n :: blocksIn fuel (bs.drop n)

/-- Values by blocks of 32, the last filled with +0 (R219). -/
def valBlocks (vs : List Val) : List (List Val) := (chunksOf 32 vs.length vs).map (padTo 32 .zero)

/-- first() of some elements (R211, R221). -/
def wireFirst (w n : Nat) (vs : List Val) : List Byte :=
  if w = 3 then (valBlocks vs).flatMap (blockFirst n) else bytesIn (wireFmt w) vs

/-- The values that wire data of `count` elements stands for. -/
def wireVals (w count : Nat) (bs : List Byte) : List Val :=
  if w = 3 then ((blocksIn bs.length bs).flatMap fun r => (blockVals r).2.2).take count
  else (valsOf (wireFmt w) bs).take count

/-- hop() of some elements (R211, R222), and how many blocks this member escalated. -/
def wireHop (w count : Nat) (bs : List Byte) (xs : List Val) : List Byte × Nat :=
  if w = 3 then
    let r := List.zipWith blockHop (blocksIn bs.length bs) (valBlocks xs)
    (r.flatMap Prod.fst, (r.filter Prod.snd).length)
  else (bytesIn (wireFmt w) (List.zipWith Val.add (wireVals w count bs) xs), 0)

/-- Elements of a packet at most: as many blocks of 32 as a payload holds (log 32). -/
def packetElems (w : Nat) : Nat := if w = 0 then 800 else if w = 1 then 992 else if w = 2 then 2016 else 1952

/-! ## Headers and sending (R216) -/

def redHdr (bucket run type chunk hops wire off count : Nat) (step : BitVec 64) : BitVec 128 :=
  at' 128 0 10 bucket ||| at' 128 10 4 run ||| at' 128 14 2 type ||| at' 128 16 12 chunk ||| at' 128 28 12 hops |||
  at' 128 40 2 wire ||| at' 128 48 32 off ||| at' 128 80 16 count ||| at' 128 96 32 step.toNat

/-- One more in a field of a die's counters of a group kind (R223). -/
def State.countRed (s : State) (d kind lo len n : Nat) : State :=
  s.modDie d fun D => { D with redCtr := alter 0 D.redCtr kind fun r => satField r lo len n }

/-- A reduction packet to the member at a ring position; KBYTES counts its payload. DDIE is the sender's own
bucket's die (log 32), and TAG, which R236 gives no use here, carries the attempt, by which a receiver knows the packets of
a run that it has abandoned (log 151). -/
def State.sendRed (s : State) (p : Nat) (b : Bucket) (seat : Nat) (payload : List Byte) : State :=
  let k := bkKind b
  let s1 := s.modDie (bkDie b) fun D =>
    let n := look 0 D.redBytes k + payload.length
    { D with redBytes := put 0 D.redBytes k n
             redCtr := alter 0 D.redCtr k fun r => setField r 96 32 (min (n / 1024) (2 ^ 32 - 1)) }
  s1.sendPacket p seat (bkDie b) 3 (4 + k) 0 (s.part p).period.attempt.toNat payload

/-- A die's run of a bucket. -/
def Die.findRun (D : Die) (b j : Nat) : Option Run := D.runs.find? fun r => decide (r.bucket = b ∧ r.run = j)
def Die.putRun (D : Die) (r : Run) : Die :=
  { D with runs := if (D.findRun r.bucket r.run).isSome then
      D.runs.map fun q => if q.bucket = r.bucket ∧ q.run = r.run then r else q
    else D.runs ++ [r] }
def State.putRun (s : State) (d : Nat) (r : Run) : State := s.modDie d fun D => D.putRun r

/-- Send what a run has queued, once the successor's open has come (R215, order 3). -/
def State.flushRun (s : State) (p : Nat) (b : Bucket) (r : Run) : State :=
  if r.succOpen && r.started then
    let g := (s.part p).place b
    let succ := g.ring.getD ((g.pos + 1) % max 1 g.n) 0
    (r.queue.foldl (fun t q => t.sendRed p b succ q.2) s).putRun (bkDie b)
      { r with queue := [], sent := r.sent + (r.queue.map Prod.fst).sum }
  else s.putRun (bkDie b) r

/-- The contributions of a member at elements [e, e + n) of a bucket. `bad` names an element and what the check bits of its
64-byte block find (R125); elements that arrive poisoned are a detected error of the memory and one of the ring (R218), and
the answer is none. -/
def State.contribution (s : State) (p : Nat) (b : Bucket) (bn e n : Nat) (bad : Option (Nat × Ecc)) : Option (List Val) × State :=
  let d := bkDie b
  let a := bkBase b + bkSrc b * e
  let r := s.serviceRead d a (bkSrc b * n)
  match bad with
  | some (x, ecc) =>
    if e ≤ x ∧ x < e + n then
      let block := 64 * ((bkBase b + bkSrc b * x) / 64)
      let lo := max block a - a
      let hi := block + 64 - a
      let q := r.2.checked ecc (((r.1.take hi).drop lo).map fun y => .of y false)
        (fun t => t.hbmCorrected d block)
        (fun t => (t.detect 0x2004 (dieUnit d) p (hbmLoc d block) (stackLocal block)).detect 0x4005 (dieUnit d) p bn
          (e + lo / bkSrc b))
      (if ecc = .uncorrectable then none
        else some (valsOf (bkSrc b) (r.1.take lo ++ q.1.map LByte.byte ++ r.1.drop hi)), q.2)
    else (some (valsOf (bkSrc b) r.1), r.2)
  | none => (some (valsOf (bkSrc b) r.1), r.2)

/-- A run that a poisoned contribution stops (R218): it sends nothing more and does not complete. -/
def State.stopRun (s : State) (b : Bucket) (r : Run) : State :=
  s.putRun (bkDie b) { r with stopped := true, queue := [] }

/-- Write results at elements [e, ...) of RBASE in SRCFMT (R212). -/
def State.writeResult (s : State) (b : Bucket) (e : Nat) (vs : List Val) : State :=
  s.writeHbm (bkDie b) (bkResult b + bkSrc b * e) (bytesIn (bkSrc b) vs)

/-- The pieces of a chunk by packets: offset and count. -/
def piecesOf (w len : Nat) : List (Nat × Nat) :=
  (List.range ((len + packetElems w - 1) / packetElems w)).map fun i =>
    (i * packetElems w, min (packetElems w) (len - i * packetElems w))

/-! ## Starting a run (R208, R213) -/

/-- The runs of one group in the order of their starts (R208). -/
def Partition.runOrder (P : Partition) (kind : Nat) : List (Nat × Nat) :=
  (List.range 15).flatMap fun j =>
    ((List.range P.image.buckets.length).filter fun b =>
      let r := P.bucket b
      bkValid r && bkKind r == kind && decide (j < bkRuns r)).map fun b => (j, b)

/-- The next run of a group to start; its position is kept on the partition's lowest die. -/
def State.nextRun (s : State) (p kind : Nat) : Option (Nat × Nat) :=
  ((s.part p).runOrder kind)[look 0 (s.die (s.part p).lowDie).runPos kind]?

/-- The partial of the chunk that starts at this member, piece by piece (R210). -/
def State.firstChunk (s : State) (p : Nat) (b : Bucket) (r : Run) (g : Place) (bad : Option (Nat × Ecc)) : Run × State :=
  let c := if bkOwnerMode b then 0 else g.pos
  if chunkStart b g.n c ≠ g.pos then (r, s)
  else
    (piecesOf (bkWire b) (chunkLen b g.n c)).foldl (fun (acc : Run × State) (q : Nat × Nat) =>
      if acc.1.stopped then acc
      else
        let x := acc.2.contribution p b r.bucket (chunkLo b g.n c + q.1) q.2 bad
        let h := redHdr acc.1.bucket acc.1.run 1 c 1 (bkWire b) q.1 q.2 (s.part p).period.step
        match x.1 with
        | none => ({ acc.1 with stopped := true, queue := [] }, x.2)
        | some vs => ({ acc.1 with queue := acc.1.queue ++ [(q.2, bytesOfBv 16 h ++ wireFirst (bkWire b) g.n vs)] }, x.2)) (r, s)

/-- RUN_START (R208, R209, R213): the group's next run starts once it is filled, its bucket's earlier run has
completed and a run slot is free; its open goes to the predecessor and its first chunk to the successor. A
run of one member writes its result at once. A poisoned contribution stops it (R218). -/
def execRunStart (d : DieIx) (kind : Fin 4) (bad : Option (Nat × Ecc)) (s : State) : Res :=
  match s.partOf d with
  | none => .next s
  | some p =>
    let P := s.part p
    match s.nextRun p kind with
    | none => .next s
    | some (j, bn) =>
      let b := P.bucket bn
      let D := s.die d
      let busy := (D.runs.filter fun r => r.started && r.kind == kind.val).length
      if P.state = .running ∧ P.period.isOpen ∧ bkDie b = d.val ∧ bkFill b j ≤ (s.tally (fld b 160 14)).toNat ∧
          busy < 16 ∧ look 0 D.runsDone bn = j then
        let g := P.place b
        let c := if bkOwnerMode b then 0 else g.pos
        let all : Nat × Nat := if g.n ≤ 1 then (0, bkElems b) else if chunkStart b g.n c = g.pos then (chunkLo b g.n c, chunkLen b g.n c) else (0, 0)
        s.afterSnoops ((d.val, bkBase b + bkSrc b * all.1, bkSrc b * all.2, false) ::
          (if g.n ≤ 1 then [(d.val, bkResult b, bkSrc b * bkElems b, true)] else [])) <|
        let r0 := (D.findRun bn j).getD { bucket := bn, run := j, kind := kind }
        let s1 := s.modDie P.lowDie fun L => { L with runPos := alter 0 L.runPos kind (· + 1) }
        if g.n ≤ 1 then
          let x := s1.contribution p b bn 0 (bkElems b) bad
          match x.1 with
          | none => .next (x.2.stopRun b { r0 with started := true })
          | some vs => .next ((x.2.writeResult b 0 (wireVals (bkWire b) (bkElems b) (wireFirst (bkWire b) 1 vs))).putRun d
              { r0 with started := true, written := bkElems b })
        else
          let pred := g.ring.getD ((g.pos + g.n - 1) % g.n) 0
          let s2 := s1.sendRed p b pred (bytesOfBv 16 (redHdr bn j 0 0 0 (bkWire b) 0 0 P.period.step))
          let f := s2.firstChunk p b { r0 with started := true } g bad
          .next (f.2.flushRun p b f.1)
      else .next s

/-! ## Received packets (R216, R217) -/

/-- What a received header comes to: discarded and counted, a detected error, or taken for a run. -/
inductive RedCheck where
  | discard
  | mismatch
  | take (b : Bucket) (g : Place) (r : Run)
  deriving DecidableEq, Repr

/-- R217: the check of a header of TYPE `type` in a packet with TAG `tag`. An open carries no elements (log 151). -/
def State.checkRed (s : State) (p : Nat) (tag : Nat) (h : BitVec 128) (type : Nat) : RedCheck :=
  let P := s.part p
  let bn := fldN h 0 10
  let j := fldN h 10 4
  let b := P.bucket bn
  let g := P.place b
  if P.state ≠ .running ∨ fld h 96 32 ≠ P.period.step.setWidth 32 ∨ tag ≠ P.period.attempt.toNat then .discard
  else if !bkValid b || decide (bkRuns b ≤ j) || decide (fldN h 40 2 ≠ bkWire b) then .mismatch
  else
    let c := fldN h 16 12
    let off := fldN h 48 32
    let n := fldN h 80 16
    let hops := fldN h 28 12
    let inChunk := decide (c < chunkCount b g.n) && decide (off % 32 = 0) && decide (0 < n) &&
      decide (off + n ≤ chunkLen b g.n c) && (decide (n % 32 = 0) || decide (off + n = chunkLen b g.n c))
    let fits := match type with
      | 0 => decide (hops = 0 ∧ c = 0 ∧ off = 0 ∧ n = 0)
      | 1 => inChunk && decide (hops ≠ 0) && decide (hops = hopsAt b g c)
      | _ => inChunk && decide (hops = 0) && !bkOwnerMode b && decide (g.pos ≠ (c + g.n - 1) % g.n)
    if fits = false then .mismatch
    else
      match (s.die (bkDie b)).findRun bn j with
      | some r => if r.started || type == 0 then .take b g r else .discard
      | none =>
        if type = 0 ∧ look 0 (s.die (bkDie b)).runsDone bn ≤ j then .take b g { bucket := bn, run := j, kind := bkKind b }
        else .discard

/-- A packet discarded under R217 is counted on its die. -/
def State.dropRed (s : State) (pkt : Packet) : State := s.countRed (pktDdie pkt.hdr) (pktVc pkt.hdr - 4) 64 32 1

/-- The detected error of R217. -/
def State.redError (s : State) (p : Nat) (pkt : Packet) (h : BitVec 128) : State :=
  s.detect 0x4002 (dieUnit (pktDdie pkt.hdr)) p (fldN h 0 10) (fldN h 0 64)

/-- The common part of the three received packets: a packet of another type is not this command's, and one of a run that has
stopped (R218) does nothing more. -/
def State.takeRed (s : State) (p : PartIx) (pkt : Packet) (type : Nat)
    (f : State → BitVec 128 → List Byte → Bucket → Place → Run → State) : State :=
  let t := s.takeDelivered p fun q => decide (q = pkt)
  let h := bvOfBytes 128 (pkt.payload.take 16)
  if fldN h 14 2 ≠ type then s
  else
    match t.checkRed p (pktTag pkt.hdr) h type with
    | .discard => t.dropRed pkt
    | .mismatch => t.redError p pkt h
    | .take b g r => if r.stopped then t else f t h (pkt.payload.drop 16) b g r

/-- The HBM accesses that a received packet of a TYPE brings: the member's contributions to a partial, and the results that a
final or a completed partial writes (R210, R315). -/
def State.redRanges (s : State) (p : PartIx) (pkt : Packet) (type : Nat) : List (Nat × Nat × Nat × Bool) :=
  let h := bvOfBytes 128 (pkt.payload.take 16)
  if fldN h 14 2 ≠ type then []
  else
    match s.checkRed p (pktTag pkt.hdr) h type with
    | .take b g r =>
      let e := chunkLo b g.n (fldN h 16 12) + fldN h 48 32
      let n := bkSrc b * fldN h 80 16
      if r.stopped then []
      else if type = 1 then (bkDie b, bkBase b + bkSrc b * e, n, false) ::
        (if fldN h 28 12 + 1 = g.n then [(bkDie b, bkResult b + bkSrc b * e, n, true)] else [])
      else [(bkDie b, bkResult b + bkSrc b * e, n, true)]
    | _ => []

/-- REDUCTION_OPEN (R216): the successor has started its run, and this member streams to it. -/
def execReductionOpen (p : PartIx) (pkt : Packet) (s : State) : Res :=
  s.defers (.reductionOpen p pkt) <|
  .next (s.takeRed p pkt 0 fun t _ _ b _ r => t.flushRun p b { r with succOpen := true })

/-- REDUCTION_PARTIAL (R210-R212, R222): the member adds its contribution, and sends the sum on, or, where it
is complete, writes it and sends it as a final. A poisoned contribution stops the run (R218). -/
def execReductionPartial (p : PartIx) (pkt : Packet) (bad : Option (Nat × Ecc)) (s : State) : Res :=
  s.defers (.reductionPartial p pkt bad) <| s.afterSnoops (s.redRanges p pkt 1) <|
  .next (s.takeRed p pkt 1 fun t h body b g r =>
    let c := fldN h 16 12
    let off := fldN h 48 32
    let n := fldN h 80 16
    let hops := fldN h 28 12
    let e := chunkLo b g.n c + off
    let x := t.contribution p b r.bucket e n bad
    match x.1 with
    | none => x.2.stopRun b r
    | some vs =>
    let w := wireHop (bkWire b) n body vs
    let t1 := if w.2 = 0 then x.2 else x.2.countRed (bkDie b) (bkKind b) 32 32 w.2
    let hdr (type k : Nat) := bytesOfBv 16 (redHdr r.bucket r.run type c k (bkWire b) off n (t.part p).period.step)
    if hops + 1 = g.n then
      let t2 := t1.writeResult b e (wireVals (bkWire b) n w.1)
      let r1 := { r with written := r.written + n }
      t2.flushRun p b (if bkOwnerMode b then r1 else { r1 with queue := r1.queue ++ [(n, hdr 2 0 ++ w.1)] })
    else t1.flushRun p b { r with queue := r.queue ++ [(n, hdr 1 (hops + 1) ++ w.1)] })

/-- REDUCTION_FINAL (R210, R212): written to RBASE, and forwarded unless this member is its last receiver. -/
def execReductionFinal (p : PartIx) (pkt : Packet) (s : State) : Res :=
  s.defers (.reductionFinal p pkt) <| s.afterSnoops (s.redRanges p pkt 2) <|
  .next (s.takeRed p pkt 2 fun t h body b g r =>
    let c := fldN h 16 12
    let n := fldN h 80 16
    let t1 := t.writeResult b (chunkLo b g.n c + fldN h 48 32) (wireVals (bkWire b) n body)
    let r1 := { r with written := r.written + n }
    t1.flushRun p b (if g.pos = (c + g.n - 2) % g.n then r1
      else { r1 with queue := r1.queue ++ [(n, pkt.payload)] }))

/-! ## Completion (R215) -/

/-- Packets of a run that have not left for their first link unit or local destination. -/
def State.runWaiting (s : State) (b j : Nat) : Bool :=
  s.fabric.inject.any fun e =>
    let h := bvOfBytes 128 (e.pkt.payload.take 16)
    decide (fldN e.pkt.hdr 56 4 = 3 ∧ fldN h 0 10 = b ∧ fldN h 10 4 = j)

/-- A run is complete on this member (R215), but for the acceptance of what it has sent. -/
def State.runComplete (s : State) (p : Nat) (r : Run) : Bool :=
  let b := (s.part p).bucket r.bucket
  let g := (s.part p).place b
  r.started && !r.stopped && r.queue.isEmpty && decide (r.written = runWrites b g) && decide (r.sent = runSends b g) &&
  !s.runWaiting r.bucket r.run

/-- The run has sent something that its successor accepts. -/
def State.runSent (s : State) (p : Nat) (r : Run) : Bool :=
  let b := (s.part p).bucket r.bucket
  decide (0 < runSends b ((s.part p).place b))

/-- RUN_COMPLETE (R215, R217): DAMOUNT is added to the done tally, and the run slot is free. `x.accepted` says that the
successor has accepted every partial and final of the run: the manual gives no packet that tells the sender (log 151). -/
def execRunComplete (d : DieIx) (x : RunEnd) (s : State) : Res :=
  match s.partOf d with
  | none => .next s
  | some p =>
    match (s.die d).runs.find? fun r => decide (r.bucket = x.bucket.val) && s.runComplete p r && (x.accepted || !s.runSent p r) with
    | none => .next s
    | some r =>
      let rcd := (s.part p).bucket x.bucket
      let s1 := s.modDie d fun D =>
        { D with runs := D.runs.filter fun q => !(q.bucket == r.bucket && q.run == r.run)
                 runsDone := alter 0 D.runsDone x.bucket (· + 1) }
      .next (((s1.countRed d (bkKind rcd) 0 32 1).addOwn p (fld rcd 216 14) (fldN rcd 232 20) 0).assertShared 46)

end Sys2Proof.Machine
end

