-- ==== Sys2Proof/Machine/Periods.lean ====
section
/-! DEFINITION. Bells and the step period on a member (R137, R138, R151, R198, R229, R255-R262, R275, R290-R292, R294, R317). -/

namespace Sys2Proof.Machine

/-! ## The cascade and the reception of control packets (R256, R258, R275) -/

/-- A control type that R258 and R297 reserve. -/
def reservedCtype (c : Control) : Bool :=
  let t := ctype c
  !(decide (1 ≤ t ∧ t ≤ 5) || decide (8 ≤ t ∧ t ≤ 12) || decide (0x10 ≤ t ∧ t ≤ 0x1C))

/-- The relay of a seat's row in the cascade rooted at `root`: (x_root, y). -/
def relayOf (root seat : Nat) : Nat := 64 * (seat / 64) + root % 64

/-- The relays of the rows that hold a seated member. -/
def Partition.relays (root : Nat) (P : Partition) : List Nat :=
  P.members.foldl (fun l m => insNat (relayOf root m) l) []

/-- Send a control packet to every member by the cascade rooted at the sender's own seat. -/
def State.cascade (s : State) (p : Nat) (c : Control) : State :=
  ((s.part p).relays (s.part p).seat.toNat).foldl (fun t r => t.sendCtl p r c) s

/-- A relay forwards what the root of a cascade sent to every other seated member of its row. A fenced
device sends nothing for the job (R300). -/
def State.relayOn (s : State) (p root : Nat) (c : Control) : State :=
  let P := s.part p
  let q := P.seat.toNat
  if P.state = .fenced ∨ q % 64 ≠ root % 64 then s
  else (P.members.filter fun m => decide (m / 64 = q / 64 ∧ m ≠ q)).foldl (fun t m => t.sendCtl p m c) s

/-- A control packet discarded and counted (R258). -/
def State.dropCtl (s : State) (p : Nat) : State := s.countFabric (s.part p).firstPort 0 192 16 1

/-- A control packet received (R27, R256): it leaves the place where it waited, its row's relay forwards it where it
travels by a cascade, and it is admitted with the source of `key`. The answer holds its ingress sequence number. -/
def State.receiveCtl (s : State) (p : PartIx) (c : Control) (casc : Bool) (key : Nat) : BitVec 64 × State :=
  let s0 := s.takeDelivered p fun q => decide (q.payload = bytesOfBv 64 c)
  (if casc then s0.relayOn p (ctlSeat c) c else s0).intake .vc1 key

/-- The common part of the received control packets: a packet of another type is not this event; a reserved type or a
stale packet is discarded and counted once admitted (R27, R258); any other takes effect as `f` says, which is given its
ingress sequence number. One that comes during a firmware switch is admitted then and handled after it (R369, R384). -/
def State.takeCtl (s : State) (i : Instr) (p : PartIx) (type : Nat) (c : Control) (casc : Bool) (key : Nat)
    (f : BitVec 64 → State → State) : Res :=
  let k := if reservedCtype c then 999 else key
  if ctype c ≠ type ∧ reservedCtype c = false then .next s
  else if s.fw.stage = .starting then .next (s.holdOver i .vc1 k)
  else if reservedCtype c || (s.part p).staleCtl c then .next ((s.receiveCtl p c false k).2.dropCtl p)
  else .next (f (s.receiveCtl p c casc k).1 (s.receiveCtl p c casc k).2)

/-- A control packet of the current epoch from the lodestar restarts the watch (R275). A bell starts it
again after a halt bell; its sender is the lodestar of its epoch, unless a claim of that epoch from a lower seat stands
accepted. -/
def Watch.heard (bell : Bool) (c : Control) (w : Watch) : Watch :=
  let newer := decide (w.epoch < ctlEpoch c) || match w.lodestar with
    | some l => decide (ctlSeat c ≤ l)
    | none => true
  if bell then
    (if newer then { w with epoch := ctlEpoch c, lodestar := some (ctlSeat c), running := true, expired := false } else w)
  else if ctlEpoch c = w.epoch ∧ w.lodestar = some (ctlSeat c) then { w with expired := false } else w

/-! ## Stopping and resetting a partition's work (R138, R229, R285) -/

/-- The sequencers of a partition's cells issue nothing more; work in flight runs on, and its results are
not kept (R285; log 23). -/
def State.stopWalks (s : State) (p : Nat) : State :=
  (s.part p).formCells.foldl (fun t c => t.modSeq c fun q => { q with stopped := true }) s

/-- The reset of every form of a partition (R72, R138; R418 for a paused cell), with its runs abandoned and their queued sends
discarded (R229). -/
def State.resetForms (s : State) (p : Nat) : State :=
  let P := s.part p
  let s1 := P.formCells.foldl (fun t c => t.modCell c fun x =>
    if x.paused then { x with resetDue := true } else x.formReset) s
  let s2 := P.dieList.foldl (fun t d => t.modDie d fun D =>
    { D with runs := [], runPos := [], runsDone := [], gateway := D.gateway.filter fun g => !g.write }) s1
  let own (o : OutPacket) : Bool := decide (pktKind o.pkt.hdr = 3 ∧ pktDpart o.pkt.hdr = p ∧ fldN o.pkt.hdr 16 6 = s.fabric.ownX ∧
    fldN o.pkt.hdr 22 6 = s.fabric.ownY)
  let ports := mapVals {} (fun (x : Port) => { x with
    units := mapVals {} (fun (u : LinkUnit) => { u with outq := u.outq.filter fun o => !own o }) x.units }) s2.fabric.ports
  let s3 : State := { s2 with fabric := { s2.fabric with
    ports := ports, inject := s2.fabric.inject.filter fun e => !(decide (e.part = p) && decide (pktKind e.pkt.hdr = 3)) } }
  s3.modPart p fun P => { P with period := { P.period with
    signals := [], counts := [], scalars := [], arrivals := [], ended := [], rotas := [], hops := [] } }

/-! ## The data service's jobs (R317) -/

/-- The input-table entries in use. -/
def Partition.inputList (P : Partition) : List Nat :=
  (List.range P.image.inputs.length).filter fun i => bit (P.image.inputs.getD i 0) 2

/-- The digest of R317 over some bytes. -/
def digest64 (bs : List Byte) : BitVec 64 := bvOfBytes 64 (shake256 bs 8)

/-- The reads of a step's inputs begin. A step without inputs is in place at once. -/
def Partition.newJob (step : BitVec 64) (replay : Bool) (P : Partition) : SvcJob :=
  { step := step, replay := replay, digest := if P.inputList.isEmpty then some (digest64 []) else none }

/-- CXL.cache traffic may pass (R311). -/
def Cxl.cacheUp (x : Cxl) : Bool := decide (x.width ≠ 0) && x.cacheEn && !x.viral

/-- The device's own CXL.cache traffic may pass: none does on an unlocked device (R357). -/
def State.cacheOk (s : State) : Bool := s.cxl.cacheUp && !s.sec.unlocked

/-- LENGTH of an input-table entry, and the host address of its step-s bytes, SRC + s × STRIDE (R317). -/
def inputLen (e : BitVec 256) : Nat := fldN e 192 32
def inputSrc (e : BitVec 256) (step : BitVec 64) : BitVec 64 := fld e 64 64 + step * fld e 128 64

/-- A job asks for the lines of every entry that are not in place, by RdCurr (R316, R317). -/
def State.issueReads (s : State) (p : Nat) (j : SvcJob) : State :=
  if s.cacheOk = false ∨ j.stopped ∨ j.digest.isSome then s
  else
    let P := s.part p
    P.inputList.foldl (fun t i =>
      let e := P.image.inputs.getD i 0
      t.emit (.rdCurr (inputSrc e j.step) (inputLen e) (look [] j.got i))) s

/-- The reads of a step's jobs go out. -/
def State.askFor (s : State) (p : Nat) (step : BitVec 64) : State :=
  ((s.part p).period.svc.filter fun j => decide (j.step = step)).foldl (fun t j => t.issueReads p j) s

/-- The host address of a seat's waypoint slot for a step (R295, 2): slot (s ÷ N) mod 2, the one that START and a restore
order read it from (R306, R328). -/
def Partition.waypointAddr (P : Partition) (seat : Nat) (step : BitVec 64) : BitVec 64 :=
  P.chart.wpBase + BitVec.ofNat 64 (2 * seat + step.toNat / max 1 P.params.interval % 2) * P.chart.wpSize

/-- The read of the waypoint that a partition restores goes out, for the whole slot (R306, R328, log 37). -/
def State.askWaypoint (s : State) (p : Nat) : State :=
  let P := s.part p
  match P.restoring with
  | some w => if s.cacheOk then s.emit (.rdCurr (P.waypointAddr P.seat.toNat w) P.chart.wpSize.toNat []) else s
  | none => s

/-- Begin reading a step's inputs, unless that has begun (R317). -/
def Partition.readInputs (step : BitVec 64) (P : Partition) : Partition :=
  if P.period.svc.any fun j => decide (j.step = step) then P
  else { P with period := { P.period with svc := P.period.svc ++ [P.newJob step false] } }

/-- Read a restarted step's inputs again (R317). -/
def Partition.rereadInputs (step : BitVec 64) (P : Partition) : Partition :=
  { P with period := { P.period with
    svc := P.newJob step true :: P.period.svc.filter fun j => decide (j.step ≠ step) } }

/-- Jobs of steps before `step` are over. -/
def Partition.pruneJobs (step : BitVec 64) (P : Partition) : Partition :=
  { P with period := { P.period with svc := P.period.svc.filter fun j => decide (step ≤ j.step) } }

/-! ## Bells (R259, R267, R269, R275) -/

/-- The partition is in this attempt of this step. -/
def Partition.inAttempt (c : Control) (P : Partition) : Bool :=
  decide (P.state = .running) && P.period.begun && decide (P.period.step = ctlStep c) && decide (P.period.attempt = ctlAttempt c)

/-- The service begins to read a step's inputs, unless it has begun (R317). -/
def State.beginReads (s : State) (p : Nat) (step : BitVec 64) : State :=
  if (s.part p).period.svc.any fun j => decide (j.step = step) then s
  else (s.modPart p (Partition.readInputs step)).askFor p step

/-- A step bell or restart bell is admitted: the period of (STEP, ATTEMPT) begins (R259), with its start
values of the carried tallies (R151), its patience (R275), and the reading of the next step's inputs
(R317). Reduction packets of its step are taken from now on (R217). -/
def State.bellIn (s0 : State) (p : Nat) (c : Control) (num : BitVec 64) : State :=
  let P := s0.part p
  let s := P.dieList.foldl (fun t d => t.modDie d fun D => { D with runs := [], runPos := [], runsDone := [] }) s0
  let carried := if P.state = .running ∧ P.period.begun ∧ P.period.step = ctlStep c then P.period.carried else s.carried P
  let s1 := (s.modPart p fun P => Partition.pruneJobs (ctlStep c)
    { P with
      period := { P.period with
        step := ctlStep c, attempt := ctlAttempt c, bell := num, last := num
        waiting := some (ctlStep c, ctlAttempt c)
        isOpen := false, ended := [], versions := false, token := false, dropped := false, begun := true, saidDropped := false, deadSent := 0
        carried := carried }
      chart := { P.chart with reseated := [] }
      watch := { P.watch.heard true c with patience := (arg1 c).toNat, relayed := 0 } }).beginReads p (ctlStep c + 1)
  s1.setPartState p .running

/-- STEP_BELL (R256, R259, R261): admitted, it begins the step on a partition that is Starting or Running.
The bell of an attempt already begun begins nothing. -/
def execStepBell (p : PartIx) (ctl : Control) (s : State) : Res :=
  s.takeCtl (.stepBell p ctl) p 1 ctl true (128 + p) fun num t =>
    let P := t.part p
    if (P.state = .starting ∨ P.state = .running) ∧ P.inAttempt ctl = false then t.bellIn p ctl num
    else t.modPart p fun P => { P with watch := P.watch.heard true ctl }

/-- RESTART_BELL (R259, R269): every form is reset, the step's inputs are read again, and the step begins
again with the bell's attempt. -/
def execRestartBell (p : PartIx) (ctl : Control) (s : State) : Res :=
  s.takeCtl (.restartBell p ctl) p 3 ctl true (128 + p) fun num t =>
    let P := t.part p
    if (P.state = .starting ∨ P.state = .running) ∧ P.inAttempt ctl = false then
      let t1 := (t.resetForms p).bellIn p ctl num
      (t1.modPart p fun P =>
        let m := P.mirror
        { P.rereadInputs (ctlStep ctl) with
          mirror := { m with written := m.unacked.foldl (fun l i => insNat i l) m.written
                             unacked := [], sent := none, acked := none } }).askFor p (ctlStep ctl)
    else t.modPart p fun P => { P with watch := P.watch.heard true ctl }

/-- HALT_BELL (R267): the partition is Halted; no step work starts, and no watch is kept (R275). -/
def execHaltBell (p : PartIx) (ctl : Control) (s : State) : Res :=
  s.takeCtl (.haltBell p ctl) p 4 ctl true (128 + p) fun _ t =>
    let P := t.part p
    if P.state = .starting ∨ P.state = .running then
      let t1 := (t.stopWalks p).modPart p fun P =>
        { P with
          period := { P.period with waiting := none, isOpen := false }
          lode := { P.lode with restores := [] }
          watch := { P.watch.heard true ctl with running := false } }
      t1.setPartState p .halted
    else t

/-- BEACON (R275): the watch restarts. -/
def execBeacon (p : PartIx) (ctl : Control) (s : State) : Res :=
  s.takeCtl (.beacon p ctl) p 5 ctl true 999 fun _ t => t.modPart p fun P => { P with watch := P.watch.heard false ctl }

/-! ## The start of the period (R137, R151, R262, R368) -/

/-- The period of a waiting bell may begin: no examination, restore or firmware switch holds it (R262, R306,
R368), and no bench of its forms is paused (R418). An activation that waits holds only a partition that has
closed its period. -/
def State.mayStart (s : State) (P : Partition) : Bool :=
  decide (P.state = .running) && !P.period.examining && !P.period.dropped && P.restoring.isNone && !P.refilling &&
  (P.formCells.all fun c => !(s.cell c).paused) &&
  (decide (s.fw.stage = .idle) || (decide (s.fw.stage = .waitingBoundary) && !P.period.closed))

/-- PERIOD_START (R137, R151, R259): tallies take their start values, tally 0x000 of every die rises to 1, the
forms' cells begin their chains, and inputs already in place signal (R317). -/
def execPeriodStart (p : PartIx) (s : State) : Res :=
  let P := s.part p
  match P.period.waiting with
  | none => .next s
  | some (step, _) =>
    if s.mayStart P then
      let s1 := P.dieList.foldl (fun t d => t.modDie d fun D =>
        { D with tallies := put 0 (startTallies P.period.carried d) 0 1 }) s
      let s2 := P.forms.foldl (fun t r => r.cellList.foldl (fun u c => u.modCell c (Cell.startWalk r)) t) s1
      let s3 := s2.modPart p fun P => { P with period := { P.period with
        waiting := none, isOpen := true, closed := false
        signals := [], counts := [], scalars := [], arrivals := [], clamped := [], rotas := [], hops := [] } }
      .next (s3.signalInputs p (P.inputsReady step))
    else .next s

/-! ## Closing (R38, R198, R260, R290-R294) -/

/-- The journal head entry's bytes (R294), with its digest. -/
def jEntryBytes (e : JEntry) : List Byte :=
  let carried : Nat := (e.carried.map fun x => x.2.toNat * 2 ^ (20 * x.1)).sum
  let body := bytesOfBv 8 e.step ++ bytesOfBv 1 e.attempt ++ [0] ++ bytesOfBv 4 e.gen ++ [0, 0] ++
    bytesOfBv 8 e.bell ++ bytesOfBv 8 e.seed ++ bytesOfBv 8 e.manifest ++ bytesOfBv 8 e.waypoint ++
    bytesOfBv 8 e.last ++ List.replicate 8 0 ++ bytesOfNat 2560 carried ++ List.replicate 1464 0
  body ++ shake256 body 8

/-- A journal head entry from its bytes (R294); `none` where its digest fails. -/
def jEntryOf (bs : List Byte) : Option JEntry :=
  let f (i n : Nat) : List Byte := (bs.drop i).take n
  if (shake256 (bs.take 4088) 8) ≠ f 4088 8 then none
  else
    let c := natOfBytes (f 64 2560)
    some { step := bvOfBytes 64 (f 0 8), attempt := bvOfBytes 8 (f 8 1), gen := bvOfBytes 32 (f 10 4)
           bell := bvOfBytes 64 (f 16 8), seed := bvOfBytes 64 (f 24 8), manifest := bvOfBytes 64 (f 32 8)
           waypoint := bvOfBytes 64 (f 40 8), last := bvOfBytes 64 (f 48 8)
           carried := (List.range 1024).foldl (fun m i => put 0 m i (BitVec.ofNat 20 (c / 2 ^ (20 * i)))) [] }

/-- The number of a kind of event, and back. -/
def IngressKind.code : IngressKind → Nat
  | .vc1 => 0
  | .doorbell => 1
  | .kmp => 2
  | .i3c => 3
  | .timer => 4
  | .error => 5
  | .periodEnd => 6

def IngressKind.ofCode : Nat → IngressKind
  | 0 => .vc1
  | 1 => .doorbell
  | 2 => .kmp
  | 3 => .i3c
  | 4 => .timer
  | 5 => .error
  | _ => .periodEnd

/-- An event of the journal bulk, 16 bytes (log 33), and the events of such bytes. -/
def eventBytes (e : IngressEvent) : List Byte := bytesOfBv 8 e.num ++ bytesOfNat 4 e.src ++ bytesOfNat 4 e.kind.code

def eventsOf (bs : List Byte) : List IngressEvent :=
  (chunksOf 16 (bs.length / 16) bs).map fun e =>
    { num := bvOfBytes 64 (e.take 8), kind := .ofCode (natOfBytes (e.drop 12)), src := natOfBytes ((e.drop 8).take 4) }

/-- The journal head with an entry; the ring holds 64 (R294). -/
def journalPut (e : JEntry) (l : List JEntry) : List JEntry :=
  let k := (l.filter fun x => decide (x.step ≠ e.step)) ++ [e]
  k.drop (k.length - 64)

/-- Every form has reported period end, every signal sent has landed, so that no release comes after the version tallies'
reset (R198; DEDUCED, log 143), and every run that the period's fills started is complete (R38, 1 and 2). A run that is
filled and not yet started is not complete. -/
def State.workDone (s : State) (p : Nat) : Bool :=
  let P := s.part p
  (P.forms.all fun r => P.period.ended.contains r.num) && P.period.signals.isEmpty &&
  (P.dieList.all fun d => (s.die d).runs.all fun r => !r.started) &&
  (List.range 4).all fun k =>
    ((P.runOrder k).drop (look 0 (s.die P.lowDie).runPos k)).all fun e =>
      let b := P.bucket e.2
      decide ((s.tally (fld b 160 14)).toNat < bkFill b e.1)

/-- The version tallies of the weight table take USES (R198). -/
def State.resetVersions (s : State) (p : Nat) : State :=
  ((s.part p).image.weights.filter fun w => bit w 2).foldl (fun t w =>
    [fld w 224 14, fld w 240 14].foldl (fun u v => u.modDie (fldN v 12 2) fun D =>
      { D with tallies := put 0 D.tallies (fldN v 0 12) (fld w 256 20) }) t) s

/-- A mirror header (R291). -/
def mirrorHdr (step : BitVec 64) (attempt : BitVec 8) (full commit : Bool) (entry moff : Nat) : BitVec 128 :=
  at' 128 0 32 step.toNat ||| at' 128 32 8 attempt.toNat ||| bitAt 128 40 full ||| bitAt 128 41 commit |||
  at' 128 48 11 entry ||| at' 128 64 40 moff

/-- Send a mirror-list entry's bytes, or the journal's, in packets of up to 4,080 bytes (R291). -/
def State.sendMirror (s : State) (p seat ddie kind vc : Nat) (full : Bool) (step : BitVec 64) (attempt : BitVec 8)
    (entry : Nat) (bs : List Byte) : State :=
  ((chunksOf 4080 bs.length bs).zipIdx).foldl (fun t q =>
    t.sendPacket p seat ddie kind vc 0 0 (bytesOfBv 16 (mirrorHdr step attempt full false entry (4080 * q.2)) ++ q.1)) s

/-- The journal head entry of the period that closes (R294), once the next step's inputs are digested. -/
def State.headEntry (s : State) (p : Nat) : Option JEntry :=
  let P := s.part p
  (P.period.svc.find? fun j => decide (j.step = P.period.step + 1)).bind fun j => j.digest.map fun m =>
    { step := P.period.step, attempt := P.period.attempt, gen := P.gen, bell := P.period.bell
      seed := P.image.seed, manifest := m, waypoint := P.waypoint.getD 0, last := P.period.last
      carried := s.carried P }

/-- The deskmate of a partition's seat (R239, R287). -/
def Partition.desk (P : Partition) : Nat := seatDesk (P.chart.entry P.seat.toNat)

/-- The journal's bytes in an update: the step's head entry, then its events (R290, 2). -/
def Partition.journalBytes (e : JEntry) (P : Partition) : List Byte :=
  jEntryBytes e ++ ((P.bulk.filter fun b => decide (b.1 = e.step)).flatMap fun b => b.2.flatMap eventBytes)

/-- The entries in use of a mirror list, with their places: index, die, address, length (R288). -/
def Image.mirrorList (im : Image) : List (Nat × Nat × Nat × Nat) :=
  (List.range im.mirror.length).filterMap fun i => (mirrorEntry (im.mirror.getD i 0)).map fun e => (i, e)

/-- The entries that the closing step's update sends (R290, 2; R292). -/
def Partition.updateEntries (P : Partition) : List (Nat × Nat × Nat × Nat) :=
  P.image.mirrorList.filter fun e => P.mirror.fullDue || P.mirror.written.contains e.1

/-- The mirror update of a closing step and its commit (R290, 2 and 4; R292): entries written, or every
entry in a full update; then the journal, on the partition's lowest die. -/
def State.sendUpdate (s : State) (p : Nat) (e : JEntry) : State :=
  let P := s.part p
  let full := P.mirror.fullDue
  let send (acc : State × Nat) (e : Nat × Nat × Nat × Nat) : State × Nat :=
    (acc.1.sendMirror p P.desk e.2.1 4 2 full P.period.step P.period.attempt e.1 (s.readHbm e.2.1 e.2.2.1 e.2.2.2),
      acc.2 + e.2.2.2)
  let r := P.updateEntries.foldl send (s, 0)
  let j := P.journalBytes e
  let s1 := r.1.sendMirror p P.desk P.lowDie 4 2 full P.period.step P.period.attempt 0x7FF j
  let total := r.2 + j.length
  let s2 := s1.sendPacket p P.desk P.lowDie 4 2 0 0
    (bytesOfBv 16 (mirrorHdr P.period.step P.period.attempt full true 0 total))
  s2.modPart p fun P => { P with mirror := { P.mirror with
    written := [], unacked := P.mirror.written, sent := some P.period.step, sentFull := full
    sentBytes := total, acked := none } }

/-- Write the journal head entry, close, and send the token to the row's relay (R256, R260). -/
def State.closeNow (s : State) (p : Nat) (e : JEntry) : State :=
  let s1 := s.modPart p fun P =>
    { P with journal := journalPut e P.journal
             period := { P.period with isOpen := false, closed := true, token := true } }
  let P := s1.part p
  let c := s1.ownCtl p 0x08 (2 ^ (P.seat.toNat % 64)) 0 0
  s1.sendCtl p (relayOf (P.watch.lodestar.getD 0) P.seat.toNat) c

/-- PERIOD_CLOSE (R38, R260): as far as the conditions have come, in order: the version tallies are reset, the
mirror update is sent, and, once it is acknowledged and the next step's inputs are digested, the journal
head is written, the period is closed and the token is sent. -/
def execPeriodClose (p : PartIx) (s : State) : Res :=
  let P := s.part p
  if P.state = .running ∧ P.period.isOpen ∧ P.period.dropped = false ∧ s.workDone p then
    let s1 := if P.period.versions then s
      else (s.resetVersions p).modPart p fun P => { P with period := { P.period with versions := true } }
    match s1.headEntry p with
    | none => .next s1
    | some e =>
      if P.image.single then .next (s1.closeNow p e)
      else if P.mirror.sent ≠ some P.period.step then
        s1.afterSnoops ((P.updateEntries).map fun i => (i.2.1, i.2.2.1, i.2.2.2, false)) (.next (s1.sendUpdate p e))
      else if P.mirror.acked = some P.period.step then .next (s1.closeNow p e)
      else .next s1
  else .next s

end Sys2Proof.Machine
end

