-- ==== Sys2Proof/Machine/Lodestar.lean ====
section
/-! DEFINITION. The lodestar: roll call, patience, holds, decisions, succession, and the recovery sequence it runs (R256, R263-R270, R274-R276, R297-R306). -/

namespace Sys2Proof.Machine

def State.modLode (s : State) (p : Nat) (f : Lodestar → Lodestar) : State :=
  s.modPart p fun P => { P with lode := f P.lode }

/-- A partition is the lodestar of its bell group as it knows it (R274, R276). -/
def Partition.isLode (P : Partition) : Bool := P.watch.lodestar == some P.seat.toNat

/-! ## Patience (R263, R264) -/

/-- The median of some step times, the mean of the two middle ones rounded down where they are even (R263). -/
def median (l : List Nat) : Nat :=
  let m := l.insertionSort (· ≤ ·)
  let n := m.length
  if n % 2 = 1 then m.getD (n / 2) 0 else (m.getD (n / 2 - 1) 0 + m.getD (n / 2) 0) / 2

/-- The base patience in µs (R263): of the last 15 step times in the history, at least 10 ms; before any, the
first-step patience, or on a successor the patience last announced (R275). -/
def Partition.basePatience (P : Partition) : Nat :=
  max 10000 (if P.lode.history.isEmpty then
      (if P.lode.base = 0 then 1000000 * P.params.firstS else P.lode.base)
    else P.params.factor * median P.lode.history)

/-- The engine step rate of a bench domain in 10^6 steps a second (R5), at a core voltage in mV and a junction
temperature in 1/16 °C: the table's at its voltages and 70 °C, between its neighbours' at others, not lower below 70 °C
and not higher above. -/
def stepRate (mv tj16 : Nat) : Nat :=
  let hot (r : Nat) : Nat :=
    if tj16 = 1120 then r else if tj16 < 1120 then max r (Config.stepRate mv tj16) else min r (Config.stepRate mv tj16)
  let between (lo hi : Nat) : Nat := max lo (min hi (Config.stepRate mv 1120))
  if mv = 550 then hot 780
  else if mv < 650 then hot (between 780 1100)
  else if mv = 650 then hot 1100
  else if mv < 750 then hot (between 1100 1400)
  else if mv = 750 then hot 1400
  else if mv < 850 then hot (between 1400 1680)
  else hot 1680

/-- The die and the core voltage of some bench domains. -/
def State.railsOf (s : State) (benches : List Nat) : List (Nat × Nat) :=
  benches.map fun b => (b / 24, (look {} (s.die (b / 24)).benches (b % 24)).mv)

/-- The pace of bench domains, each at its voltage and its die's hottest junction (R264; `tj` as R340 gives it). -/
def paceOf (rails : List (Nat × Nat)) (tj : BitVec 64) : Nat :=
  rails.foldl (fun n r => min n (max 1 (min 1024 (1024 * stepRate r.2 (fldN tj (16 * r.1) 16) / 1400)))) 1024

/-- The bench domains that hold forms of a partition. -/
def Partition.formBenches (P : Partition) : List Nat := P.forms.flatMap FormRec.benchList

/-- The lowest pace in force among the members; a member that has sent no slow notice is at 1,024 (R264). -/
def Partition.lowestPace (P : Partition) : Nat :=
  P.members.foldl (fun n m => min n (look 1024 P.lode.paces m)) 1024

/-- The patience of a step (R264). -/
def Partition.patience (P : Partition) : Nat :=
  min (P.basePatience * 1024 / max 1 P.lowestPace) (4 * P.basePatience)

/-! ## Bells from the lodestar (R258, R267) -/

/-- A step is a waypoint step (R295). -/
def Partition.waypointStep (P : Partition) (step : BitVec 64) : Bool :=
  decide (P.params.interval ≠ 0) && decide (step.toNat % P.params.interval = 0)

/-- Send a step bell or a restart bell: the lodestar collects (R267). -/
def State.ringBell (s : State) (p type : Nat) (step : BitVec 64) (attempt : BitVec 8) : State :=
  let P := s.part p
  let a0 := if P.waypointStep step then 2 ^ 32 else 0
  let c := mkCtl type attempt.toNat P.seat.toNat P.watch.epoch.toNat step.toNat a0 P.patience 0
  (s.cascade p c).modLode p fun L =>
    { L with state := .collecting, step := step, attempt := attempt, tokens := [], answers := []
             windowOver := false, allowOver := false, patience := P.patience, phase := .none
             firstStep := none, restores := [] }

/-- A control packet of the lodestar's, for the step it rings. -/
def State.lodeCtl (s : State) (p type a0 a1 : Nat) : Control :=
  let P := s.part p
  mkCtl type P.lode.attempt.toNat P.seat.toNat P.watch.epoch.toNat P.lode.step.toNat a0 a1 0

/-- Send a halt bell (R267). -/
def State.haltJob (s : State) (p cause : Nat) : State :=
  (s.cascade p (s.lodeCtl p 4 cause 0)).modLode p fun L => { L with state := .halted, phase := .none, late := [] }

/-- A notice of a partition's, from its lowest die (log 34). -/
def State.partNotice (s : State) (p : Nat) (reason : BitVec 16) (loc detail : Nat) : State :=
  s.notice { reason := reason, unit := dieUnit (s.part p).lowDie, part := partIx p
             loc := BitVec.ofNat 32 loc, detail := BitVec.ofNat 64 detail }

/-- The stuck-step record (R268, R284). -/
def State.stuckStep (s : State) (p : Nat) : State :=
  s.partNotice p 0x7003 (s.part p).seat.toNat (s.part p).params.limit

/-- Send a hold bell and hold (R267). -/
def State.hold (s : State) (p cause named : Nat) : State :=
  let P := s.part p
  (s.cascade p (s.lodeCtl p 2 (cause + named * 2 ^ 16) (1000 * P.params.windowMs))).modLode p fun L =>
    { L with state := .holding, answers := [], windowOver := false, allowOver := false, cause := cause, named := named }

/-- Every member's token is present (R267); in Holding, an answer DONE counts as one, and a seat that a successor has
replaced is late (R275). -/
def Partition.rollComplete (P : Partition) : Bool :=
  P.members.all fun m => !(decide (P.lode.state = .holding ∧ P.lode.cause = 2 ∧ m = P.lode.named)) &&
    (P.lode.tokens.contains m ||
      (decide (P.lode.state = .holding) && P.lode.answers.any fun a => decide (a.seat = m ∧ a.status = 0)))

/-- Ringing (R263, R267): a step without a restart enters the history; then the next step's bell, or a halt
bell when a stop is pending. -/
def State.ringing (s : State) (p us : Nat) : State :=
  let s1 := s.modLode p fun L =>
    { L with history := if L.restarted then L.history else (us :: L.history).take 15
             restarted := false, replaced := false }
  let L := (s1.part p).lode
  if L.stop then (s1.haltJob p 0).modLode p fun L => { L with stop := false }
  else s1.ringBell p 1 (L.step + 1) 0

/-! ## Chart generations in recovery (R297, R298, R300) -/

/-- The reserves that recovery packets reach directly: primed ones, and those chosen for a seat and not yet
seated. -/
def Partition.directReserves (P : Partition) : List Nat :=
  (P.chart.reserves.filter fun e =>
    decide (seatState e.2 = 1) || P.lode.late.any fun l => decide (l.reserve = some e.1 ∧ l.seated = false)).map Prod.fst

/-- Send a control packet by the cascade, and directly to the reserves (R297). -/
def State.cascadeAll (s : State) (p : Nat) (c : Control) : State :=
  let P := s.part p
  P.directReserves.foldl (fun t i =>
    let e := look 0 P.chart.reserves i
    t.sendDirect p (seatX e) (seatY e) 0xFFF 6 1 (bytesOfBv 64 c)) (s.cascade p c)

/-- Issue a chart generation with some entries changed (R297, R298). -/
def State.issueGen (s : State) (p : Nat) (changes : List (Nat × BitVec 128)) : State :=
  let P := s.part p
  let g := max P.lode.gen.toNat P.gen.toNat + 1
  let upd (t : State) (e : Nat × BitVec 128) : State :=
    let L := (t.part p).lode
    t.cascadeAll p (mkCtl 0x11 L.attempt.toNat P.seat.toNat P.watch.epoch.toNat L.step.toNat (g + e.1 * 2 ^ 32)
      (fldN e.2 0 64) (fldN e.2 64 64))
  let s1 := changes.foldl upd s
  (s1.cascadeAll p (s1.lodeCtl p 0x12 (g + changes.length * 2 ^ 32) 0)).modLode p fun L =>
    { L with gen := BitVec.ofNat 32 g, acks := [], ackReserves := 0 }

/-- Every live member and reserve has installed the generation (R300). -/
def Partition.ackDone (P : Partition) : Bool :=
  let L := P.lode
  let unseated (m : Nat) : Bool := L.late.any fun l => decide (l.seat = m ∧ l.seated = false)
  let need := (P.members.filter fun m => !unseated m) ++ (L.late.filter fun l => l.seated).map LateSeat.seat
  (need.all fun m => L.acks.contains m) && decide (P.directReserves.length ≤ L.ackReserves)

/-- The seat's entry with a STATE. -/
def withState (e : BitVec 128) (st : Nat) : BitVec 128 := setField e 12 2 st

/-- The seat's entry with a reserve's device in it (R300): its place, domain and serial number; the deskmate
stays. -/
def seatedEntry (e r : BitVec 128) : BitVec 128 :=
  setField (setField (setField (withState e 1) 0 12 (fldN r 0 12)) 16 16 (fldN r 16 16)) 64 64 (fldN r 64 64)

/-- R300, 3: the first primed reserve of a domain, or else of any domain. -/
def Partition.pickReserve (P : Partition) (domain : Nat) : Option Nat :=
  let primed := P.chart.reserves.filter fun e => decide (seatState e.2 = 1)
  match primed.find? fun e => decide (seatDomain e.2 = domain) with
  | some e => some e.1
  | none => (primed.head?).map Prod.fst

/-- A reserve chosen for a late seat is used; the seat request goes to it, with the generation that will seat
it; a reserve of another domain raises notice 0x7004. -/
def State.requestSeat (s : State) (p seat : Nat) (i : Nat) : State :=
  let P := s.part p
  let r := look 0 P.chart.reserves i
  let s1 := s.modPart p fun P => { P with
    chart := { P.chart with reserves := put 0 P.chart.reserves i (withState r 2) }
    lode := { P.lode with late := P.lode.late.map fun l => if l.seat = seat then { l with reserve := some i } else l
                          paces := put 1024 P.lode.paces seat 1024 } }
  let s2 := s1.sendDirect p (seatX r) (seatY r) 0xFFF 6 1
    (bytesOfBv 64 (s1.lodeCtl p 0x14 (seat + (P.lode.gen.toNat + 1) * 2 ^ 32) 0))
  if seatDomain r = seatDomain (P.chart.entry seat) then s2 else s2.partNotice p 0x7004 seat (seatDomain r)

/-- R300, 3: a reserve for every late seat that has none; with no primed reserve left, a halt bell with cause
2 and a stuck-step record (R305). -/
def State.requestSeats (s : State) (p : Nat) : List Nat → Option State
  | [] => some s
  | q :: l =>
    match (s.part p).pickReserve (seatDomain ((s.part p).chart.entry q)) with
    | some i => (s.requestSeat p q i).requestSeats p l
    | none => none

/-- R300, 3: once every reserve is ready, a generation seats them. -/
def State.seatAll (s : State) (p : Nat) : State :=
  let P := s.part p
  if P.lode.phase = .seat ∧ (P.lode.late.all fun l => l.ready) then
    let s1 := s.issueGen p ((P.lode.late.filter fun l => !l.seated).map fun l =>
      (l.seat, seatedEntry (P.chart.entry l.seat) (look 0 P.chart.reserves (l.reserve.getD 0))))
    s1.modLode p fun L => { L with phase := .seating, late := L.late.map fun l => { l with seated := true } }
  else s

/-- R306, 1 and 2: notice 0x7005 for each seat whose state is lost, and a restore order with the last whole
waypoint step and a new generation. With no whole waypoint, a halt bell with cause 2 and a stuck-step
record. -/
def State.orderRestore (s : State) (p : Nat) : State :=
  let P := s.part p
  match P.waypoint with
  | none => (s.haltJob p 2).stuckStep p
  | some w =>
    let s1 := (P.lode.late.filter LateSeat.lost).foldl (fun t l => t.partNotice p 0x7005 l.seat w.toNat) s
    let s2 := s1.issueGen p []
    let s3 := s2.modLode p fun L => { L with phase := .restore, restores := [] }
    s3.cascadeAll p (s3.lodeCtl p 0x1A (s3.part p).lode.gen.toNat w.toNat)

/-- R300, 5: the restart bell, then a recovery summary for each replaced seat. The durations that its DETAIL
holds are an open value: the model keeps no time. -/
def State.replay (s : State) (p : Nat) (step : BitVec 64) (attempt : BitVec 8) : State :=
  let late := (s.part p).lode.late
  let s1 := (s.ringBell p 3 step attempt).modLode p fun L =>
    { L with restarted := true, replaced := true, late := [], phase := .none }
  late.foldl (fun t l => let f := t.fresh; f.2.partNotice p 0x7002 l.seat f.1.toNat) s1

/-- R300, 4 and 5: once every reserve is refilled, the replay. -/
def State.refillEnd (s : State) (p : Nat) : State :=
  let L := (s.part p).lode
  if L.phase = .refill ∧ (L.late.all fun l => l.refilled) then s.replay p L.step (L.attempt + 1) else s

/-- The next phase once a generation is installed everywhere (R300). -/
def State.advance (s : State) (p : Nat) : State :=
  let P := s.part p
  if P.ackDone = false then s
  else
    match P.lode.phase with
    | .fence =>
      match s.requestSeats p ((P.lode.late.filter fun l => l.reserve.isNone).map LateSeat.seat) with
      | some t => (t.modLode p fun L => { L with phase := .seat }).seatAll p
      | none => (s.haltJob p 2).stuckStep p
    | .seating =>
      if P.lode.late.any LateSeat.lost then s.orderRestore p
      else (s.modLode p fun L => { L with phase := .refill }).refillEnd p
    | _ => s

/-- R300, R305: recover some seats. Each is late afresh; a generation marks them STATE 2. A late seat not yet
refilled whose deskmate is late has lost its mirror. `kept` are seats whose reserves an earlier lodestar has seated and
that are not known to be refilled: they keep their seats and refill again. -/
def State.recover (s : State) (p : Nat) (seats kept : List Nat) : State :=
  let P := s.part p
  let old := P.lode.late.filter fun l => !seats.contains l.seat
  let all := seats ++ kept ++ old.map LateSeat.seat
  let gone (q : Nat) : Bool := all.contains (seatDesk (P.chart.entry q)) ||
    P.lode.late.any fun l => decide (l.seat = q) && l.lost
  let late := old.map (fun l => { l with lost := l.lost || (!l.refilled && seats.contains (seatDesk (P.chart.entry l.seat))) }) ++
    kept.map (fun q => { seat := q, reserve := some 0xFFF, ready := true, seated := true, lost := gone q }) ++
    seats.map fun q => { seat := q, lost := gone q }
  let s1 := s.modLode p fun L => { L with state := .recovering, phase := .fence, late := late }
  s1.issueGen p (seats.map fun q => (q, withState (P.chart.entry q) 2))

/-! ## Deciding (R268, R270, R276) -/

/-- R268: a member is late. -/
def Partition.isLate (P : Partition) (m : Nat) : Bool :=
  let L := P.lode
  if L.cause = 2 ∧ m = L.named then true
  else if L.tokens.contains m then false
  else
    match L.answers.find? fun a => decide (a.seat = m) with
    | none => true
    | some a => (decide (a.status = 3) && decide (L.cause = 0)) || (decide (a.status = 4) && !a.ready)

/-- The seats that the lodestar recovers: late members, and after a succession those that the old lodestar had
fenced (R305). -/
def Partition.lateSeats (P : Partition) : List Nat :=
  P.members.filter P.isLate ++
  (if P.lode.cause = 2 then (P.chart.seats.filter fun e => decide (seatState e.2 = 2)).map Prod.fst else [])

/-- The seats that an earlier lodestar has seated again in the interrupted step and that are not late: after a succession
they are not known to be refilled (R305). -/
def Partition.keptSeats (P : Partition) : List Nat :=
  if P.lode.cause = 2 then P.chart.reseated.filter fun q => !P.lateSeats.contains q else []

/-- Why a single device halts: DETAIL of 0x7006 (R284). -/
def Partition.lateReason (P : Partition) : Nat :=
  match P.lode.answers.find? fun a => decide (a.seat = 0) with
  | none => 3
  | some a => if a.status = 3 then 1 else 2

/-- Deciding (R268, R270, R276). A deadlocked step goes where any other step with no late member goes. -/
def State.decideStep (s : State) (p : Nat) : State :=
  let P := s.part p
  let late := P.lateSeats
  if P.image.single then
    (if late = [] then restartStep s P else (s.haltJob p 2).partNotice p 0x7006 0 P.lateReason)
  else if late.contains P.seat.toNat then
    (match successors P.members P.seat.toNat with
      | r :: _ => s.sendCtl p r (s.ownCtl p 0x0B P.seat.toNat 0 0)
      | [] => s).modLode p fun L => { L with state := .idle, passedOn := true }
  else if late = [] ∧ P.keptSeats = [] then restartStep s P
  else s.recover p late P.keptSeats
where
  restartStep (s : State) (P : Partition) : State :=
    if P.params.limit ≤ P.lode.attempt.toNat ∧ P.lode.replaced = false then (s.haltJob p 1).stuckStep p
    else (s.ringBell p 3 P.lode.step (P.lode.attempt + 1)).modLode p fun L => { L with restarted := true }

/-- Holding ends (R267): roll call is complete; or the answer window has passed and every DROPPED member is
READY or the examination allowance has passed. -/
def State.holdEnd (s : State) (p us : Nat) : State :=
  let P := s.part p
  let L := P.lode
  if L.state = .collecting ∨ L.state = .holding then
    (if P.rollComplete then s.ringing p us
     else if L.state = .holding ∧ L.windowOver ∧ (L.allowOver ∨ L.answers.all fun a => decide (a.status ≠ 4) || a.ready) then
       s.decideStep p
     else s)
  else s

/-! ## Tokens and answers (R256, R266, R267) -/

/-- A control packet for the attempt that the lodestar rings. -/
def Lodestar.forStep (c : Control) (L : Lodestar) : Bool :=
  decide (L.step = ctlStep c) && decide (L.attempt = ctlAttempt c)

/-- MEMBER_TOKEN (R256): a relay records the token of a member of its row, and sends the row token once
every seated member of the row is present. -/
def execMemberToken (p : PartIx) (ctl : Control) (s : State) : Res :=
  if bit (arg1 ctl) 0 then .next s
  else
    s.takeCtl (.memberToken p ctl) p 8 ctl false 999 fun _ t =>
      let P := t.part p
      if P.inAttempt ctl = false then t
      else
        let y := P.seat.toNat / 64
        let mask := P.watch.relayed ||| arg0 ctl
        let t1 := t.modPart p fun P => { P with watch := { P.watch with relayed := mask } }
        if (P.members.filter fun m => decide (m / 64 = y)).all fun m => bit mask (m % 64) then
          t1.sendCtl p (P.watch.lodestar.getD 0) (t1.ownCtl p 8 mask.toNat 1 0)
        else t1

/-- ROW_TOKEN (R267): the lodestar records a row's tokens; with every member's, roll call is complete after
`us` µs of the step. -/
def execRowToken (p : PartIx) (ctl : Control) (us : Nat) (s : State) : Res :=
  if bit (arg1 ctl) 0 = false then .next s
  else
    s.takeCtl (.rowToken p ctl us) p 8 ctl false 999 fun _ t =>
      if (t.part p).isLode && (t.part p).lode.forStep ctl then
        let row := (List.range 64).filter fun x => bit (arg0 ctl) x
        (t.modLode p fun L =>
          { L with tokens := row.foldl (fun l x => insNat (64 * (ctlSeat ctl / 64) + x) l) L.tokens }).holdEnd p us
      else t

/-- An answer recorded: READY follows a DROPPED of the same seat (R266). -/
def recordAnswer (seat status : Nat) (blocks : List Nat) (l : List Answer) : List Answer :=
  let rest := l.filter fun a => decide (a.seat ≠ seat)
  if status = 5 then rest ++ [{ seat := seat, status := 4, blocks := [], ready := true }]
  else rest ++ [{ seat := seat, status := status, blocks := blocks }]

/-- HOLD_ANSWER (R266, R267): recorded by the lodestar in Holding. -/
def execHoldAnswer (p : PartIx) (ctl : Control) (us : Nat) (s : State) : Res :=
  s.takeCtl (.holdAnswer p ctl us) p 9 ctl false 999 fun _ t =>
    let P := t.part p
    if P.isLode && P.lode.forStep ctl && decide (P.lode.state = .holding) then
      let blocks := ((List.range 4).map fun i => fldN (arg1 ctl) (12 * i) 12).filter fun b => decide (b ≠ 0xFFF)
      (t.modLode p fun L =>
        { L with answers := recordAnswer (ctlSeat ctl) (fldN (arg0 ctl) 0 3) blocks L.answers }).holdEnd p us
    else t

/-! ## Pace (R264) -/

/-- SLOW_NOTICE (R264): the lodestar records the pace; a fall lengthens the current step's patience at once. -/
def execSlowNotice (p : PartIx) (ctl : Control) (s : State) : Res :=
  s.takeCtl (.slowNotice p ctl) p 10 ctl false 999 fun _ t =>
    let t1 := t.modLode p fun L => { L with paces := put 1024 L.paces (ctlSeat ctl) (max 1 (min 1024 (fldN (arg0 ctl) 0 11))) }
    t1.modPart p fun P => { P with lode := { P.lode with
      patience := if P.lode.state = .collecting then max P.lode.patience P.patience else P.lode.patience } }

/-- PACE_CHANGE (R264): a pace that differs by 32 or more from the one last reported is sent to the lodestar,
at most once a millisecond; `tj` holds the dies' hottest junctions as R340 gives them. -/
def execPaceChange (p : PartIx) (tj : BitVec 64) (msPassed : Bool) (s : State) : Res :=
  let P := s.part p
  let n := paceOf (s.railsOf P.formBenches) tj
  if msPassed ∧ (n + 32 ≤ P.watch.pace ∨ P.watch.pace + 32 ≤ n) then
    match P.watch.lodestar with
    | none => .next s
    | some l =>
      let s1 := (s.modPart p fun P => { P with watch := { P.watch with pace := n } }).assertAt 3 5
      .next (s1.sendCtl p l (s1.ownCtl p 10 n 0 0))
  else .next s

/-! ## Timers of the lodestar (R267, R268, R275, R328) -/

/-- A timer of a step's patience expires, the windows and allowances that R267 orders against packets among them: it is
admitted (R27; DEDUCED, log 145). -/
def State.timer (s : State) : State := s.admitted .timer 999

/-- PATIENCE_EXPIRY (R267). -/
def execPatienceExpiry (p : PartIx) (s : State) : Res :=
  if (s.part p).isLode ∧ (s.part p).lode.state = .collecting then .next (s.timer.hold p 0 0) else .next s

/-- ANSWER_WINDOW_EXPIRY (R267). -/
def execAnswerWindowExpiry (p : PartIx) (s : State) : Res :=
  if (s.part p).isLode ∧ (s.part p).lode.state = .holding then
    .next ((s.timer.modLode p fun L => { L with windowOver := true }).holdEnd p 0)
  else .next s

/-- EXAMINATION_ALLOWANCE_EXPIRY (R268): the allowance counts from the hold bell and is not below the answer
window (R265). -/
def execExaminationAllowanceExpiry (p : PartIx) (s : State) : Res :=
  if (s.part p).isLode ∧ (s.part p).lode.state = .holding then
    .next ((s.timer.modLode p fun L => { L with windowOver := true, allowOver := true }).holdEnd p 0)
  else .next s

/-- BEACON_TIMER (R275): in Holding, Deciding or Recovering the lodestar sends a beacon. It ends no patience and is not
admitted (R27). -/
def execBeaconTimer (p : PartIx) (s : State) : Res :=
  let L := (s.part p).lode
  let code := match L.state with
    | .holding | .deciding => 1
    | .recovering => 2
    | _ => 0
  if (s.part p).isLode ∧ code ≠ 0 then .next (s.cascade p (s.lodeCtl p 5 (code + L.named * 2 ^ 16) 0))
  else .next s

/-- FIRST_STEP_TIMEOUT (R328): not every restore done has come within the first-step patience. -/
def execFirstStepTimeout (p : PartIx) (s : State) : Res :=
  if (s.part p).isLode ∧ (s.part p).lode.firstStep.isSome then
    .next (((s.timer.haltJob p 1).modLode p fun L => { L with firstStep := none }).stuckStep p)
  else .next s

/-! ## Succession (R270, R274, R275) -/

/-- A member's rank in the order of succession; 0 is the lodestar (R274). -/
def Partition.rank (P : Partition) : Nat :=
  match P.watch.lodestar with
  | some l => if (successors P.members l).contains P.seat.toNat then (successors P.members l).idxOf P.seat.toNat + 1 else 0
  | none => 0

/-- A successor takes over (R275): a claim with the next epoch to every member, then Holding with cause 2 and
the replaced seat treated as late. -/
def State.takeOver (s : State) (p : Nat) : State :=
  let P := s.part p
  let old := P.watch.lodestar.getD 0
  let s1 := s.modPart p fun P => { P with
    watch := { P.watch with epoch := P.watch.epoch + 1, lodestar := some P.seat.toNat, expired := false }
    lode := { state := .holding, step := P.period.step, attempt := P.period.attempt, base := P.watch.patience
              patience := P.watch.patience, restarted := decide (P.period.attempt ≠ 0), gen := P.gen
              tokens := if P.period.token then [P.seat.toNat] else [] } }
  (s1.cascade p (s1.lodeCtl p 0x0C old 0)).hold p 2 old

/-- TROUBLE_NOTICE (R256, R267, R275, R305): in Collecting the lodestar holds with cause 1; in Recovering a
notice of another member's failure adds its seat (or fences the reserve chosen for a late seat, which fails in Seat or
Refill), and one with reason 0x7005 says that a late seat's mirror
or waypoint is not to be had (log 35); the first successor takes over when it names the lodestar. -/
def execTroubleNotice (p : PartIx) (ctl : Control) (s : State) : Res :=
  s.takeCtl (.troubleNotice p ctl) p 11 ctl false 38 fun _ t =>
    let P := t.part p
    let seat := fldN (arg0 ctl) 0 12
    let reason := fldN (arg0 ctl) 16 16
    if P.isLode then
      match P.lode.state with
      | .collecting => if P.lode.forStep ctl then t.hold p 1 seat else t
      | .recovering =>
        if reason = 0x7005 then
          (if P.lode.phase = .restore then (t.haltJob p 2).stuckStep p
           else
             let t1 := t.modLode p fun L =>
               { L with late := L.late.map fun l => if l.seat = seat then { l with lost := true } else l }
             if P.lode.phase = .refill then t1.orderRestore p else t1)
        else if seat ≠ ctlSeat ctl ∧ seat ≠ P.seat.toNat ∧ (seatState (P.chart.entry seat) = 1 ∨
            P.lode.late.any fun l => decide (l.seat = seat) && l.reserve.isSome) then t.recover p [seat] []
        else t
      | _ => t
    else if P.watch.lodestar = some seat ∧ P.rank = 1 then t.takeOver p
    else t

/-- CLAIM (R275): the claim of the highest epoch is accepted, and of two with one epoch that of the lower
seat. A reserve that is being refilled asks for its refill again (R305). -/
def execClaim (p : PartIx) (ctl : Control) (s : State) : Res :=
  s.takeCtl (.claim p ctl) p 12 ctl true 999 fun _ t =>
    let P := t.part p
    let better := decide (P.watch.epoch < ctlEpoch ctl) ||
      (decide (P.watch.epoch = ctlEpoch ctl) && match P.watch.lodestar with
        | some l => decide (ctlSeat ctl < l)
        | none => true)
    if better then
      let t1 := t.modPart p fun P => { P with
        watch := { P.watch with epoch := ctlEpoch ctl, lodestar := some (ctlSeat ctl), expired := false }
        lode := { P.lode with state := .idle, phase := .none, late := [] } }
      if P.refilling then
        t1.sendCtl p P.desk (t1.ownCtl p 0x16 P.seat.toNat (P.period.step - 1).toNat 0)
      else t1
    else t

/-- WATCH_EXPIRY (R275): a member's watch expires. -/
def execWatchExpiry (p : PartIx) (s : State) : Res :=
  if (s.part p).watch.running then .next (s.timer.modPart p fun P => { P with watch := { P.watch with expired := true } })
  else .next s

/-- TAKEOVER (R275): a successor whose watch has expired, and whose rank's delay has passed without a claim. -/
def execTakeover (p : PartIx) (s : State) : Res :=
  let P := s.part p
  if P.watch.expired ∧ 1 ≤ P.rank ∧ P.image.single = false then .next (s.timer.takeOver p) else .next s

end Sys2Proof.Machine
end

