-- ==== Sys2Proof/Machine/Mirror.lean ====
section
/-! DEFINITION. The mirror on the deskmate, refills, waypoints and scrubs (R288-R295, R300, R306). -/

namespace Sys2Proof.Machine

/-! ## Mirror headers (R291) -/

def mhStep (h : BitVec 128) : BitVec 32 := fld h 0 32
def mhAttempt (h : BitVec 128) : BitVec 8 := fld h 32 8
def mhFull (h : BitVec 128) : Bool := bit h 40
def mhCommit (h : BitVec 128) : Bool := bit h 41
def mhEntry (h : BitVec 128) : Nat := fldN h 48 11
def mhOff (h : BitVec 128) : Nat := fldN h 64 40

/-- The mirror header of a packet. -/
def mirrorHdrOf (pkt : Packet) : BitVec 128 := bvOfBytes 128 (pkt.payload.take 16)

/-- The journal's ENTRY. -/
def journalEntry : Nat := 0x7FF

/-- Where a byte of a mirror stands: entry × 2^40 + offset (log 14). -/
def mirrorKey (entry off : Nat) : Nat := entry * 2 ^ 40 + off

def State.modMirror (s : State) (p : Nat) (f : Mirror → Mirror) : State :=
  s.modPart p fun P => { P with mirror := f P.mirror }

/-- The seat whose mirror this partition holds (R287). -/
def Partition.mirroredSeat (P : Partition) : Option Nat :=
  P.chart.members.find? fun m => decide (seatDesk (P.chart.entry m) = P.seat.toNat)

/-- The whole step number whose low 32 bits a mirror header carries: of the steps about this member's. -/
def Partition.wideStep (P : Partition) (lo : BitVec 32) : BitVec 64 := (P.period.step >>> 32 <<< 32) ||| lo.setWidth 64

/-! ## Receiving an update (R290) -/

/-- An update may enter the log: nothing is being applied or copied (R290, 5; R295, 1). -/
def Mirror.accepts (m : Mirror) : Bool := !m.applying && !m.copying

/-- Data of an update in the log, or straight in the body for a full update, which makes the body invalid
(R290, 3; R292). A later attempt of a step, or another step, begins the log anew. -/
def Mirror.logPacket (h : BitVec 128) (bs : List Byte) (m : Mirror) : Mirror :=
  let same := decide (m.logStep = mhStep h ∧ m.logAttempt = mhAttempt h)
  let m1 : Mirror := if same then m else
    { m with log := [], logStep := mhStep h, logAttempt := mhAttempt h, logBytes := 0, logFull := false, commit := none, logJournal := 0 }
  let a := mirrorKey (mhEntry h) (mhOff h)
  let j (n : Nat) : Nat := if mhEntry h = journalEntry then max n (mhOff h + bs.length) else n
  let m2 := { m1 with logBytes := m1.logBytes + bs.length, logFull := m1.logFull || mhFull h }
  if mhFull h then { m2 with body := writeBytes m2.body a bs, bodyValid := false, bodyJournal := j m2.bodyJournal }
  else { m2 with log := writeBytes m2.log a bs, logJournal := j m2.logJournal }

/-- The mirror is committed once the bytes logged equal the commit's total: the mirror acknowledgement goes to
the mirrored seat (R290, 4), and the apply begins. -/
def State.tryCommit (s : State) (p seat : Nat) : State :=
  let P := s.part p
  let m := P.mirror
  match m.commit with
  | none => s
  | some total =>
    if m.logBytes ≠ total then s
    else
      let step := P.wideStep m.logStep
      let s1 := s.modMirror p fun m => { m with
        committed := some step, commAttempt := m.logAttempt, commit := none, applying := true, bodyValid := m.bodyValid || m.logFull }
      s1.sendCtl p seat (mkCtl 0x10 m.logAttempt.toNat P.seat.toNat P.watch.epoch.toNat step.toNat (total % 2 ^ 32) 0 0)

/-- An update that an earlier attempt of the logged step sends. -/
def Mirror.stale (h : BitVec 128) (m : Mirror) : Bool := decide (m.logStep = mhStep h) && decide (mhAttempt h < m.logAttempt)

/-- A delivered packet of a kind leaves the place where it waits. -/
def State.takePkt (s : State) (p : PartIx) (pkt : Packet) : State := s.takeDelivered p fun q => decide (q = pkt)

/-- MIRROR_PACKET (R290, 3; R291): placed by its mirror header. While an apply or a copy runs, the packet
waits. -/
def execMirrorPacket (p : PartIx) (pkt : Packet) (s : State) : Res :=
  s.defers (.mirrorPacket p pkt) <|
  let h := mirrorHdrOf pkt
  let m := (s.part p).mirror
  if mhCommit h ∨ pktKind pkt.hdr ≠ 4 then .next s
  else if m.stale h then .next ((s.takePkt p pkt).dropCtl p)
  else if m.accepts then
    .next (((s.takePkt p pkt).modMirror p (Mirror.logPacket h (pkt.payload.drop 16))).tryCommit p (pktLsrc pkt.hdr))
  else .next s

/-- MIRROR_COMMIT (R290, 4). -/
def execMirrorCommit (p : PartIx) (pkt : Packet) (s : State) : Res :=
  s.defers (.mirrorCommit p pkt) <|
  let h := mirrorHdrOf pkt
  let m := (s.part p).mirror
  if mhCommit h = false ∨ pktKind pkt.hdr ≠ 4 then .next s
  else if m.stale h then .next ((s.takePkt p pkt).dropCtl p)
  else if m.accepts then
    let s1 := ((s.takePkt p pkt).assertAt 2 1).modMirror p fun m => { m.logPacket h [] with commit := some (mhOff h) }
    .next (s1.tryCommit p (pktLsrc pkt.hdr))
  else .next s

/-! ## Refilling a reserve (R300, 4) -/

/-- The bytes of a mirror-list entry in the body, or the journal's. -/
def Mirror.bytes (m : Mirror) (entry n : Nat) : List Byte := readBytes m.body (mirrorKey entry 0) n

/-- Stream the seat's body as snapshot packets on VC3; one that is invalid or not committed far enough is
never used, and the lodestar is told (R300, R306; log 35). -/
def State.streamBody (s : State) (p seat : Nat) (step : BitVec 64) : State :=
  let P := s.part p
  let m := P.mirror
  let ok := m.bodyValid && match m.committed with
    | some c => decide (step ≤ c)
    | none => false
  if ok then
    let c := m.committed.getD 0
    let s1 := P.image.mirrorList.foldl (fun t e =>
      t.sendMirror p seat e.2.1 5 3 true c m.commAttempt e.1 (m.bytes e.1 e.2.2.2)) s
    (s1.sendMirror p seat P.lowDie 5 3 true c m.commAttempt journalEntry (m.bytes journalEntry m.bodyJournal)).modMirror p
      fun m => { m with refillTo := none }
  else (s.sendTrouble p seat 0x7005).modMirror p fun m => { m with refillTo := none }

/-- REFILL_REQUEST (R300, 4): the deskmate streams the body once its apply is complete. -/
def execRefillRequest (p : PartIx) (ctl : Control) (s : State) : Res :=
  s.takeCtl (.refillRequest p ctl) p 0x16 ctl false 39 fun _ t =>
    let t1 := t.assertAt 2 6
    let seat := fldN (arg0 ctl) 0 12
    if (t1.part p).mirror.applying then t1.modMirror p fun m => { m with refillTo := some (seat, arg1 ctl) }
    else t1.streamBody p seat (arg1 ctl)

/-- A log applied to the body (R290, 5). -/
def Mirror.applyLog (m : Mirror) : Mirror :=
  { m with
    body := m.log.foldl (fun b e => put 0 b e.1 e.2) m.body
    bodyJournal := if m.logJournal = 0 then m.bodyJournal else m.logJournal
    log := [], logBytes := 0, logJournal := 0, applying := false }

/-- MIRROR_APPLY_COMPLETE (R290, 5; R295, 1): the log is in the body; after a waypoint step the body is then
copied to waypoint staging. A refill request that waited is served. -/
def execMirrorApplyComplete (p : PartIx) (s : State) : Res :=
  let P := s.part p
  if P.mirror.applying = false then .next s
  else
    let s1 := s.modMirror p fun m => { m.applyLog with copying := P.waypointStep (m.committed.getD 0) }
    match P.mirror.refillTo with
    | some r => .next (s1.streamBody p r.1 r.2)
    | none => .next s1

/-- MIRROR_ACKNOWLEDGE (R290, 4; R292): the deskmate's answer to this attempt's update. -/
def execMirrorAcknowledge (p : PartIx) (ctl : Control) (s : State) : Res :=
  s.takeCtl (.mirrorAcknowledge p ctl) p 0x10 ctl false 69 fun _ t =>
    let P := t.part p
    if ctlSeat ctl = P.desk ∧ P.mirror.sent = some (ctlStep ctl) ∧ ctlAttempt ctl = P.period.attempt ∧
        fldN (arg0 ctl) 0 32 = P.mirror.sentBytes % 2 ^ 32 then
      t.modMirror p fun m => { m with
        acked := some (ctlStep ctl), unacked := []
        fullDue := m.fullDue && !m.sentFull, exposed := m.exposed && !m.sentFull }
    else t

/-- SNAPSHOT_PACKET (R291, R300, 4): its data goes to its entry's address; the journal's, to the reserve's
journal once the stream is complete. -/
def execSnapshotPacket (p : PartIx) (pkt : Packet) (s : State) : Res :=
  s.defers (.snapshotPacket p pkt) <|
  let h := mirrorHdrOf pkt
  let P := s.part p
  let bs := pkt.payload.drop 16
  if pktKind pkt.hdr ≠ 5 ∨ P.refilling = false then .next s
  else
    let s1 := (s.takePkt p pkt).modMirror p fun m => { m with refilled := m.refilled + bs.length }
    if mhEntry h = journalEntry then
      .next (s1.modMirror p fun m =>
        { m with inbox := writeBytes m.inbox (mhOff h) bs, inboxLen := max m.inboxLen (mhOff h + bs.length) })
    else
      match mirrorEntry (P.image.mirror.getD (mhEntry h) 0) with
      | some (d, a, _) => s.afterSnoops [(d, a + mhOff h, bs.length, true)] (.next (s1.writeHbm d (a + mhOff h) bs))
      | none => .next s1

/-- The state of a journal head entry taken over: its place in the journal, with the events of its step in the bulk, the
job seed, the carried tallies, the last whole waypoint (R151, R294, R303). -/
def State.adoptJournal (s : State) (p : Nat) (e : JEntry) (events : List IngressEvent) : State :=
  let s1 := s.modPart p fun P => { P with
    journal := journalPut e P.journal
    bulk := (P.bulk.filter fun b => decide (b.1 ≠ e.step)) ++ [(e.step, events)]
    image := { P.image with seed := e.seed }
    waypoint := if e.waypoint = 0 then P.waypoint else some e.waypoint
    period := { P.period with carried := e.carried } }
  (s1.part p).dieList.foldl (fun t d => t.modDie d fun D => { D with tallies := startTallies e.carried d }) s1

/-- The journal as it travels with a body: its head entry's 4,096 bytes, then the events of the step (R290, R294). -/
def State.takeJournal (s : State) (p : Nat) (bs : List Byte) : State :=
  match jEntryOf (bs.take 4096) with
  | some e => s.adoptJournal p e (eventsOf (bs.drop 4096))
  | none => s

/-- SNAPSHOT_STREAM_COMPLETE (R300, 4): the whole body has come and the interrupted step's inputs are in place:
the reserve takes the journal entry over and sends refill done. -/
def execSnapshotStreamComplete (p : PartIx) (s : State) : Res :=
  let P := s.part p
  let ready := P.period.svc.any fun j => decide (j.step = P.period.step) && j.digest.isSome
  if P.refilling && ready then
    let s1 := s.assertAt 2 7
    let e := jEntryOf (readBytes P.mirror.inbox 0 4096)
    let s2 := s1.takeJournal p (readBytes P.mirror.inbox 0 P.mirror.inboxLen)
    let step := match e with
      | some e => e.step
      | none => P.period.step - 1
    let s3 := s2.modPart p fun P => { P with refilling := false, mirror := { P.mirror with inbox := [], inboxLen := 0, refilled := 0 } }
    .next (s3.sendCtl p (P.watch.lodestar.getD 0)
      (s3.ownCtl p 0x17 P.seat.toNat P.mirror.refilled step.toNat))
  else .next s

/-! ## Waypoints (R272, R295) -/

/-- A service period begins: the timer's expiry is admitted (R272). -/
def State.servicePeriod (s : State) (k key : Nat) : State :=
  (s.admitted .timer key).modServices fun v => { v with numbers := alter 0 v.numbers k (· + 1) }

/-- One more late count of a service (R272, R340). -/
def State.countLate (s : State) (k : Nat) : State :=
  s.modServices fun v => { v with late := alter 0 v.late k fun n => satAdd n 1 }

/-- The bytes of a waypoint: the entries' in list order, then the journal's (log 37). -/
def Partition.waypointBytes (P : Partition) : List Byte :=
  (P.image.mirrorList.flatMap fun e => P.mirror.bytes e.1 e.2.2.2) ++ P.mirror.bytes journalEntry P.mirror.bodyJournal

/-- The seal of a waypoint: STEP, GEN, length and digest (R295, 3; log 37). -/
def sealBytes (step : BitVec 64) (gen : BitVec 32) (data : List Byte) : List Byte :=
  bytesOfBv 8 step ++ bytesOfBv 4 gen ++ List.replicate 4 0 ++ bytesOfNat 8 data.length ++ List.replicate 8 0 ++
  shake256 data 32

/-- Bytes filled up with zeros to full 64-byte lines (R316, log 37). -/
def fullLines (bs : List Byte) : List Byte := bs ++ List.replicate ((64 - bs.length % 64) % 64) 0

/-- WAYPOINT_COPY_COMPLETE (R295, 1): the copy stands in waypoint staging. -/
def execWaypointCopyComplete (p : PartIx) (s : State) : Res :=
  let P := s.part p
  if P.mirror.copying then
    .next (s.modMirror p fun m => { m with copying := false, staged := some (m.committed.getD 0, P.waypointBytes), streaming := false })
  else .next s

/-- One partition's part of a waypoint stream period: a stream still under way from the last period is late
and its partial waypoint invalid; a copy that waits is streamed, and with time enough sealed and announced
to the lodestar (R272, R295). -/
def State.waypointPeriod (s : State) (finishes : Bool) (p : Nat) : State :=
  let s0 := if (s.part p).mirror.streaming then
      (s.countLate 3).modMirror p fun m => { m with streaming := false, staged := none }
    else s
  let P := s0.part p
  match P.mirror.staged, P.mirroredSeat with
  | some (step, data), some q =>
    if s0.cacheOk = false then s0.modMirror p fun m => { m with streaming := true }
    else
      let a := P.waypointAddr q step
      let s1 := s0.emit (.wrCur (a + 64) (fullLines data))
      if finishes then
        let s2 := (s1.emit (.wrCur a (sealBytes step P.gen data))).modMirror p fun m => { m with staged := none }
        s2.sendCtl p (P.watch.lodestar.getD 0) (s2.ownCtl p 0x18 q step.toNat 0)
      else s1.modMirror p fun m => { m with streaming := true }
  | _, _ => s0

/-- WAYPOINT_TIMER (R272, R295): `finishes` says whether the stream ends within its period. -/
def execWaypointTimer (finishes : Bool) (s : State) : Res :=
  .next ((List.range 4).foldl (fun t p => t.waypointPeriod finishes p) (s.servicePeriod 3 72))

/-! ## Scrubs (R292, R293) -/

/-- A bad block makes a mirror body invalid: the deskmate raises notice 0x2005 and tells the mirrored seat (R293). -/
def State.bodyBad (s : State) (b : BadBlock) : State :=
  let s1 := (s.modMirror b.part fun m => { m with bodyValid := false }).notice
    { reason := 0x2005, unit := dieUnit (s.part b.part).lowDie, part := b.part, loc := b.loc, detail := b.detail }
  match (s.part b.part).mirroredSeat with
  | some q => s1.emit (.bodyInvalid b.part q)
  | none => s1

/-- SCRUB_TIMER (R272, R293): a scrub still under way is late, and its position stays. Every mirror body is read under
ECC in the new period, where `x.finishes` says that it ends within it; a bad block found makes its body invalid. -/
def execScrubTimer (x : ScrubPeriod) (s : State) : Res :=
  let s0 := if s.hub.services.scrubOpen then s.countLate 4 else s
  let s1 := (s0.servicePeriod 4 73).modServices fun v =>
    { v with scrubOpen := !x.finishes, scrubPos := if x.finishes then v.scrubPos + 1 else v.scrubPos }
  match x.bad with
  | none => .next s1
  | some b => .next (s1.bodyBad b)

/-- BODY_INVALID_REPORT (R292, R293): the next close sends a full update; until it commits, the device is
exposed. -/
def execBodyInvalidReport (p : PartIx) (s : State) : Res :=
  .next (s.modMirror p fun m => { m with fullDue := true, exposed := true })

end Sys2Proof.Machine
end

