-- ==== Sys2Proof/Machine/Replies.lean ====
section
/-! DEFINITION. Commands from the rings: submit entries (R321, R322), starting and finishing (R324, R325, R372, R393, R436, R438), replies (R323, R326, R338, R342). -/

namespace Sys2Proof.Machine

/-! ## Submit entries (R321, R322) -/

def PendCmd.opcode (c : PendCmd) : Nat := fldN c.entry 0 16
def PendCmd.part (c : PendCmd) : Nat := fldN c.entry 16 4
def PendCmd.inline (c : PendCmd) : Bool := bit c.entry 20
def PendCmd.fence (c : PendCmd) : Bool := bit c.entry 21
def PendCmd.version (c : PendCmd) : Nat := fldN c.entry 28 4
def PendCmd.tag (c : PendCmd) : Nat := fldN c.entry 32 32
def PendCmd.plen (c : PendCmd) : Nat := fldN c.entry 64 32
def PendCmd.dataAddr (c : PendCmd) : BitVec 64 := fld c.entry 128 64
/-- DATA_MAX, on ring `r`; management requests, the fifth ring, get at most 65,536 bytes (R342). -/
def PendCmd.dataMax (c : PendCmd) (r : Nat) : Nat := if r = 4 then min (fldN c.entry 192 32) 65536 else fldN c.entry 192 32

/-- The parameter bytes: inline, or what the read of PARAM_ADDR gave. -/
def PendCmd.bytes (c : PendCmd) : List Byte :=
  if c.inline then ((bytesOfBv 64 c.entry).drop 32).take c.plen else c.ext.bytes.take c.plen

/-- Field [lo + len - 1 : lo] of the parameters, little-endian (R12, R441). -/
def PendCmd.par (c : PendCmd) (lo len : Nat) : Nat := natOfBytes c.bytes / 2 ^ lo % 2 ^ len

/-- The sum of R322. -/
def PendCmd.sum (c : PendCmd) : Nat :=
  let words (bs : List Byte) : Nat := ((chunksOf 4 bs.length bs).map natOfBytes).sum
  (words ((bytesOfBv 64 c.entry).take 16) + words c.bytes) % 2 ^ 32

/-- What the opcode tables give each opcode (R325, R362, R406, R423, R441): its parameter length, whether it
is accepted on ring 0 only, and 1 for exclusive, 2 for exclusive device-wide. -/
structure OpInfo where
  code  : Nat
  plen  : Nat
  ring0 : Bool := false
  ex    : Nat := 0
  deriving DecidableEq, Repr

def opTable : List OpInfo :=
  [⟨0x0101, 0, false, 0⟩, ⟨0x0102, 0, false, 0⟩, ⟨0x0103, 4, true, 2⟩, ⟨0x0104, 12, true, 2⟩, ⟨0x0105, 4, true, 2⟩,
   ⟨0x0106, 0, true, 2⟩, ⟨0x0201, 64, false, 1⟩, ⟨0x0202, 16, false, 1⟩, ⟨0x0203, 0, false, 0⟩, ⟨0x0204, 0, false, 1⟩,
   ⟨0x0205, 0, false, 0⟩, ⟨0x0301, 24, false, 0⟩, ⟨0x0302, 24, false, 0⟩, ⟨0x0303, 4, false, 0⟩,
   ⟨0x0304, 16, false, 0⟩, ⟨0x0401, 102592, false, 1⟩, ⟨0x0402, 0, false, 0⟩] ++
  [⟨0x0501, 16, true, 2⟩, ⟨0x0502, 24, true, 2⟩, ⟨0x0503, 0, true, 2⟩, ⟨0x0504, 4, true, 2⟩, ⟨0x0505, 0, true, 2⟩,
   ⟨0x0506, 8, true, 2⟩, ⟨0x0601, 0, false, 0⟩, ⟨0x0602, 4, false, 0⟩, ⟨0x0603, 8, false, 0⟩, ⟨0x0604, 4, false, 1⟩,
   ⟨0x0605, 4, true, 2⟩, ⟨0x0606, 4, true, 2⟩, ⟨0x0701, 8, false, 0⟩, ⟨0x0702, 8, false, 0⟩, ⟨0x0703, 4, true, 2⟩,
   ⟨0x0801, 8, false, 0⟩, ⟨0x0802, 4, false, 0⟩, ⟨0x0803, 4, false, 0⟩, ⟨0x0804, 20, false, 1⟩]

def opInfo (op : Nat) : Option OpInfo := opTable.find? fun i => decide (i.code = op)

/-- The checks of a submit entry that its reading makes, in the order of R326 (log 38): the failing status and
its DETAIL. -/
def PendCmd.header (r : Nat) (c : PendCmd) : Option (Nat × Nat) :=
  if c.version ≠ 1 then some (0x0101, c.version)
  else
    match (if c.inline then none else c.ext.failAt) with
    | some n => some (0x0301, n)
    | none =>
      if c.sum ≠ 0 then some (0x0102, c.sum)
      else
        match opInfo c.opcode with
        | none => some (0x0103, c.opcode)
        | some i =>
          if (if r = 4 then decide (3 < c.part) || (i.ring0 && decide (c.part ≠ 0)) else decide (c.part ≠ r)) then
            some (0x0104, c.part)
          else if i.ring0 ∧ r ≠ 0 ∧ r ≠ 4 then some (0x0107, 1)
          else if c.plen ≠ i.plen ∨ (c.inline ∧ 32 < c.plen) then some (0x0105, i.plen)
          else none

/-! ## Replies (R323, R326, R338, R342) -/

/-- A command finishes: its reply waits for a free slot. With status OK and more data than DATA_MAX the status is
OK_TRUNCATED. A command whose ring was cleared meanwhile gets none (R319). -/
def State.reply (s : State) (r : Nat) (c : PendCmd) (status detail : Nat) (data : List Byte) : State :=
  if (s.ring r).running.contains c then
    let cut := decide (status = 0) && decide (c.dataMax r < data.length)
    s.modRing r fun R => { R with
      running := R.running.erase c
      done := if c.mute then R.done else R.done ++ [⟨c, if cut then 1 else BitVec.ofNat 16 status,
        if cut then BitVec.ofNat 32 (c.dataMax r) else BitVec.ofNat 32 detail, data⟩] }
  else s

/-- A ring loses what it has not replied to: commands that run go on without a reply (R311, R319). -/
def Ring.clear (R : Ring) : Ring :=
  { R with pend := [], done := [], running := R.running.map fun c => { c with mute := true } }

/-- Reply OK without data. -/
def State.ok (s : State) (r : Nat) (c : PendCmd) : State := s.reply r c 0 0 []

/-- Finish every running command that fits. -/
def State.finish (s : State) (f : PendCmd → Bool) (status detail : Nat) (data : List Byte) : State :=
  (List.range 5).foldl (fun t r =>
    ((t.ring r).running.filter f).foldl (fun u c => u.reply r c status detail data) t) s

/-- The running commands that fit, with their rings. -/
def State.runningCmds (s : State) (f : PendCmd → Bool) : List (Nat × PendCmd) :=
  (List.range 5).flatMap fun r => ((s.ring r).running.filter f).map fun c => (r, c)

/-- The 16 bytes of a reply (R323). -/
def replyBytes (q : Reply) (phase : Bool) : List Byte :=
  bytesOfBv 16 (at' 128 0 32 q.cmd.tag ||| at' 128 32 16 q.status.toNat ||| at' 128 48 8 q.cmd.index.toNat |||
    bitAt 128 63 phase ||| at' 128 64 32 q.detail.toNat ||| at' 128 96 32 q.data.length)

/-- The attestation key signs what the device sends, unless it has none (R357, R372). -/
def State.signs (s : State) : Bool := s.sec.attKey.isSome && decide (s.power.state ≠ .recovery)

/-- A control reply by KMP: the reply, then its data in fragments of 1,024 bytes (R338, R342). -/
def State.sendReply (s : State) (q : Reply) : State :=
  let data := q.data.take (q.cmd.dataMax 4)
  let parts := if data.isEmpty then [[]] else chunksOf 1024 data.length data
  parts.zipIdx.foldl (fun t e =>
    let body := replyBytes q false ++ e.1
    t.kmpTo (kmpHdr 4 t.signs body.length q.cmd.seq.toNat e.2 parts.length) body t.signs
      (if q.cmd.i3c then .i3c else .udp q.cmd.peer.1 q.cmd.peer.2 t.mgmt.vlan)) s

/-- The oldest finished command writes its reply data and its reply, if a slot is free, and the ring's MSI-X
message follows (R320, R323). Nothing else happens where none is finished or none is free. -/
def State.writeReply (s : State) (r : Nat) : State :=
  let R := s.ring r
  match R.done with
  | [] => s
  | q :: rest =>
    if r = 4 then (s.modRing r fun R => { R with done := rest }).sendReply q
    else if R.enable ∧ R.repTail + 1 ≠ R.repHead then
      let s1 := if q.data.isEmpty ∨ q.cmd.dataMax r = 0 then s else s.emit (.hostWrite q.cmd.dataAddr (q.data.take (q.cmd.dataMax r)))
      let s2 := s1.emit (.hostWrite (R.repBase + BitVec.ofNat 64 (16 * R.repTail.toNat)) (replyBytes q R.phase))
      (s2.modRing r fun R => { R with
        done := rest, repTail := R.repTail + 1
        phase := if R.repTail = 0xFF then !R.phase else R.phase }).emit (.msix R.msix)
    else s

/-! ## Starting commands (R324, R325) -/

/-- Partition states in table order (R442). -/
def PartState.num : PartState → Nat
  | .empty => 0
  | .loaded => 1
  | .primed => 2
  | .starting => 3
  | .running => 4
  | .halted => 5
  | .fenced => 6

/-- Every partition state. -/
def anyState : List PartState := [.empty, .loaded, .primed, .starting, .running, .halted, .fenced]

/-- The commands that wake a Dormant partition (R393). -/
def wakes (op : Nat) : Bool := [0x0201, 0x0202, 0x0301, 0x0302, 0x0303, 0x0304].contains op

/-- A wake request of a die (R397). -/
def Die.wake (D : Die) : Die :=
  match D.mode with
  | .shuttingDown => { D with mode := .pendingUp }
  | .dormant => { D with mode := .waking, event := 1 }
  | .waking => { D with heldDormant := false }
  | _ => D

/-- A wake request of every die of a partition. -/
def State.wakePart (s : State) (p : Nat) : State :=
  (s.part p).dieList.foldl (fun t d => t.modDie d Die.wake) s

/-- Every die of a partition is Up. -/
def State.partUp (s : State) (p : Nat) : Bool := (s.part p).dieList.all fun d => decide ((s.die d).mode = .up)

/-- R324: no exclusive command that is running stands in the way. -/
def State.exclusiveFree (s : State) (c : PendCmd) : Bool :=
  match (opInfo c.opcode).map OpInfo.ex with
  | some 1 => (s.runningCmds fun x => match (opInfo x.opcode).map OpInfo.ex with
      | some 1 => decide (x.part = c.part)
      | some 2 => true
      | _ => false).isEmpty
  | some 2 => (s.runningCmds fun x => match (opInfo x.opcode).map OpInfo.ex with
      | some 1 | some 2 => true
      | _ => false).isEmpty
  | _ => true

/-- What refuses a command at its start, beside its own conditions: start hold (R438), recovery mode (R372), a
ring of a partition with no dies, a bad parameter, the partition's state (R326), Standby (R391). -/
def State.refuse (s : State) (c : PendCmd) (states : List PartState) (bad : Option Nat) : Option (Nat × Nat) :=
  let op := c.opcode
  if s.power.state = .startHold ∧ [1, 5, 8].contains (op / 256) = false ∧ op ≠ 0x0701 then some (0x0201, 0xFF)
  else if s.power.state = .recovery ∧ [0x0101, 0x0501, 0x0502, 0x0503, 0x0504, 0x0505, 0x0106].contains op = false then
    some (0x050C, 0)
  else if (s.part c.part).dies = 0 ∧ ((opInfo op).map OpInfo.ring0) ≠ some true then some (0x0107, 3)
  else
    match bad with
    | some n => some (0x0106, n)
    | none =>
      if !states.contains (s.part c.part).state then some (0x0201, (s.part c.part).state.num)
      else if wakes op ∧ s.power.standby then some (0x0601, 4)
      else none

/-- A ring's first command would be taken now: R324, R436 and R393 let it start. -/
def State.takable (s : State) (q : Nat) (c : PendCmd) : Bool :=
  (!c.fence || (s.ring q).running.isEmpty) && s.exclusiveFree c &&
    !(decide (s.power.state = .starting) && decide (c.opcode / 256 ≠ 1)) && (!wakes c.opcode || s.partUp c.part)

/-- R324: between rings, the ingress order of doorbells decides which command is taken first. No other ring's first
command came by an earlier event and would be taken now. -/
def State.isNext (s : State) (r : Nat) (c : PendCmd) : Bool :=
  (List.range 5).all fun q => decide (q = r) || match (s.ring q).pend with
    | [] => true
    | x :: _ => decide (c.num ≤ x.num) || !s.takable q x

/-- A ring's oldest command that waits, where it is one of opcode `op` and R324, R369 and R436 let it start: it is
refused, or waits for a wake (R393) or for the host's answers about the HBM lines that `acc` gives (R315), or starts and
`f` says what it does. -/
def State.runCmd (s : State) (r : RingIx) (op : Nat) (states : List PartState) (bad : PendCmd → Option Nat)
    (f : PendCmd → State → State) (acc : PendCmd → List (Nat × Nat × Nat × Bool) := fun _ => []) : Res :=
  let R := s.ring r
  match R.pend with
  | [] => .next s
  | c :: rest =>
    if c.opcode ≠ op ∨ (c.fence ∧ R.running ≠ []) ∨ s.exclusiveFree c = false ∨
        (s.power.state = .starting ∧ op / 256 ≠ 1) ∨ s.fw.stage = .starting ∨ s.isNext r c = false then .next s
    else
      let s1 := s.modRing r fun R => { R with pend := rest, running := R.running ++ [c] }
      match s.refuse c states (bad c) with
      | some e => .next (s1.reply r c e.1 e.2 [])
      | none =>
        if wakes op ∧ s.partUp c.part = false then .next (s.wakePart c.part)
        else s.afterSnoops (acc c) (.next (f c s1))

/-- No parameter can be out of range. -/
def noParams (_ : PendCmd) : Option Nat := none

/-- The first failing field of a list of conditions with the first bits of their fields. -/
def firstBad : List (Nat × Bool) → Option Nat
  | [] => none
  | (b, true) :: _ => some b
  | (_, false) :: l => firstBad l

/-- A reserved field of the parameters: the first of its bits that is set (R441). -/
def PendCmd.rsv (c : PendCmd) (lo len : Nat) : Option Nat :=
  (List.range len).findSome? fun i => if c.par (lo + i) 1 = 1 then some (lo + i) else none

/-- The lowest of some failing bits. -/
def lowest (l : List (Option Nat)) : Option Nat := (l.filterMap id).min?

end Sys2Proof.Machine
end

