-- ==== Sys2Proof/Machine/Recovery.lean ====
section
/-! DEFINITION. Chart generations, reserves, waypoint notices and restores (R296-R300, R305, R306, R328). -/

namespace Sys2Proof.Machine

/-! ## Chart generations (R298, R300) -/

/-- What a partition has queued for the fabric is sent no more (R300). -/
def State.dropSends (s : State) (p : Nat) : State :=
  { s with fabric := { s.fabric with inject := s.fabric.inject.filter fun e => decide (e.part.val ≠ p) } }

/-- The device is fenced (R300): its partition's work stops, what it has queued goes no further, one fence notice goes to
the lodestar, and record 0x7001 is raised. From then on nothing else is sent for the job. -/
def State.fence (s : State) (p lode : Nat) : State :=
  let P := s.part p
  let s0 := (s.stopWalks p).dropSends p
  let s1 := s0.sendCtl p lode (s.ownCtl p 0x1C P.seat.toNat 0 0)
  let s2 := s1.modPart p fun P => { P with
    period := { P.period with waiting := none, isOpen := false }
    watch := { P.watch with running := false }, lode := {}, refilling := false, restoring := none }
  (s2.partNotice p 0x7001 P.seat.toNat P.gen.toNat).setPartState p .fenced

/-- A reserve that the new generation seats takes its seat, reads the interrupted step's inputs, and asks its
deskmate for the refill (R300, 4). -/
def State.takeSeat (s : State) (p seat : Nat) : State :=
  let s1 := (s.beginReads p (s.part p).period.step).modPart p fun P =>
    { P with chart := { P.chart with own := BitVec.ofNat 12 seat, asked := none }, refilling := true
             mirror := { P.mirror with fullDue := true, exposed := true } }
  s1.sendCtl p (s1.part p).desk (s1.ownCtl p 0x16 seat ((s1.part p).period.step - 1).toNat 0)

/-- R298: generation g is installed once its commit and every update that the commit counts have come. The
answer is a chart acknowledge, but a device that finds its own seat fenced sends only its fence notice. A
changed deskmate calls for a full update (R292). -/
def State.tryInstall (s : State) (p lode : Nat) : State :=
  let P := s.part p
  match P.chart.commit with
  | none => s
  | some (g, n) =>
    let us := P.chart.updates.filter fun u => decide (u.gen = g)
    if us.length < n then s
    else
      let desk := seatDesk (P.chart.entry P.seat.toNat)
      let deskDev := fldN (P.chart.entry desk) 0 12
      let s1 := s.modPart p fun P => { P with chart := { P.chart with
        gen := g, commit := none
        reseated := (us.filter fun u => decide (seatState (P.chart.entry u.seat) = 2 ∧ seatState u.entry = 1)).foldl
          (fun l u => insNat u.seat l) P.chart.reseated
        seats := us.foldl (fun m u => put 0 m u.seat u.entry) P.chart.seats
        updates := P.chart.updates.filter fun u => decide (g < u.gen) } }
      let C := (s1.part p).chart
      let own := P.seat.toNat
      if own ≠ 0xFFF ∧ seatState (C.entry own) = 2 then s1.fence p lode
      else
        let s2 := if own ≠ 0xFFF ∧ (seatDesk (C.entry own) ≠ desk ∨ fldN (C.entry desk) 0 12 ≠ deskDev) then
            s1.modMirror p fun m => { m with fullDue := true, exposed := true }
          else s1
        let s3 := match C.asked with
          | some q =>
            if seatState (C.entry q) = 1 ∧ seatX (C.entry q) = s.fabric.ownX ∧ seatY (C.entry q) = s.fabric.ownY then
              s2.takeSeat p q
            else s2
          | none => s2
        s3.sendCtl p lode (s3.ownCtl p 0x13 g.toNat 0 0)

/-- CHART_UPDATE (R297, R298). -/
def execChartUpdate (p : PartIx) (ctl : Control) (s : State) : Res :=
  s.takeCtl (.chartUpdate p ctl) p 0x11 ctl true 39 fun _ t =>
    if (t.part p).chart.held = false then t
    else
      let u : ChartUpdate := { gen := fld (arg0 ctl) 0 32, seat := fldN (arg0 ctl) 32 12
                               entry := at' 128 0 64 (arg1 ctl).toNat ||| at' 128 64 64 (arg2 ctl).toNat }
      (t.modPart p fun P => { P with watch := P.watch.heard false ctl
                                     chart := { P.chart with updates := P.chart.updates ++ [u] } }).tryInstall p (ctlSeat ctl)

/-- CHART_COMMIT (R297, R298): a generation below the one held is discarded (R329). -/
def execChartCommit (p : PartIx) (ctl : Control) (s : State) : Res :=
  s.takeCtl (.chartCommit p ctl) p 0x12 ctl true 39 fun _ t =>
    let g : BitVec 32 := fld (arg0 ctl) 0 32
    if (t.part p).chart.held = false ∨ g ≤ (t.part p).chart.gen then t
    else
      (t.modPart p fun P => { P with watch := P.watch.heard false ctl
                                     chart := { P.chart with commit := some (g, fldN (arg0 ctl) 32 12) } }).tryInstall p (ctlSeat ctl)

/-- CHART_ACKNOWLEDGE (R300): the lodestar records an installation; an unseated reserve's carries no seat. -/
def execChartAcknowledge (p : PartIx) (ctl : Control) (s : State) : Res :=
  s.takeCtl (.chartAcknowledge p ctl) p 0x13 ctl false 39 fun _ t =>
    let P := t.part p
    if P.isLode && decide (fld (arg0 ctl) 0 32 = P.lode.gen) && decide (P.lode.state = .recovering) then
      (t.modLode p fun L =>
        if ctlSeat ctl = 0xFFF then { L with ackReserves := L.ackReserves + 1 }
        else { L with acks := insNat (ctlSeat ctl) L.acks }).advance p
    else t

/-! ## Reserves (R299, R300) -/

/-- SEAT_REQUEST (R300, 3; R393): a primed reserve wakes if it is Dormant, loads its image into the seat,
runs the job from then on, and sends seat ready. -/
def execSeatRequest (p : PartIx) (ctl : Control) (s : State) : Res :=
  let P := s.part p
  if ctype ctl = 0x14 ∧ s.fw.stage ≠ .starting ∧ P.state = .primed ∧ P.chart.held ∧ s.partUp p = false then .next (s.wakePart p)
  else
    s.takeCtl (.seatRequest p ctl) p 0x14 ctl false 39 fun _ t =>
      let P := t.part p
      let seat := fldN (arg0 ctl) 0 12
      if P.state = .primed ∧ P.chart.held then
        let t1 := t.modPart p fun P => { P with
          chart := { P.chart with asked := some seat }
          watch := P.watch.heard true ctl
          period := { P.period with step := ctlStep ctl, attempt := ctlAttempt ctl, begun := false, svc := [] } }
        (t1.sendCtl p (ctlSeat ctl) (t1.ownCtl p 0x15 seat 0 0)).setPartState p .running
      else t

/-- A late seat's progress. -/
def State.markLate (s : State) (p seat : Nat) (f : LateSeat → LateSeat) : State :=
  s.modLode p fun L => { L with late := L.late.map fun l => if l.seat = seat then f l else l }

/-- SEAT_READY (R300, 3). -/
def execSeatReady (p : PartIx) (ctl : Control) (s : State) : Res :=
  s.takeCtl (.seatReady p ctl) p 0x15 ctl false 39 fun _ t =>
    if (t.part p).isLode && decide ((t.part p).lode.state = .recovering) then
      (t.markLate p (fldN (arg0 ctl) 0 12) fun l => { l with ready := true }).seatAll p
    else t

/-- REFILL_DONE (R300, 4 and 5). -/
def execRefillDone (p : PartIx) (ctl : Control) (s : State) : Res :=
  s.takeCtl (.refillDone p ctl) p 0x17 ctl false 39 fun _ t =>
    if (t.part p).isLode && decide ((t.part p).lode.state = .recovering) then
      (t.markLate p (fldN (arg0 ctl) 0 12) fun l => { l with refilled := true }).refillEnd p
    else t

/-- FENCE_NOTICE (R300): the lodestar records it. -/
def execFenceNotice (p : PartIx) (ctl : Control) (s : State) : Res :=
  s.takeCtl (.fenceNotice p ctl) p 0x1C ctl false 39 fun _ t => t.modLode p fun L => { L with fenced := insNat (fldN (arg0 ctl) 0 12) L.fenced }

/-! ## Waypoints (R296) -/

/-- WAYPOINT_SEALED (R296): with a notice for the step from every seat, the lodestar announces the waypoint
whole. -/
def execWaypointSealed (p : PartIx) (ctl : Control) (s : State) : Res :=
  s.takeCtl (.waypointSealed p ctl) p 0x18 ctl false 39 fun _ t =>
    let P := t.part p
    if P.isLode = false ∨ P.lode.state = .halted then t
    else
      let w := arg1 ctl
      let e := (w, fldN (arg0 ctl) 0 12)
      let l := if P.lode.sealed.contains e then P.lode.sealed else P.lode.sealed ++ [e]
      if P.members.all fun m => l.contains (w, m) then
        let t1 := t.modLode p fun L => { L with sealed := l.filter fun x => decide (w < x.1) }
        t1.cascadeAll p (t1.lodeCtl p 0x19 0 w.toNat)
      else t.modLode p fun L => { L with sealed := l }

/-- WAYPOINT_WHOLE (R296). -/
def execWaypointWhole (p : PartIx) (ctl : Control) (s : State) : Res :=
  s.takeCtl (.waypointWhole p ctl) p 0x19 ctl true 39 fun _ t =>
    t.modPart p fun P => { P with watch := P.watch.heard false ctl, waypoint := some (arg1 ctl) }

/-! ## Restores (R306, R328) -/

/-- RESTORE_ORDER (R306, 2 and 3): the work under way stops, and the member reads its seat's sealed waypoint. A
reserve without a seat takes the generation alone. -/
def execRestoreOrder (p : PartIx) (ctl : Control) (s : State) : Res :=
  s.takeCtl (.restoreOrder p ctl) p 0x1A ctl true 39 fun _ t =>
    let t1 := (t.assertAt 2 11).modPart p fun P => { P with
      watch := P.watch.heard false ctl
      chart := { P.chart with gen := if P.chart.gen < fld (arg0 ctl) 0 32 then fld (arg0 ctl) 0 32 else P.chart.gen } }
    if (t1.part p).state = .running ∧ (t1.part p).chart.own ≠ 0xFFF then
      State.askWaypoint ((t1.resetForms p).modPart p fun P => { P with
        restoring := some (arg1 ctl), refilling := false
        period := { P.period with waiting := none, isOpen := false, begun := false } }) p
    else t1

/-- What is wrong with a waypoint's bytes: 1 unsealed, 2 STEP differs, 3 digest fails (R326). -/
def waypointFault (w : BitVec 64) (bs : List Byte) : Option Nat :=
  let top := bs.take 64
  let n := natOfBytes ((top.drop 16).take 8)
  if top.all fun b => decide (b = 0) then some 1
  else if bvOfBytes 64 (top.take 8) ≠ w then some 2
  else if (top.drop 32).take 32 ≠ shake256 ((bs.drop 64).take n) 32 then some 3
  else none

/-- The data of a waypoint goes to the entries' addresses, and its journal entry is taken over (R306, 3 and
4). -/
def State.restoreFrom (s : State) (p : Nat) (w : BitVec 64) (data : List Byte) : State :=
  let P := s.part p
  let r := P.image.mirrorList.foldl (fun (acc : State × List Byte) e =>
    (acc.1.writeHbm e.2.1 e.2.2.1 (acc.2.take e.2.2.2), acc.2.drop e.2.2.2)) (s, data)
  let s1 := r.1.takeJournal p r.2
  s1.modPart p fun P => { P with
    restoring := none
    mirror := { P.mirror with fullDue := true, exposed := true }
    period := { P.period with step := w + 1, attempt := 0, begun := false, svc := P.period.svc.filter fun j => decide (j.step = w + 1) } }

/-- The START command that a partition is carrying out. -/
def isStart (p : Nat) (c : PendCmd) : Bool := decide (c.opcode = 0x0202) && decide (c.part = p)

/-- A partition is ready for its step: it sends restore done to the lodestar (R306, 4; R328). -/
def State.sendRestoreDone (s : State) (p : Nat) (w : BitVec 64) : State :=
  s.sendCtl p ((s.part p).watch.lodestar.getD 0) (s.ownCtl p 0x1B 0 w.toNat 0)

/-- A failed START gives back what it found (R326); restore dones that came meanwhile stay. -/
def Partition.startFailed (P : Partition) : Partition :=
  let b := P.before
  { P with
    restoring := none, before := {}, lode := { b.lode with restores := P.lode.restores }, watch := b.watch, period := b.period
    mirror := { P.mirror with sent := b.mirror.sent, acked := b.mirror.acked, unacked := b.mirror.unacked } }

/-- WAYPOINT_RESTORE_COMPLETE (R306, R326, R328): the read of the waypoint ends. A bad one fails START with
WAYPOINT_BAD, which leaves the partition as it found it; on a restore order it is a detected error, whose REASON the manual does not give, and the
lodestar is told (log 35). -/
def execWaypointRestoreComplete (p : PartIx) (wp : HostData) (s : State) : Res :=
  let P := s.part p
  match P.restoring with
  | none => .next s
  | some w =>
    let bad := if wp.failAt.isSome then some 1 else waypointFault w wp.bytes
    match bad with
    | none =>
      s.afterSnoops (P.image.mirrorList.map fun e => (e.2.1, e.2.2.1, e.2.2.2, true)) <|
      let n := natOfBytes ((wp.bytes.drop 16).take 8)
      let s0 := if P.state = .running then s else s.resetForms p
      let s1 := (s0.restoreFrom p w ((wp.bytes.drop 64).take n)).sendRestoreDone p w
      .next (s1.finish (isStart p) 0 0 [])
    | some k =>
      if P.state ≠ .running then
        let s1 := (s.finish (isStart p) 0x0303 k []).modPart p Partition.startFailed
        .next (s1.setPartState p (if P.state = .starting then P.before.state else P.state))
      else
        let f := s.fresh
        let s1 := f.2.detect (f.1.setWidth 16) (dieUnit P.lowDie) p p w.toNat
        .next ((s1.sendTrouble p P.seat.toNat 0x7005).modPart p fun P => { P with restoring := none })

/-- The lodestar rings the first step once it holds restore done from every member (R328), and the restart
bell of (s_w + 1, 0) once every member has restored (R306, 6). -/
def State.tryFirst (s : State) (p : Nat) : State :=
  let P := s.part p
  let all (w : BitVec 64) : Bool := P.members.all fun m => P.lode.restores.contains (m, w)
  if P.isLode = false then s
  else if P.lode.state = .recovering ∧ P.lode.phase = .restore then
    match P.waypoint with
    | some w => if all w then s.replay p (w + 1) 0 else s
    | none => s
  else
    match P.lode.firstStep with
    | some f => if P.state = .starting ∧ all (f - 1) then s.ringBell p 1 f 0 else s
    | none => s

/-- RESTORE_DONE (R306, R328). -/
def execRestoreDone (p : PartIx) (ctl : Control) (s : State) : Res :=
  s.takeCtl (.restoreDone p ctl) p 0x1B ctl false 39 fun _ t =>
    (t.modLode p fun L =>
      { L with restores := if L.restores.contains (ctlSeat ctl, arg1 ctl) then L.restores
                           else L.restores ++ [(ctlSeat ctl, arg1 ctl)] }).tryFirst p

end Sys2Proof.Machine
end

