-- ==== Sys2Proof/Machine/Regions.lean ====
section
/-! DEFINITION. What the service regions of a die's HBM read as (R22, R100, R289, R294, R295, R314, R417; log 14). -/

namespace Sys2Proof.Machine

/-- The first die-local address of a region of R22, and its length. -/
def Partition.regionStart (P : Partition) (i : Nat) : Nat :=
  3 * 0x10000000 * ((List.range i).map fun j => fldN P.image.regions (8 * j) 8).sum
def Partition.regionLen (P : Partition) (i : Nat) : Nat := 3 * 0x10000000 * fldN P.image.regions (8 * i) 8

/-- The exam save area: the highest 16 MiB of each stack's journal region (R417). -/
def Partition.saveStart (P : Partition) : Nat := P.regionStart 3 - 3 * 0x1000000

/-- A die's part of a mirror body (R289, R290): its entries in list order, one behind the other, and on the lowest die
then the journal: the mirror-list index and the byte of it that stand at an offset (DESIGN CHOICE, log 14: the manual
gives the regions no layout). -/
def Partition.bodyAt (P : Partition) (d o : Nat) : Nat × Nat :=
  go o (P.image.mirrorList.filter fun e => decide (e.2.1 = d))
where
  go (o : Nat) : List (Nat × Nat × Nat × Nat) → Nat × Nat
    | [] => (if d = P.lowDie then journalEntry else 0x7FE, o)
    | e :: l => if o < e.2.2.2 then (e.1, o) else go (o - e.2.2.2) l

/-- The bytes of a mirror body on a die (B_d of R289, with three times the journal region). -/
def Partition.bodyLen (P : Partition) (d : Nat) : Nat :=
  ((P.image.mirrorList.filter fun e => decide (e.2.1 = d)).map fun e => e.2.2.2).sum + P.regionLen 2

/-- The place of a mirror-list entry's byte in a waypoint's data (log 37). -/
def Partition.flatPos (P : Partition) (entry off : Nat) : Nat :=
  ((P.image.mirrorList.filter fun e => decide (e.1 < entry)).map fun e => e.2.2.2).sum + off

/-- The journal bulk's bytes in its region: each step's events, oldest step first (log 14). -/
def Partition.bulkBytes (P : Partition) : List Byte := P.bulk.flatMap fun b => bytesOfBv 8 b.1 ++ b.2.flatMap eventBytes

/-- A byte of a service region: of the mirror body or log, the journal bulk, or the waypoint copy; the exam save area and
the other regions hold what was written there. -/
def State.hbmByte (s : State) (d a : Nat) : Byte :=
  let raw := (s.readHbm d a 1).headD 0
  match s.partOf d with
  | none => raw
  | some p =>
    let P := s.part p
    match P.region a with
    | some 1 =>
      let o := a - P.regionStart 1
      if o < P.bodyLen d then let k := P.bodyAt d o; look 0 P.mirror.body (mirrorKey k.1 k.2)
      else let k := P.bodyAt d (o - P.bodyLen d); look 0 P.mirror.log (mirrorKey k.1 k.2)
    | some 2 =>
      if P.saveStart ≤ a then raw
      else if d = P.lowDie then P.bulkBytes.getD (a - P.regionStart 2) 0 else 0
    | some 3 =>
      match P.mirror.staged with
      | some (_, data) =>
        let k := P.bodyAt d (a - P.regionStart 3)
        if k.1 = 0x7FE then 0 else data.getD (P.flatPos k.1 k.2) 0
      | none => 0
    | _ => raw

/-- The bytes of a die's HBM as an aperture or READ finds them (R314, R315). -/
def State.hbmView (s : State) (d a n : Nat) : List Byte := (List.range n).map fun i => s.hbmByte d (a + i)

end Sys2Proof.Machine
end

