-- ==== Sys2Proof/Machine/Commands.lean ====
section
/-! DEFINITION. The device-wide, partition and memory commands of the host (R34, R238, R241, R252, R313, R314, R325-R328, R432, R441, R442). -/

namespace Sys2Proof.Machine

/-! ## What a command reads (R166, R326, R358, R442) -/

/-- VERSION of an image's header (R358). -/
def imageVersion (bs : List Byte) : BitVec 32 := bvOfBytes 32 ((bs.drop 12).take 4)

/-- The versions in force (R442): 0 for the firmware in recovery mode (R372). -/
def State.firmwareVersion (s : State) : BitVec 32 :=
  if s.power.state = .recovery then 0
  else match s.fw.running with
    | some bs => imageVersion bs
    | none => Config.shippedFirmwareVersion

def State.loaderVersion (s : State) : BitVec 32 :=
  match s.fw.loader with
  | some bs => imageVersion bs
  | none => Config.shippedLoaderVersion

/-- The 64 bytes of IDENTIFY and of an announcement (R338, R442). -/
def State.identity (s : State) : List Byte :=
  bytesOfBv 64 (at' 512 0 64 Config.serial.toNat ||| at' 512 64 8 0xA1 ||| at' 512 128 32 s.firmwareVersion.toNat |||
    at' 512 160 32 s.loaderVersion.toNat ||| at' 512 192 32 Config.romVersion.toNat)

/-- IDENTIFY (R442). -/
def execIdentify (r : RingIx) (s : State) : Res :=
  s.runCmd r 0x0101 anyState noParams fun c t => t.reply r c 0 0 t.identity

/-- FEATURE_READ (R166). -/
def execFeatureRead (r : RingIx) (s : State) : Res :=
  s.runCmd r 0x0102 anyState noParams fun c t => t.reply r c 0 0 ((List.range 64).flatMap fun i => bytesOfNat 4 (featurePage.getD i 0))

/-- The 32 bytes of STATUS (R442). -/
def Partition.statusBytes (P : Partition) : List Byte :=
  let lode := if P.image.single then 0 else P.watch.lodestar.getD 0xFFF
  bytesOfBv 32 (at' 256 0 4 P.state.num ||| at' 256 8 8 P.period.attempt.toNat ||| at' 256 16 12 lode |||
    at' 256 32 32 P.watch.epoch.toNat ||| at' 256 64 64 P.period.step.toNat ||| at' 256 128 32 P.gen.toNat)

/-- STATUS (R442). -/
def execStatus (r : RingIx) (s : State) : Res :=
  s.runCmd r 0x0205 anyState noParams fun c t => t.reply r c 0 0 (t.part c.part).statusBytes

/-! ## Device-wide commands (R34, R238, R241, R252, R432) -/

/-- A die mask that a partition may have, dies taken aside (R34): two dies are bridge neighbours. -/
def maskOk (m used : Nat) : Bool := m &&& used == 0 && m ≠ 0b0101 && m ≠ 0b1010

/-- The first partition whose mask breaks R34. -/
def badMasks (masks : List Nat) : Option Nat :=
  firstBad (masks.zipIdx.map fun e => (4 * e.2, !maskOk e.1 ((masks.take e.2).foldl (· ||| ·) 0)))

def PendCmd.masks (c : PendCmd) : List Nat := (List.range 4).map fun p => c.par (4 * p) 4

/-- PARTITION_SET (R34): every partition is Empty, and takes its dies. -/
def execPartitionSet (r : RingIx) (s : State) : Res :=
  s.runCmd r 0x0103 anyState (fun c => lowest [badMasks c.masks, c.rsv 16 16]) fun c t =>
    match (List.range 4).find? fun p => decide ((t.part p).state ≠ .empty) with
    | some p => t.reply r c 0x0201 (t.part p).state.num []
    | none =>
      ((List.range 4).foldl (fun u p => u.modPart p fun P => { P with dies := BitVec.ofNat 4 (c.par (4 * p) 4) }) t).ok r c

/-- The owner code of a quad in a map of R441. -/
def PendCmd.owner (c : PendCmd) (port q : Nat) : Nat := c.par (32 + 16 * port + 2 * q) 2

/-- R241: the local source and each transit source own at least one quad of every port. -/
def PendCmd.mapOk (c : PendCmd) (port : Nat) : Bool :=
  (List.range 4).all fun o => (List.range 8).any fun q => decide (c.owner port q = o)

/-- R168, R441: a lane quad that a loaded timetable names stays local to its port. -/
def State.mapBreaks (s : State) (c : PendCmd) : List Nat :=
  (List.range 4).flatMap fun p => (s.part p).image.timetable.filterMap fun t =>
    let res := fldN t 16 16
    if fldN t 0 4 = 5 ∧ res < 32 ∧ c.owner (res / 8) (res % 8) ≠ res / 8 then
      some (32 + 16 * (res / 8) + 2 * (res % 8)) else none

/-- The parameters of FabricConfig that are out of range (R238, R241, R441). -/
def badFabric (s : State) (c : PendCmd) : Option Nat := lowest
  [firstBad [(0, decide (c.par 0 7 < 1 ∨ 64 < c.par 0 7)), (8, decide (c.par 8 7 < 1 ∨ 64 < c.par 8 7)),
             (16, decide (c.par 0 7 ≤ c.par 16 6)), (24, decide (c.par 8 7 ≤ c.par 24 6)),
             (32, !c.mapOk 0), (48, !c.mapOk 1), (64, !c.mapOk 2), (80, !c.mapOk 3)],
   c.rsv 7 1, c.rsv 15 1, c.rsv 22 2, c.rsv 30 2, (s.mapBreaks c).min?]

/-- FABRIC_CONFIG (R238, R241, R441): every port is Off, and the fabric parameters change. -/
def execFabricConfig (r : RingIx) (s : State) : Res :=
  s.runCmd r 0x0104 anyState (badFabric s) fun c t =>
    let on := (List.range 4).filter fun i => decide ((t.port i).state ≠ .off)
    if on ≠ [] then t.reply r c 0x0205 (on.map fun i => 2 ^ i).sum []
    else
      State.ok { t with fabric := { t.fabric with
        sizeX := c.par 0 7, sizeY := c.par 8 7, ownX := c.par 16 6, ownY := c.par 24 6
        maps := (List.range 4).foldl (fun m i => put 0 m i (BitVec.ofNat 16 (c.par (32 + 16 * i) 16))) t.fabric.maps } } r c

/-- A port enabled or disabled (R252): an Off port goes to Detect, any other stays enabled. A disabled port that is in
neither Off nor Down goes Down, with its link-loss record, and from Down to Off (log 98). On an unlocked device every port
stays Off (R356, R357). -/
def State.setPort (s : State) (i : Nat) (on : Bool) : State :=
  match (s.port i).state, on with
  | .off, true => if s.sec.unlocked then s else s.portTo i .detect
  | .off, false => s
  | _, true => s
  | .down, false => s.portTo i .off
  | _, false => (s.portDown i).portTo i .off

/-- PORT_ENABLE (R252). -/
def execPortEnable (r : RingIx) (s : State) : Res :=
  s.runCmd r 0x0105 anyState (fun c => c.rsv 8 24) fun c t =>
    State.ok ((List.range 4).foldl (fun u i => if c.par i 1 = 1 then u.setPort i (decide (c.par (4 + i) 1 = 1)) else u) t) r c

/-- Every command not yet replied to ends with a status, and the rings write what they can (R323, R326). -/
def State.endAll (s : State) (status detail : Nat) : State :=
  (List.range 5).foldl (fun t r =>
    let R := t.ring r
    let left := (R.running.filter fun c => !c.mute) ++ R.pend
    let t1 := t.modRing r fun R => { R with
      pend := [], running := []
      done := R.done ++ left.map fun c => { cmd := c, status := BitVec.ofNat 16 status, detail := BitVec.ofNat 32 detail } }
    (List.range (t1.ring r).done.length).foldl (fun u _ => u.writeReply r) t1) s

/-- DEVICE_RESET (R325, R432): the reply precedes the reset; the commands it cuts off end with ABORTED. -/
def execDeviceReset (r : RingIx) (s : State) : Res :=
  s.runCmd r 0x0106 anyState noParams fun c t => ((t.ok r c).endAll 0x0401 1).deviceReset

/-! ## Partition commands (R325, R328) -/

/-- What START changes at once (R137, R151, R274, R276, R317, R328). With FROM_WAYPOINT the forms stand until the
waypoint has been read, and what a failed START gives back is kept (R326). Without FROM_WAYPOINT no journal entry of the
step before the first is held (R294). -/
def State.beginJob (s : State) (p : Nat) (first : BitVec 64) (fromWp : Bool) : State :=
  let s0 := if fromWp then s else s.resetForms p
  let P := s0.part p
  let lode := P.members.head?
  let isLode := decide (lode = some P.seat.toNat)
  let s1 := s0.modPart p fun P => { P with
    before := if fromWp then { state := P.state, lode := P.lode, watch := P.watch, period := P.period, mirror := P.mirror } else {}
    restoring := if fromWp then some (first - 1) else none
    refilling := false
    watch := { lodestar := lode }
    lode := { restores := P.lode.restores.filter fun e => decide (e.1 ≠ P.seat.toNat), firstStep := if isLode then some first else none }
    mirror := { P.mirror with sent := none, acked := none, unacked := [] }
    period := { P.period with
      waiting := none, isOpen := false, closed := false, begun := false, dropped := false, token := false
      saidDropped := false, deadSent := 0, carried := [], svc := [P.newJob first false] }
    journal := if fromWp then P.journal else P.journal.filter fun e => decide (e.step ≠ first - 1) }
  let s2 := if fromWp then s1 else
    ((s1.part p).dieList.foldl (fun t d => t.modDie d fun D => { D with tallies := [] }) s1).resetVersions p
  (((s2.setPartState p .starting).askFor p first).askWaypoint p)

/-- The parameters of StartJob that are out of range (R328). -/
def badStart (s : State) (c : PendCmd) : Option Nat :=
  lowest [if decide (c.par 64 1 = 1) = (s.part c.part).image.single then none else some 64, c.rsv 66 62]

/-- START (R328): with FROM_WAYPOINT the command completes when the waypoint has been read; otherwise the
partition is ready at once. -/
def execStartJob (r : RingIx) (s : State) : Res :=
  s.runCmd r 0x0202 [.loaded, .halted] (badStart s) fun c t =>
    let P := t.part c.part
    let first : BitVec 64 := BitVec.ofNat 64 (c.par 0 64)
    let wp := decide (c.par 65 1 = 1)
    if P.image.single = false ∧ P.chart.held = false then t.reply r c 0x0203 0 []
    else if P.image.single ∧ wp then t.reply r c 0x0303 1 []
    else
      let t1 := t.beginJob c.part first wp
      if wp then t1 else (t1.sendRestoreDone c.part (first - 1)).ok r c

/-- STOP (R267, R325): a pending stop on the lodestar; any other member answers NOT_LODESTAR. -/
def execStopJob (r : RingIx) (s : State) : Res :=
  s.runCmd r 0x0203 [.running, .starting] noParams fun c t =>
    let P := t.part c.part
    if P.isLode then (t.modLode c.part fun L => { L with stop := true }).ok r c
    else t.reply r c 0x0204 (P.watch.lodestar.getD 0xFFF) []

/-- A partition without its image: it keeps its dies, its power policy and the journal head in MRAM (R22, R325).
Its forms' cells are reset. -/
def State.dropImage (s : State) (p : Nat) : State :=
  (s.resetForms p).modPart p fun P => { dies := P.dies, journal := P.journal, policy := P.policy, state := P.state }

/-- UNLOAD (R325, R393). -/
def execUnload (r : RingIx) (s : State) : Res :=
  s.runCmd r 0x0204 [.empty, .loaded, .primed, .halted, .fenced] noParams fun c t =>
    (((t.dropImage c.part).setPartState c.part .empty).settleBenches c.part).ok r c

/-! ## Memory commands (R100, R313-R315, R441) -/

/-- The bytes of a die's HBM (R100). -/
def hbmSize : Nat := 0x1B00000000

/-- The parameters of WRITE and READ that are out of range (R441). -/
def badSpan (host : Bool) (c : PendCmd) : Option Nat := lowest
  [if host then firstBad [(0, decide (c.par 0 64 % 64 ≠ 0))] else c.rsv 0 64,
   c.rsv 66 30, c.rsv 136 24,
   firstBad [(96, decide (c.par 96 40 % 64 ≠ 0 ∨ hbmSize < c.par 96 40 + c.par 160 32)),
             (160, decide (c.par 160 32 = 0 ∨ c.par 160 32 % 64 ≠ 0))]]

/-- R314: the host writes the program-and-data and the error-feedback regions; a write to any other is
discarded. -/
def State.hostWrite (s : State) (d a : Nat) (bs : List Byte) : State :=
  match s.partOf d with
  | none => s
  | some p =>
    (chunksOf 64 bs.length bs).zipIdx.foldl (fun t e =>
      match (t.part p).region (a + 64 * e.2) with
      | some 0 | some 4 => t.writeHbm d (a + 64 * e.2) e.1
      | _ => t) s

/-- WRITE (R314, R325, R441): `data` is what the read of the host's bytes gives. -/
def execWriteHbm (r : RingIx) (data : HostData) (s : State) : Res :=
  s.runCmd r 0x0301 [.loaded, .halted, .running] (badSpan true) (fun c t =>
    if bit (t.part c.part).dies (c.par 64 2) = false then t.reply r c 0x0107 2 []
    else
      match data.failAt with
      | some n => t.reply r c 0x0301 n []
      | none =>
        let n := c.par 160 32
        (t.hostWrite (c.par 64 2) (c.par 96 40) ((data.bytes ++ List.replicate n 0).take n)).ok r c)
    fun c => if bit (s.part c.part).dies (c.par 64 2) then [(c.par 64 2, c.par 96 40, c.par 160 32, true)] else []

/-- READ (R315, R325, R441). -/
def execReadHbm (r : RingIx) (s : State) : Res :=
  s.runCmd r 0x0302 [.loaded, .primed, .starting, .running, .halted, .fenced] (badSpan false) (fun c t =>
    if bit (t.part c.part).dies (c.par 64 2) = false then t.reply r c 0x0107 2 []
    else
      t.reply r c 0 0 (t.hbmView (c.par 64 2) (c.par 96 40) (c.par 160 32)))
    fun c => if bit (s.part c.part).dies (c.par 64 2) then [(c.par 64 2, c.par 96 40, c.par 160 32, false)] else []

/-- The snoop-filter lines recorded for an aperture's mapping. -/
def Cxl.apertureLines (x : Cxl) (a : Nat) : List (Nat × Nat) :=
  match look none x.apertures a with
  | some m => x.recorded m.die (m.unit * 0x100000000) 0x100000000
  | none => []

/-- An APERTURE_MAP of this aperture. -/
def isMapOf (a : Nat) (c : PendCmd) : Bool := decide (c.opcode = 0x0303) && decide (c.par 0 4 = a)

/-- Remaps whose old mapping has no recorded line left take effect, and their commands complete (R313, R315). -/
def State.finishRemaps (s : State) : State :=
  s.cxl.remap.foldl (fun t e =>
    if t.cxl.apertureLines e.1 = [] then
      State.finish { t with cxl := { t.cxl with
        apertures := put none t.cxl.apertures e.1 e.2, remap := t.cxl.remap.erase e } } (isMapOf e.1) 0 0 []
    else t) s

/-- The mapping that APERTURE_MAP asks for. -/
def PendCmd.aperture (c : PendCmd) : Option Aperture :=
  if c.par 31 1 = 1 then none
  else some { die := ⟨c.par 4 2 % 4, Nat.mod_lt _ (by decide)⟩, unit := ⟨c.par 8 5 % 27, Nat.mod_lt _ (by decide)⟩ }

/-- The parameters of ApertureMap that are out of range (R313, R441). -/
def badAperture (c : PendCmd) : Option Nat := lowest
  [firstBad [(4, decide (c.par 31 1 = 1 ∧ c.par 4 2 ≠ 0)), (8, decide (26 < c.par 8 5 ∨ (c.par 31 1 = 1 ∧ c.par 8 5 ≠ 0)))],
   c.rsv 6 2, c.rsv 13 18]

/-- APERTURE_MAP (R313, R315): recorded lines of the old mapping are back-invalidated first, and the map
changes once the host has answered for them all. -/
def execApertureMap (r : RingIx) (s : State) : Res :=
  s.runCmd r 0x0303 anyState badAperture fun c t =>
    let a : Fin 16 := ⟨c.par 0 4 % 16, Nat.mod_lt _ (by decide)⟩
    if c.part ≠ 0 ∧ c.par 31 1 = 0 ∧ bit (t.part c.part).dies (c.par 4 2) = false then t.reply r c 0x0107 2 []
    else
      let t1 := match look none t.cxl.apertures a with
        | some m => t.snoopRange m.die (m.unit * 0x100000000) 0x100000000 true
        | none => t
      State.finishRemaps { t1 with cxl := { t1.cxl with remap := t1.cxl.remap ++ [(a, c.aperture)] } }

/-- The parameters of JournalRead that are out of range (R441). -/
def badJournalRead (c : PendCmd) : Option Nat :=
  lowest [firstBad [(64, decide (c.par 64 7 < 1 ∨ 64 < c.par 64 7))], c.rsv 71 57]

/-- JOURNAL_READ (R294, R441): the entries held, in step order. -/
def execJournalRead (r : RingIx) (s : State) : Res :=
  s.runCmd r 0x0304 [.loaded, .primed, .starting, .running, .halted, .fenced] badJournalRead fun c t =>
    t.reply r c 0 0 ((List.range (c.par 64 7)).flatMap fun i =>
      match (t.part c.part).journal.find? fun e => decide (e.step.toNat = c.par 0 64 + i) with
      | some e => jEntryBytes e
      | none => [])

/-! ## The seating chart (R207, R239, R265, R287, R289, R295, R299, R329) -/

/-- `n` bytes of the parameters at a byte offset. -/
def PendCmd.slice (c : PendCmd) (off n : Nat) : List Byte := (c.bytes.drop off).take n

/-- A list of 16-byte entries of the parameters, at byte `off`. -/
def PendCmd.entries (c : PendCmd) (off n : Nat) : List (BitVec 128) :=
  (chunksOf 16 n (c.slice off (16 * n))).map (bvOfBytes 128)

/-- The group entries of a kind. -/
def PendCmd.groupWords (c : PendCmd) (kind : Nat) : List (BitVec 16) :=
  (chunksOf 2 4096 (c.slice (65600 + 8192 * kind) 8192)).map (bvOfBytes 16)

/-- The first bit of a chart or reserve entry that is not as R239 or R299 gives: reserved bits, and a reserved
STATE; `hi` is the width of the reserved field that ends at bit 63. -/
def badEntry (hi : Nat) (e : BitVec 128) : Option Nat :=
  firstBad [(12, decide (seatState e = 3)), (14, decide (fldN e 14 2 ≠ 0)), (64 - hi, decide (fldN e (64 - hi) hi ≠ 0))]

def badEntries (base hi : Nat) (l : List (BitVec 128)) : Option Nat :=
  l.zipIdx.findSome? fun e => (badEntry hi e.1).map fun b => base + 128 * e.2 + b

/-- A group list: reserved bits, and valid entries first (R329). -/
def badGroup (base : Nat) (l : List (BitVec 16)) : Option Nat :=
  let valid := (l.takeWhile fun w => bit w 15).length
  l.zipIdx.findSome? fun e =>
    firstBad [(base + 16 * e.2 + 12, decide (fldN e.1 12 3 ≠ 0)), (base + 16 * e.2 + 15, bit e.1 15 && decide (valid ≤ e.2))]

/-- The lodestar's parameters of CHART_LOAD (R265, R329). -/
def lodeParams (w : BitVec 512) : LodeParams :=
  { factor := fldN w 0 8, firstS := fldN w 8 16, windowMs := fldN w 24 16, allowMs := fldN w 40 16
    limit := fldN w 56 8, interval := fldN w 64 32 }

def badParams (base : Nat) (w : BitVec 512) : Option Nat :=
  let L := lodeParams w
  firstBad [(base, decide (L.factor < 2 ∨ 8 < L.factor)), (base + 8, decide (L.firstS < 1 ∨ 3600 < L.firstS)),
    (base + 24, decide (L.windowMs < 1 ∨ 1000 < L.windowMs)), (base + 40, decide (L.allowMs < L.windowMs ∨ 10000 < L.allowMs)),
    (base + 56, decide (L.limit < 1 ∨ 15 < L.limit)), (base + 64, decide (1000000 < L.interval)),
    (base + 96, decide (fldN w 96 416 ≠ 0))]

def PendCmd.lodeWord (c : PendCmd) : BitVec 512 := bvOfBytes 512 (c.slice 98368 64)
def PendCmd.wpWord (c : PendCmd) : BitVec 512 := bvOfBytes 512 (c.slice 98432 64)

/-- The parameters of CHART_LOAD out of range (R329, R441). -/
def badChart (c : PendCmd) : Option Nat :=
  let head : BitVec 512 := bvOfBytes 512 (c.slice 0 64)
  lowest ([firstBad [(44, decide (fldN head 44 468 ≠ 0))], badEntries 512 20 (c.entries 64 4096)] ++
    (List.range 4).map (fun k => badGroup (524800 + 65536 * k) (c.groupWords k)) ++
    [badParams 786944 c.lodeWord, firstBad [(787584, decide (fldN c.wpWord 128 384 ≠ 0))],
     badEntries 787968 32 (c.entries 98496 256)])

/-- The chart that CHART_LOAD gives (R329). -/
def PendCmd.chart (c : PendCmd) : Chart :=
  let head : BitVec 64 := bvOfBytes 64 (c.slice 0 8)
  { held := true, gen := fld head 0 32, own := fld head 32 12
    seats := (c.entries 64 4096).zipIdx.foldl (fun m e => put 0 m e.2 e.1) []
    groups := (List.range 4).foldl (fun m k =>
      put [] m k (((c.groupWords k).takeWhile fun w => bit w 15).map fun w => fldN w 0 12)) []
    params := lodeParams c.lodeWord
    wpBase := fld c.wpWord 0 64, wpSize := fld c.wpWord 64 64
    reserves := (c.entries 98496 256).zipIdx.foldl (fun m e => put 0 m e.2 e.1) [] }

/-- R287: the deskmate of every seat is another seat of its domain, and no two seats have one deskmate. -/
def Chart.desksOk (C : Chart) : Bool :=
  C.members.all fun a =>
    let d := seatDesk (C.entry a)
    decide (d ≠ a) && C.members.contains d && decide (seatDomain (C.entry d) = seatDomain (C.entry a)) &&
      C.members.all fun b => decide (b = a ∨ seatDesk (C.entry b) ≠ d)

/-- B_d of R289 in bytes: a die's mirror-list entries and three times the journal region. -/
def Partition.bodySize (P : Partition) (d : Nat) : Nat :=
  ((P.image.mirror.filterMap mirrorEntry).filter fun e => decide (e.1 = d)).foldl (fun n e => n + e.2.2) 0 +
    3 * 0x10000000 * fldN P.image.regions 16 8

/-- R289: the waypoint staging region holds a body on every die, while the interval is not zero. -/
def Partition.stagingOk (P : Partition) (C : Chart) : Bool :=
  P.image.single || decide (C.params.interval = 0) ||
    P.dieList.all fun d => decide (P.bodySize d ≤ 3 * 0x10000000 * fldN P.image.regions 24 8)

/-- R207, R131: every bucket and remote record's group exists and holds its OWNER, PEER or MSPAN. -/
def State.groupsOk (s : State) (P : Partition) (C : Chart) : Bool :=
  let size (k : Nat) : Nat := (look [] C.groups k).length
  (P.image.buckets.all fun b => !bkValid b || decide (bkOwner b < size (bkKind b))) &&
  (P.image.remotes.all fun x => !bit x 2 ||
    (decide (0 < size (fldN x 3 2)) &&
      match fldN x 5 2 with
      | 0 => decide (fldN x 8 12 < size (fldN x 3 2))
      | 1 => decide (fldN x 20 6 < s.fabric.sizeX)
      | _ => decide (fldN x 20 6 < s.fabric.sizeY)))

/-- Why the device refuses a chart (R326, CHART_REFUSED): the lowest DETAIL that holds. Whether other members'
dies or region sizes differ, no chart shows. -/
def State.chartRefused (s : State) (P : Partition) (C : Chart) : Option Nat :=
  firstBad [(1, !C.desksOk), (3, !P.stagingOk C),
    (4, if C.own = 0xFFF then !P.image.reserve else decide (seatState (C.entry C.own.toNat) ≠ 1)),
    (5, P.chart.held && decide (C.gen ≤ P.chart.gen)), (6, !s.groupsOk P C)]

/-- CHART_LOAD (R329): another deskmate than before calls for a full update (R292). -/
def execChartLoad (r : RingIx) (s : State) : Res :=
  s.runCmd r 0x0401 [.loaded, .halted, .primed] badChart fun c t =>
    let P := t.part c.part
    let C := c.chart
    if P.state = .primed ∧ P.chart.held then t.reply r c 0x0201 2 []
    else
      match t.chartRefused P C with
      | some n => t.reply r c 0x0206 n []
      | none =>
        let desk (X : Chart) : Nat × Nat :=
          let d := seatDesk (X.entry X.own.toNat)
          (d, fldN (X.entry d) 0 12)
        State.ok (t.modPart c.part fun P => { P with
          chart := C
          mirror := if P.chart.held ∧ desk P.chart = desk C then P.mirror
                    else { P.mirror with fullDue := true, exposed := true } }) r c

/-- The bytes of CHART_READ: GEN and OWN as CHART_LOAD lays them out, then the 4,096 entries. -/
def Chart.bytes (C : Chart) : List Byte :=
  bytesOfBv 64 (at' 512 0 32 C.gen.toNat ||| at' 512 32 12 C.own.toNat) ++
    (List.range 4096).flatMap fun i => bytesOfBv 16 (C.entry i)

/-- CHART_READ (R325). -/
def execChartRead (r : RingIx) (s : State) : Res :=
  s.runCmd r 0x0402 anyState noParams fun c t =>
    let C := (t.part c.part).chart
    if C.held then t.reply r c 0 0 C.bytes else t.reply r c 0x0203 0 []

/-! ## What telemetry shows (R340, R341) -/

def PortState.num : PortState → Nat
  | .off => 0
  | .detect => 1
  | .train => 2
  | .verify => 3
  | .up => 4
  | .down => 5

/-- Core voltages of a die's bench domains. -/
def Die.volts (D : Die) : List Nat := (List.range 24).map fun b => (look {} D.benches b).mv

/-- What a summary takes of the device's state (R340, log 7). -/
def State.teleView (s : State) : TeleView :=
  let v := s.hub.services
  let parts := List.range 4
  let rseq := if s.hub.records.isEmpty then 0 else s.hub.rseq.toNat + 0xFFFF
  let vcore (d : Nat) : Nat :=
    let l := (s.die d).volts
    l.foldl min 0xFFFF + 2 ^ 16 * l.foldl max 0
  { rails := s.railsOf (parts.flatMap fun p => (s.part p).formBenches)
    fields := at' 2048 0 16 (look 0 v.periods 0) |||
      at' 2048 256 128 (parts.map fun d => vcore d * 2 ^ (32 * d)).sum |||
      at' 2048 384 256 (parts.map fun p => (s.part p).period.step.toNat * 2 ^ (64 * p)).sum |||
      at' 2048 640 16 (parts.map fun p => (s.part p).state.num * 2 ^ (4 * p)).sum |||
      at' 2048 656 16 v.limited.toNat |||
      at' 2048 672 40 ((List.range 5).map fun k => (look 0 v.late k).toNat * 2 ^ (8 * k)).sum |||
      at' 2048 712 32 v.corrected.toNat ||| at' 2048 744 16 v.withheld.toNat ||| at' 2048 760 16 rseq |||
      at' 2048 776 4 s.cxl.width ||| at' 2048 780 3 s.cxl.rate ||| bitAt 2048 783 s.cxl.failed |||
      at' 2048 784 12 (parts.map fun i => (s.port i).state.num * 2 ^ (3 * i)).sum ||| bitAt 2048 796 s.sec.unlocked }

/-- The 256 bytes of a summary, with the measured values of a sample (R340, log 7). -/
def TeleView.bytes (v : TeleView) (m : TeleSample) : List Byte :=
  bytesOfBv 256 (v.fields ||| at' 2048 16 11 (paceOf v.rails m.tj) ||| at' 2048 32 32 m.inputMw.toNat |||
    at' 2048 64 32 m.peakMw.toNat ||| at' 2048 96 64 m.tj.toNat ||| at' 2048 160 96 m.thbm.toNat)

/-- A TELEMETRY_READ keeps the view of the device when it was admitted (R341). -/
def PendCmd.seen (c : PendCmd) (v : TeleView) : PendCmd := if c.opcode = 0x0801 then { c with view := some v } else c

end Sys2Proof.Machine
end

