-- ==== Sys2Proof/Machine/Errors.lean ====
section
/-! DEFINITION. What a detected error does (R262, R277, R281, R285, R286, R346). -/

namespace Sys2Proof.Machine

/-- The partitions whose work an error drops: the one it names, or every partition of the device for the hub
(R285). -/
def errParts (e : ErrEvent) : List Nat := if e.unit.val = 4 then [0, 1, 2, 3] else [e.part.val]

/-- A detected error in a partition that runs a job (R262, R281, R285): work of a period not closed is dropped;
the member examines itself, and a trouble notice names its own seat. -/
def State.dropPeriod (s : State) (reason p : Nat) : State :=
  let P := s.part p
  if P.state ≠ .running then s
  else
    let s1 := if P.period.isOpen ∨ P.period.waiting.isSome then
        (s.stopWalks p).modPart p fun P => { P with period := { P.period with dropped := true, examining := true } }
      else s.modPart p fun P => { P with period := { P.period with examining := true } }
    s1.sendTrouble p P.seat.toNat reason

/-- The re-examination of a unit begins at once (R286, R422). -/
def State.reexamine (s : State) (unit : Nat) : State :=
  s.modServices fun v => { v with
    reexam := insNat unit v.reexam
    reexamBad := v.reexamBad.filter fun u => decide (u ≠ unit)
    slices := addSlices (unitTargets unit) (fun t => { target := t, reexam := true }) v.slices }

/-- The reports that wait without one of an event's. -/
def dropReport (e : ErrEvent) (l : List ErrEvent) : List ErrEvent :=
  match l.findIdx? fun x => decide (x = { e with newSecond := x.newSecond, newIbi := x.newIbi }) with
  | some i => l.eraseIdx i
  | none => l

/-- The report of a detector's that an event is leaves the list of those that wait. -/
def State.takeReport (s : State) (e : ErrEvent) : State :=
  s.modHub fun h => { h with reports := dropReport e h.reports }

/-- ERROR_REPORT (R277, R281, R285, R286, R346): an event is admitted and makes its record. A detected error
drops its period's work, sends a trouble notice for every partition that runs a job, raises the in-band
interrupt, and has its unit examined again. A notice drops nothing. -/
def execErrorReport (e : ErrEvent) (s : State) : Res :=
  let s0 := s.takeReport e
  if isNotice e.reason then .next (s0.notice e)
  else
    let a := s0.intake .error (if e.unit.val < 4 then 33 + e.unit.val else 37)
    let s1 := a.2.makeRecord e a.1
    let s2 := if e.newIbi ∧ s1.mgmt.ibiOff = false ∧ s1.mgmt.dynAddr.isSome then s1.emit .ibi else s1
    let s3 := (errParts e).foldl (fun t p => t.dropPeriod e.reason.toNat p) s2
    .next (s3.reexamine e.unit)

/-- The partitions that a unit's examination holds: the hub's holds every one. -/
def State.examParts (s : State) (unit : Nat) : List Nat :=
  (List.range 4).filter fun p => decide (unit = 4) || bit (s.part p).dies unit

/-- An examination of a partition has ended with success: READY follows a DROPPED (R266, R286). -/
def State.examPassed (s : State) (p : Nat) : State :=
  let P := s.part p
  if P.period.examining = false ∨ (s.hub.services.reexam.any fun u => (s.examParts u).contains p) then s
  else
    let s1 := s.modPart p fun P => { P with period := { P.period with examining := false } }
    if P.period.saidDropped then s1.sendCtl p (P.watch.lodestar.getD 0) (s1.ownCtl p 9 5 0xFFFFFFFFFFFF 0) else s1

/-- The exam services re-enable a die's port that is Down (R252). -/
def State.reenable (s : State) (unit : Nat) : State :=
  if unit < 4 ∧ (s.port unit).state = .down then s.portTo unit .train else s

/-- REEXAMINATION_COMPLETE (R252, R286, R422): every slice of a unit's re-examination has ended. When none failed, and
it ended in time, the partitions it held are READY, and a die's port that is Down trains again; otherwise the member stays late. -/
def execReexaminationComplete (unit : Fin 5) (passed : Bool) (s : State) : Res :=
  let v := s.hub.services
  if v.reexam.contains unit.val = false ∨ (v.slices.any fun x => x.reexam && decide (targetUnit x.target = unit.val)) then .next s
  else
    let good := passed && !v.reexamBad.contains unit.val
    if good then
      let s1 := s.modServices fun v => { v with reexam := v.reexam.filter fun u => decide (u ≠ unit.val) }
      .next (((s.examParts unit).foldl (fun t p => t.examPassed p) s1).reenable unit)
    else .next s

end Sys2Proof.Machine
end

