-- ==== Sys2Proof/Machine/Services.lean ====
section
/-! DEFINITION. Telemetry, record and service commands, the telemetry and quiz services (R129, R272, R279, R280, R339-R341, R441). -/

namespace Sys2Proof.Machine

/-! ## The telemetry summary (R340) -/

/-- A summary of the device as it is now. -/
def State.summary (s : State) (m : TeleSample) : List Byte := s.teleView.bytes m

/-- TELEMETRY_TIMER (R272, R340): the period that ends counts in LIMITED if the governor lowered a rail at the
ceiling in it, and a record of it not yet sent is late and not sent; the new period's summary goes to the collector,
where `finishes` says that it does so within the period. -/
def execTelemetryTimer (x : TelePeriod) (s : State) : Res :=
  let s0 := if s.hub.services.teleOpen then s.countLate 0 else s
  let s1 := (s0.servicePeriod 0 102).modServices fun v => { v with
    limited := if v.limitedNow then satAdd v.limited 1 else v.limited, limitedNow := false, teleOpen := !x.finishes }
  .next (if s1.mgmt.linkUp ∧ x.finishes then s1.sendKmp 2 false (s1.summary x.sample) else s1)

/-! ## Counter records (R129, R223, R254, R341) -/

/-- Corrected errors in a cell's store, summed over its banks (R341). -/
def Cell.storeCorr (x : Cell) : Nat := min ((List.range 32).map fun b => (look 0 x.bankCorr b).toNat).sum 0xFFFFFFFF

/-- One reduction counter record (R223). -/
def Die.redRecord (D : Die) (kind : Nat) : BitVec 128 := look 0 D.redCtr kind

/-- The records of a kind and their number; 0 for a reserved kind (R341). -/
def kindSize : Nat → Nat
  | 0 => 1
  | 1 => 18432
  | 2 => 16
  | 3 => 36
  | 4 => 1536
  | 5 => 1536
  | _ => 0

/-- The pseudo-channels that a cell's bench owns: those whose read or write list names it (R125, R341, log 154). -/
def State.ownedChans (s : State) (c : Nat) : List Nat :=
  (List.range 96).filter fun pc =>
    (s.channelList (dieOf c) pc true ++ s.channelList (dieOf c) pc false).contains (benchOf c % 24)

/-- One record; a summary is of the device as `v` shows it (R341). -/
def State.counterRecord (s : State) (v : TeleView) (m : TeleSample) (kind i : Nat) : List Byte :=
  match kind with
  | 0 => v.bytes m
  | 1 => bytesOfBv 32 (look 0 (s.cell (i / 12)).ctr (i % 12))
  | 2 => bytesOfBv 16 ((s.die (i / 4)).redRecord (i % 4))
  | 3 => bytesOfBv 32 (look 0 s.fabric.ctr i)
  | 4 =>
    let x := s.cell i
    bytesOfNat 4 x.storeCorr ++ ([1, 2].flatMap fun k => bytesOfBv 4 (look 0 x.corr k)) ++
      bytesOfNat 4 (min ((s.ownedChans i).map fun pc => (look 0 (s.die (dieOf i)).chanCorr pc).toNat).sum 0xFFFFFFFF) ++
      List.replicate 16 0
  | _ => (List.range 32).flatMap fun b => bytesOfBv 4 (look 0 (s.cell i).bankCorr b)

/-- One record cleared (R129, R341); of kind 0, the saturating fields of R340. -/
def State.clearRecord (s : State) (kind i : Nat) : State :=
  match kind with
  | 0 => s.modServices fun v => { v with limited := 0, late := [], corrected := 0, withheld := 0 }
  | 1 => s.modCell (i / 12) fun x => { x with ctr := put 0 x.ctr (i % 12) 0 }
  | 2 => s.modDie (i / 4) fun D => { D with redCtr := put 0 D.redCtr (i % 4) 0, redBytes := put 0 D.redBytes (i % 4) 0 }
  | 3 => { s with fabric := { s.fabric with ctr := put 0 s.fabric.ctr i 0 } }
  | 4 => (s.modCell i fun x => { x with corr := [], bankCorr := [] }).modDie (dieOf i) fun D =>
      { D with chanCorr := (s.ownedChans i).foldl (fun m pc => put 0 m pc 0) D.chanCorr }
  | _ => s.modCell i fun x => { x with bankCorr := [] }

/-- The selector and count out of range (R341). -/
def badSelector (count : Bool) (c : PendCmd) : Option Nat :=
  let n := kindSize (c.par 0 8)
  firstBad [(0, decide (n = 0)), (8, decide (n ≤ c.par 8 24)),
    (32, count && decide (c.par 32 32 < 1 ∨ 4096 < c.par 32 32 ∨ n < c.par 8 24 + c.par 32 32))]

/-- TELEMETRY_READ (R341): a summary is that of the device when the command was admitted. -/
def execTelemetryRead (r : RingIx) (smp : TeleSample) (s : State) : Res :=
  s.runCmd r 0x0801 anyState (badSelector true) fun c t =>
    t.reply r c 0 0 ((List.range (c.par 32 32)).flatMap fun i => t.counterRecord (c.view.getD t.teleView) smp (c.par 0 8) (c.par 8 24 + i))

/-- TELEMETRY_CLEAR (R129, R341). -/
def execTelemetryClear (r : RingIx) (s : State) : Res :=
  s.runCmd r 0x0802 anyState (badSelector false) fun c t => (t.clearRecord (c.par 0 8) (c.par 8 24)).ok r c

/-- The parameters of RecordRead that are out of range (R441). -/
def badRecordRead (c : PendCmd) : Option Nat :=
  lowest [firstBad [(16, decide (c.par 16 9 < 1 ∨ 256 < c.par 16 9))], c.rsv 25 7]

/-- RECORD_READ (R339, R441): the records held, in RSEQ order from the first asked for. -/
def execRecordRead (r : RingIx) (s : State) : Res :=
  s.runCmd r 0x0803 anyState badRecordRead fun c t =>
    t.reply r c 0 0 ((List.range (c.par 16 9)).flatMap fun i =>
      match t.hub.records.find? fun e => decide (fldN e 48 16 = (c.par 0 16 + i) % 65536) with
      | some e => bytesOfBv 64 e
      | none => [])

/-! ## Service periods (R272, R441) -/

/-- The ranges of the five services' periods in ms (R272). -/
def serviceRange (k : Nat) : Nat × Nat := [(1, 10000), (100, 60000), (1, 100), (10000, 86400000), (100, 60000)].getD k (0, 0)

/-- The parameters of ServiceSet that are out of range (R272, R441). -/
def badServiceSet (c : PendCmd) : Option Nat := firstBad ((List.range 5).map fun k =>
  let v := c.par (32 * k) 32
  (32 * k, decide (v ≠ 0 ∧ (v < (serviceRange k).1 ∨ (serviceRange k).2 < v))))

/-- SERVICE_SET (R272, R441): a zero leaves a period unchanged. -/
def execServiceSet (r : RingIx) (s : State) : Res :=
  s.runCmd r 0x0804 anyState badServiceSet fun c t =>
    let periods := (List.range 5).foldl (fun m k =>
      let v := c.par (32 * k) 32
      if v = 0 then m else put 0 m k v) t.hub.services.periods
    State.ok ((t.modServices fun v => { v with periods := periods }).assertShared 44) r c

/-! ## The quiz (R279, R280) -/

/-- The cells of a bench pair: bench b of die d and of die (d + 2) mod 4 (R279). -/
def pairCells (d b : Nat) : List Nat :=
  [d, (d + 2) % 4].flatMap fun e => (List.range 16).map fun i => 384 * e + 16 * b + i

/-- A quiz may take a cell's engine now: no operation holds a slot, and no slice holds the bench (R280, R416). -/
def Cell.quizFree (x : Cell) : Bool :=
  !x.paused && (List.range 4).all fun k => decide ((look {} x.slots k).phase = .unowned)

/-- QUIZ_TIMER (R272, R279): a quiz still under way is late and gives no verdict; the quiz of the next bench pair
begins in the cells whose engine is free. A pair with a die that is not up has none. -/
def execQuizTimer (s : State) : Res :=
  let s0 := s.servicePeriod 1 40
  let s1 := match s0.hub.services.quizPair with
    | some (d, b) =>
      ((pairCells d b).foldl (fun (t : State) c => t.modCell c fun x => { x with quiz := false }) (s0.countLate 1)).modServices fun v =>
        { v with quizPair := none }
    | none => s0
  let n := s1.hub.services.quizPos % 48
  let d := n % 2
  let b := n / 2
  let s2 := s1.modServices fun v => { v with quizPos := (n + 1) % 48 }
  if (s2.die d).mode = .up ∧ (s2.die (d + 2)).mode = .up then
    .next (((pairCells d b).foldl (fun (t : State) c => t.modCell c fun x => { x with quiz := x.quizFree }) s2).modServices fun v =>
      { v with quizPair := some (d, b) })
  else .next s2

/-- The digest that more than half of the others share: the common value of R280, if 1 to 15 differ from it. -/
def commonDigest (ds : List (BitVec 64)) : Option (BitVec 64) :=
  ds.find? fun x => decide (17 ≤ (ds.filter fun y => decide (y = x)).length)

/-- The places of the cells that have failed a quiz (R280). -/
def quizFails (ds : List (BitVec 64)) : List Nat :=
  match commonDigest ds with
  | some x => (List.range ds.length).filter fun i => decide (ds.getD i 0 ≠ x)
  | none => List.range ds.length

/-- DETAIL of a quiz failure: the low 32 bits of the cell's digest, then those of the common value, or where there
is none of the other bench's cell in the same seat. -/
def quizDetail (ds : List (BitVec 64)) (i : Nat) : Nat :=
  (ds.getD i 0).toNat % 2 ^ 32 + ((commonDigest ds).getD (ds.getD ((i + 16) % 32) 0)).toNat % 2 ^ 32 * 2 ^ 32

/-- One engine step of a quiz in every site's check accumulator: a multiply-accumulate on operand lanes without scales,
promoted at once, with the quiz's own rounding bits (R279, R280; log 150). -/
def quizStep (quiz op fmt : Nat) (acc : List W40) (step : Nat) : List W40 :=
  let lane (col : Bool) (i : Nat) : OpLane := (elemsOf { data := Config.quizEntry quiz op col step } fmt i, 127)
  (List.range 4096).map fun i =>
    (siteStep 0 fmt fmt true (lane true (i / 64)) (lane false (i % 64)) (Config.quizRound quiz op step i).toNat 0 (acc.getD i 0)).2

/-- What a quiz leaves in the 4,096 check accumulators of a cell without a fault: 128 engine steps in E4M3, then 128 in BF16
(R279). -/
def quizResults (quiz : Nat) : List W40 :=
  (List.range 128).foldl (quizStep quiz 1 0) ((List.range 128).foldl (quizStep quiz 0 1) (List.replicate 4096 0))

/-- The digests of the 32 cells of a pair in a quiz (R279): those of the results, but of the faulty cells the ones given. -/
def quizDigests (quiz : Nat) (faulty : List (Fin 32 × BitVec 64)) : List (BitVec 64) :=
  (List.range 32).map fun i => match faulty.find? fun e => decide (e.1.val = i) with
    | some e => e.2
    | none => Config.quizDigest (quizResults quiz)

/-- QUIZ_DIGESTS_COMPLETE (R279, R280): every cell of the pair has had its quiz, which stands in its check accumulators;
`faulty` names the cells whose hardware gave another digest. The cells whose digest differs have failed, with reason
0x5001. -/
def execQuizDigestsComplete (faulty : List (Fin 32 × BitVec 64)) (s : State) : Res :=
  match s.hub.services.quizPair with
  | none => .next s
  | some (d, b) =>
    let cs := pairCells d b
    let quiz := look 0 s.hub.services.numbers 1
    if cs.any fun c => !(s.cell c).quiz && !(s.cell c).quizFree then .next s
    else
      let s1 := (cs.foldl (fun (t : State) c => t.modCell c fun x => { x with quiz := false, check := quizResults quiz })
        (s.assertAt 1 9)).modServices fun v => { v with quizPair := none }
      let ds := quizDigests quiz faulty
      .next ((quizFails ds).foldl (fun t i => t.detectCell (cs.getD i 0) 0x5001 (cs.getD i 0) (quizDetail ds i)) s1)

end Sys2Proof.Machine
end

