-- ==== Sys2Proof/Machine/Exams.lean ====
section
/-! DEFINITION. Exams: slices, grants, results and commands (R409-R424). -/

namespace Sys2Proof.Machine

/-! ## Results (R421) -/

def State.examRec (s : State) (t : Word) : ExamRec := look {} s.hub.services.results t.toNat

def State.modRec (s : State) (t : Word) (f : ExamRec → ExamRec) : State :=
  s.modServices fun v => { v with results := alter {} v.results t.toNat f }

/-- The 16 bytes of a result record (R421). -/
def ExamRec.bytes (t : Word) (x : ExamRec) : List Byte :=
  bytesOfBv 16 (at' 128 0 32 t.toNat ||| at' 128 32 16 x.code.toNat ||| at' 128 48 2 x.result.toNat |||
    at' 128 64 32 x.margin.toNat ||| at' 128 96 16 x.passes.toNat ||| at' 128 112 16 x.fails.toNat)

/-- LOC and DETAIL of an exam's event (R411, R421), with the target's die and its partition. -/
def State.examEvent (s : State) (reason : BitVec 16) (t : Word) (o : ExamOutcome) : ErrEvent :=
  let u := targetUnit t
  { reason := reason, unit := ⟨u % 5, Nat.mod_lt _ (by decide)⟩, part := partIx (if u < 4 then (s.partOf u).getD 0 else 0),
    loc := t, detail := BitVec.ofNat 64 (o.code.toNat + o.margin.toNat * 2 ^ 32) }

/-- One exam's outcome (R410, R411, R421): a failure is a detected error, a low margin a notice. -/
def State.examOutcome (s : State) (t : Word) (o : ExamOutcome) : State :=
  let s1 := s.modRec t fun x => { x with
    code := o.code, margin := o.margin
    passes := if o.ok then satAdd x.passes 1 else x.passes
    fails := if o.ok then x.fails else satAdd x.fails 1 }
  let e := s.examEvent (if o.ok then 0x8002 else 0x8001) t o
  if o.ok = false then s1.modHub fun h => { h with reports := h.reports ++ [e] }
  else if o.low ∧ 0x0301 ≤ o.code.toNat ∧ o.code.toNat ≤ 0x0603 then s1.notice e
  else s1

/-- The exams of a target type, in code order; 0x0105 runs only where the bench's slot buffers and queues are empty
(R410). -/
def examCodes (type : Nat) (empty : Bool) : List (BitVec 16) :=
  match type with
  | 0 => [0x0101, 0x0102, 0x0103, 0x0104] ++ (if empty then [0x0105] else [])
  | 1 => [0x0201]
  | 2 => [0x0301]
  | 3 => [0x0401]
  | 4 => [0x0501]
  | 5 => [0x0601, 0x0602, 0x0603]
  | 6 => [0x0701, 0x0702, 0x0703, 0x0704]
  | _ => []

/-- What the exams of a target found: an exam that `rs` doesn't name passed with MARGIN 0 (log 109). -/
def examFound (t : Word) (empty : Bool) (rs : List ExamOutcome) : List ExamOutcome :=
  (examCodes (targetType t) empty).map fun c => (rs.find? fun o => o.code == c).getD { code := c, ok := true }

/-- A slice's outcomes recorded (R421): each exam of its target's type, in code order (R410). -/
def State.examOutcomes (s : State) (t : Word) (empty : Bool) (rs : List ExamOutcome) : State :=
  let l := examFound t empty rs
  (l.foldl (fun u o => u.examOutcome t o) s).modRec t fun x =>
    { x with result := if l.all fun o => o.ok then 1 else 2 }

/-- The full exam (R422, R435): every target of it, with the outcomes that `es` gives. -/
def State.examAll (s : State) (es : List (Word × List ExamOutcome)) : State :=
  s.fullExam.foldl (fun u t =>
    u.examOutcomes t true ((es.find? fun e => e.1 == t).elim [] Prod.snd)) s

/-! ## Slices (R412-R420) -/

/-- The power a slice is granted in mW (R413). -/
def sliceMw (t : Word) : Nat :=
  match targetType t with
  | 0 => 4000
  | 2 | 3 | 4 => 2000
  | _ => 0

/-- The flat bench of a bench target, and its cells. -/
def targetBench (t : Word) : Nat := fldN t 0 7
def benchCells (k : Nat) : List Nat := (List.range 16).map fun i => 16 * k + i

/-- The die whose power a target needs: none for a sextant item, a hub part, a conversion stage. -/
def targetDie (t : Word) : Option Nat :=
  if targetType t ≤ 3 ∨ (targetType t = 4 ∧ targetIx t < 104) then some (targetUnit t) else none

/-- The target is one of a die that is not up. -/
def State.dieDown (s : State) (t : Word) : Bool :=
  match targetDie t with
  | some d => decide ((s.die d).mode ≠ .up)
  | none => false

/-- A slice may begin on a target (R412-R416, R420). -/
def State.sliceFree (s : State) (t : Word) : Bool :=
  let on := s.hub.services.slices.filter fun x => x.granted && decide (targetType x.target = 0)
  !s.examHolds t && !s.dieDown t && (!isEscape t || s.escapeFree t) &&
  (decide (targetType t ≠ 0) ||
    (decide ((on.filter fun x => decide (targetUnit x.target = targetUnit t)).length < 2) &&
      (on.all fun x => decide (targetBench x.target ≠ targetBench t)) &&
      (benchCells (targetBench t)).all fun c => !(s.cell c).quiz))

/-- The first slice of a list that meets a condition, changed. -/
def modSlice (f : Slice → Bool) (g : Slice → Slice) : List Slice → List Slice
  | [] => []
  | x :: l => if f x then g x :: l else x :: modSlice f g l

/-! ## The exam save area (R417) -/

/-- The bytes a bench slice saves of each cell, in a window of 256 KiB: the four banks of its group, then its 256
side-memory entries (R410; log 146). -/
def saveStep : Nat := 0x40000
def saveLen : Nat := 4 * 49152 + 256 * 8

/-- Where a cell-store byte or a side-memory byte under test stands in its cell's window. -/
def saveOfStore (a : Nat) : Nat := csBank a % 4 * 49152 + csWord a * 32 + a % 32
def saveOfSide (e k : Nat) : Nat := 4 * 49152 + e % 256 * 8 + k

/-- A cell-store word, or a side-memory entry counted from 49,152, that group g tests. -/
def underTest (g w : Nat) : Bool := if w < 49152 then decide (w % 32 / 4 = g) else decide ((w - 49152) / 256 = g)

/-- What Save reads of a cell, as bytes of its window: a word that reads as a double-bit error reads zeros (R70). -/
def Cell.saveBytes (g : Nat) (bad : List Nat) (x : Cell) : SMap Byte :=
  ((x.store.filter fun e => decide (csBank e.1 / 4 = g) && !bad.contains (e.1 / 32)).map fun e => (saveOfStore e.1, e.2)) ++
  (x.side.filter fun e => decide (e.1 / 256 = g) && !bad.contains (49152 + e.1)).flatMap fun e =>
    (List.range 8).map fun k => (saveOfSide e.1 k, fld e.2 (8 * k) 8)

/-- A cell's banks and side-memory entries of group g from its window at `base` (R414, event 6). -/
def Cell.restore (g base : Nat) (hbm : SMap Byte) (x : Cell) : Cell :=
  let win := (hbm.filter fun e => decide (base ≤ e.1 ∧ e.1 < base + saveLen)).map fun e => (e.1 - base, e.2)
  { x with
    store := win.foldl (fun m e => if e.1 < 4 * 49152 then
        put 0 m (e.1 % 49152 / 32 * 1024 + (4 * g + e.1 / 49152) * 32 + e.1 % 32) e.2 else m)
      (x.store.filter fun e => decide (csBank e.1 / 4 ≠ g))
    side := win.foldl (fun m e => if e.1 < 4 * 49152 then m else
        let o := e.1 - 4 * 49152
        alter 0 m (256 * g + o / 8) fun v => v ||| at' 64 (8 * (o % 8)) 8 e.2.toNat)
      (x.side.filter fun e => decide (e.1 / 256 ≠ g)) }

/-- Where a bench slice of a die saves: one of two parts of the save area, the second while another slice uses the first
(R413, R417; log 146). -/
def State.saveBase (s : State) (d p : Nat) : Nat :=
  let a := (s.part p).saveStart
  if s.hub.services.slices.any fun x => decide (targetType x.target = 0 ∧ targetUnit x.target = d ∧ x.saved = some a) then
    a + 0x1800000 else a

/-- Save (R414, event 3; R417): the cells' bytes go to the save area through the remote gateway, and a word that reads as a
double-bit error is reported. Such a word will read so again after Restore. -/
def State.save (s : State) (t : Word) (base : Nat) (bad : List (Fin 16 × Nat)) : State :=
  let g := fldN t 8 3
  let d := targetUnit t
  let cells := (benchCells (targetBench t)).zipIdx
  let badOf (i c : Nat) : List Nat :=
    ((bad.filterMap fun e => if e.1.val = i then some e.2 else none) ++ (s.cell c).badWords).filter fun w => underTest g w
  let bytes : SMap Byte := cells.flatMap fun e =>
    ((s.cell e.1).saveBytes g (badOf e.2 e.1)).map fun b => (base + saveStep * e.2 + b.1, b.2)
  let s1 := (s.snoopRange d base (16 * saveStep) true).modDie d fun D =>
    let old := eraseKeys D.hbm fun a => decide (base ≤ a ∧ a < base + 16 * saveStep ∧ (a - base) % saveStep < saveLen)
    { D with hbm := bytes.foldl (fun m e => put 0 m e.1 e.2) old }
  cells.foldl (fun u e => (badOf e.2 e.1).foldl (fun v w =>
    let v1 := v.modCell e.1 fun x => { x with badWords := insNat w x.badWords }
    if w < 49152 then v1.detectCell e.1 0x2001 (e.1 + w % 32 * 2 ^ 16) (w / 32)
    else v1.detectCell e.1 0x2002 e.1 (w - 49152)) u) s1

/-- Restore (R414, event 6; R418). -/
def State.restoreBench (s : State) (t : Word) (base : Nat) : State :=
  (benchCells (targetBench t)).zipIdx.foldl (fun u e =>
    u.modCell e.1 (Cell.restore (fldN t 8 3) (base + saveStep * e.2) (u.die (targetUnit t)).hbm)) s

/-- A slice takes hold of its target: a bench pauses and leaves Recess (R414); a weight-cache group's lines are
invalidated (R410). -/
def State.takeTarget (s : State) (t : Word) : State :=
  match targetType t with
  | 0 => ((benchCells (targetBench t)).foldl (fun u c => u.modCell c fun x => { x with paused := true }) s).modBench
      (targetBench t) Bench.toActive
  | 1 => s.modDie (targetUnit t) fun D => { D with wc := eraseKeys D.wc fun q => decide (q / 256 = fldN t 2 6) }
  | _ => s

/-- A slice gives its target back (R414, R418, R419): what was saved is restored, and the cells resume, after a reset that came meanwhile; a bench
woken from Recess returns to it. -/
def State.releaseTarget (s : State) (x : Slice) : State :=
  let t := x.target
  let s0 := match x.saved with
    | some base => s.restoreBench t base
    | none => s
  let s1 := if targetType t = 0 then
      ((benchCells (targetBench t)).foldl (fun u c => u.modCell c fun y =>
        let z := if y.resetDue then y.formReset else y
        { z with paused := false }) s0).modBench (targetBench t) (if x.woke then Bench.toRecess else id)
    else s0
  { s1 with power := { s1.power with grantedMw := s1.power.grantedMw - sliceMw t } }

/-- The governor has a slice's power to grant: the latest sample and what was granted since leave room below the ceiling
(R37, R401, R413; log 148). -/
def Power.headroom (w : Power) (t : Word) : Bool := decide (w.inputMw + w.newMw + sliceMw t ≤ 1000 * w.ceiling)

/-- Every slot buffer and queue of a cell is empty (R410). -/
def Cell.storageEmpty (x : Cell) : Bool :=
  (x.slots.all fun e => e.2.buf.isEmpty) && x.queues.all fun e => e.2.entries.isEmpty

/-- SLICE_GRANT (R401, R413-R417): the oldest slice of the target that waits takes its power and its target, and saves what
it tests of a bench in a form; `g.bad` names the words that Save reads as double-bit errors. -/
def execSliceGrant (g : SliceStart) (s : State) : Res :=
  let t := g.target
  let waits (x : Slice) : Bool := decide (x.target = t) && !x.granted
  if (s.hub.services.slices.any waits) && s.sliceFree t && s.power.headroom t then
    let woke := decide (targetType t = 0) && decide ((s.bench (targetBench t)).mode = .recess)
    let base := if targetType t = 0 then (s.benchForm (targetBench t)).map (s.saveBase (targetUnit t)) else none
    let empty := (benchCells (targetBench t)).all fun c => (s.cell c).storageEmpty
    let s0 := s.takeTarget t
    let s1 := (match base with
      | some a => s0.save t a g.bad
      | none => s0).modServices fun v =>
      { v with slices := modSlice waits (fun x => { x with granted := true, woke := woke, saved := base, empty := empty }) v.slices }
    .next { s1 with power := { s1.power with grantedMw := s1.power.grantedMw + sliceMw t, newMw := s1.power.newMw + sliceMw t } }
  else .next s

/-! ## Exam periods (R272, R412) -/

/-- A slice of the rotation. -/
def Slice.rota (x : Slice) : Bool := x.cmd.isNone && !x.reexam

/-- Slices of the last period that have not ended are late: those begun end without a result (R273, R418). -/
def State.lateSlices (s : State) : State :=
  let due := s.hub.services.slices.filter fun x => x.rota && !x.late
  let s1 := due.foldl (fun u x => (u.countLate 2).modRec x.target fun y => { y with result := 3 }) s
  s1.modServices fun v => { v with slices := (v.slices.filter fun x => !(x.rota && !x.granted)).map fun x =>
    if x.rota then { x with late := true } else x }

/-- The targets of exam period k on a die, and for the device (R412). -/
def dieSlices (d k : Nat) : List Word :=
  let j := k / 8 % 12
  [benchTarget (24 * d + 2 * j) (k % 8), benchTarget (24 * d + 2 * j + 1) (k % 8), wcTarget d (k % 64),
   (privList d).getD (k % 131) 0]
def hubSlice (k : Nat) : Word := hubList.getD (k % 19) 0

/-- EXAM_TIMER (R272, R412, R423): the period's slices, of the types that the policy enables, on the dies that are
up. -/
def execExamTimer (s : State) : Res :=
  if s.power.state = .recovery then .next s
  else
    let k := look 0 s.hub.services.numbers 2
    let s1 := (s.servicePeriod 2 103).lateSlices
    let ts := ((List.range 4).filter fun d => decide ((s1.die d).mode = .up)).flatMap (dieSlices · k) ++ [hubSlice k]
    let on := ts.filter fun t => bit s1.hub.services.policy (targetType t)
    .next (s1.modServices fun v => { v with slices := v.slices ++ on.map fun t => { target := t } })

/-! ## The end of a slice (R414, R419, R421-R423) -/

/-- An EXAM_RUN of a ring with no slice left is replied to, with its target's record (R423). -/
def State.finishExams (s : State) : State :=
  (s.runningCmds fun c => decide (c.opcode = 0x0702)).foldl (fun u e =>
    let full := decide (e.2.par 32 1 = 1)
    let t : Word := BitVec.ofNat 32 (e.2.par 0 32)
    if u.hub.services.slices.any fun x => decide (x.cmd.map Fin.val = some e.1) && (full || decide (x.target = t)) then u
    else u.reply e.1 e.2 0 0 (if full then [] else (u.examRec t).bytes t)) s

/-- The slice that holds a target, taken off the list. -/
def dropSlice (t : Word) : List Slice → List Slice
  | [] => []
  | x :: l => if x.granted && decide (x.target = t) then l else x :: dropSlice t l

/-- The slice that holds a target ends: its target is back in service, `f` records what it found unless it is
late, and a command may complete. -/
def State.endSlice (s : State) (t : Word) (f : Slice → State → State) : State :=
  match s.hub.services.slices.find? fun x => x.granted && decide (x.target = t) with
  | none => s
  | some x =>
    let s1 := (s.releaseTarget x).modServices fun v => { v with slices := dropSlice t v.slices }
    State.finishExams (if x.late then s1 else f x s1)

/-- EXAM_SLICE_COMPLETE (R414, R421, R422). -/
def execExamSliceComplete (t : Word) (rs : List ExamOutcome) (s : State) : Res :=
  if s.examHolds t = false then .next s
  else
    .next ((s.assertAt 3 8).endSlice t fun x u =>
      let u1 := u.examOutcomes t x.empty rs
      if x.reexam && (examFound t x.empty rs).any fun o => !o.ok then
        u1.modServices fun v => { v with reexamBad := insNat (targetUnit t) v.reexamBad }
      else u1)

/-- SLICE_BUDGET_EXPIRY (R419): a privileged slice that reaches 40 µs ends with a late result. -/
def execSliceBudgetExpiry (t : Word) (s : State) : Res :=
  if s.examHolds t ∧ 2 ≤ targetType t ∧ targetType t ≤ 4 then
    .next (s.endSlice t fun _ u => (u.countLate 2).modRec t fun y => { y with result := 3 })
  else .next s

/-! ## Commands (R423, R424) -/

/-- The parameters of ExamResults that are out of range (R423). -/
def badExamResults (c : PendCmd) : Option Nat :=
  let n := (typeTargets (c.par 0 4)).length
  lowest [firstBad [(0, decide (6 < c.par 0 4)), (16, decide (n ≤ c.par 16 16)),
    (32, decide (c.par 32 16 < 1 ∨ 1024 < c.par 32 16 ∨ n < c.par 16 16 + c.par 32 16))], c.rsv 4 12, c.rsv 48 16]

/-- EXAM_RESULTS (R421, R423). -/
def execExamResults (r : RingIx) (s : State) : Res :=
  s.runCmd r 0x0701 anyState badExamResults fun c t =>
    t.reply r c 0 0 ((((typeTargets (c.par 0 4)).drop (c.par 16 16)).take (c.par 32 16)).flatMap fun x => (t.examRec x).bytes x)

/-- Why EXAM_RUN refuses a target (R424), on a ring of a partition with these dies. -/
def State.examRefused (s : State) (own : Option (BitVec 4)) (t : Word) : Option Nat :=
  firstBad [(1, s.dieDown t && !s.power.standby), (2, isEscape t && !s.escapeFree t),
    (3, s.power.standby && decide (targetUnit t ≠ 4)),
    (4, match own with
      | some m => decide (targetUnit t = 4) || !bit m (targetUnit t)
      | none => false)]

/-- The parameters of ExamRun that are out of range (R423). -/
def badExamRun (c : PendCmd) : Option Nat :=
  lowest [firstBad [(0, decide (c.par 32 1 = 0) && !isTarget (BitVec.ofNat 32 (c.par 0 32)))], c.rsv 33 31]

/-- EXAM_RUN (R413-R420, R423, R424): its slices run outside the rotation. A full exam takes the targets that it
may examine; on rings 1-3 those of the partition's own dies. -/
def execExamRun (r : RingIx) (s : State) : Res :=
  s.runCmd r 0x0702 anyState badExamRun fun c t =>
    let own : Option (BitVec 4) := if 1 ≤ r.val ∧ r.val ≤ 3 then some (t.part r.val).dies else none
    let add (ts : List Word) : State := t.modServices fun v => { v with slices := addSlices ts (fun x => { target := x, cmd := some r }) v.slices }
    if c.par 32 1 = 1 then
      State.finishExams (add (t.fullExam.filter fun x => (t.examRefused own x).isNone))
    else
      let x : Word := BitVec.ofNat 32 (c.par 0 32)
      match t.examRefused own x with
      | some n => t.reply r c 0x0701 n []
      | none => add [x]

/-- EXAM_POLICY (R423). -/
def execExamPolicy (r : RingIx) (s : State) : Res :=
  s.runCmd r 0x0703 anyState (fun c => c.rsv 7 25) fun c t =>
    (t.modServices fun v => { v with policy := BitVec.ofNat 7 (c.par 0 7) }).ok r c

end Sys2Proof.Machine
end

