-- ==== Sys2Proof/Machine/Mesh.lean ====
section
/-! DEFINITION. Mesh routes, their rotas, and the consumer's pop of a queue (R28-R30, R34, R45, R48, R178, R333). -/

namespace Sys2Proof.Machine

/-! ## Rotas that do not pass by themselves (R29, R178) -/

/-- An owner whose declared count is reached hands over pass tokens (R178): the turn goes on to the next owner that has
data still to hand over. -/
def Rota.pass (t : TtRec) : Nat → Rota → Rota
  | 0, r => r
  | fuel + 1, r =>
    if ttCount t r.turn ≤ look 0 r.given r.turn then Rota.pass t fuel { r with turn := (r.turn + 1) % max 1 (ttNown t) }
    else r

/-- Owner entry `k` hands over data: at its turn, or at once where it is the only owner (R29). `none`: it waits. -/
def Rota.cross (t : TtRec) (k : Nat) (r : Rota) : Option Rota :=
  let x := r.pass t (ttNown t)
  if ttNown t ≤ 1 then some { x with given := alter 0 x.given k fun n => n + 1 }
  else if x.turn = k ∧ look 0 x.given k < ttCount t k then
    some { turn := (k + 1) % ttNown t, given := alter 0 x.given k fun n => n + 1 }
  else none

/-! ## Routes (R48) -/

/-- The resources that the route from X queue `x` of a cell crosses: the timetable's records that list it, in record
order, with its owner entry in each (R333; DESIGN CHOICE, log 16: the manual gives a route's hops no order). -/
def Partition.routeHops (P : Partition) (c x : Nat) : List (Nat × Nat) :=
  P.image.timetable.zipIdx.flatMap fun e =>
    if ttDeclared e.1 && decide (ttDie e.1 = dieOf c) then
      match (ttOwners e.1).idxOf? (4 * (c % 384) + x) with
      | some k => [(e.2, k)]
      | none => []
    else []

/-- An entry of a route that stands at place `k` crosses the next resource, if its rota lets it. -/
def State.crossHop (s : State) (p : Nat) (hops : List (Nat × Nat)) (k : Nat) : Option State :=
  let h := hops.getD k (0, 0)
  let P := s.part p
  ((look {} P.period.rotas h.1).cross (P.image.timetable.getD h.1 0) h.2).map fun r =>
    s.modPart p fun P => { P with period := { P.period with rotas := put {} P.period.rotas h.1 r } }

/-- The entries on a route go on, the foremost first: past the last resource into the far queue, once it has a free
entry (R46), else past the next resource, where no entry stands behind it. `acc` holds those done, foremost first. -/
def State.moveEntries (p : Nat) (hops : List (Nat × Nat)) (far : Nat × Nat) :
    List (Nat × Entry) → List (Nat × Entry) → State → List (Nat × Entry) × State
  | [], acc, s => (acc, s)
  | (k, e) :: l, acc, s =>
    if hops.length ≤ k then
      let q := (s.cell far.1).queue (8 + far.2)
      if q.waiting.isEmpty ∧ q.entries.length < queueDepth (8 + far.2) then
        State.moveEntries p hops far l acc (s.modCell far.1 fun x => x.push (8 + far.2) e)
      else State.moveEntries p hops far l (acc ++ [(k, e)]) s
    else if acc.any fun a => decide (a.1 = k + 1) then State.moveEntries p hops far l (acc ++ [(k, e)]) s
    else
      match s.crossHop p hops k with
      | some t => State.moveEntries p hops far l (acc ++ [(k + 1, e)]) t
      | none => State.moveEntries p hops far l (acc ++ [(k, e)]) s

/-- The far end of the route whose source is X queue `x` of a cell, in the same partition (R34, R48; log 52). -/
def State.farEnd (s : State) (c x : Nat) : Option (Nat × Nat) :=
  match Config.routeEnd (s.part (s.cellPart c)).image.timetable c x with
  | some far => if s.partOf (dieOf far.1) = s.partOf (dieOf c) then some far else none
  | none => none

/-- A mesh route takes one step (R45, R48): its entries go on, and the oldest entry of its source's producer end sets
out. A producer end that is the source of no route keeps its entries (R48). -/
def State.routeStep (s : State) (c x : Nat) : State :=
  let p := s.cellPart c
  let hops := (s.part p).routeHops c x
  match hops, s.farEnd c x with
  | _ :: _, some far =>
    let key := 4 * c + x
    let m := State.moveEntries p hops far (look [] (s.part p).period.hops key) [] s
    let keep (l : List (Nat × Entry)) (t : State) : State :=
      t.modPart p fun P => { P with period := { P.period with hops := put [] P.period.hops key l } }
    match (m.2.cell c).pop (20 + x) with
    | some (e, y) =>
      if m.1.any fun a => decide (a.1 = 1) then keep m.1 m.2
      else
        match m.2.crossHop p hops 0 with
        | some t => keep (m.1 ++ [(1, e)]) (t.setCell c y)
        | none => keep m.1 m.2
    | none => keep m.1 m.2
  | _, _ => s

/-- A route waits at a rota's turn of another owner (R30): the route's source and where it waits, a timetable record. -/
def State.stalledAt (s : State) (c x : Nat) : Option Nat :=
  let p := s.cellPart c
  let P := s.part p
  let hops := P.routeHops c x
  let at? (k : Nat) : Option Nat :=
    match hops[k]? with
    | some h => if (s.crossHop p hops k).isNone then some h.1 else none
    | none => none
  match ((look [] P.period.hops (4 * c + x)).map Prod.fst).findSome? at? with
  | some r => some r
  | none => if ((s.cell c).queue (20 + x)).entries.isEmpty then none else at? 0

/-- QUEUE_POP (R45): the oldest entry leaves to the queue's consumer. From an X producer end it leaves by its mesh
route, which takes a step (R48). With `out`, the entry of a Y queue leaves the cell by the route of that X queue, once
its producer end takes it (R45). -/
def execQueuePop (c : CellIx) (q : QueueIx) (out : Option (Fin 4)) (s : State) : Res := s.onCell c <|
  if 20 ≤ q.val then .next (s.routeStep c (q.val - 20))
  else
    match out with
    | some x =>
      if 16 ≤ q.val ∧ ((s.cell c).queue (20 + x.val)).waiting.isEmpty ∧
          ((s.cell c).queue (20 + x.val)).entries.length < queueDepth (20 + x.val) then
        match s.popOut c q with
        | some (e, t) => .next (t.modCell c fun y => y.push (20 + x.val) e)
        | none => .next s
      else .next s
    | none =>
      match s.consume c q with
      | some (_, t) => .next t
      | none => .next s

end Sys2Proof.Machine
end

