-- ==== Sys2Proof/Machine/Rows.lean ====
section
/-! DEFINITION. The row engine (R189-R194, R227). -/

namespace Sys2Proof.Machine

/-! ## Starting, parameters, side memory (R190) -/

/-- ROW (R144): the row engine takes up its next operation in issue order and seeds its lanes (R86). -/
def execRow (c : CellIx) (s : State) : Res := s.onCell c <|
  let x := s.cell c
  match x.rowRun, x.rwork with
  | none, op :: rest =>
    .next ((s.seedLanes c 192 op.desc.pass).modCell c fun y => { y with rwork := rest, rowRun := some { op := op } })
  | _, _ => .next s

/-- V: vectors per row (R190), and r of R227. -/
def Op.rowV (op : Op) : Nat := (truncClamp 1 32 1 op.s1).toNat
/-- The mode; a NaN is a mode that no function defines (log 31). -/
def Op.rowMode (op : Op) : Int := truncClamp (-2147483648) 2147483647 (-1) op.s3
/-- Vectors on IN0 and whole rows. -/
def Op.rowN (op : Op) : Nat := vecCount op.desc.steps op.desc.fmtA
def Op.rows (op : Op) : Nat := op.rowN / op.rowV

/-- The two statistics of a side-memory entry (R64, R190). -/
def Cell.stats (x : Cell) (i : Nat) : F32 × F32 :=
  (fld (look 0 x.side (i % 2048)) 0 32, fld (look 0 x.side (i % 2048)) 32 32)

/-- Write a side-memory entry; a statistic that carries poison is the canonical NaN (R119). -/
def Cell.putStats (i : Nat) (a : F32 × Bool) (b : F32 × Bool) (x : Cell) : Cell :=
  let v (p : F32 × Bool) : Nat := if p.2 then 0x7FC00000 else p.1.toNat
  { x with side := put 0 x.side (i % 2048) (BitVec.ofNat 64 (v a + v b * 2 ^ 32)) }

/-- An FP32 element on its way through the row engine. -/
structure RElem where
  v      : F32
  poison : Bool
  deriving DecidableEq, Repr

/-- Inputs convert to FP32 first (R189). -/
def toRow (es : List InElem) : List RElem := es.map fun e => ⟨rne32 e.val, e.poison⟩

def anyPoison (l : List RElem) : Bool := l.any RElem.poison
def nan32 : F32 := 0x7FC00000

/-- A row's elements from values, every lane with the same poison (R119). -/
def allLanes (p : Bool) (vs : List F32) : List RElem := vs.map fun v => ⟨v, p⟩

/-- What a row gives: its elements, and what becomes of the cell's side memory. -/
structure RowOut where
  elems : List RElem
  side  : Cell → Cell := id

/-! ## Softmax (R191, R192) -/

/-- Sums in element order. -/
def sum32 (l : List F32) : F32 := l.foldl add32 0

/-- The exact maximum of a list (R191). -/
def maxAll : List F32 → F32
  | [] => 0
  | a :: l => l.foldl max32 a

/-- Softmax forward, one row (R191). -/
def softmaxRow (x : Cell) (op : Op) (row : Nat) (a b : List RElem) : RowOut :=
  let base := op.desc.smbase
  let tau := op.s2
  let pa := anyPoison a
  match op.rowMode with
  | 0 =>
    let t := a.map fun e => mul32 tau e.v
    let m := maxAll t
    let q := t.map fun u => exp32 (sub32 u m)
    let k := rcp32 (sum32 q)
    { elems := allLanes pa (q.map fun u => mul32 u k), side := Cell.putStats (base + row) (m, pa) (sum32 q, pa) }
  | 1 =>
    if !(f32Val 0).lt (f32Val tau) || decide (64 < op.rows) then { elems := a.map fun e => ⟨nan32, e.poison⟩ }
    else
      let m := mul32 tau (maxAll ((List.range op.rowV).map fun v => (x.stats (base + 64 * v + row)).1))
      let q := a.map fun e => (⟨exp32 (sub32 (mul32 tau e.v) m), e.poison⟩ : RElem)
      { elems := q, side := Cell.putStats (base + row) (m, false) (sum32 (q.map RElem.v), pa) }
  | 2 =>
    let sm := x.stats (base + row)
    let sb := x.stats (base + 1024 + row)
    let m1 := max32 sm.1 sb.1
    let al := exp32 (sub32 sm.1 m1)
    let be := exp32 (sub32 sb.1 m1)
    { elems := List.zipWith (fun o u => ⟨fma32 o.v al (mul32 u.v be), o.poison || u.poison⟩) a b
      side := Cell.putStats (base + row) (m1, false) (fma32 sm.2 al (mul32 sb.2 be), false) }
  | 3 =>
    let l := rcp32 (x.stats (base + row)).2
    { elems := a.map fun e => ⟨mul32 e.v l, e.poison⟩ }
  | _ => { elems := a.map fun e => ⟨nan32, e.poison⟩ }

/-- Softmax backward, one row (R192). -/
def softmaxBackRow (x : Cell) (op : Op) (row : Nat) (a b : List RElem) : RowOut :=
  let sm := x.stats (op.desc.smbase + row)
  let tau := op.s2
  let ps : Option (List F32) := match op.rowMode with
    | 0 => some (a.map RElem.v)
    | 1 => some (a.map fun e => mul32 (exp32 (sub32 (mul32 tau e.v) sm.1)) (rcp32 sm.2))
    | _ => none
  let bad := anyPoison a || anyPoison b
  match ps with
  | none => { elems := allLanes bad (a.map fun _ => nan32) }
  | some p =>
    let dp := b.map RElem.v
    let d := (p.zip dp).foldl (fun acc e => fma32 e.1 e.2 acc) 0
    { elems := allLanes bad (List.zipWith (fun u v => mul32 tau (mul32 u (sub32 v d))) p dp) }

/-! ## Normalisation (R193, R194) -/

/-- Normalisation forward, one row (R193). -/
def normRow (op : Op) (row : Nat) (a g b : List RElem) : RowOut :=
  let bad := anyPoison a || anyPoison g || anyPoison b
  let xs := a.map RElem.v
  let cn := rcp32 (f32OfNat xs.length)
  let go (mu : F32) (pmu : Bool) : RowOut :=
    let d := xs.map fun v => sub32 v mu
    let s2 := d.foldl (fun acc v => fma32 v v acc) 0
    let r := rsqrt32 (add32 (mul32 s2 cn) op.s2)
    { elems := allLanes bad ((d.zip (g.zip b)).map fun e => fma32 (mul32 e.1 r) e.2.1.v e.2.2.v)
      side := Cell.putStats (op.desc.smbase + row) (mu, pmu) (r, anyPoison a) }
  match op.rowMode with
  | 0 => go (mul32 (sum32 xs) cn) (anyPoison a)
  | 1 => go 0 false
  | _ => { elems := allLanes bad (a.map fun _ => nan32) }

/-- h of R194. -/
def normH (x : Cell) (op : Op) (row : Nat) (a : List RElem) : List RElem :=
  let sm := x.stats (op.desc.smbase + row)
  a.map fun e => ⟨mul32 (sub32 e.v sm.1) sm.2, e.poison⟩

/-- Normalisation backward in modes 0 and 1, and in an undefined mode, one row (R194). -/
def normBackRow (x : Cell) (op : Op) (row : Nat) (a b g : List RElem) : RowOut :=
  let bad := anyPoison a || anyPoison b || anyPoison g
  if op.rowMode = 0 ∨ op.rowMode = 1 then
    let r := (x.stats (op.desc.smbase + row)).2
    let h := (normH x op row a).map RElem.v
    let k := List.zipWith (fun u v => mul32 u.v v.v) b g
    let cn := rcp32 (f32OfNat a.length)
    let sa := if op.rowMode = 0 then sum32 k else 0
    let sb := (k.zip h).foldl (fun acc e => fma32 e.1 e.2 acc) 0
    let ma := mul32 sa cn
    let mb := mul32 sb cn
    { elems := allLanes bad (List.zipWith (fun u v => mul32 r (sub32 (sub32 u ma) (mul32 v mb))) k h) }
  else { elems := allLanes bad (a.map fun _ => nan32) }

/-- The sums of dγ and dβ after one more row (R194, modes 2 and 3). -/
def normSums (x : Cell) (op : Op) (row : Nat) (a b : List RElem) (dg db : List LVal) : List LVal × List LVal :=
  let h := normH x op row a
  let n := a.length
  ((padTo n (lval 0 false) dg).zip (b.zip h) |>.map fun e =>
      lval (fma32 e.2.1.v e.2.2.v (e.1.bits.setWidth 32)).toNat (e.1.poison || e.2.1.poison || e.2.2.poison),
   (padTo n (lval 0 false) db).zip b |>.map fun e =>
      lval (add32 (e.1.bits.setWidth 32) e.2.v).toNat (e.1.poison || e.2.poison))

/-! ## Running a row -/

/-- The outputs of a ROW operation have no push waiting. -/
def Cell.rowClear (x : Cell) (d : Desc) : Bool := x.clear d.out0 && x.clear d.out1

/-- Push result vectors in format `fmt` with an output scale of 0x7F (R190); `crossed`: also in cross packing
on OUT1. -/
def State.rowPush (c : Nat) (op : Op) (fmt : Nat) (crossed : Bool) : List (List RElem) → State → OutBuf → State × OutBuf
  | [], s, o => (s, o)
  | v :: vs, s, o =>
    let g := (s.cell c).draw 192 1
    let r := o.add fmt crossed (convertOut fmt op.desc.ornd 127 g.1 (v.map fun e => ⟨f32Val e.v, e.poison⟩))
    State.rowPush c op fmt crossed vs (s.setCell c ((g.2.pushAll op.desc.out0 r.1).pushAll op.desc.out1 r.2.1)) r.2.2

/-- An input of a row: its queue and format, and whether its vectors are counted as n (R440). -/
structure RowIn where
  queue  : Nat
  fmt    : Nat
  counted : Bool
  deriving DecidableEq, Repr

/-- The inputs of a ROW operation (R440): IN0, IN1 and IN2 where they are read. -/
def Desc.rowIns (d : Desc) (mode : Int) : Option RowIn × Option RowIn × Option RowIn :=
  let i0 : RowIn := ⟨d.in0, d.fmtA, true⟩
  let named2 : Option RowIn := if named d.in2 then some ⟨d.in2, d.fmtB, false⟩ else none
  match d.func with
  | 1 => (some i0, if mode = 2 then some ⟨d.in1, d.fmtB, true⟩ else none, none)
  | 2 => (some i0, some ⟨d.in1, d.fmtB, true⟩, none)
  | 3 => (some i0, some ⟨d.in1, d.fmtB, false⟩, named2)
  | _ => (some i0, some ⟨d.in1, d.fmtB, true⟩, named2)

/-- Pull `n` vectors of an input. -/
def State.rowPull (s : State) (c : Nat) (op : Op) (i : Option RowIn) (n : Nat) (buf : List InByte) :
    List InByte × State × Bool :=
  match i with
  | none => (buf, s, true)
  | some i =>
    let p := s.pull c op i.queue i.fmt (n * vecSize i.fmt) 32 buf
    (p.1, p.2, decide (n * vecSize i.fmt ≤ p.1.length))

/-- The elements of `n` vectors of an input; +0 throughout for one that names no queue, also where R440 requires one in
the mode of the moment (DESIGN CHOICE, log 157), or is not read. -/
def rowElems (i : Option RowIn) (n : Nat) (buf : List InByte) : List RElem :=
  match i with
  | some i => toRow (elemsIn i.fmt (64 * n) buf)
  | none => List.replicate (64 * n) ⟨0, false⟩

/-- A buffer without `n` vectors of an input. -/
def rowDrop (i : Option RowIn) (n : Nat) (buf : List InByte) : List InByte :=
  match i with
  | some i => buf.drop (n * vecSize i.fmt)
  | none => buf

/-- Inputs counted as n, whose vectors after the last whole row are discarded (R190). -/
def countedOnly (i : Option RowIn) : Option RowIn :=
  match i with
  | some r => if r.counted then some r else none
  | none => none

/-- The operation ends once its last result has been pushed (R141). -/
def State.rowEnd (s : State) (c : Nat) (r : RowRun) (ended : Bool) : State :=
  if ended ∧ (s.cell c).rowClear r.op.desc then
    (s.modCell c fun x => { x with rowRun := none }).modSeq c (Seq.opDone r.op.id)
  else s.modCell c fun x => { x with rowRun := some r }

/-- One row of the active operation by `work`, which answers the row's result or the new sums; then the
vectors after the last whole row; then the sums of dγ and dβ; then the end. -/
def State.rowStep (s : State) (c fn : Nat)
    (work : Cell → RowRun → List RElem → List RElem → List RElem → RowOut × List LVal × List LVal) : State :=
  match (s.cell c).rowRun with
  | none => s
  | some r =>
    let op := r.op
    let d := op.desc
    if d.func ≠ fn ∨ (s.cell c).rowClear d = false then s
    else
      let ins := d.rowIns op.rowMode
      let sums := decide (fn = 4) && (decide (op.rowMode = 2) || decide (op.rowMode = 3))
      if r.row < op.rows then
        let v := op.rowV
        let p0 := s.rowPull c op ins.1 v r.buf0
        let p1 := p0.2.1.rowPull c op ins.2.1 v r.buf1
        let p2 := p1.2.1.rowPull c op ins.2.2 v r.buf2
        if p0.2.2 && p1.2.2 && p2.2.2 then
          let w := work (p2.2.1.cell c) r (rowElems ins.1 v p0.1) (rowElems ins.2.1 v p1.1) (rowElems ins.2.2 v p2.1)
          let s1 := p2.2.1.modCell c w.1.side
          let last := decide (r.row + 1 = op.rows)
          let t := if sums then (s1, r.outs)
            else State.rowPush c op d.ofmt (named d.out1 && !(fn == 1 && op.rowMode == 2)) (chunksOf 64 v w.1.elems) s1 r.outs
          let tail := if last then t.2.flush d.ofmt else []
          (t.1.modCell c (Cell.pushAll d.out0 tail)).rowEnd c
            { r with row := r.row + 1, buf0 := rowDrop ins.1 v p0.1, buf1 := rowDrop ins.2.1 v p1.1
                     buf2 := rowDrop ins.2.2 v p2.1, dg := w.2.1, db := w.2.2
                     outs := if last then {} else t.2 }
            (last && op.rowN == op.rows * v && !sums)
        else p2.2.1.rowEnd c { r with buf0 := p0.1, buf1 := p1.1, buf2 := p2.1 } false
      else
        let left := op.rowN - op.rows * op.rowV
        let p0 := s.rowPull c op (countedOnly ins.1) left r.buf0
        let p1 := p0.2.1.rowPull c op (countedOnly ins.2.1) left r.buf1
        if (p0.2.2 && p1.2.2) = false then p1.2.1.rowEnd c { r with buf0 := p0.1, buf1 := p1.1 } false
        else if sums && !r.pushed then
          let vs (l : List LVal) : List (List RElem) :=
            chunksOf 64 op.rowV ((padTo (64 * op.rowV) (lval 0 false) l).map fun e => ⟨e.bits.setWidth 32, e.poison⟩)
          let t := State.rowPush c op 4 false (vs r.dg ++ if op.rowMode = 2 then vs r.db else []) p1.2.1 {}
          t.1.rowEnd c { r with buf0 := p0.1, buf1 := p1.1, pushed := true } true
        else p1.2.1.rowEnd c { r with buf0 := p0.1, buf1 := p1.1 } true

/-- SOFTMAX_FORWARD (R191): one row. -/
def execSoftmaxForward (c : CellIx) (s : State) : Res := s.onCell c <|
  .next (s.rowStep c 1 fun x r a b _ => (softmaxRow x r.op r.row a b, [], []))

/-- SOFTMAX_BACKWARD (R192): one row. -/
def execSoftmaxBackward (c : CellIx) (s : State) : Res := s.onCell c <|
  .next (s.rowStep c 2 fun x r a b _ => (softmaxBackRow x r.op r.row a b, [], []))

/-- NORMALISATION_FORWARD (R193): one row. -/
def execNormalisationForward (c : CellIx) (s : State) : Res := s.onCell c <|
  .next (s.rowStep c 3 fun _ r a g b => (normRow r.op r.row a g b, [], []))

/-- NORMALISATION_BACKWARD (R194): one row; after the last, in modes 2 and 3, the parameter gradients. -/
def execNormalisationBackward (c : CellIx) (s : State) : Res := s.onCell c <|
  .next (s.rowStep c 4 fun x r a b g =>
    if r.op.rowMode = 2 ∨ r.op.rowMode = 3 then
      let t := normSums x r.op r.row a b r.dg r.db
      ({ elems := [] }, t.1, t.2)
    else (normBackRow x r.op r.row a b g, [], []))

/-! ## Orthonormalisation (R227) -/

/-- A matrix of up to 32 × 32 FP32 values, +0 where nothing is listed, keyed 32 i + j. -/
abbrev Mat := SMap F32
def Mat.at (m : Mat) (i j : Nat) : F32 := look 0 m (32 * i + j)
def Mat.set (m : Mat) (i j : Nat) (v : F32) : Mat := put 0 m (32 * i + j) v

/-- The exact negation of a value, rounded (R75). -/
def negate32 (a : F32) : F32 := rne32 (f32Val a).neg

/-- One row j of the Cholesky factor: the factor, the columns dropped, the least pivot. -/
def cholRow (a : Mat) (r : Nat) (eps : F32) (st : Mat × Nat × F32) (j : Nat) : Mat × Nat × F32 :=
  let dot (c : Nat) (t0 : F32) : F32 :=
    (List.range j).foldl (fun t k => fma32 (negate32 (Mat.at st.1 k j)) (Mat.at st.1 k c) t) t0
  let d := dot j (Mat.at a j j)
  if (f32Val eps).lt (f32Val d) then
    let q := rsqrt32 d
    let pmin := if (f32Val d).lt (f32Val st.2.2) then d else st.2.2
    ((List.range r).foldl (fun m c =>
        if c < j then m else if c = j then Mat.set m j j (mul32 d q)
        else Mat.set m j c (mul32 (dot c (Mat.at a j c)) q)) st.1, st.2.1, pmin)
  else (st.1, st.2.1 + 1, st.2.2)

/-- Column j of the inverse T. -/
def invCol (rm : Mat) (t : Mat) (j : Nat) : Mat :=
  let zero (i : Nat) : Bool := (f32Val (Mat.at rm i i)).eq .zero
  if zero j then t
  else
    (List.range j).reverse.foldl (fun m i =>
      if zero i then m
      else
        let v := (List.range (j - i)).foldl (fun acc k =>
          fma32 (Mat.at rm i (i + 1 + k)) (Mat.at m (i + 1 + k) j) acc) 0
        Mat.set m i j (negate32 (mul32 v (Mat.at m i i)))) (Mat.set t j j (rcp32 (Mat.at rm j j)))

/-- The inverse T, the dropped columns and the least pivot of a matrix of rank r (R227). -/
def orthonormalise (a : Mat) (r : Nat) (eps : F32) : Mat × Nat × F32 :=
  let c := (List.range r).foldl (cholRow a r eps) ([], 0, 0x7F800000)
  ((List.range r).foldl (invCol c.1) [], c.2)

/-- The matrix of an orthonormalisation: element (i, j) is lane j of vector i (R227). -/
def gramOf (n : Nat) (es : List RElem) : Mat :=
  (List.range n).foldl (fun m i => (List.range n).foldl (fun m j =>
    Mat.set m i j ((es.getD (64 * i + j) ⟨0, false⟩).v)) m) []

/-- The vectors of T that an orthonormalisation gives (R227); NaN in a mode it does not define. -/
def orthoVectors (n : Nat) (known bad : Bool) (t : Mat) : List (List RElem) :=
  (List.range n).map fun i => allLanes bad ((List.range 64).map fun l =>
    if !known then nan32 else if l < n then Mat.at t i l else 0)

/-- An orthonormalisation whose vectors have not all come takes what has; else it computes T, pushes it and
writes its statistics (R227). -/
def State.orthoOne (s : State) (c : Nat) (r : RowRun) : State :=
  let op := r.op
  let d := op.desc
  let n := op.rowV
  let p := s.rowPull c op (some ⟨d.in0, 4, true⟩) (max n (d.steps / 2)) r.buf0
  if p.2.2 then
    let es := toRow (elemsIn 4 (64 * n) p.1)
    let bad := anyPoison es
    let t := orthonormalise (gramOf n es) n op.s2
    let known := decide (op.rowMode = 0)
    let w := State.rowPush c op d.ofmt false (orthoVectors n known bad t.1) p.2.1 {}
    let s1 := w.1.modCell c (Cell.pushAll d.out0 (w.2.flush d.ofmt))
    let s2 := if known then s1.modCell c (Cell.putStats d.smbase (f32OfNat t.2.1, bad) (t.2.2, bad)) else s1
    s2.rowEnd c { r with buf0 := [], pushed := true } true
  else p.2.1.rowEnd c { r with buf0 := p.1 } false

/-- ORTHONORMALISATION (R227): the r vectors of the Gram matrix in, r vectors of T out; vectors after them
are discarded. -/
def execOrthonormalisation (c : CellIx) (s : State) : Res := s.onCell c <|
  match (s.cell c).rowRun with
  | none => .next s
  | some r =>
    if r.op.desc.func ≠ 5 ∨ (s.cell c).rowClear r.op.desc = false then .next s
    else if r.pushed then .next (s.rowEnd c r true)
    else .next (s.orthoOne c r)

end Sys2Proof.Machine
end

