-- ==== Sys2Proof/Machine/Scalars.lean ====
section
/-! DEFINITION. SCALAR operations: each cell's partial, and the combination over a form (R150, R162). -/

namespace Sys2Proof.Machine

/-- SCALAR (R144): the vector engine takes up its next operation, a SCALAR; the generators of lanes 128-191 are
seeded (R86). -/
def execScalar (c : CellIx) (s : State) : Res := s.onCell c <|
  let x := s.cell c
  match x.vec, x.scal, x.vwork with
  | none, none, op :: rest =>
    if op.desc.op = 5 then
      .next ((s.seedLanes c 128 op.desc.pass).modCell c fun y => { y with vwork := rest, scal := some { op := op } })
    else .next s
  | _, _, _ => .next s

/-- The elements that bytes hold, and the bytes of one that continues. -/
def scalElems (fmt : Nat) (bs : List InByte) : List InElem × List InByte :=
  let n := bs.length / elemSize fmt
  (elemsIn fmt n bs, bs.drop (n * elemSize fmt))

/-- One element of a reduction (R150). -/
def scalAdd (fn : Nat) (r : ScalRun) (e : InElem) : ScalRun :=
  let t := { r with any := true, taint := r.taint || e.poison }
  match fn with
  | 1 => { t with acc := rne40 ((w40Val r.acc).add e.val) }
  | 2 => { t with acc := rne40 ((w40Val r.acc).add (e.val.mul e.val)) }
  | 3 => { t with acc := rne40 (if r.any then (w40Val r.acc).max e.val else e.val) }
  | 4 => { t with acc := rne40 (if r.any then (w40Val r.acc).min e.val else e.val) }
  | 5 => { t with count := r.count + e.val.isNan.toNat }
  | _ => { t with count := r.count + e.val.isInf.toNat }

/-- Two partials combined, the first of lower form cell number (R150). -/
def scalJoin (fn : Nat) (a b : ScalPart) : ScalPart :=
  let t := { a with any := a.any || b.any, taint := a.taint || b.taint, count := a.count + b.count }
  match fn with
  | 1 | 2 => { t with acc := rne40 ((w40Val a.acc).add (w40Val b.acc)) }
  | 3 => { t with acc := if a.any && b.any then rne40 ((w40Val a.acc).max (w40Val b.acc)) else if b.any then b.acc else a.acc }
  | 4 => { t with acc := if a.any && b.any then rne40 ((w40Val a.acc).min (w40Val b.acc)) else if b.any then b.acc else a.acc }
  | _ => t

/-- The value of a combined reduction: FP32 to nearest even, NaN when a poisoned lane was consumed under
Propagate (R150). -/
def scalValue (fn : Nat) (p : ScalPart) : F32 :=
  if p.taint then 0x7FC00000 else if 5 ≤ fn then f32OfNat p.count else rne32 (w40Val p.acc)

/-- The form's SCALAR join of an operation. -/
def findJoin (f num : Nat) (l : List ScalJoin) : List ScalPart :=
  match l.find? fun j => decide (j.form = f ∧ j.num = num) with
  | some j => j.parts
  | none => []

/-- A cell's partial given; once every cell of the form has given its, every cell holds the value and the
operation is done in each (R150, R162). A register that a later FEATURE has written keeps FEATURE's value. -/
def State.givePartial (s : State) (c : Nat) (r : ScalRun) : State :=
  let p := s.cellPart c
  match s.formOf c with
  | none => s
  | some rcd =>
    let fn := r.op.desc.func
    let parts := findJoin rcd.num r.op.id (s.part p).period.scalars ++ [⟨c, r.acc, r.any, r.count, r.taint⟩]
    let others := (s.part p).period.scalars.filter fun j => !(j.form == rcd.num && j.num == r.op.id)
    let inOrder := rcd.cellList.filterMap fun k => parts.find? fun q => decide (q.cell = k)
    let s1 := s.modCell c fun x => { x with scal := some { r with given := true } }
    if inOrder.length < rcd.cellList.length then
      s1.modPart p fun P => { P with period := { P.period with scalars := ⟨rcd.num, r.op.id, parts⟩ :: others } }
    else
      let v := match inOrder with
        | q :: l => scalValue fn (l.foldl (scalJoin fn) q)
        | [] => 0
      let s2 := s1.modPart p fun P => { P with period := { P.period with scalars := others } }
      rcd.cellList.foldl (fun t k =>
        (t.modCell k fun x => { x with scal := none }).modSeq k fun q =>
          let k := r.op.desc.ssel 0
          { q with scalars := if look 0 q.feats k ≤ r.op.id then put 0 q.scalars k v else q.scalars }.opDone r.op.id) s2

/-- One entry of the active SCALAR operation when it is of function `fn`. -/
def State.scalStep (s : State) (c fn : Nat) : State :=
  match (s.cell c).scal with
  | none => s
  | some r =>
    let d := r.op.desc
    if d.func ≠ fn ∨ r.given then s
    else
      match s.consume c d.in0 with
      | none => s
      | some (e, t) =>
        let es := scalElems d.fmtA (r.buf ++ unpack d.fmtA e)
        let r1 := es.1.foldl (scalAdd fn) { r with done := r.done + 1, buf := es.2 }
        let t1 := t.consumePoison c r.op e 64
        if r1.done = d.steps then t1.givePartial c r1 else t1.modCell c fun x => { x with scal := some r1 }

/-- SCALAR_SUM (R150): one entry; sums by RNE40. -/
def execScalarSum (c : CellIx) (s : State) : Res := s.onCell c <| .next (s.scalStep c 1)

/-- SCALAR_SUM_OF_SQUARES (R150): one entry; exact squares summed by RNE40. -/
def execScalarSumOfSquares (c : CellIx) (s : State) : Res := s.onCell c <| .next (s.scalStep c 2)

/-- SCALAR_MAXIMUM (R150): one entry. -/
def execScalarMaximum (c : CellIx) (s : State) : Res := s.onCell c <| .next (s.scalStep c 3)

/-- SCALAR_MINIMUM (R150): one entry. -/
def execScalarMinimum (c : CellIx) (s : State) : Res := s.onCell c <| .next (s.scalStep c 4)

/-- NAN_COUNT (R150): one entry. -/
def execNanCount (c : CellIx) (s : State) : Res := s.onCell c <| .next (s.scalStep c 5)

/-- INFINITY_COUNT (R150): one entry. -/
def execInfinityCount (c : CellIx) (s : State) : Res := s.onCell c <| .next (s.scalStep c 6)

end Sys2Proof.Machine
end

