-- ==== Sys2Proof/Machine/Holds.lean ====
section
/-! DEFINITION. The hold bell: the member's answer, and deadlock records (R266, R271). -/

namespace Sys2Proof.Machine

/-! ## Whether work of the member's own is in flight -/

/-- A number as a cell. -/
def cellIx (c : Nat) : CellIx := ⟨c % 1536, Nat.mod_lt _ (by decide)⟩

/-- What a cell can do of itself. -/
def cellEvents (c : CellIx) : List (State → Res) :=
  [execDescriptorLoad c .clean, execDescriptorIssue c, execLoop c, execLoopExitSignal c, execBranch c, execSetCount c,
   execFeature c, execSkipPad c, execEndWalk c, execJoin c, execEngine c, execEngineStep c none, execDrain c,
   execDrainStart c, execVector c, execVecAdd c, execVecFma c, execConvert c, execDequant c, execSplitFp32 c,
   execSplitBf16 c, execOptim c, execRow c, execSoftmaxForward c, execSoftmaxBackward c] ++
  [execNormalisationForward c, execNormalisationBackward c, execOrthonormalisation c, execScalar c, execScalarSum c,
   execScalarSumOfSquares c, execScalarMaximum c, execScalarMinimum c, execNanCount c, execInfinityCount c] ++
  (List.finRange 4).flatMap (fun k => [execDescriptorComplete c k, execSlotTokenTake c k, execSlotBufferPush c k]) ++
  (List.finRange 12).flatMap fun st => [execStreamEntryStart c st [], execWriteStreamEntry c st]

/-- An event would change the cell. -/
def State.moves (s : State) (c : CellIx) (f : State → Res) : Bool :=
  match f s with
  | .next t => decide (t.cell c ≠ s.cell c)
  | _ => false

/-- Memory requests or writes of a stream that wait for this device's own memory. -/
def Stream.ownWork (x : Stream) : Bool :=
  (x.reqs.any fun r => match r.state with
    | .remote | .queued => false
    | _ => true) || !x.writes.isEmpty

/-- A cell's chain line is on its way into the weight cache (R134). -/
def State.chainComes (s : State) (c : Nat) : Bool := s.walking c && !s.chainCached c 64

/-- A mesh route of the cell can take a step. -/
def State.routesMove (s : State) (c : Nat) : Bool :=
  (List.range 4).any fun x =>
    let t := s.routeStep c x
    decide (t.cell c ≠ s.cell c) || decide ((t.part (s.cellPart c)).period.hops ≠ (s.part (s.cellPart c)).period.hops)

/-- A cell's work is in flight: it waits for its own memory, or something in it can move (log 39). -/
def State.cellWorks (s : State) (c : Nat) : Bool :=
  s.chainComes c || s.routesMove c || ((s.cell c).streams.any fun e => e.2.ownWork) || (cellEvents (cellIx c)).any fun f => s.moves (cellIx c) f

/-- Packets of the partition on their way in or out of this device. -/
def State.packetsMove (s : State) (p : Nat) : Bool :=
  (s.fabric.inject.any fun e => decide (e.part = p) && decide (fldN e.pkt.hdr 56 4 ≠ 6)) ||
  (s.fabric.delivered.any fun e => decide (e.1 = p) && decide (fldN e.2.hdr 56 4 ≠ 6))

/-- A run of the partition can start, complete, or send. -/
def State.runsMove (s : State) (p : Nat) : Bool :=
  (s.part p).dieList.any fun d =>
    ((s.die d).runs.any fun r => (s.runComplete p r && !s.runSent p r) || (r.started && r.succOpen && !r.queue.isEmpty)) ||
    (List.finRange 4).any fun k =>
      match execRunStart ⟨d % 4, Nat.mod_lt _ (by decide)⟩ k none s with
      | .next t => decide ((t.die d).runs ≠ (s.die d).runs)
      | _ => false

/-- WORKING of R266: a bell whose period has not started, a signal, a cell, a packet, a run, or the reading of
inputs that the period waits for. -/
def State.working (s : State) (p : Nat) : Bool :=
  let P := s.part p
  P.period.waiting.isSome || P.restoring.isSome || P.refilling || !P.period.signals.isEmpty ||
  (P.formCells.any fun c => s.cellWorks c) || s.packetsMove p || s.runsMove p ||
  (P.period.svc.any fun j => j.digest.isNone && (decide (j.step = P.period.step) || s.workDone p))

/-! ## The seats that the rest waits for (R266) -/

/-- The seats whose multicast by a record reaches this device: the seated members of its row or column that lie up to the
record's span against its direction (R131, R248). -/
def State.senders (s : State) (p : Nat) (r : BitVec 256) : List Nat :=
  let P := s.part p
  let f := s.fabric
  let back (own size k : Nat) : Nat := if bit r 7 then (own + k) % max 1 size else (own + size - k % max 1 size) % max 1 size
  (List.range (fldN r 20 6)).filterMap fun i =>
    let at' : Nat × Nat := if fldN r 5 2 = 1 then (back f.ownX f.sizeX (i + 1), f.ownY) else (f.ownX, back f.ownY f.sizeY (i + 1))
    P.chart.members.find? fun m => decide (seatX (P.chart.entry m) = at'.1 ∧ seatY (P.chart.entry m) = at'.2)

/-- The seats whose packets the member's remaining work waits for: those read from, ring neighbours of runs that
wait, senders to arrival tallies that a descriptor waits on, and the deskmate once the update is sent. -/
def State.blockers (s : State) (p : Nat) : List Nat :=
  let P := s.part p
  let at' (kind : Nat) (k : Int) : Option Nat :=
    let r := P.ring kind
    if r.isEmpty then none
    else r[(((r.idxOf P.seat.toNat : Nat) + k) % (r.length : Int)).toNat]?
  let rec' (n : Nat) : BitVec 256 := P.image.remotes.getD n 0
  let reads := P.formCells.flatMap fun c => (s.cell c).streams.filterMap fun e =>
    if e.2.reqs.any (fun r => decide (r.state = .remote)) then
      let r := rec' (chRrec e.2.hdr)
      at' (fldN r 3 2) (fldN r 8 12)
    else none
  let runs := P.dieList.flatMap fun d => (s.die d).runs.filterMap fun r =>
    let b := P.bucket r.bucket
    if r.started = false then none
    else if r.succOpen = false ∧ r.queue ≠ [] then at' (bkKind b) 1
    else if r.written < runWrites b (P.place b) then at' (bkKind b) (-1)
    else if s.runComplete p r ∧ s.runSent p r then at' (bkKind b) 1
    else none
  let waits := P.formCells.flatMap fun c =>
    let q := (s.cell c).seq
    let ws := (match q.headSet with
      | some (_, x) => [x.desc.wait 0, x.desc.wait 1].filter fun w => !s.waitMet (s.cellPart c) x.iters w
      | none => []) ++ (match q.join with
      | some j => if s.waitMet (s.cellPart c) q.iters j.wait then [] else [j.wait]
      | none => []) ++
      (if s.atControl c 0x81 && !s.waitMet (s.cellPart c) q.iters (cWait (s.control c)) then [cWait (s.control c)] else [])
    ws.flatMap fun w => P.image.remotes.flatMap fun r =>
      if bit r 2 = false ∨ fld r 96 14 ≠ sigTally w then []
      else if fldN r 5 2 = 0 then (at' (fldN r 3 2) (-(fldN r 8 12 : Int))).toList
      else s.senders p r
  let desk := if P.mirror.sent = some P.period.step ∧ P.mirror.acked ≠ some P.period.step then [P.desk] else []
  (reads ++ runs ++ waits ++ desk).foldl (fun l m => insNat m l) []

/-! ## Deadlock records (R271) -/

/-- A blocked descriptor: its form, chain offset, lowest cell and form cell number, WAITKIND, OBJECT, VALUE and
THRESH. -/
structure Blocked where
  form   : Nat
  off    : Nat
  cell   : Nat
  num    : Nat
  kind   : Nat
  object : Nat
  value  : Nat := 0
  thresh : Nat := 0
  deriving DecidableEq, Repr

/-- A wait that is not met: kind 0, or 6 for a JOIN's. -/
def State.blockedWait (s : State) (p : Nat) (mk : Nat → Nat → Nat → Nat → Blocked) (kind : Nat) (iters : List Nat)
    (w : BitVec 64) : List Blocked :=
  if s.waitMet p iters w then []
  else [mk kind (sigTally w).toNat (s.tally (sigTally w)).toNat (min (threshold iters w) 0xFFFFF)]

/-- The queue that a unit's operation finds empty, or the one that is full. -/
def Cell.starved (x : Cell) (ins outs : List Nat) : Option (Nat × Nat) :=
  match ins.find? fun q => named q && (x.queue q).entries.isEmpty with
  | some q => some (2, q)
  | none => (outs.find? fun q => named q && !x.outFree (outEnd q)).map fun q => (3, q)

/-- The descriptors at which a cell is blocked (R271; log 39). -/
def State.blockedAt (s : State) (f : FormRec) (c : Nat) : List Blocked :=
  let x := s.cell c
  let q := x.seq
  let mk (off kind object value thresh : Nat) : Blocked := ⟨f.num, off, c, f.cellNum c, kind, object, value, thresh⟩
  let joined := match q.join with
    | some j => s.blockedWait (s.cellPart c) (mk q.pc) 6 q.iters j.wait
    | none => []
  let head := match q.headSet with
    | some (_, r) =>
      match s.blockedWait (s.cellPart c) (mk r.off) 0 r.iters (r.desc.wait 0) ++
          s.blockedWait (s.cellPart c) (mk r.off) 0 r.iters (r.desc.wait 1) with
      | w :: ws => w :: ws
      | [] =>
        match r.desc.reads.find? fun k => q.pending k with
        | some k => [mk r.off 5 k 0 0]
        | none => []
    | none =>
      if q.join.isSome ∨ q.ended then []
      else
        let d := s.control c
        match d.op with
        | 0x81 => s.blockedWait (s.cellPart c) (mk q.pc) 0 q.iters (cWait d)
        | 0x82 => if q.pending (brSreg d) then [mk q.pc 5 (brSreg d) 0 0]
                  else if brSrc d ∧ q.pending (brSreg2 d) then [mk q.pc 5 (brSreg2 d) 0 0] else []
        | 0x83 => if setcSrc d ∧ q.pending (setcSreg d) then [mk q.pc 5 (setcSreg d) 0 0] else []
        | _ => []
  let unit (op : Op) (ins outs : List Nat) : List Blocked :=
    match x.starved ins outs with
    | some (k, o) => [mk op.off k o 0 0]
    | none => []
  let eng := match x.eng with
    | some e => if e.owned = false then [mk e.op.off 1 e.op.slot 0 0]
                else unit e.op [e.op.desc.in0, e.op.desc.in1, e.op.desc.in2] [e.op.desc.fwd0, e.op.desc.fwd1]
    | none => []
  let drain := match x.drains with
    | d :: _ => if d.ready = false then (if d.op.desc.op = 2 then [mk d.op.off 1 d.op.slot 0 0] else [])
                else unit d.op [] [d.op.desc.out0, d.op.desc.out1]
    | [] => []
  let three (op : Op) : List Blocked := unit op [op.desc.in0, op.desc.in1, op.desc.in2] [op.desc.out0, op.desc.out1]
  let frozen := q.used.filterMap fun e =>
    match e.2.issued with
    | some o => if e.2.desc.freeze then ((List.range 4).find? fun sl => (x.slot sl).waiters.contains o).map fun sl =>
        mk e.2.off 1 sl 0 0 else none
    | none => none
  let vec := (match x.vec with
    | some v => three v.op
    | none => []) ++ (match x.scal with
    | some v => three v.op
    | none => []) ++ (match x.rowRun with
    | some v => three v.op
    | none => [])
  let routes := (List.range 4).flatMap fun i =>
    match s.stalledAt c i with
    | none => []
    | some r =>
      let pushes (d : Desc) : Bool := [d.fwd0, d.fwd1, d.out0, d.out1].contains (8 + i)
      let off := ((q.used.find? fun e => e.2.issued.isSome && pushes e.2.desc).map fun e => e.2.off).getD q.pc
      [mk off 4 (ttRes ((s.part (s.cellPart c)).image.timetable.getD r 0)) 0 0]
  joined ++ head ++ eng ++ drain ++ frozen ++ vec ++ routes

/-- Blocked descriptors of a partition by rising form number and chain offset, each at its lowest cell, with every wait
of it that is not met (R271). -/
def State.blockedList (s : State) (p : Nat) : List Blocked :=
  let all := (s.part p).forms.flatMap fun f => f.cellList.flatMap fun c => s.blockedAt f c
  let key (b : Blocked) : Nat := b.form * 2 ^ 32 + b.off
  let keys := (all.map key).foldl (fun l k => insNat k l) []
  keys.flatMap fun k =>
    let here := all.filter fun b => decide (key b = k)
    (here.filter fun b => decide (b.cell = (here.headD b).cell)).dedup

/-- A deadlock record (R271): UNIT is the die of CELL; INGRESS of the header is all ones, and the body's is the
hold bell's. -/
def State.deadRecord (s : State) (p : Nat) (b : Blocked) (more : Nat) (num : BitVec 64) : BitVec 512 :=
  let P := s.part p
  recordHdr 0x6001 (dieOf b.cell) p P.seat.toNat s.hub.rseq.toNat (2 ^ 64 - 1) ||| at' 512 128 5 b.form |||
  at' 512 133 3 b.kind ||| at' 512 136 11 b.num ||| at' 512 160 32 b.off ||| at' 512 192 14 b.object |||
  at' 512 208 20 b.value ||| at' 512 228 20 b.thresh ||| at' 512 256 64 P.period.step.toNat |||
  at' 512 320 8 P.period.attempt.toNat ||| at' 512 328 16 more ||| at' 512 352 64 num.toNat

/-- Send the deadlock records, at most 16 for a partition and attempt; MORE stands in the last (R271). -/
def State.sendDeadlock (s : State) (p : Nat) (num : BitVec 64) : State :=
  let l := s.blockedList p
  let room := 16 - (s.part p).period.deadSent
  let now := l.take room
  let s1 := now.zipIdx.foldl (fun t b =>
    t.storeRecord (t.deadRecord p b.1 (if b.2 + 1 = now.length then l.length - now.length else 0) num) false) s
  s1.modPart p fun P => { P with period := { P.period with deadSent := P.period.deadSent + now.length } }

/-! ## The answer (R266) -/

/-- The status of a hold answer. -/
def State.holdStatus (s : State) (p : Nat) : Nat :=
  let P := s.part p
  if P.period.token then 0
  else if P.period.dropped then (if P.period.examining then 4 else 5)
  else if s.working p then 3
  else if s.blockers p ≠ [] then 1
  else if P.forms.all fun r => P.period.ended.contains r.num then 3
  else 2

/-- HOLD_BELL (R266, R271): the member's work goes on; one answer goes straight to the lodestar, after the
deadlock records where it is DEADLOCKED. -/
def execHoldBell (p : PartIx) (ctl : Control) (s : State) : Res :=
  s.takeCtl (.holdBell p ctl) p 2 ctl true (128 + p) fun num t =>
    let t0 := t.modPart p fun P => { P with watch := P.watch.heard true ctl }
    if (t0.part p).state ≠ .running then t0
    else
      let st := t0.holdStatus p
      let t1 := if st = 2 then t0.sendDeadlock p num else t0
      let t2 := if st = 4 then t1.modPart p fun P => { P with period := { P.period with saidDropped := true } } else t1
      let b := if st = 1 then t0.blockers p else []
      let seat (i : Nat) : Nat := (b.getD i 0xFFF) * 2 ^ (12 * i)
      -- the expected time to READY is an open value: the model keeps no time
      let f := if st = 4 then t2.fresh else (0, t2)
      f.2.sendCtl p (ctlSeat ctl) (f.2.ownCtl p 9 st (seat 0 + seat 1 + seat 2 + seat 3) (f.1.toNat % 2 ^ 32))

end Sys2Proof.Machine
end

