-- ==== Sys2Proof/Machine/HostPort.lean ====
section
/-! DEFINITION. The CXL port: the HDM window, the snoop filter, the data service, the link (R309-R318). -/

namespace Sys2Proof.Machine

/-! ## The HDM window (R312-R315) -/

/-- Memory_Active (R311, order 8): every HBM stack is trained and the start-up sequence over, and the host has programmed and
committed the HDM decoder and set Mem_Enable. -/
def State.memActive (s : State) : Bool := s.power.memAct && s.cxl.memEn && s.cxl.hdmCommit

/-- CXL.mem requests can reach the device: the link is up, no viral was received, the device is not unlocked
(R311, R357). -/
def State.memLink (s : State) : Bool := decide (s.cxl.width ≠ 0) && !s.cxl.viral && !s.sec.unlocked

/-- Where a 64-byte line of the HDM window lies (R313): its aperture, and its die and address when mapped. -/
def lineAperture (line : BitVec 30) : Nat := line.toNat / 0x4000000
def State.lineHome (s : State) (line : BitVec 30) : Option (Nat × Nat) :=
  (look none s.cxl.apertures (lineAperture line)).map fun m =>
    (m.die, m.unit * 0x100000000 + 64 * (line.toNat % 0x4000000))

/-- A request waits while its aperture is being remapped (R315), or while its die is not powered to answer. -/
def State.lineWaits (s : State) (line : BitVec 30) : Bool :=
  (s.cxl.remap.any fun e => decide (e.1.val = lineAperture line)) ||
  match s.lineHome line with
  | some (d, _) => s.memActive && decide ((s.die d).mode ≠ .up)
  | none => false

/-- The snoop filter's size in lines (R315). -/
def filterSize : Nat := 1048576

/-- R315: the line the host will hold is recorded; a full filter first evicts its oldest entry by BISnpInv. -/
def State.recordLine (s : State) (d a : Nat) : State :=
  if s.cxl.snoop.contains (d, a) then
    { s with cxl := { s.cxl with shared := s.cxl.shared.filter fun y => decide (y ≠ (d, a)) } }
  else
    let s1 := if s.cxl.snoop.length < filterSize then s
      else match s.cxl.snoop with
        | e :: rest =>
          State.emit { s with cxl := { s.cxl with snoop := rest, shared := s.cxl.shared.erase e, bisnp := s.cxl.bisnp ++ [(e.1, e.2, true)] } } (.biSnoop e.1 e.2 true)
        | [] => s
    { s1 with cxl := { s1.cxl with snoop := s1.cxl.snoop ++ [(d, a)] } }

/-- HOST_MEM_READ (R312, R313, R315): the line's bytes, recorded in the snoop filter; poisoned data from an
unmapped aperture or before Memory_Active. -/
def execHostMemRead (line : BitVec 30) (s : State) : Res :=
  if s.memLink = false ∨ s.lineWaits line then .next s
  else
    match (if s.memActive then s.lineHome line else none) with
    | none => .next (s.emit (.memData line 0 true))
    | some (d, a) => .next ((s.recordLine d a).emit (.memData line (bvOfBytes 512 (s.hbmView d a 64)) false))

/-- The old bytes with those enabled replaced. -/
def mergeBytes (be : BitVec 64) (old new : List Byte) : List Byte :=
  (List.range 64).map fun i => if bit be i then new.getD i 0 else old.getD i 0

/-- A die's region that the host may write (R314). -/
def State.hostMay (s : State) (d a : Nat) : Bool :=
  match s.partOf d with
  | some p => decide ((s.part p).region a = some 0) || decide ((s.part p).region a = some 4)
  | none => false

/-- HOST_MEM_WRITE (R312-R314): the enabled bytes are written where the region lets the host write; elsewhere,
unmapped, or before Memory_Active they are discarded. The write is completed in every case. -/
def execHostMemWrite (line : BitVec 30) (data : BitVec 512) (be : BitVec 64) (s : State) : Res :=
  if s.memLink = false ∨ s.lineWaits line then .next s
  else
    match (if s.memActive then s.lineHome line else none) with
    | none => .next (s.emit (.memDone line))
    | some (d, a) =>
      if s.hostMay d a ∧ be ≠ 0 then
        .next ((s.storeHbm d a (mergeBytes be (s.readHbm d a 64) (bytesOfBv 64 data))).emit (.memDone line))
      else .next (s.emit (.memDone line))

/-- BISNP_RESPONSE (R315): the oldest snoop of the line is answered. After BISnpData a device read may go on; after
BISnpInv the host no longer holds the line, and a remap that waited for it goes on. -/
def execBisnpResponse (d : DieIx) (line : Nat) (s : State) : Res :=
  match s.cxl.bisnp.find? fun e => decide (e.1 = d.val ∧ e.2.1 = line) with
  | none => .next s
  | some e =>
    let x := { s.cxl with
      bisnp := s.cxl.bisnp.erase e
      snoop := if e.2.2 then s.cxl.snoop.erase (d.val, line) else s.cxl.snoop
      shared := if e.2.2 then s.cxl.shared.erase (d.val, line)
        else if s.cxl.snoop.contains (d.val, line) then s.cxl.shared ++ [(d.val, line)] else s.cxl.shared }
    .next (State.finishRemaps { s with cxl := x })

/-- H2D_SNOOP (R309): answered RspIHitI. -/
def execH2dSnoop (addr : BitVec 64) (s : State) : Res :=
  if s.cxl.width ≠ 0 ∧ s.cxl.viral = false ∧ s.sec.unlocked = false then .next (s.emit (.rspIHitI addr)) else .next s

/-! ## The data service (R294, R317) -/

/-- Where an entry's step-s bytes go (R317). -/
def inputDest (e : BitVec 256) (step : BitVec 64) : Nat :=
  fldN e 16 40 + step.toNat % max 1 (fldN e 8 3) * inputLen e

/-- A job that reads a line of an entry: not stopped, and the line not in place. -/
def SvcJob.wants (i n : Nat) (j : SvcJob) : Bool := !j.stopped && !(look [] j.got i).contains n

/-- The first job that meets a condition, replaced. -/
def updFirst (f : SvcJob → Bool) (g : SvcJob → SvcJob) : List SvcJob → List SvcJob
  | [] => []
  | j :: l => if f j then g j :: l else j :: updFirst f g l

/-- Where a byte of a job's data stands. -/
def svcKey (i off : Nat) : Nat := i * 2 ^ 32 + off

/-- Every line of an entry is in place. -/
def SvcJob.entryDone (e : BitVec 256) (i : Nat) (j : SvcJob) : Bool := decide ((look [] j.got i).length * 64 = inputLen e)

/-- The manifest digest once every entry's bytes are in place (R317). -/
def Partition.seal (P : Partition) (j : SvcJob) : SvcJob :=
  let es := P.inputList.map fun i => (i, P.image.inputs.getD i 0)
  if es.all fun e => j.entryDone e.2 e.1 then
    { j with digest := some (digest64 (es.flatMap fun e => readBytes j.data (svcKey e.1 0) (inputLen e.2))), data := [] }
  else j

/-- The comparison of a replayed step's digest with MANIFEST of the entry of the step before (R294). -/
def State.compareManifest (s : State) (p : Nat) (j : SvcJob) : State :=
  match j.digest, (s.part p).journal.find? fun e => decide (e.step = j.step - 1) with
  | some d, some e => if j.replay && decide (d ≠ e.manifest) then s.detect 0x4006 (dieUnit (s.part p).lowDie) p p d.toNat else s
  | _, _ => s

/-- DATA_SERVICE_LINE (R294, R311, R317): a line of entry i at byte `off` of the step's bytes, for the oldest
job that wants it. A poisoned line is read again, up to 8 times. An entry whose bytes are all in place signals
FTALLY if its step's period is open. -/
def execDataServiceLine (p : PartIx) (i : Fin 256) (off : Nat) (data : BitVec 512) (poison : Bool) (s : State) : Res :=
  let P := s.part p
  let e := P.image.inputs.getD i 0
  if s.cacheOk = false ∨ bit e 2 = false ∨ off % 64 ≠ 0 ∨ inputLen e ≤ off then .next s
  else
    match P.period.svc.find? (SvcJob.wants i (off / 64)) with
    | none => .next s
    | some j =>
      s.afterSnoops (if poison then [] else [(fldN e 0 2, inputDest e j.step + off, 64, true)]) <|
      let put1 (t : State) (g : SvcJob → SvcJob) : State := t.modPart p fun P =>
        { P with period := { P.period with svc := updFirst (SvcJob.wants i (off / 64)) g P.period.svc } }
      if poison then
        let n := look 0 j.retries (svcKey i off)
        let s1 := put1 s fun j => { j with retries := put 0 j.retries (svcKey i off) (n + 1), stopped := decide (8 ≤ n) }
        .next (if 8 ≤ n then s1 else s1.emit (.rdCurr (inputSrc e j.step + BitVec.ofNat 64 off) 64 []))
      else
        let bs := bytesOfBv 64 data
        let j1 := { j with
          got := put [] j.got i (insNat (off / 64) (look [] j.got i)), data := writeBytes j.data (svcKey i off) bs }
        let j2 := P.seal j1
        let s1 := put1 (s.writeHbm (fldN e 0 2) (inputDest e j.step + off) bs) fun _ => j2
        let s2 := if j1.entryDone e i ∧ P.period.isOpen ∧ P.period.step = j.step then s1.signalInputs p [i] else s1
        .next (if j2.digest.isSome then (s2.assertAt 2 10).compareManifest p j2 else s2)

/-! ## The link (R310, R311, R318) -/

/-- CXL_LINK_UP (R309-R311): after the mask ROM's start and the release of PERST#, at x4 to x16 and 16 to 64 GT/s
with 256-byte flits; without them CXL negotiation fails and the port does not link up. -/
def execCxlLinkUp (width rate : Fin 8) (flit256 : Bool) (s : State) : Res :=
  if s.cxl.width ≠ 0 ∨ s.power.on = false ∨ s.power.perstN = false ∨ s.power.order < 4 ∨ s.sec.tap = .extest then .next s
  else if flit256 = false then .next { s with cxl := { s.cxl with failed := true } }
  else if [1, 2, 4].contains width.val ∧ 1 ≤ rate.val ∧ rate.val ≤ 3 then
    .next (State.assertShared { s with cxl := { s.cxl with width := width, rate := rate, failed := false } } 40)
  else .next s

/-- The rings after a link reset (R311, R319): their registers reset, and what was not replied to discarded. -/
def State.resetRings (s : State) : State :=
  (List.range 4).foldl (fun t r =>
    t.setRing r { look {} State.reset.rings r with running := (t.ring r).clear.running }) s

/-- The reads of inputs and waypoints that wait for the link go out, again where it was lost meanwhile (R311). -/
def State.reissueReads (s : State) : State :=
  (List.range 4).foldl (fun t p =>
    ((t.part p).period.svc.foldl (fun u j => u.issueReads p j) t).askWaypoint p) s

/-- A reset that takes the link down (R311): nothing of the port's configuration stays, the HDM decoder and Memory_Active
included. Commands that waited for a
remap end with it. -/
def State.linkDown (s : State) : State :=
  let s1 := s.resetRings
  State.assertShared ((List.range 16).foldl (fun t a => t.finish (isMapOf a) 0 0 []) { s1 with cxl := {} }) 40

/-- CXL_LINK_RESET (R311): a function-level reset keeps the link, the HDM decoder and the aperture maps; the rest of the
configuration space is reset (log 147). None of them stops a partition. -/
def execCxlLinkReset (kind : LinkReset) (s : State) : Res :=
  if s.cxl.width = 0 then .next s
  else
    match kind with
    | .functionLevel => .next (State.resetRings { s with cxl := { s.cxl with cacheEn := false, msixEn := false, bars := [] } })
    | .hot | .linkLoss => .next s.linkDown

/-- VIRAL_RECEIVED (R311). -/
def execViralReceived (s : State) : Res :=
  if s.cxl.width = 0 then .next s else .next { s with cxl := { s.cxl with viral := true } }

/-- IDE_INTEGRITY_FAILURE (R318): only a keyed link checks integrity; its failure takes the link down. -/
def execIdeIntegrityFailure (s : State) : Res :=
  if s.cxl.width = 0 ∨ s.cxl.ideKeys = [] then .next s else .next s.linkDown

end Sys2Proof.Machine
end

