-- ==== Sys2Proof/Machine/Images.lean ====
section
/-! DEFINITION. Program images: the header, the sections and the fields of their records (R22, R169, R206, R288, R317, R330-R334), and Proctor's report (R180). -/

namespace Sys2Proof.Machine

/-! ## Reports (R180) -/

/-- A location of a report (R180): LOCKIND, FORM, OFFSET, FIELD, the second location, DETAIL. -/
structure Loc where
  kind   : Nat := 0
  form   : Nat := 0
  off    : Nat := 0
  field  : Nat := 0x7FF
  form2  : Nat := 0
  off2   : Nat := 0xFFFFFFFF
  detail : Nat := 0
  deriving DecidableEq, Repr

/-- A report before it is written (R180). REASON 0 accepts. -/
structure Report where
  reason : Nat := 0
  loc    : Loc := {}
  warn   : Nat := 0
  walks  : Nat := 0
  deriving DecidableEq, Repr

/-- The 32 bytes of a report (R180). -/
def Report.bytes (r : Report) : List Byte :=
  bytesOfBv 32 (at' 256 0 16 r.reason ||| at' 256 16 4 r.loc.kind ||| at' 256 20 5 r.loc.form |||
    at' 256 32 32 r.loc.off ||| at' 256 64 11 r.loc.field ||| at' 256 75 5 r.loc.form2 |||
    at' 256 96 32 r.loc.off2 ||| at' 256 128 16 r.warn ||| at' 256 144 16 (min r.walks 0xFFFF) |||
    at' 256 160 32 r.loc.detail)

/-! ## What Proctor sees (R168) -/

/-- An image with the parameters of its partition (R168): the partition's number and dies, the ownership maps in
force, the records, the load segments and the image's bytes. -/
structure Prog where
  part  : Nat
  dies  : BitVec 4
  maps  : SMap (BitVec 16)
  image : Image
  segs  : List (BitVec 128)
  bytes : List Byte
  deriving DecidableEq, Repr

/-- The first set bit of reserved fields given as (first bit, width). -/
def firstRsv {w : Nat} (v : BitVec w) (rs : List (Nat × Nat)) : Option Nat :=
  rs.findSome? fun r => ((List.range r.2).find? fun i => bit v (r.1 + i)).map fun i => r.1 + i

/-- A field at fault, when a condition holds. -/
def faultAt (b : Bool) (lo : Nat) : Option Nat := if b then some lo else none

/-- The lowest of some first bits. -/
def lowestBitOf (l : List (Option Nat)) : Option Nat := (l.filterMap id).min?

/-- Two ranges [a, b) and [c, d) meet. -/
def rangesMeet (a b c d : Nat) : Bool := decide (a < d) && decide (c < b)

/-! ## Header and sections (R330) -/

/-- The record size and the largest COUNT of a section type (R330); the chart area counts bytes. -/
def sectionRule : Nat → Option (Nat × Nat)
  | 1 => some (64, 32)
  | 2 => some (16, 512)
  | 3 => some (16, 65536)
  | 4 => some (1, 0x20000000)
  | 5 => some (272, 65536)
  | 6 => some (64, 4096)
  | 7 => some (64, 1024)
  | 8 => some (16, 1024)
  | 9 => some (32, 256)
  | 10 => some (32, 256)
  | _ => none

abbrev SecEntry := BitVec 256

def secType (e : SecEntry) : Nat := fldN e 0 16
def secCount (e : SecEntry) : Nat := fldN e 32 32
def secOffset (e : SecEntry) : Nat := fldN e 64 64
def secLength (e : SecEntry) : Nat := fldN e 128 64

/-- The first bit at fault in a section entry; `before` are the entries ahead of it. -/
def secFault (len : Nat) (before : List SecEntry) (e : SecEntry) : Option Nat :=
  match sectionRule (secType e) with
  | none => some 0
  | some (size, most) => lowestBitOf [
      faultAt (before.any fun x => decide (secType x = secType e)) 0,
      firstRsv e [(16, 16), (192, 64)],
      faultAt (decide (most < secCount e)) 32,
      faultAt (decide (secOffset e % 64 ≠ 0 ∨ len < secOffset e + secLength e)) 64,
      faultAt (decide (secLength e ≠ secCount e * size)) 128]

/-- The section entries of an image. -/
def secEntries (bytes : List Byte) : List SecEntry :=
  let n := natOfBytes ((bytes.drop 6).take 2)
  (chunksOf 32 n ((bytes.drop 128).take (32 * n))).map (bvOfBytes 256)

/-- The image's digest (R330): over its bytes with DIGEST zero. -/
def imageDigest (bytes : List Byte) : List Byte :=
  shake256 (bytes.take 32 ++ List.replicate 32 0 ++ bytes.drop 64) 32

/-- A fault of the header (R330): a report's location, kind 13 offset 0 with its field, or none for bytes that do
not make a header or a digest that does not match (log 51). -/
def headerFault (bytes : List Byte) : Option Loc :=
  if bytes.length < 128 then some {}
  else
    let h : BitVec 1024 := bvOfBytes 1024 (bytes.take 128)
    let bad := lowestBitOf [
      faultAt (decide (fldN h 0 32 ≠ 0x31495753)) 0,
      faultAt (decide (fldN h 32 16 ≠ 1)) 32,
      faultAt (decide (fldN h 48 16 < 1 ∨ 16 < fldN h 48 16)) 48,
      faultAt (decide (fldN h 64 64 ≠ bytes.length)) 64,
      firstRsv h [(512, 512)]]
    match bad with
    | some f => some { kind := 13, field := f }
    | none =>
      if bytes.length < 128 + 32 * fldN h 48 16 ∨ imageDigest bytes ≠ (bytes.drop 32).take 32 then some {} else none

/-- A fault of the section table (R330). -/
def sectionFault (bytes : List Byte) : Option Loc :=
  let es := secEntries bytes
  match es.zipIdx.findSome? fun e => (secFault bytes.length (es.take e.2) e.1).map fun f => (e.2, f) with
  | some (k, f) => some { kind := 13, off := k, field := f }
  | none => if [1, 3].all fun t => es.any fun e => decide (secType e = t) then none else some {}

/-- The bytes of a section; none where the image has no such section. -/
def sectionBytes (bytes : List Byte) (t : Nat) : List Byte :=
  match (secEntries bytes).find? fun e => decide (secType e = t) with
  | some e => (bytes.drop (secOffset e)).take (secLength e)
  | none => []

/-- The records of a section. -/
def sectionRecords (w : Nat) (bytes : List Byte) (t : Nat) : List (BitVec w) :=
  let bs := sectionBytes bytes t
  (chunksOf (w / 8) bs.length bs).map (bvOfBytes w)

/-- The image that a LOAD's bytes and parameters make (R327, R330). `digest` is filled as the image is copied. -/
def readImage (bytes : List Byte) (seed : BitVec 64) (regions : BitVec 40) (shares : BitVec 15) (bucket : BitVec 7)
    (single reserve : Bool) : Image :=
  { forms := sectionRecords 512 bytes 1
    grants := sectionRecords 128 bytes 2
    charts := sectionBytes bytes 4
    timetable := sectionRecords 2176 bytes 5
    weights := sectionRecords 512 bytes 6
    buckets := sectionRecords 512 bytes 7
    mirror := sectionRecords 128 bytes 8
    inputs := sectionRecords 256 bytes 9
    remotes := sectionRecords 256 bytes 10
    seed := seed, regions := regions, shares := shares, bucketMib := bucket
    single := single, reserve := reserve }

/-- The load segments of an image (R332). -/
def readSegments (bytes : List Byte) : List (BitVec 128) := sectionRecords 128 bytes 3

/-! ## Regions, dies, tallies (R22, R34, R100, R334) -/

/-- The die-local range of region `k` (R22, R100). -/
def regionSpan (regions : BitVec 40) (k : Nat) : Nat × Nat :=
  let lo := ((List.range k).map fun j => fldN regions (8 * j) 8).sum
  (3 * 0x10000000 * lo, 3 * 0x10000000 * (lo + fldN regions (8 * k) 8))

/-- [a, b) lies in region `k`. -/
def inRegion (regions : BitVec 40) (k a b : Nat) : Bool :=
  let r := regionSpan regions k
  decide (r.1 ≤ a) && decide (a ≤ b) && decide (b ≤ r.2)

def Prog.hasDie (P : Prog) (d : Nat) : Bool := bit P.dies d
/-- The program-and-data region. -/
def Prog.inPd (P : Prog) (a b : Nat) : Bool := inRegion P.image.regions 0 a b
/-- The program-and-data or the error-feedback region. -/
def Prog.inPdEf (P : Prog) (a b : Nat) : Bool := P.inPd a b || inRegion P.image.regions 4 a b
/-- A TALLY names a tally of the partition (R151, R334). -/
def Prog.hasTally (P : Prog) (t : BitVec 14) : Bool := P.hasDie (fldN t 12 2)
def tallyIdx (t : BitVec 14) : Nat := fldN t 0 12
/-- A carried tally (R151). -/
def tallyCarried (t : BitVec 14) : Bool := decide (0xF00 ≤ tallyIdx t)

/-- The valid form records in ascending form number, and by record index within one number (R179). -/
def Prog.forms (P : Prog) : List (FormRec × Nat) :=
  let l := P.image.forms.zipIdx.filter fun e => e.1.valid
  (List.range 32).flatMap fun f => l.filter fun e => decide (e.1.num = f)

/-- The record of a form. -/
def Prog.form (P : Prog) (f : Nat) : Option FormRec := (P.forms.find? fun e => decide (e.1.num = f)).map Prod.fst

/-- The dies of a form. -/
def FormRec.dies (r : FormRec) : List Nat := (List.range 4).filter fun d => r.benchList.any fun b => decide (b / 24 = d)
/-- N of R134. -/
def FormRec.cells (r : FormRec) : Nat := 16 * r.benchList.length
def FormRec.part (r : FormRec) : Nat := fldN r 6 2

/-! ## Grants (R331) -/

def grForm (g : BitVec 128) : Nat := fldN g 0 5
def grValid (g : BitVec 128) : Bool := bit g 5
def grHbm (g : BitVec 128) : Bool := bit g 6
def grDie (g : BitVec 128) : Nat := fldN g 8 2
def grRead (g : BitVec 128) : Bool := bit g 10
def grWrite (g : BitVec 128) : Bool := bit g 11
def grFirst (g : BitVec 128) : Nat := fldN g 16 40
def grEnd (g : BitVec 128) : Nat := fldN g 64 40

/-! ## Load segments (R332) -/

def sgDie (g : BitVec 128) : Nat := fldN g 0 2
def sgValid (g : BitVec 128) : Bool := bit g 2
def sgStore (g : BitVec 128) : Bool := bit g 3
def sgForm (g : BitVec 128) : Nat := fldN g 4 5
def sgDest (g : BitVec 128) : Nat := fldN g 16 40
def sgLen (g : BitVec 128) : Nat := fldN g 64 32
def sgSrc (g : BitVec 128) : Nat := fldN g 96 32

/-! ## The weight table (R169) -/

def wtDie (w : BitVec 512) : Nat := fldN w 0 2
def wtValid (w : BitVec 512) : Bool := bit w 2
def wtForm (w : BitVec 512) : Nat := fldN w 3 5
def wtGrad (w : BitVec 512) : Nat := fldN w 128 40
def wtLen (w : BitVec 512) : Nat := fldN w 192 32
/-- VER0 and VER1, VTALLY0 and VTALLY1. -/
def wtVer (w : BitVec 512) (u : Nat) : Nat := if u = 0 then fldN w 16 40 else fldN w 64 40
def wtTally (w : BitVec 512) (u : Nat) : BitVec 14 := if u = 0 then fld w 224 14 else fld w 240 14
def wtUses (w : BitVec 512) : Nat := fldN w 256 20
def wtFirst (w : BitVec 512) : Nat := fldN w 288 32
def wtLast (w : BitVec 512) : Nat := fldN w 320 32
/-- The three buffers as ranges. -/
def wtBufs (w : BitVec 512) : List (Nat × Nat) :=
  [wtVer w 0, wtVer w 1, wtGrad w].map fun a => (a, a + 256 * wtLen w)
/-- A descriptor of a form at an offset is bound to the entry. -/
def wtBound (w : BitVec 512) (f off : Nat) : Bool :=
  decide (wtForm w = f) && decide (wtFirst w ≤ off) && decide (off ≤ wtLast w)

/-- The valid weight-table entries with their indices, by form and index (R179). -/
def Prog.weights (P : Prog) : List (BitVec 512 × Nat) :=
  let l := P.image.weights.zipIdx.filter fun e => wtValid e.1
  (List.range 32).flatMap fun f => l.filter fun e => decide (wtForm e.1 = f)

/-! ## Remote records (R131) -/

def rmDie (r : BitVec 256) : Nat := fldN r 0 2
def rmValid (r : BitVec 256) : Bool := bit r 2
def rmMcast (r : BitVec 256) : Nat := fldN r 5 2
def rmPeer (r : BitVec 256) : Nat := fldN r 8 12
def rmSpan (r : BitVec 256) : Nat := fldN r 20 6
def rmDdie (r : BitVec 256) : Nat := fldN r 26 2
def rmBase (r : BitVec 256) : Nat := fldN r 32 40
def rmLen (r : BitVec 256) : Nat := fldN r 72 24
def rmTally (r : BitVec 256) : BitVec 14 := fld r 96 14

/-! ## The bytes a chain is made of (R136) -/

/-- The 32 image bytes that the load segments place at a die-local address, a multiple of 32: the last segment that
covers it stands (R332). -/
def Prog.granule (P : Prog) (d a : Nat) : Option (List Byte) :=
  (P.segs.reverse.find? fun g => sgValid g && !sgStore g && decide (sgDie g = d ∧ sgDest g ≤ a ∧ a < sgDest g + sgLen g)).map
    fun g => (P.bytes.drop (sgSrc g + (a - sgDest g))).take 32

/-- `n` times 32 bytes from an address, where load segments cover them all. -/
def Prog.placed (P : Prog) (d a : Nat) : Nat → Option (List Byte)
  | 0 => some []
  | n + 1 =>
    match P.granule d a, P.placed d (a + 32) n with
    | some x, some y => some (x ++ y)
    | _, _ => none

end Sys2Proof.Machine
end

