-- ==== Sys2Proof/Machine/RecordChecks.lean ====
section
/-! DEFINITION. Proctor's checks of an image's records and of the partition's parameters: reasons 0x0101-0x0105, 0x0107, 0x0108, 0x0508, 0x0801-0x0804, 0x0901, 0x0905 (R182). -/

namespace Sys2Proof.Machine

/-! ## Fields of records (R330-R333) -/

def formFault (r : FormRec) : Bool :=
  r.valid && (firstRsv r [(8, 8), (112, 16), (168, 24), (384, 128)]).isSome

def grantFault (g : BitVec 128) : Bool :=
  grValid g && ((firstRsv g [(7, 1), (12, 4), (56, 8), (104, 24)]).isSome ||
    (!grRead g && !grWrite g) || decide (grEnd g ≤ grFirst g))

/-- The number of resources of a type (R333); a quad that does not exist is no local quad (0x0804). -/
def ttResources : Nat → Nat
  | 0 => 1536
  | 1 => 96
  | 2 => 96
  | 3 => 8
  | 4 => 2
  | 6 => 24
  | _ => 65536

/-- The number of owner codes of a type; the owners of HBM lists are 0x0803's. -/
def ttCodes : Nat → Nat
  | 0 => 1536
  | 3 => 1536
  | 4 => 1536
  | 5 => 36
  | 6 => 16
  | _ => 65536

/-- The largest owner code of an HBM list (R125, R333). -/
def hbmOwners (t : TtRec) : Nat := if ttType t = 1 then 24 else 23

/-- A type whose rota is self-passing, so that COUNT is zero (R120, R178): all but mesh links, bridges and hub links. -/
def ttPassing (t : TtRec) : Bool := [1, 2, 5, 6].contains (ttType t)

/-- Faults of a timetable record that no reason of its own names. The dies of a route are 0x0802's. -/
def ttFault (P : Prog) (t : TtRec) : Bool :=
  let hbm := decide (ttType t = 1 ∨ ttType t = 2)
  decide (6 < ttType t) || (firstRsv t [(4, 4), (34, 94)]).isSome || decide (ttNown t = 0) ||
    (!hbm && decide (32 < ttNown t)) || decide (ttResources (ttType t) ≤ ttRes t) ||
    ([1, 2, 6].contains (ttType t) && !P.hasDie (ttDie t)) ||
    (List.range 32).any fun k =>
      (firstRsv t [(168 + 64 * k, 24)]).isSome ||
      if k < ttNown t then decide (ttCodes (ttType t) ≤ ttOwner t k) || (ttPassing t && decide (ttCount t k ≠ 0))
      else decide (ttOwner t k ≠ 0 ∨ ttCount t k ≠ 0)

def weightFault (w : BitVec 512) : Bool :=
  wtValid w && ((firstRsv w [(8, 8), (56, 8), (104, 24), (168, 24), (238, 2), (254, 2), (276, 12), (352, 160)]).isSome ||
    decide (wtLen w = 0) || decide (wtUses w = 0) || (wtBufs w).any fun b => decide (b.1 % 256 ≠ 0))

/-- A bucket record's first bit at fault (R206, R207). -/
def bucketFault (P : Prog) (b : BitVec 512) : Option Nat :=
  let d := fldN b 0 2
  let size := fldN b 128 32 * (if bit b 7 then 4 else 5)
  let big := decide (P.image.bucketMib.toNat * 0x100000 < size)
  let out (lo : Nat) : Bool :=
    decide (fldN b lo 40 % 256 ≠ 0) || (P.hasDie d && !big && !P.inPdEf (fldN b lo 40) (fldN b lo 40 + size))
  let tally (lo : Nat) : Bool := !P.hasTally (fld b lo 14) || decide (fldN b lo 12 = 0)
  if bit b 2 then lowestBitOf [
    faultAt (!P.hasDie d) 0, firstRsv b [(9, 7), (72, 8), (120, 8), (174, 2), (230, 2), (252, 260)],
    faultAt (decide (fldN b 16 12 ≠ 0) && (!bit b 8 || P.image.single)) 16,
    faultAt (decide (fldN b 28 4 = 0)) 28, faultAt (out 32) 32, faultAt (out 80) 80,
    faultAt (decide (fldN b 128 32 = 0) || big) 128, faultAt (tally 160) 160, faultAt (tally 216) 216,
    faultAt (decide (fldN b 232 20 = 0)) 232]
  else none

/-- A mirror-list entry's (R288). -/
def mirrorFault (P : Prog) (m : BitVec 128) : Option Nat :=
  let a := fldN m 8 40
  if bit m 2 then lowestBitOf [
    faultAt (!P.hasDie (fldN m 0 2)) 0, firstRsv m [(4, 4), (48, 16), (96, 32)],
    faultAt (decide (a % 256 ≠ 0) || (P.hasDie (fldN m 0 2) && !P.inPdEf a (a + 256 * fldN m 64 32))) 8,
    faultAt (decide (fldN m 64 32 = 0)) 64]
  else none

/-- An input-table entry's (R317). -/
def inputFault (P : Prog) (e : BitVec 256) : Option Nat :=
  let a := fldN e 16 40
  let n := fldN e 192 32
  let t : BitVec 14 := fld e 224 14
  if bit e 2 then lowestBitOf [
    faultAt (!P.hasDie (fldN e 0 2)) 0, firstRsv e [(3, 5), (11, 5), (56, 8), (238, 18)],
    faultAt (decide (fldN e 8 3 < 2 ∨ 4 < fldN e 8 3)) 8,
    faultAt (decide (a % 256 ≠ 0) || !P.inPd a (a + fldN e 8 3 * n)) 16,
    faultAt (decide (fldN e 64 64 % 64 ≠ 0)) 64,
    faultAt (decide (n = 0 ∨ n % 64 ≠ 0)) 192,
    faultAt (!P.hasTally t || tallyCarried t || decide (tallyIdx t = 0)) 224]
  else none

/-- A load segment's (R332). -/
def segmentFault (P : Prog) (g : BitVec 128) : Option Nat :=
  if sgValid g then lowestBitOf [
    faultAt (!sgStore g && !P.hasDie (sgDie g)) 0, firstRsv g [(9, 7), (56, 8)],
    faultAt (sgStore g && (P.form (sgForm g)).isNone) 4,
    faultAt (decide (sgDest g % 32 ≠ 0) ||
      (if sgStore g then decide (0x180000 < sgDest g + sgLen g)
       else P.hasDie (sgDie g) && !P.inPdEf (sgDest g) (sgDest g + sgLen g))) 16,
    faultAt (decide (sgLen g = 0 ∨ sgLen g % 32 ≠ 0)) 64,
    faultAt (decide (sgSrc g % 32 ≠ 0 ∨ P.bytes.length < sgSrc g + sgLen g)) 96]
  else none

/-- The first record of a list at fault, by form and index (R179), as a location of a LOCKIND (R180). -/
def firstRecord {w : Nat} (kind : Nat) (form : BitVec w → Nat) (f : BitVec w → Option Nat) (l : List (BitVec w)) :
    Option Loc :=
  (List.range 32).findSome? fun n => l.zipIdx.findSome? fun e =>
    if form e.1 = n then (f e.1).map fun b => { kind := kind, form := n, off := e.2, field := b } else none

/-- 0x0101 (R330-R334), after the header and the sections. -/
def check0101 (P : Prog) : Option Loc :=
  if P.image.forms.any formFault || P.image.grants.any grantFault || P.image.timetable.any (ttFault P) ||
      P.image.weights.any weightFault then some {}
  else [firstRecord 9 (fun _ => 0) (bucketFault P) P.image.buckets,
    firstRecord 10 (fun _ => 0) (mirrorFault P) P.image.mirror,
    firstRecord 11 (fun _ => 0) (inputFault P) P.image.inputs,
    firstRecord 12 (fun g => if sgStore g then sgForm g else 0) (segmentFault P) P.segs].findSome? id

/-! ## Partition parameters (R22, R126, R289) -/

def Prog.regionSize (P : Prog) (k : Nat) : Nat := fldN P.image.regions (8 * k) 8

/-- 0x0102 (R22). -/
def check0102 (P : Prog) : Option Loc :=
  if ((List.range 5).map P.regionSize).sum ≠ 144 ∨ P.regionSize 0 = 0 ∨ P.regionSize 2 = 0 ∨
      (P.regionSize 1 = 0 ∧ P.image.single = false) then some { kind := 7 } else none

/-- The summed LENGTH of a die's mirror-list entries, in bytes: all of them, and the VOLATILE ones. -/
def Prog.mirrorSizes (P : Prog) (d : Nat) : Nat × Nat :=
  let l := P.image.mirror.filter fun m => bit m 2 && decide (fldN m 0 2 = d)
  ((l.map fun m => 256 * fldN m 64 32).sum, ((l.filter fun m => bit m 3).map fun m => 256 * fldN m 64 32).sum)

/-- 0x0103 (R289). In single-device operation the mirror region may be zero. -/
def check0103 (P : Prog) : Option Loc :=
  let small (d : Nat) : Bool :=
    let z := P.mirrorSizes d
    decide (3 * 0x10000000 * P.regionSize 1 < z.1 + 3 * 0x10000000 * P.regionSize 2 + z.2)
  if !(P.image.single && decide (P.regionSize 1 = 0)) && (List.range 4).any fun d => P.hasDie d && small d then
    some { kind := 7 }
  else none

/-- 0x0104 (R124, R126). -/
def check0104 (P : Prog) : Option Loc :=
  let sh (k : Nat) : Nat := fldN P.image.shares (5 * k) 5
  if sh 0 + sh 1 + sh 2 ≠ 16 ∨ sh 1 = 0 ∨ sh 2 < (if P.image.single then 1 else 2) then some { kind := 7 } else none

/-! ## Forms and grants (R35, R101, R135) -/

/-- 0x0105: each form against the forms ahead of it. -/
def check0105 (P : Prog) : Option Loc :=
  P.forms.zipIdx.findSome? fun e =>
    let r := e.1.1
    let before := (P.forms.take e.2).map Prod.fst
    let bad : Option Nat :=
      if before.any fun x => decide (x.num = r.num) then some 0
      else if r.part ≠ P.part then some 6
      else if r.benchList.isEmpty || r.benchList.any fun b =>
          !P.hasDie (b / 24) || before.any fun x => bit x.benches b then some 16
      else none
    bad.map fun f => { kind := 1, form := r.num, off := e.1.2, field := f }

/-- The valid grants with their indices, by form and index (R179). -/
def Prog.grants (P : Prog) : List (BitVec 128 × Nat) :=
  let l := P.image.grants.zipIdx.filter fun e => grValid e.1
  (List.range 32).flatMap fun f => l.filter fun e => decide (grForm e.1 = f)

/-- 0x0107: the 17th grant of a form, or one outside the regions of R101. -/
def check0107 (P : Prog) : Option Loc :=
  P.grants.zipIdx.findSome? fun e =>
    let g := e.1.1
    let ahead := ((P.grants.take e.2).filter fun x => decide (grForm x.1 = grForm g)).length
    let ok := match P.form (grForm g) with
      | none => false
      | some r => if grHbm g then r.dies.contains (grDie g) && P.inPdEf (grFirst g) (grEnd g)
                  else decide (grEnd g ≤ 0x180000)
    if ok && decide (ahead < 16) then none else some { kind := 4, form := grForm g, off := e.1.2 }

/-- 0x0108 (R101). -/
def check0108 (P : Prog) : Option Loc :=
  P.grants.findSome? fun e =>
    let g := e.1
    if grHbm g && P.grants.any fun x =>
        grHbm x.1 && grWrite x.1 && decide (grForm x.1 ≠ grForm g ∧ grDie x.1 = grDie g) &&
        rangesMeet (grFirst g) (grEnd g) (grFirst x.1) (grEnd x.1) then
      some { kind := 4, form := grForm g, off := e.2 } else none

/-! ## Remote records (R131) -/

/-- The first bit at fault in a remote record (R131). -/
def remoteFault (P : Prog) (r : BitVec 256) : Option Nat :=
  let t := rmTally r
  if rmValid r then lowestBitOf [
    faultAt (!P.hasDie (rmDie r)) 0, faultAt (decide (rmMcast r = 3)) 5,
    faultAt (decide (rmMcast r = 0 ∧ rmPeer r = 0)) 8,
    faultAt (decide ((rmMcast r = 1 ∨ rmMcast r = 2) ∧ rmSpan r = 0)) 20,
    faultAt (!P.hasDie (rmDdie r)) 26, firstRsv r [(28, 4), (110, 146)],
    faultAt (decide (rmBase r % 256 ≠ 0) || !P.inPd (rmBase r) (rmBase r + 256 * rmLen r)) 32,
    faultAt (decide (rmLen r = 0)) 72,
    faultAt (!P.hasTally t || tallyCarried t || decide (tallyIdx t = 0)) 96]
  else none

/-- 0x0508. -/
def check0508 (P : Prog) : Option Loc :=
  P.image.remotes.zipIdx.findSome? fun e =>
    (remoteFault P e.1).map fun f => { kind := 8, off := e.2, field := f, detail := e.2 }

/-! ## The timetable (R18, R23, R125, R177) -/

/-- The two dies of a bridge (R333). -/
def bridgeDies (b : Nat) : List Nat := [b % 4, (b + 1) % 4]

/-- 0x0802 (R18, R34): a route whose source or far end lies on a die that the partition does not hold, or a bridge to
one, through which a route between diagonal dies would pass. -/
def check0802 (P : Prog) : Option Loc :=
  P.image.timetable.zipIdx.findSome? fun e =>
    let t := e.1
    let far := (ttOwners t).any fun o =>
      match Config.routeEnd P.image.timetable (384 * ttDie t + o / 4) (o % 4) with
      | some x => !P.hasDie (dieOf x.1)
      | none => false
    if ttDeclared t then
      (lowestBitOf [faultAt (ttType t == 3 && (bridgeDies (ttRes t / 2)).any fun d => !P.hasDie d) 16,
          faultAt (!P.hasDie (ttDie t)) 32, faultAt far 128]).map fun f => { kind := 5, off := e.2, field := f }
    else none

/-- 0x0803. -/
def check0803 (P : Prog) : Option Loc :=
  P.image.timetable.zipIdx.findSome? fun e =>
    let t := e.1
    let bad : Option Nat :=
      if ttType t ≠ 1 ∧ ttType t ≠ 2 then none
      else if 32 < ttNown t then some 8
      else ((ttOwners t).zipIdx.find? fun o => decide (hbmOwners t < o.1)).map fun o => 128 + 64 * o.2
    bad.map fun f => { kind := 5, off := e.2, field := f }

/-- 0x0804 (R23, R168, R241): the port's die is the partition's, and its map gives the quad to the local source. -/
def check0804 (P : Prog) : Option Loc :=
  P.image.timetable.zipIdx.findSome? fun e =>
    let port := ttRes e.1 / 8
    if ttType e.1 = 5 ∧ (32 ≤ ttRes e.1 ∨ !P.hasDie port ∨
        fldN (look 0 P.maps port) (2 * (ttRes e.1 % 8)) 2 ≠ port) then
      some { kind := 5, off := e.2, field := 16 } else none

/-! ## The weight table (R169) -/

/-- 0x0901: tied weights, both entries. -/
def check0901 (P : Prog) : Option Loc :=
  P.weights.zipIdx.findSome? fun a =>
    ((P.weights.drop (a.2 + 1)).find? fun b => decide (wtDie a.1.1 = wtDie b.1) &&
      (wtBufs a.1.1).any fun x => (wtBufs b.1).any fun y => rangesMeet x.1 x.2 y.1 y.2).map fun b =>
        { kind := 6, form := wtForm a.1.1, off := a.1.2, form2 := wtForm b.1, off2 := b.2 }

/-- 0x0905: DIE or a buffer outside the partition's memory, in that field; else buffers that overlap, in none. -/
def check0905 (P : Prog) : Option Loc :=
  P.weights.findSome? fun e =>
    let bs := wtBufs e.1
    let out := lowestBitOf (faultAt (!P.hasDie (wtDie e.1)) 0 ::
      (bs.zip [16, 64, 128]).map fun b => faultAt (!P.inPd b.1.1 b.1.2) b.2)
    let meet := bs.zipIdx.any fun x => (bs.take x.2).any fun y => rangesMeet x.1.1 x.1.2 y.1 y.2
    match out, meet with
    | some f, _ => some { kind := 6, form := wtForm e.1, off := e.2, field := f }
    | none, true => some { kind := 6, form := wtForm e.1, off := e.2 }
    | none, false => none

end Sys2Proof.Machine
end

