-- ==== Sys2Proof/Machine/Charts.lean ====
section
/-! DEFINITION. Stream charts as Proctor reads them: fields, entries, windows, banks (R67, R99-R108, R147). -/

namespace Sys2Proof.Machine

/-- A chart of an image: its header, its instructions, its declarations and body. -/
structure PChart where
  hdr    : ChartHdr
  instrs : List (BitVec 64)
  walk   : Walk
  deriving DecidableEq, Repr

def PChart.persist (c : PChart) : Bool := chPersist c.hdr
def PChart.write (c : PChart) : Bool := chWrite c.hdr
def PChart.extent (c : PChart) : Nat := chExtent c.hdr
def PChart.entries (c : PChart) : Nat := chEntries c.hdr
/-- 0 CS, 1 WH, 2 DH, 3 RM. -/
def PChart.space (c : PChart) : Nat := chSpace c.hdr
def PChart.base (c : PChart) : Nat := fldN c.hdr 32 40

/-- The chart at offset `u` of the chart area, in 32-byte units; none where it does not lie in the area. -/
def chartAt (area : List Byte) (u : Nat) : Option PChart :=
  let bs := area.drop (32 * u)
  let h : ChartHdr := bvOfBytes 256 (bs.take 32)
  let n := chNinstr h
  let is := (bs.drop 32).take (8 * n)
  if (bs.take 32).length = 32 ∧ is.length = 8 * n then
    let ws := (chunksOf 8 n is).map (bvOfBytes 64)
    some { hdr := h, instrs := ws, walk := walkOf ws }
  else none

/-! ## Entries (R105 item 4, R106) -/

/-- One run of a body from a fill position: the position after it and the entries pushed. -/
def bodyRun (body : List ChartInstr) (pos : Nat) : Nat × Nat :=
  body.foldl (fun a i =>
    match i with
    | .emit n _ | .pad n => ((a.1 + n) % 128, a.2 + (a.1 + n) / 128)
    | .close => (0, if a.1 = 0 then a.2 else a.2 + 1)
    | _ => a) (pos, 0)

/-- Runs as a table over the fill positions 0-127. -/
abbrev RunTable := List (Nat × Nat)

def RunTable.then (x y : RunTable) : RunTable :=
  x.map fun a => let b := y.getD a.1 (0, 0); (b.1, a.2 + b.2)

/-- `n` runs one after another, by the binary digits of n. -/
def RunTable.times (t acc : RunTable) : Nat → Nat → RunTable
  | 0, _ => acc
  | fuel + 1, n =>
    if n = 0 then acc
    else RunTable.times (t.then t) (if n % 2 = 1 then acc.then t else acc) fuel (n / 2)

/-- The entries a chart's walk produces or takes. -/
def Walk.entryCount (w : Walk) : Nat :=
  let one : RunTable := (List.range 128).map (bodyRun w.body)
  let r := ((RunTable.times one ((List.range 128).map fun p => (p, 0)) 128 w.iters).getD 0 (0, 0))
  r.2 + (if r.1 = 0 then 0 else 1)

/-! ## Faults of a chart (R103-R105) -/

/-- Faults of a header: first bits. A header BASE other than zero is reason 0x0504's, an odd one both. -/
def hdrFault (h : ChartHdr) : Option Nat :=
  let base := fldN h 32 40
  lowestBitOf [
    faultAt (decide (chSpace h = 1) && chWrite h) 2, faultAt (decide (chPolicy h = 3)) 4,
    firstRsv h [(6, 2), (16, 16), (80, 16), (152, 104)],
    faultAt (decide ((if chWrite h then 3 else 7) < chQueue h)) 8,
    faultAt (decide (base % 2 = 1 ∨ (chSpace h = 0 ∧ 2 ^ 21 ≤ base))) 32,
    faultAt (decide (chSpace h ≠ 3 ∧ chRrec h ≠ 0)) 72,
    faultAt (decide (chExtent h = 0)) 96, faultAt (decide (chEntries h = 0)) 128]

def isLevel (l : Nat) (w : BitVec 64) : Bool :=
  match chartInstr w with
  | .level m _ _ => decide (m = l)
  | _ => false

def isIndex (w : BitVec 64) : Bool :=
  match chartInstr w with
  | .index _ _ _ => true
  | _ => false

/-- Faults of one instruction (R104, R105 items 1 and 2): a bit within it. `before` are the instructions ahead. -/
def instrFault (write : Bool) (before all : List (BitVec 64)) (w : BitVec 64) : Option Nat :=
  match chartInstr w with
  | .level l n _ => lowestBitOf [faultAt (decide (n = 0)) 32, firstRsv w [(56, 1)],
      faultAt (decide (4 < l) || before.any (isLevel l)) 57]
  | .index l n b => lowestBitOf [firstRsv w [(0, 32), (53, 3)], faultAt (decide (b % n ≠ 0)) 32,
      faultAt (decide (4 < l) || !all.any (isLevel l)) 57, faultAt (write || before.any isIndex) 60]
  | .emit n _ => lowestBitOf [firstRsv w [(32, 16), (56, 4)], faultAt (decide (n % 2 = 1 ∨ n < 2 ∨ 128 < n)) 48]
  | .pad n => lowestBitOf [firstRsv w [(0, 48), (56, 4)], faultAt (decide (n % 2 = 1 ∨ n < 2 ∨ 128 < n)) 48]
  | .close => firstRsv w [(0, 60)]
  | .reserved => some 60

/-- The field of a chart's first fault, 0x7FF where the fault lies in no single field (R180). -/
def PChart.fault (c : PChart) : Option Nat :=
  let ins := c.instrs.zipIdx.map fun e =>
    (instrFault c.write (c.instrs.take e.2) c.instrs e.1).map fun b => 256 + 64 * e.2 + b
  let levels := (c.instrs.filter fun w => (List.range 5).any fun l => isLevel l w).length
  let emits := c.walk.body.any fun
    | .emit _ _ => true
    | _ => false
  match lowestBitOf (hdrFault c.hdr :: ins) with
  | some b => some b
  | none =>
    if levels = 0 ∨ c.walk.counts.length ≠ levels ∨ !emits then some 0x7FF
    else faultAt (decide (c.walk.entryCount ≠ c.entries)) 128

/-- The index array: [from, to) in the cell store (R105 item 5). -/
def Walk.indexSpan (w : Walk) : Option (Nat × Nat) :=
  w.index.map fun e => (e.2.2, e.2.2 + (w.counts.drop e.1).foldl (· * ·) 1 * e.2.1)

/-! ## Windows (R102, R147) -/

/-- The base of a reference for cell `n` at iteration `i` (R147). -/
def refBase (r : BitVec 128) (n i : Nat) : Int :=
  fldN r 32 40 + 32 * ((n : Int) * fldZ r 72 28 + (i : Int) * fldZ r 100 28)

/-- The iterations i below `lim` for which [b + i s, b + i s + e) lies in [lo, hi): the range [from, to). -/
def itersWithin (b s e lo hi : Int) (lim : Nat) : Nat × Nat :=
  -- lo ≤ b + i s and b + i s + e ≤ hi
  let inside (i : Nat) : Bool := decide (lo ≤ b + i * s) && decide (b + i * s + e ≤ hi)
  if s = 0 then (if inside 0 then (0, lim) else (0, 0))
  else
    let x := lo - b
    let y := hi - e - b
    -- for s > 0: x / s rounded up to y / s rounded down; for s < 0 the other way round
    let from' : Int := if 0 < s then -((-x) / s) else -(y / (-s))
    let to' : Int := if 0 < s then y / s else (-x) / (-s)
    (from'.toNat, min lim (to' + 1).toNat)

/-- The first iteration below `lim` that no range of the list covers. -/
def uncovered (rs : List (Nat × Nat)) (lim : Nat) : Nat → Nat → Option Nat
  | 0, at_ => if at_ < lim then some at_ else none
  | fuel + 1, at_ =>
    if lim ≤ at_ then none
    else
      match (rs.filter fun r => decide (r.1 ≤ at_ ∧ at_ < r.2)).map Prod.snd |>.max? with
      | some to' => uncovered rs lim fuel to'
      | none => some at_

/-- The first (cell, iteration) whose window no range of `rs` holds, cells first; `e` is the window's length. -/
def firstOutside (r : BitVec 128) (cells lim : Nat) (e : Nat) (rs : List (Int × Int)) : Option (Nat × Nat) :=
  (List.range cells).findSome? fun n =>
    let s := 32 * fldZ r 100 28
    let b := refBase r n 0
    (uncovered (rs.map fun g => itersWithin b s e g.1 g.2 lim) lim (rs.length + 1) 0).map fun i => (n, i)

/-! ## Banks (R67, R69) -/

/-- The banks of the cell-store bytes [a, a + n). -/
def spanBanks (a n : Nat) : List Nat :=
  if n = 0 then []
  else if 1024 ≤ n then List.range 32
  else ((List.range ((a % 32 + n + 31) / 32)).map fun k => (a / 32 + k) % 32).dedup

/-- The smallest and the largest offset that a walk's levels add up to. -/
def Walk.offRange (w : Walk) : Int × Int :=
  (w.counts.zip w.strides).foldl (fun a e =>
    let x := ((e.1 : Int) - 1) * e.2
    (a.1 + min 0 x, a.2 + max 0 x)) (0, 0)

/-- The offsets of a walk's iterations modulo 1,024, from one residue. -/
def Walk.residues (w : Walk) (base : Int) : List Int :=
  (w.counts.zip w.strides).foldl (fun (rs : List Int) (e : Nat × Int) =>
    (rs.flatMap fun r => (List.range (min e.1 (1024 / Nat.gcd e.2.natAbs 1024))).map fun (i : Nat) => (r + (i : Int) * e.2) % 1024).dedup)
    [base % 1024]

/-- The offset of combination `k` of a walk without INDEX (R106). -/
def Walk.offset (w : Walk) (k : Nat) : Int :=
  (((digits w.counts k).zip w.strides).map fun e => (e.1 : Int) * e.2).sum

/-- The banks that one arming's EMITs inside its window touch, for a chart of the cell store without INDEX. A bank
depends on the address modulo 1,024; an EMIT of which some iterations leave the window is followed one by one. -/
def PChart.banks (c : PChart) (base : Int) : List Nat :=
  let w := c.walk
  let r := w.offRange
  (w.body.flatMap fun
    | .emit size disp =>
      if 0 ≤ r.1 + disp ∧ r.2 + disp + size ≤ 32 * c.extent then
        ((w.residues base).map fun x => ((x + disp) % 1024).toNat).dedup.flatMap fun a => spanBanks a size
      else (List.range w.iters).flatMap fun k =>
        let a := base + w.offset k + disp
        if inWindow base c.extent a size then spanBanks a.toNat size else []
    | _ => []).dedup

/-- The banks of the index array. -/
def PChart.indexBanks (c : PChart) : List Nat :=
  match c.walk.indexSpan with
  | some (a, b) => spanBanks a (b - a)
  | none => []

end Sys2Proof.Machine
end

