-- ==== Sys2Proof/Machine/Chains.lean ====
section
/-! DEFINITION. The chains of an image: the descriptors that its paths reach, and their loops (R134, R136, R155-R160). -/

namespace Sys2Proof.Machine

/-- A descriptor at a chain offset: a layer descriptor, a control descriptor, or a layer operation off its 256-byte
alignment (R136). -/
inductive Item where
  | layer (d : Desc)
  | ctl (d : CDesc)
  | stray
  deriving DecidableEq, Repr

structure Node where
  off  : Nat
  item : Item
  deriving DecidableEq, Repr

/-- A form's chain: the descriptors its paths reach, by ascending offset; a descriptor whose path goes on where no
segment covers a descriptor (0x0303); and whether its bytes differ between the form's dies (0x0106). -/
structure Chain where
  form    : FormRec
  nodes   : List Node
  past    : Option Nat
  differs : Bool
  deriving DecidableEq, Repr

/-- The bytes at a chain offset: on the form's first die, and whether every other die has the same. `none`: not
covered on every die. -/
def Prog.chainBytes (P : Prog) (r : FormRec) (off n : Nat) : Option (List Byte × Bool) :=
  match r.dies.map fun d => P.placed d (r.chain + off) n with
  | [] => none
  | x :: xs =>
    match x with
    | none => none
    | some bs => if xs.any Option.isNone then none else some (bs, xs.all fun y => decide (y = some bs))

/-- Where a path goes on after a descriptor (R136, R156, R157, R160): a loop's body and the descriptor after it, a
branch's target and, unless it is always taken, the next descriptor. -/
def Node.next (n : Node) : List Nat :=
  match n.item with
  | .stray => []
  | .layer _ => [n.off + 256]
  | .ctl d =>
    match d.op with
    | 0x80 => []
    | 0x81 => [n.off + 64, loopBodyEnd d]
    | 0x82 => if brCmp d = 8 then [brTarget d] else [n.off + 64, brTarget d]
    | _ => [n.off + 64]

/-- Add an offset to those yet to be read, ascending, with the descriptor that leads there. -/
def addTodo (o from' : Nat) : List (Nat × Nat) → List (Nat × Nat)
  | [] => [(o, from')]
  | e :: l => if o < e.1 then (o, from') :: e :: l else if o = e.1 then e :: l else e :: addTodo o from' l

/-- The descriptor at an offset, and whether every die has the same bytes. -/
def Prog.nodeAt (P : Prog) (r : FormRec) (off : Nat) : Option (Node × Bool) :=
  match P.placed (r.dies.headD 0) (r.chain + 32 * (off / 32)) 1 with
  | none => none
  | some g =>
    let op := ((g.drop (off % 32)).headD 0).toNat
    if op < 0x80 then
      if off % 256 ≠ 0 then some (⟨off, .stray⟩, true)
      else (P.chainBytes r off 8).map fun e => (⟨off, .layer (bvOfBytes 2048 e.1)⟩, e.2)
    else (P.chainBytes r off 2).map fun e => (⟨off, .ctl (bvOfBytes 512 e.1)⟩, e.2)

/-- Read the descriptors that paths reach, lowest offset first. Paths go forward only; ends of bodies and targets that
do not are the faults of R159 and R160. -/
def Prog.readChain (P : Prog) (r : FormRec) : Nat → List (Nat × Nat) → Chain → Chain
  | 0, _, c => c
  | _, [], c => c
  | fuel + 1, (o, from') :: todo, c =>
    match P.nodeAt r o with
    | none => P.readChain r fuel todo { c with past := some (match c.past with | some p => min p from' | none => from') }
    | some (n, same) =>
      let nx := n.next.filter fun x => decide (o < x ∧ x % 64 = 0)
      P.readChain r fuel (nx.foldl (fun t x => addTodo x o t) todo)
        { c with nodes := c.nodes ++ [n], differs := c.differs || !same }

/-- A bound on the offsets that segments cover, for one form. -/
def Prog.chainFuel (P : Prog) : Nat := ((P.segs.filter sgValid).map fun g => sgLen g / 32 + 1).sum * 4 + 2

/-- A form's chain (R136). -/
def Prog.chainOf (P : Prog) (r : FormRec) : Chain :=
  P.readChain r P.chainFuel [(0, 0)] { form := r, nodes := [], past := none, differs := false }

/-- The chains of the image's forms, in ascending form number. -/
def Prog.chains (P : Prog) : List Chain := P.forms.map fun e => P.chainOf e.1

/-- A LOOP of a chain with its offset. -/
def Node.loop (n : Node) : Option (Nat × CDesc) :=
  match n.item with
  | .ctl d => if d.op = 0x81 then some (n.off, d) else none
  | _ => none

/-- The loops whose bodies hold an offset, innermost first (R159). -/
def Chain.enclosing (c : Chain) (off : Nat) : List (Nat × CDesc) :=
  ((c.nodes.filterMap Node.loop).filter fun e => decide (e.1 < off ∧ off < loopBodyEnd e.2)).reverse

/-- An offset that lies within a layer descriptor. -/
def Chain.inside (c : Chain) (off : Nat) : Bool :=
  c.nodes.any fun n =>
    match n.item with
    | .layer _ => decide (n.off < off ∧ off < n.off + 256)
    | _ => false

/-- The iterations a stream reference sees: LIMIT of the loop its ILOOP names (R147). -/
def Chain.refLimit (c : Chain) (off : Nat) (r : BitVec 128) : Nat :=
  if srefLoop r = 0 then 1
  else match (c.enclosing off)[srefLoop r - 1]? with
    | some l => loopLimit l.2
    | none => 1

/-- The layer descriptors of a chain. -/
def Chain.layers (c : Chain) : List (Nat × Desc) :=
  c.nodes.filterMap fun n =>
    match n.item with
    | .layer d => some (n.off, d)
    | _ => none

/-- The wait and signal entries of a descriptor, with their first bits; a JOIN's signal is always per form. -/
def Node.waits (n : Node) : List (BitVec 64 × Nat) :=
  match n.item with
  | .layer d => [(d.wait 0, 256), (d.wait 1, 320)]
  | .ctl d => if d.op = 0x81 ∨ d.op = 0x84 then [(cWait d, 128)] else []
  | .stray => []

def Node.sigs (n : Node) : List (BitVec 64 × Nat) :=
  match n.item with
  | .layer d => [(d.sig 0, 384), (d.sig 1, 448)]
  | .ctl d => if d.op = 0x81 ∨ d.op = 0x84 then [(cSig d, 192)] else []
  | .stray => []

end Sys2Proof.Machine
end

