-- ==== Sys2Proof/Machine/DescChecks.lean ====
section
/-! DEFINITION. Proctor's checks of chains, descriptors and charts that need no walk: reasons 0x0106, 0x0201-0x0207, 0x0209-0x0303, 0x0402, 0x0403, 0x0501, 0x0502, 0x0504, 0x0507, 0x0801, 0x0904 (R182). -/

namespace Sys2Proof.Machine

/-! ## Fields (R142, R144) -/

/-- The fields of a layer descriptor that an operation may leave out, as (first bit, width). -/
def layerFields : List (Nat × Nat) :=
  [(8, 8), (16, 2), (18, 2), (20, 1), (21, 1), (22, 1), (23, 1), (24, 5), (32, 24), (56, 8), (64, 16), (80, 4), (84, 4),
   (88, 1), (89, 1), (90, 2), (96, 8), (104, 8), (112, 8), (120, 8), (128, 8), (136, 8), (144, 8), (160, 4), (164, 1),
   (165, 1), (166, 1), (168, 8), (176, 11), (192, 4), (196, 4), (200, 4), (204, 4)]

/-- The first bits of the fields an operation uses (R144). -/
def Desc.usedFields (d : Desc) : List Nat :=
  let drain := [120, 128, 160, 164, 165, 166, 168, 176]
  match d.op with
  | 1 => [8, 16, 18, 20, 21, 22, 23, 24, 32, 56, 64, 80, 84, 88, 89, 90, 96, 104, 112, 136, 144, 192] ++
      (if d.drains then drain else [])
  | 2 => [16, 23, 64, 192] ++ drain
  | 3 => [8, 21, 32, 56, 64, 80, 84, 96, 104, 112, 120, 128, 136, 160, 164, 168, 196, 200, 204]
  | 4 => [8, 21, 32, 64, 80, 84, 96, 104, 112, 120, 128, 160, 164, 176, 196, 200, 204]
  | 5 => [8, 32, 80, 96, 192]
  | _ => []

def Desc.uses (d : Desc) (lo : Nat) : Bool := d.usedFields.contains lo

/-- OUT1 takes cross packing (R184). -/
def Desc.cross (d : Desc) : Bool :=
  d.out1 != 0x1F && ((d.op == 3 && [1, 2, 5, 6, 7].contains d.func) || (d.op == 4 && decide (1 ≤ d.func ∧ d.func ≤ 4)))

/-- Bytes per vector of a format (R185). -/
def fmtBytes : Nat → Nat
  | 0 => 128
  | 1 => 64
  | 2 => 64
  | 3 => 32
  | 4 => 256
  | _ => 320

/-- Entries that `n` vectors take in a format (R62, R183, R185). -/
def fmtEntries (n fmt : Nat) : Nat := (n * fmtBytes fmt + 127) / 128

/-- The function codes of an operation (R144). -/
def funcOk (op func : Nat) : Bool :=
  match op with
  | 1 => decide (func ≤ 5)
  | 3 => decide (1 ≤ func ∧ func ≤ 7)
  | 4 => decide (1 ≤ func ∧ func ≤ 5)
  | 5 => decide (1 ≤ func ∧ func ≤ 6)
  | _ => true

/-- Reserved bits of a wait entry and of a signal entry (R146), and a signal's amount of zero; `base` is the entry's
first bit. -/
def waitRsv (w : BitVec 64) (base : Nat) : Option Nat := (firstRsv w [(15, 1), (39, 1), (60, 4)]).map (· + base)
def sigRsv (w : BitVec 64) (join : Bool) (base : Nat) : Option Nat :=
  (lowestBitOf [firstRsv w ([(36, 28)] ++ if join then [(15, 1)] else []),
    faultAt (sigEn w && decide (sigValue w = 0)) 16]).map (· + base)

/-- A stream reference's faults of R147; `base` is its first bit. A chart's QUEUE that no queue has is 0x0501's. -/
def srefFault (area : List Byte) (r : BitVec 128) (base : Nat) : Option Nat :=
  let q := srefSlot r
  let wrong : Bool :=
    if srefChart r = 0xFFFFFF ∨ 11 < q then false
    else match chartAt area (srefChart r) with
      | none => false
      | some c => c.write != decide (8 ≤ q) ||
          decide (chQueue c.hdr ≤ (if c.write then 3 else 7) ∧ chQueue c.hdr ≠ q % 8)
  if srefEn r then (lowestBitOf [faultAt (decide (11 < q) || wrong) 24, faultAt (decide (fldN r 32 40 % 2 = 1)) 32]).map (· + base)
  else none

/-- 0x0201 of a layer descriptor (R15, R142, R144, R145, R147, R150, R184, R185). -/
def layerFault (area : List Byte) (d : Desc) : Option Nat :=
  if 6 < d.op then some 0
  else
    let queue (lo : Nat) : Option Nat :=
      faultAt (d.uses lo && decide (32 ≤ fldN d lo 8 ∨ (20 ≤ fldN d lo 8 ∧ fldN d lo 8 < 31))) lo
    let vecs := decide (d.op = 3 ∨ d.op = 4) && decide (d.fmtA ≤ 5)
    lowestBitOf ([
      firstRsv d [(29, 3), (92, 4), (152, 8), (167, 1), (187, 5), (208, 48), (672, 352)],
      (layerFields.find? fun f => !d.uses f.1 && decide (fldN d f.1 f.2 ≠ 0)).map Prod.fst,
      waitRsv (d.wait 0) 256, waitRsv (d.wait 1) 320, sigRsv (d.sig 0) false 384, sigRsv (d.sig 1) false 448,
      faultAt (!funcOk d.op d.func) 8, faultAt (d.op == 1 && d.init == 3) 18,
      faultAt (d.uses 24 && decide (fldN d 24 5 ≠ 0 ∧ (fldN d 24 5 < 4 ∨ 16 < fldN d 24 5))) 24,
      faultAt (d.uses 32 && decide (d.steps = 0)) 32,
      faultAt (vecs && (decide (d.steps * 128 % fmtBytes d.fmtA ≠ 0) ||
        (d.cross && decide (d.steps * 128 / fmtBytes d.fmtA % 64 ≠ 0)))) 32,
      faultAt (d.uses 56 && decide (fldN d 56 8 = 1 ∨ 64 < fldN d 56 8)) 56,
      faultAt (d.uses 80 && decide (5 < d.fmtA ∨ (d.op = 5 ∧ ([0, 4, 5].contains d.fmtA) = false))) 80,
      faultAt (d.uses 84 && decide (5 < d.fmtB)) 84, faultAt (d.op == 1 && decide (fldN d 90 2 = 3)) 90,
      faultAt (d.uses 160 && decide (5 < d.ofmt)) 160] ++
      [96, 104, 112, 120, 128, 136, 144].map queue ++
      (List.range 8).map fun k => srefFault area (d.sref k) (1024 + 128 * k))

/-- 0x0201 of a control descriptor (R155). -/
def ctlFault (d : CDesc) : Option Nat :=
  match d.op with
  | 0x80 => firstRsv d [(8, 504)]
  | 0x81 => lowestBitOf [firstRsv d [(8, 8), (68, 28), (256, 256)], faultAt (decide (loopLimit d = 0)) 44,
      waitRsv (cWait d) 128, sigRsv (cSig d) false 192]
  | 0x82 => lowestBitOf [firstRsv d [(8, 8), (25, 3), (96, 416)], faultAt (decide (8 < brCmp d)) 20]
  | 0x83 => firstRsv d [(8, 8), (48, 464)]
  | 0x84 => lowestBitOf [firstRsv d [(8, 120), (256, 256)], waitRsv (cWait d) 128, sigRsv (cSig d) true 192]
  | 0x85 => lowestBitOf [firstRsv d [(8, 8), (28, 484)], faultAt (decide (63 < featWord d)) 16]
  | 0x86 => firstRsv d [(8, 504)]
  | _ => some 0

/-! ## Checks of one descriptor: FIELD and DETAIL -/

/-- A check of the descriptors of one chain. -/
abbrev NodeCheck := Prog → Chain → Node → Option (Nat × Nat)

/-- A check of layer descriptors that gives FIELD. -/
def onLayer (f : Desc → Option Nat) : NodeCheck := fun _ _ n =>
  match n.item with
  | .layer d => (f d).map fun b => (b, 0)
  | _ => none

def node0201 : NodeCheck := fun P _ n =>
  match n.item with
  | .layer d => (layerFault P.image.charts d).map fun b => (b, 0)
  | .ctl d => (ctlFault d).map fun b => (b, 0)
  | .stray => none

def node0202 : NodeCheck := fun _ _ n => if n.item = .stray then some (0x7FF, 0) else none

/-- RANK as R41 gives it for the formats, and formats that mix (R42). -/
def node0203 : NodeCheck := onLayer fun d =>
  let rank (f : Nat) : Nat := if f = 0 then 0 else if f = 3 then 2 else 1
  if d.op ≠ 1 then none
  else if 3 < d.fmtA ∨ 3 < d.fmtB ∨ rank d.fmtA ≠ rank d.fmtB then some 80
  else faultAt (decide (fldN d 90 2 ≠ rank d.fmtA)) 90

def node0204 : NodeCheck := onLayer fun d =>
  faultAt (d.uses 160 && (d.ofmt == 3 || (d.cross && decide (d.ofmt = 4 ∨ d.ofmt = 5)))) 160

def node0205 : NodeCheck := onLayer fun d =>
  faultAt (d.op == 1 && decide (1 ≤ d.func) && (d.fmtA == 3 || d.fmtB == 3)) 8

def node0206 : NodeCheck := onLayer fun d => faultAt (d.uses 176 && decide (1984 < d.smbase)) 176

/-- The class of a queue code: 0 F, 1 X, 2 V, 3 Y, 4 none (R145). -/
def queueClass (q : Nat) : Nat := if q < 8 then 0 else if q < 12 then 1 else if q < 16 then 2 else if q < 20 then 3 else 4

/-- The classes a queue-end field takes (R145), none included where R440 does not require a queue. R440 does not mark
IN0 and ENGINE's IN1 as required; the operations read them, so that no queue there is 0x0207 too (DESIGN CHOICE,
log 155). -/
def Desc.queueClasses (d : Desc) : List (Nat × List Nat) :=
  let req (b : Bool) : List Nat := if b then [0, 1, 2] else [0, 1, 2, 4]
  match d.op with
  | 1 => [(96, [0, 1, 2]), (104, [0, 1, 2]), (112, if d.init = 2 then [0] else [4])] ++
      (if d.drains then [(120, [3, 4]), (128, if d.statY then [3, 4] else [4])] else []) ++ [(136, [1, 4]), (144, [1, 4])]
  | 2 => [(120, [3, 4]), (128, if d.statY then [3, 4] else [4])]
  | 3 => [(96, [0, 1, 2]), (104, req ([1, 2, 5, 7].contains d.func)), (112, req (d.func == 7)),
      (120, [2, 3, 4]), (128, [2, 3, 4]), (136, [2, 3, 4])]
  | 4 => [(96, [0, 1, 2]), (104, req ([2, 3, 4].contains d.func)), (112, req false), (120, [3, 4]), (128, [3, 4])]
  | 5 => [(96, [0, 1, 2])]
  | _ => []

def node0207 : NodeCheck := onLayer fun d =>
  (d.queueClasses.find? fun e => !e.2.contains (queueClass (fldN d e.1 8))).map Prod.fst

def node0209 : NodeCheck := fun P _ n =>
  let bad (sig : Bool) (e : BitVec 64 × Nat) : Option (Nat × Nat) :=
    let t := sigTally e.1
    if sigEn e.1 && (!P.hasTally t || (sig && decide (tallyIdx t = 0))) then some (e.2, t.toNat) else none
  match n.waits.findSome? (bad false) with
  | some x => some x
  | none => n.sigs.findSome? (bad true)

def node020A : NodeCheck := fun _ c n =>
  let depth := (c.enclosing n.off).length
  let w := n.waits.findSome? fun e => if sigEn e.1 && decide (depth < waitLoop e.1) then some (e.2 + 36, 0) else none
  match w, n.item with
  | some x, _ => some x
  | none, .layer d => (List.range 8).findSome? fun k =>
      if srefEn (d.sref k) && decide (depth < srefLoop (d.sref k)) then some (1024 + 128 * k + 29, 0) else none
  | none, _ => none

/-- R159: nesting, crossing bodies, a misplaced end. -/
def node0301 : NodeCheck := fun _ c n =>
  match n.loop with
  | none => none
  | some (o, d) =>
    let e := loopBodyEnd d
    let outer := c.enclosing o
    if e ≤ o ∨ e % 64 ≠ 0 ∨ c.inside e ∨ 4 ≤ outer.length ∨ outer.any (fun l => decide (loopBodyEnd l.2 < e)) then some (96, 0)
    else none

/-- R160: a target that is not ahead, not a descriptor's, or in another loop body. -/
def node0302 : NodeCheck := fun _ c n =>
  match n.item with
  | .ctl d =>
    let t := brTarget d
    if d.op = 0x82 ∧ (t ≤ n.off ∨ t % 64 ≠ 0 ∨ c.inside t ∨
        ((c.enclosing n.off).head?.map Prod.fst) ≠ ((c.enclosing t).head?.map Prod.fst)) then some (64, 0)
    else none
  | _ => none

def node0403 : NodeCheck := onLayer fun d => faultAt (d.op == 1 && d.in0 == d.in1) 104

/-! ## Mesh routes (R48, log 52) -/

/-- The sources of a timetable's routes: flat cell and X queue. -/
def Prog.routes (P : Prog) : List (Nat × Nat) :=
  (P.image.timetable.flatMap fun t =>
    if ttDeclared t then
      (ttOwners t).map fun o => (384 * ttDie t + o / 4, o % 4) else []).dedup

/-- 0x0402: in some cell of the form, an X queue that the descriptor pushes is the source of no route, or one that it
pops is not the end of exactly one route. -/
def node0402 : NodeCheck := fun P c n =>
  match n.item with
  | .layer d =>
    let named (lo : Nat) : Bool := d.uses lo && queueClass (fldN d lo 8) == 1
    let routes := P.routes
    let ends := routes.filterMap fun r => Config.routeEnd P.image.timetable r.1 r.2
    let bad (lo : Nat) : Bool := named lo && c.form.cellList.any fun x =>
      if lo < 120 then decide (ends.count (x, fldN d lo 8 - 8) ≠ 1) else !routes.contains (x, fldN d lo 8 - 8)
    (([96, 104, 112] ++ (if d.op = 1 then [136, 144] else [])).find? bad).map fun lo => (lo, 0)
  | _ => none

/-- The first descriptor a check finds, in form and offset order (R179). -/
def firstNode (f : NodeCheck) (P : Prog) (cs : List Chain) : Option Loc :=
  cs.findSome? fun c => c.nodes.findSome? fun n =>
    (f P c n).map fun e => { kind := 2, form := c.form.num, off := n.off, field := e.1, detail := e.2 }

/-! ## Forms (R134, R136) -/

/-- 0x0106. -/
def check0106 (P : Prog) (cs : List Chain) : Option Loc :=
  (P.forms.zip cs).findSome? fun e =>
    let r := e.1.1
    if r.chain % 256 ≠ 0 ∨ !P.inPd r.chain (r.chain + 1) then some { kind := 1, form := r.num, off := e.1.2, field := 128 }
    else if e.2.differs then some { kind := 1, form := r.num, off := e.1.2 } else none

/-- 0x0303: the descriptor from which a path goes past the last one. -/
def check0303 (cs : List Chain) : Option Loc :=
  cs.findSome? fun c => c.past.map fun o => { kind := 2, form := c.form.num, off := o }

/-! ## Charts (R103, R105, R131, R147) -/

/-- A reference of a descriptor to a chart of the image. -/
structure ChartRef where
  chain : Chain
  off   : Nat
  desc  : Desc
  k     : Nat
  deriving DecidableEq, Repr

def ChartRef.ref (x : ChartRef) : BitVec 128 := x.desc.sref x.k
def ChartRef.unit (x : ChartRef) : Nat := srefChart x.ref
def ChartRef.lim (x : ChartRef) : Nat := x.chain.refLimit x.off x.ref

/-- The references that load charts, in chain order. -/
def chainRefs (c : Chain) : List ChartRef :=
  c.layers.flatMap fun e => (List.range 8).filterMap fun k =>
    if srefEn (e.2.sref k) && decide (srefChart (e.2.sref k) ≠ 0xFFFFFF) then some ⟨c, e.1, e.2, k⟩ else none

/-- The first chart that a check faults: by form, chain offset and chart offset (R179). -/
def firstChart (f : ChartRef → Option Nat) (cs : List Chain) : Option Loc :=
  cs.findSome? fun c =>
    let bad := (chainRefs c).filterMap fun x => (f x).map fun b => (x.off, x.unit, b)
    let at' := bad.filter fun e => decide (some e.1 = bad.head?.map Prod.fst)
    (at'.map fun e => e.2.1).min?.bind fun u => (at'.find? fun e => decide (e.2.1 = u)).map fun e =>
      { kind := 3, form := c.form.num, off := u, field := e.2.2 }

/-- 0x0501. -/
def check0501 (P : Prog) : List Chain → Option Loc := firstChart fun x =>
  match chartAt P.image.charts x.unit with
  | none => some 0x7FF
  | some c => c.fault

/-- The grants of a form that allow a direction: of the cell store, or of a die's HBM (R101). -/
def Prog.grantsFor (P : Prog) (f : Nat) (write : Bool) (die : Option Nat) : List (Int × Int) :=
  (P.grants.filter fun e => decide (grForm e.1 = f) && (if write then grWrite e.1 else grRead e.1) &&
    match die with
    | none => !grHbm e.1
    | some d => grHbm e.1 && decide (grDie e.1 = d)).map fun e => ((grFirst e.1 : Int), (grEnd e.1 : Int))

/-- 0x0502 (R105 item 5). -/
def check0502 (P : Prog) : List Chain → Option Loc := firstChart fun x =>
  match (chartAt P.image.charts x.unit).bind fun c => c.walk.indexSpan with
  | none => none
  | some (a, b) =>
    if (P.grantsFor x.chain.form.num false none).any fun g => decide (g.1 ≤ a ∧ (b : Int) ≤ g.2) then none else some 0x7FF

/-- 0x0504 (R147). -/
def check0504 (P : Prog) : List Chain → Option Loc := firstChart fun x =>
  (chartAt P.image.charts x.unit).bind fun c => faultAt (decide (c.base ≠ 0)) 32

/-- 0x0507 (R131). -/
def check0507 (P : Prog) : List Chain → Option Loc := firstChart fun x =>
  match chartAt P.image.charts x.unit with
  | none => none
  | some c =>
    if c.space ≠ 3 then none
    else
      let r := P.image.remotes.getD (chRrec c.hdr) 0
      let named := rmValid r && x.chain.form.dies.contains (rmDie r) && (c.write || decide (rmMcast r = 0))
      let inside := (firstOutside x.ref x.chain.form.cells x.lim (32 * c.extent) [(0, 256 * rmLen r)]).isNone
      if !named then some 72 else if inside then none else some 0x7FF

/-! ## The timetable's owners (R28, R122, R125, R177) -/

/-- The die pseudo-channels of the bytes [a, a + n) (R100). -/
def spanChannels (a n : Nat) : List Nat :=
  if n = 0 then []
  else
    let u0 := a / 256
    ((List.range (min 96 ((a % 256 + n + 255) / 256))).map fun k => 32 * ((u0 + k) % 3) + (u0 + k) / 3 % 32).dedup

/-- A chart's EMITs inside its window, from a base, touch a pseudo-channel. Where a chart with INDEX reads depends on
data, so that no channel of its is visible (R170, log 53). -/
def PChart.touches (c : PChart) (base : Int) (pc : Nat) : Bool :=
  let w := c.walk
  w.index.isNone && (List.range w.iters).any fun k =>
    w.body.any fun
      | .emit size disp =>
        let a := base + w.offset k + disp
        inWindow base c.extent a size && (spanChannels a.toNat size).contains pc
      | _ => false

/-- The charts that a reference arms: the one it loads; for a re-arm those persistent ones that the form loads into its
slot (R147). -/
def ChartRef.charts (P : Prog) (x : ChartRef) : List PChart :=
  if x.desc.freeze then []
  else if x.unit ≠ 0xFFFFFF then (chartAt P.image.charts x.unit).toList
  else (((chainRefs x.chain).filter fun y => decide (srefSlot y.ref = srefSlot x.ref)).filterMap fun y =>
    chartAt P.image.charts y.unit).filter PChart.persist

/-- The references of a chain, in chain order. -/
def allRefs (c : Chain) : List ChartRef :=
  c.layers.flatMap fun e => (List.range 8).filterMap fun k => if srefEn (e.2.sref k) then some ⟨c, e.1, e.2, k⟩ else none

/-- Some cell of a form on bench `b` reaches a pseudo-channel through charts of a space and direction, whichever chart
a re-arm finds in its slot. -/
def Prog.reaches (P : Prog) (c : Chain) (b space : Nat) (write : Bool) (pc : Nat) : Bool :=
  (allRefs c).any fun x =>
    let chs := x.charts P
    !chs.isEmpty && (List.range 16).any fun s => (List.range x.lim).any fun i => chs.all fun ch =>
      decide (ch.space = space) && ch.write == write && ch.touches (refBase x.ref (c.form.cellNum (16 * b + s)) i) pc

/-- The owner codes of lane quads that the image's traffic has (R203, R333): its forms with remote charts, and the kinds
of its buckets. -/
def Prog.laneUsers (P : Prog) (cs : List Chain) : List Nat :=
  ((cs.filter fun c => (allRefs c).any fun x => (x.charts P).any fun ch => decide (ch.space = 3)).map fun c => c.form.num) ++
    ((P.image.buckets.filter fun b => bit b 2).map fun b => 32 + fldN b 3 2).dedup

/-- The local quads of the partition (R23, R241). -/
def Prog.localQuads (P : Prog) : List Nat :=
  (List.range 32).filter fun q => P.hasDie (q / 8) && decide (fldN (look 0 P.maps (q / 8)) (2 * (q % 8)) 2 = q / 8)

/-- A lane quad's users (R177, log 53): where every local quad has a record, one that none of them lists. -/
def Prog.laneUnlisted (P : Prog) (cs : List Chain) : Bool :=
  let recs := P.image.timetable.filter fun t => decide (ttType t = 5)
  (P.localQuads.all fun q => recs.any fun t => decide (ttRes t = q)) &&
    (P.laneUsers cs).any fun u => !recs.any fun t => (ttOwners t).contains u

/-- The chain's own lines lie on a pseudo-channel (R134). -/
def Chain.linesOn (c : Chain) (pc : Nat) : Bool :=
  c.nodes.any fun n =>
    (spanChannels (c.form.chain + n.off) (match n.item with | .layer _ => 256 | _ => 64)).contains pc

/-- An agent uses the resource of a record that does not list it as an owner (log 53). The links of a mesh route are
those whose records list it, so that none is unlisted. -/
def Prog.unlisted (P : Prog) (cs : List Chain) (t : TtRec) : Bool :=
  let own := ttOwners t
  let benches (c : Chain) : List Nat := c.form.benchList.filter fun b => decide (b / 24 = ttDie t)
  match ttType t with
  | 1 => cs.any fun c => (benches c).any fun b =>
      (!own.contains (b % 24) && P.reaches c b 2 false (ttRes t)) ||
      (!own.contains 24 && (c.linesOn (ttRes t) || P.reaches c b 1 false (ttRes t)))
  | 2 => cs.any fun c => (benches c).any fun b => !own.contains (b % 24) && P.reaches c b 2 true (ttRes t)
  | 5 => P.laneUnlisted cs
  | 6 => cs.any fun c => (benches c).any fun b => decide (b % 24 = ttRes t) && (List.range 16).any fun s => !own.contains s
  | _ => false

/-- 0x0801 (R177): a resource that two records name has owners and no rota; a record that leaves out an agent. -/
def check0801 (P : Prog) (cs : List Chain) : Option Loc :=
  let key (t : TtRec) : Nat × Nat × Nat := (ttType t, ttRes t, if ttType t = 5 then 0 else ttDie t)
  P.image.timetable.zipIdx.findSome? fun e =>
    if (P.image.timetable.take e.2).any (fun t => decide (key t = key e.1)) || P.unlisted cs e.1 then
      some { kind := 5, off := e.2, detail := ttRes e.1 } else none

/-! ## The weight table and chains (R196) -/

/-- 0x0904. -/
def check0904 (P : Prog) (cs : List Chain) : Option Loc :=
  P.weights.findSome? fun e =>
    let bad (u : Nat) : Bool :=
      let t := wtTally e.1 u
      !P.hasTally t || !tallyCarried t || cs.any fun c => c.nodes.any fun n =>
        !wtBound e.1 c.form.num n.off && n.sigs.any fun s => sigEn s.1 && decide (sigTally s.1 = t)
    (lowestBitOf [faultAt (bad 0) 224, faultAt (bad 1) 240]).map fun f =>
      { kind := 6, form := wtForm e.1, off := e.2, field := f }

end Sys2Proof.Machine
end

