-- ==== Sys2Proof/Machine/Paths.lean ====
section
/-! DEFINITION. Proctor's walks of one step period: the model of R171, its data-dependent decisions (R172, R173) and its deadlocks (R174). -/

namespace Sys2Proof.Machine

/-! ## Entry counts (R440) -/

/-- Counts on queues: a queue code and its entries, `none` where a scalar that is unknown on the walk decides them. -/
abbrev QueueCounts := List (Nat × Option Nat)

/-- V, and r of R227, of a known scalar (R190). -/
def knownV (x : Option F32) : Option Nat := x.map fun v => (truncClamp 1 32 1 v).toNat
/-- A known mode (R190). -/
def knownMode (x : Option F32) : Option Int := x.map fun v => truncClamp (-2147483648) 2147483647 (-1) v

/-- Entries of one side of an engine operation, scale entries included (R44). -/
def sideEntries (steps fmt p : Nat) (window : Bool) : Nat :=
  steps + if fmt = 0 then 0 else if window then (steps + p - 1) / p else 1

/-- Entries of one tile in a drain's format (R62). -/
def tileEntries : Nat → Nat
  | 0 => 64
  | 1 => 32
  | 2 => 32
  | 4 => 128
  | _ => 160

/-- Entries of a SPLIT16 output: a scale entry and the operand entries of each window (R149). -/
def split16Entries (n p : Nat) : Nat :=
  n / (2 * p) * (1 + p) + if n % (2 * p) = 0 then 0 else 1 + (n % (2 * p) + 1) / 2

/-- A drain's pushes. -/
def Desc.drainPushes (d : Desc) : QueueCounts :=
  [(d.out0, some (tileEntries d.ofmt))] ++ if d.statY then [(d.out1, some 8)] else []

/-- The pops and the pushes of a ROW operation (R190-R194, R227). -/
def Desc.rowCounts (d : Desc) (sc : Nat → Option F32) : QueueCounts × QueueCounts :=
  let n := d.steps * 128 / fmtBytes d.fmtA
  let v := knownV (sc (d.ssel 1))
  let mode := knownMode (sc (d.ssel 3))
  let whole := v.map fun v => n / v * v
  let ins (x : Option Nat) : Option Nat := x.map fun k => fmtEntries k d.fmtB
  let out := whole.map fun k => fmtEntries k d.ofmt
  match d.func with
  | 1 =>
    let in1 : QueueCounts := match mode with
      | some 2 => [(d.in1, ins (some n))]
      | some _ => []
      | none => [(d.in1, none)]
    ((d.in0, some d.steps) :: in1, (d.out0, out) :: if mode = some 2 then [] else [(d.out1, if mode.isNone then none else out)])
  | 2 => ([(d.in0, some d.steps), (d.in1, ins (some n))], [(d.out0, out), (d.out1, out)])
  | 3 => ([(d.in0, some d.steps), (d.in1, ins whole), (d.in2, ins whole)], [(d.out0, out), (d.out1, out)])
  | 4 =>
    let outs : QueueCounts := match mode with
      | some 2 => [(d.out0, v.map (4 * ·))]
      | some 3 => [(d.out0, v.map (2 * ·))]
      | some _ => [(d.out0, out), (d.out1, out)]
      | none => [(d.out0, none), (d.out1, none)]
    ([(d.in0, some d.steps), (d.in1, ins (some n)), (d.in2, ins whole)], outs)
  | _ => ([(d.in0, v.map (2 * ·))], [(d.out0, v.map fun r => fmtEntries r d.ofmt)])

/-- The pops and the pushes of an operation (R440). -/
def Desc.opCounts (d : Desc) (sc : Nat → Option F32) : QueueCounts × QueueCounts :=
  let n := d.steps * 128 / fmtBytes d.fmtA
  let e := fmtEntries n d.ofmt
  let b := fmtEntries n d.fmtB
  if d.freeze then ([], [])
  else match d.op with
  | 1 =>
    let a0 := sideEntries d.steps d.fmtA d.promo d.wsclA
    let a1 := sideEntries d.steps d.fmtB d.promo d.wsclB
    ([(d.in0, some a0), (d.in1, some a1)] ++ (if d.init = 2 then [(d.in2, some 128)] else []),
     [(d.fwd0, some a0), (d.fwd1, some a1)] ++ if d.drains then d.drainPushes else [])
  | 2 => ([], d.drainPushes)
  | 3 =>
    match d.func with
    | 1 => ([(d.in0, some d.steps), (d.in1, some b), (d.in2, some b)], [(d.out0, some e), (d.out1, some e)])
    | 2 => ([(d.in0, some d.steps), (d.in1, some 1)], [(d.out0, some e), (d.out1, some e)])
    | 3 => ([(d.in0, some d.steps)], [(d.out0, some n), (d.out1, some n), (d.fwd0, some n)])
    | 4 => ([(d.in0, some d.steps)], [(d.out0, some (split16Entries n d.promo)), (d.out1, some (split16Entries n d.promo))])
    | 5 => ([(d.in0, some d.steps), (d.in1, some b), (d.in2, some b)], [(d.out0, some e), (d.out1, some e)])
    | 6 => ([(d.in0, some d.steps)], [(d.out0, some e), (d.out1, some e)])
    | _ => ([(d.in0, some d.steps), (d.in1, some (6 * n)), (d.in2, some 1)],
            [(d.out0, some e), (d.out1, some e), (d.fwd0, some (6 * n))])
  | 4 => d.rowCounts sc
  | 5 => ([(d.in0, some d.steps)], [])
  | _ => ([], [])

/-! ## The walk's state (R171) -/

/-- A descriptor issued and not complete: its signals, the scalar it writes, and the Y chart slots it armed. -/
structure WOp where
  num    : Nat
  off    : Nat
  sigs   : List (BitVec 64)
  scalar : Option Nat
  slots  : List Nat
  deriving DecidableEq, Repr

structure WLoop where
  off     : Nat
  bodyEnd : Nat
  count   : Nat
  iter    : Nat
  sig     : BitVec 64
  firstOp : Nat
  deriving DecidableEq, Repr

/-- A loop left for the last time, whose body's operations are [lo, hi) (R158). -/
structure WExit where
  off : Nat
  sig : BitVec 64
  lo  : Nat
  hi  : Nat
  deriving DecidableEq, Repr

/-- One form on a walk. `scalars` and `counts` hold what is unknown as `none`; `pending` a register and its writer;
`armed` a Y slot and the descriptor that armed it; `charts` the chart that the path last loaded into a slot;
`pushed` entries by queue; `recent` the last three layer
descriptors and what each has added to tallies (R46); `force`: the blocked descriptor's carried waits count as
met (R174). -/
structure WForm where
  chain   : Chain
  pc      : Nat := 0
  ended   : Bool := false
  joined  : Bool := false
  force   : Bool := false
  loops   : List WLoop := []
  counts  : List (Option Nat) := []
  scalars : List (Option F32) := List.replicate 16 (some 0)
  pending : List (Nat × Nat) := []
  armed   : List (Nat × Nat) := []
  charts  : SMap (Option PChart) := []
  ops     : List WOp := []
  exits   : List WExit := []
  pushed  : SMap Nat := []
  recent  : List (Nat × SMap Nat) := []
  nextOp  : Nat := 0
  deriving DecidableEq, Repr

def WForm.num (f : WForm) : Nat := f.chain.form.num
def WForm.cells (f : WForm) : Nat := f.chain.form.cells
def WForm.iters (f : WForm) : List Nat := f.loops.map WLoop.iter
def WForm.scalar (f : WForm) (k : Nat) : Option F32 := (f.scalars[k]?).join

/-- A layer descriptor issued on a walk: its iteration numbers, the earlier issues through whose signals alone its
waits are met (R46), the charts its references arm, by reference, its operation's pushes, and the first bit of a
required input that names no queue (R440); or a JOIN reached. -/
structure Issue where
  form   : Nat
  off    : Nat
  iters  : List Nat := []
  num    : Nat
  except : List Nat := []
  arms   : List (Nat × PChart) := []
  pushes : QueueCounts := []
  lacks  : Option Nat := none
  join   : Bool := false
  deriving DecidableEq, Repr

/-- What one form's cells push on a queue end and a form's cells pop at the other (R171). `ahead` are entries pushed
that no pop has taken, oldest first, `none` an operation's pushes of unknown count; `want` the pops still to be met,
oldest first, by operation of the popping form. -/
structure QueueLink where
  form  : Nat
  code  : Nat
  src   : Nat
  srcQ  : Nat
  ahead : List (Option Nat) := []
  want  : List (Nat × Option Nat) := []
  deriving DecidableEq, Repr

/-- Match pops with pushes in queue order (R171, R440). Pushes of unknown count match the pops of one operation, their
consumer. Pops of unknown count count as met; they take pushes of unknown count where those come next, and no others
(DESIGN CHOICE, log 62: R440 does not say how later pops of the queue match). -/
def matchQueue : Nat → List (Option Nat) → List (Nat × Option Nat) → List (Option Nat) × List (Nat × Option Nat)
  | 0, a, w => (a, w)
  | _, a, [] => (a, [])
  | fuel + 1, a, (o, k) :: w =>
    match k, a with
    | none, none :: a' => matchQueue fuel a' w
    | none, _ => matchQueue fuel a w
    | some 0, _ => matchQueue fuel a w
    | some _, [] => (a, (o, k) :: w)
    | some _, none :: a' => matchQueue fuel a' w
    | some n, some m :: a' =>
      if n < m then matchQueue fuel (some (m - n) :: a') w
      else if n = m then matchQueue fuel a' w
      else matchQueue fuel a' ((o, some (n - m)) :: w)

def QueueLink.settle (q : QueueLink) : QueueLink :=
  let r := matchQueue (q.ahead.length + q.want.length) q.ahead q.want
  { q with ahead := r.1, want := r.2 }

/-- Pushes that follow those ahead. -/
def QueueLink.push (q : QueueLink) (n : Option Nat) : QueueLink :=
  match q.ahead.getLast?, n with
  | some (some m), some k => { q with ahead := q.ahead.dropLast ++ [some (m + k)] }
  | _, _ => { q with ahead := q.ahead ++ [n] }

/-- A BRANCH or LOOP that a data-dependent value decides (R172). -/
structure Decider where
  form : Nat
  off  : Nat
  loop : Bool
  deriving DecidableEq, Repr

/-- A deadlock (R174): whether it is a cycle, and its location. -/
structure Deadlock where
  cycle : Bool
  loc   : Loc
  deriving DecidableEq, Repr

/-- A walk under way. `forced` is what a deviation walk decides otherwise (R173); `held` a descriptor that one cell
of its form does not complete (R115, log 54). Issues are listed latest first. -/
structure WState where
  forms     : List WForm
  tallies   : SMap Nat
  versions  : List (BitVec 14)
  feeders   : List ((Nat × Nat) × (Nat × Nat)) := []
  links     : List QueueLink := []
  forced    : Option (Decider × Nat) := none
  held      : Option (Nat × Nat) := none
  limit     : Nat
  events    : Nat := 0
  beyond    : Bool := false
  saturated : Option (Nat × Nat × Nat) := none
  deciders  : List Decider := []
  issues    : List Issue := []
  carried   : Option Deadlock := none
  deadlock  : Option Deadlock := none
  deriving DecidableEq, Repr

def WState.modForm (s : WState) (i : Nat) (f : WForm → WForm) : WState := { s with forms := s.forms.modify i f }

/-! ## Tallies and signals -/

def WState.tally (s : WState) (t : BitVec 14) : Nat := look 0 s.tallies t.toNat

/-- The lower of two places. -/
def lowerPlace (a : Option (Nat × Nat × Nat)) (b : Nat × Nat × Nat) : Option (Nat × Nat × Nat) :=
  match a with
  | none => some b
  | some x => if b.1 < x.1 ∨ (b.1 = x.1 ∧ b.2.1 < x.2.1) then some b else some x

/-- An add to a tally from a place; one above 0xF_FFFF saturates (R153). -/
def WState.addTally (s : WState) (form off : Nat) (t : BitVec 14) (n : Nat) : WState :=
  let v := s.tally t + n
  { s with
    tallies := put 0 s.tallies t.toNat (min v 0xFFFFF)
    saturated := if 0xFFFFF < v then lowerPlace s.saturated (form, off, t.toNat) else s.saturated }

/-- A signal's amount on the walk (R171): with SCOPE 0 once for each cell; `all` false leaves one cell's part out. -/
def sigAmount (w : BitVec 64) (cells : Nat) (join all : Bool) : Nat :=
  if sigForm w || join then (if all then sigValue w else 0)
  else sigValue w * (if all then cells else cells - 1)

/-- The signals of an event of a form. -/
def WState.sendSigs (s : WState) (f : WForm) (off : Nat) (join all : Bool) (ws : List (BitVec 64)) : WState :=
  ws.foldl (fun t w => if sigEn w then t.addTally f.num off (sigTally w) (sigAmount w f.cells join all) else t) s

/-! ## What blocks (R139, R152, R156, R160, R162, R164) -/

inductive Blocker where
  | tally (t : BitVec 14) (field : Nat)
  | scalar (r : Nat)
  | slot (k : Nat)
  | ops
  | pop (q : Nat)
  deriving DecidableEq, Repr

/-- A carried tally other than a version tally (R174). -/
def WState.isCarried (s : WState) (t : BitVec 14) : Bool := tallyCarried t && !s.versions.contains t

/-- A wait is not met (R152). -/
def WState.unmet (s : WState) (f : WForm) (e : BitVec 64 × Nat) : Option Blocker :=
  let t := sigTally e.1
  let th := threshold f.iters e.1
  if sigEn e.1 && !(f.force && s.isCarried t) && (decide (s.tally t < th) || decide (0xFFFFF < th)) then
    some (.tally t e.2)
  else none

def WForm.notReady (f : WForm) (rs : List Nat) : Option Blocker :=
  (rs.find? fun r => f.pending.any fun e => decide (e.1 = r)).map .scalar

/-- The Y slots and charts that a reference loads (R139 item 4). -/
def loads (d : Desc) : List (BitVec 128) :=
  if d.freeze then [] else d.srefs.filter fun r => decide (srefChart r ≠ 0xFFFFFF)

/-- The scalars a descriptor waits for (R139 item 3, R162, R163). -/
def Desc.waitsFor (d : Desc) : List Nat :=
  if d.freeze then (if d.slotInd then [d.ssel 0] else []) else d.reads

/-- The waits that hold a form's next descriptor: a JOIN's once it is reached (R164). -/
def WForm.waits (f : WForm) (n : Node) : List (BitVec 64 × Nat) :=
  match n.item with
  | .ctl d => if d.op = 0x84 ∧ !f.joined then [] else n.waits
  | _ => n.waits

/-- All that keeps a form's next descriptor from being issued or handled. -/
def WState.blockers (s : WState) (f : WForm) (n : Node) : List Blocker :=
  (f.waits n).filterMap (s.unmet f) ++
  match n.item with
  | .stray => [.ops]
  | .layer d =>
    (f.notReady d.waitsFor).toList ++
      (((loads d).find? fun r => f.armed.any fun e => decide (e.1 = srefSlot r)).map fun r => .slot (srefSlot r)).toList
  | .ctl d =>
    match d.op with
    | 0x82 => (f.notReady ([brSreg d] ++ if brSrc d then [brSreg2 d] else [])).toList
    | 0x83 => (f.notReady (if setcSrc d then [setcSreg d] else [])).toList
    | 0x84 => if f.joined || f.ops.isEmpty then [] else [.ops]
    | _ => []

/-! ## Completion (R171) -/

/-- The first queue whose pushes do not reach what an operation pops (R48, R171). -/
def WState.starving (s : WState) (f : WForm) (o : WOp) : Option Nat :=
  (s.links.find? fun q => decide (q.form = f.num) && q.want.any fun w => decide (w.1 = o.num)).map QueueLink.code

/-- The on-exit signals of loops whose operations have completed (R158). -/
def WState.fireExits (s : WState) (i : Nat) : WState :=
  match s.forms[i]? with
  | none => s
  | some f =>
    let done (e : WExit) : Bool := f.ops.all fun o => decide (o.num < e.lo ∨ e.hi ≤ o.num)
    ((f.exits.filter done).foldl (fun t e => t.sendSigs f e.off false true [e.sig]) s).modForm i fun g =>
      { g with exits := g.exits.filter fun e => !done e }

/-- An operation of form `i` completes: its signals land, its scalar is there, its Y slots are free. -/
def WState.complete (s : WState) (i : Nat) (o : WOp) : WState :=
  match s.forms[i]? with
  | none => s
  | some f =>
    let s1 := s.sendSigs f o.off false true o.sigs
    let added : SMap Nat := o.sigs.foldl (fun m w =>
      if sigEn w then alter 0 m (sigTally w).toNat (· + sigAmount w f.cells false true) else m) []
    (s1.modForm i fun g => { g with
      ops := g.ops.filter fun x => decide (x.num ≠ o.num)
      pending := g.pending.filter fun e => decide (e.2 ≠ o.num)
      scalars := match o.scalar with
        | some r => g.scalars.set r none
        | none => g.scalars
      armed := g.armed.filter fun e => decide (e.2 ≠ o.num)
      recent := g.recent.map fun e => if e.1 = o.num then (e.1, added) else e }).fireExits i

/-- Every operation of form `i` that can complete does; a held one gives what its other cells give, once. -/
def WState.settleForm (s : WState) (i : Nat) : WState :=
  match s.forms[i]? with
  | none => s
  | some f =>
    f.ops.foldl (fun t o =>
      match t.forms[i]? with
      | none => t
      | some g =>
        if (t.starving g o).isSome then t
        else if t.held = some (f.num, o.num) then
          (t.sendSigs g o.off false false o.sigs).modForm i fun g =>
            { g with ops := g.ops.map fun x => if x.num = o.num then { x with sigs := [] } else x }
        else t.complete i o) s

def WState.settle (s : WState) : WState := (List.range s.forms.length).foldl WState.settleForm s

/-! ## Issue (R139, R171) -/

/-- The charts that a descriptor arms or re-arms, by reference; a frozen one arms none (R163), and a re-arm without a
persistent stream arms nothing (R147). -/
def WForm.arms (f : WForm) (P : Prog) (d : Desc) : List (Nat × PChart) :=
  if d.freeze then []
  else (List.range 8).filterMap fun k =>
    let r := d.sref k
    if srefEn r = false then none
    else (if srefChart r = 0xFFFFFF then (look none f.charts (srefSlot r)).filter PChart.persist
      else chartAt P.image.charts (srefChart r)).map fun c => (k, c)

/-- Put an operation's pushes and pops on the queues, and match them (R171). -/
def WState.countQueues (s : WState) (form num : Nat) (pops pushes : QueueCounts) : WState :=
  let named (c : QueueCounts) : QueueCounts := c.filter fun e => decide (e.1 < 20)
  { s with links := s.links.map fun q =>
    let q1 := (named pushes).foldl (fun (q : QueueLink) e => if q.src = form ∧ q.srcQ = e.1 then q.push e.2 else q) q
    ((named pops).foldl (fun (q : QueueLink) e =>
      if q.form = form ∧ q.code = e.1 then { q with want := q.want ++ [(num, e.2)] } else q) q1).settle }

/-- The first bit of an input that R440 requires in a ROW's mode, where the mode is known and the input names no queue. -/
def Desc.lacks (d : Desc) (sc : Nat → Option F32) : Option Nat :=
  if d.freeze ∨ d.op ≠ 4 then none
  else match d.func, knownMode (sc (d.ssel 3)) with
    | 1, some m => faultAt (decide (m = 2 ∧ queueClass d.in1 = 4)) 104
    | 4, some m => faultAt (decide (m ≠ 2 ∧ m ≠ 3 ∧ queueClass d.in2 = 4)) 112
    | _, _ => none

/-- Issue form `i`'s next layer descriptor. -/
def WState.issueLayer (s : WState) (P : Prog) (i : Nat) (f : WForm) (off : Nat) (d : Desc) : WState :=
  let short (ad : SMap Nat) (w : BitVec 64) : Bool :=
    sigEn w && decide (s.tally (sigTally w) < threshold f.iters w + look 0 ad (sigTally w).toNat)
  let except := (f.recent.filter fun e => short e.2 (d.wait 0) || short e.2 (d.wait 1)).map Prod.fst
  let arms := f.arms P d
  let oc := d.opCounts f.scalar
  let bySlot := arms.map fun e => (srefSlot (d.sref e.1), e.2)
  let fPush : QueueCounts := (bySlot.filter fun e => decide (e.1 < 8)).map fun e => (e.1, some e.2.entries)
  let yPop : QueueCounts := (bySlot.filter fun e => decide (8 ≤ e.1 ∧ e.1 < 12)).map fun e => (8 + e.1, some e.2.entries)
  let pushes := oc.2 ++ fPush
  let scalar := if d.op = 5 then some (d.ssel 0) else none
  let ySlots := (bySlot.filter fun e => decide (8 ≤ e.1) && !e.2.persist).map Prod.fst
  let o : WOp := { num := f.nextOp, off := off, sigs := [d.sig 0, d.sig 1], scalar := scalar, slots := ySlots }
  let g : WForm := { f with
    ops := f.ops ++ [o]
    pushed := pushes.foldl (fun m e => alter 0 m e.1 fun n => n + e.2.getD 0) f.pushed
    pc := off + 256
    force := false
    scalars := match scalar with
      | some k => f.scalars.set k none
      | none => f.scalars
    pending := f.pending ++ (match scalar with
      | some k => [(k, f.nextOp)]
      | none => [])
    armed := f.armed ++ ySlots.map fun k => (k, f.nextOp)
    charts := ((loads d).foldl (fun m r => put none m (srefSlot r) (chartAt P.image.charts (srefChart r))) f.charts)
    recent := (f.recent ++ [(f.nextOp, [])]).drop ((f.recent.length + 1) - 3)
    nextOp := f.nextOp + 1 }
  let is : Issue :=
    { form := f.num, off := off, iters := f.iters, num := f.nextOp, except := except, arms := arms, pushes := oc.2
      lacks := d.lacks f.scalar }
  (({ s with issues := is :: s.issues }.modForm i fun _ => g).countQueues f.num f.nextOp (oc.1 ++ yPop) pushes).settle

/-! ## Control descriptors (R156-R164) -/

/-- The value a deviation walk forces at a place (R173). -/
def WState.decision (s : WState) (x : Decider) : Option Nat :=
  match s.forced with
  | some (y, v) => if y = x then some v else none
  | none => none

def WState.noteDecider (s : WState) (x : Decider) : WState :=
  if s.deciders.contains x then s else { s with deciders := x :: s.deciders }

/-- Ends of passes at the form's place (R156, R158, R159). -/
def WForm.endPasses : Nat → WForm → WForm
  | 0, f => f
  | fuel + 1, f =>
    match f.loops with
    | [] => f
    | l :: ls =>
      if f.pc ≠ l.bodyEnd then f
      else if l.iter + 1 < l.count then { f with pc := l.off + 64, loops := { l with iter := l.iter + 1 } :: ls }
      else WForm.endPasses fuel { f with loops := ls, exits := f.exits ++ [⟨l.off, l.sig, l.firstOp, f.nextOp⟩] }

/-- LOOP (R156, R157). A deviation walk's decision holds at every entry (R173). -/
def WState.doLoop (s : WState) (i : Nat) (f : WForm) (off : Nat) (d : CDesc) : WState :=
  let x : Decider := ⟨f.num, off, true⟩
  let c := if loopCsrc d then (f.counts[loopCreg d]?).join else some (loopCount d)
  let s1 := if c.isNone then s.noteDecider x else s
  let m := min ((s.decision x).getD (c.getD (loopLimit d))) (loopLimit d)
  let g : WForm :=
    if m = 0 ∨ loopBodyEnd d ≤ off + 64 then
      { f with pc := loopBodyEnd d, exits := f.exits ++ [⟨off, cSig d, f.nextOp, f.nextOp⟩] }
    else { f with pc := off + 64, loops := ⟨off, loopBodyEnd d, m, 0, cSig d, f.nextOp⟩ :: f.loops }
  s1.modForm i fun _ => g

/-- BRANCH (R160, R172): `none` when a register it tests is unknown. -/
def branchKnown (f : WForm) (d : CDesc) : Option Bool :=
  if brCmp d = 8 then some true
  else match f.scalar (brSreg d), (if brSrc d ∧ brCmp d < 6 then f.scalar (brSreg2 d) else some (brImm d)) with
    | some a, some b => some (branchTest (brCmp d) a b)
    | _, _ => none

/-- BRANCH. A deviation walk takes its branch at every encounter (R173). -/
def WState.doBranch (s : WState) (i : Nat) (f : WForm) (off : Nat) (d : CDesc) : WState :=
  let x : Decider := ⟨f.num, off, false⟩
  let k := branchKnown f d
  let s1 := if k.isNone then s.noteDecider x else s
  let take := decide (s.decision x = some 1) || k.getD false
  s1.modForm i fun _ => { f with pc := if take then brTarget d else off + 64 }

/-- Handle form `i`'s next control descriptor, which nothing blocks. -/
def WState.doControl (s : WState) (i : Nat) (f0 : WForm) (off : Nat) (d : CDesc) : WState :=
  let f := { f0 with force := false }
  let on (g : WForm) : WState := s.modForm i fun _ => g
  match d.op with
  | 0x80 => on { f with ended := true }
  | 0x81 => s.doLoop i f off d
  | 0x82 => s.doBranch i f off d
  | 0x83 =>
    let v := if setcSrc d then (f.scalar (setcSreg d)).map fun x => (truncClamp 0 16777215 0 x).toNat else some (setcImm d).toNat
    on { f with counts := f.counts.set (fldN d 16 3) v, pc := off + 64 }
  | 0x84 =>
    if f.joined then on { f with joined := false, pc := off + 64 }
    else
      let j : Issue := { form := f.num, off := off, num := f.nextOp, join := true }
      ({ s with issues := j :: s.issues }.sendSigs f off true true [cSig d]).modForm i fun _ => { f with joined := true, recent := [] }
  | 0x85 => on { f with scalars := f.scalars.set (featSreg d) (some (f32OfNat (featurePage.getD (featWord d) 0))), pc := off + 64 }
  | _ => on { f with pc := off + 64 }

/-- The node at a form's place. -/
def WForm.node (f : WForm) : Option Node := f.chain.nodes.find? fun n => decide (n.off = f.pc)

/-- One step of form `i`, unless it has ended or is blocked. A descriptor issued or handled is one model event; the
end of a JOIN's wait is none of its own. -/
def WState.stepForm (s : WState) (P : Prog) (i : Nat) : Option WState :=
  match s.forms[i]? with
  | none => none
  | some f =>
    match f.node with
    | none => none
    | some n =>
      if f.ended || !(s.blockers f n).isEmpty then none
      else if s.events = s.limit ∧ f.joined = false then some { s with beyond := true }
      else
        let s1 := if f.joined then s else { s with events := s.events + 1 }
        let s2 := match n.item with
          | .layer d => s1.issueLayer P i f n.off d
          | .ctl d => s1.doControl i f n.off d
          | .stray => s1
        some ((s2.modForm i (WForm.endPasses 5)).fireExits i)

/-! ## Deadlocks (R174) -/

/-- A blocked descriptor: the form's place in the list, the descriptor's offset, the operation where it has been
issued, and all that blocks it. -/
structure BlockItem where
  ix  : Nat
  num : Nat
  off : Nat
  op  : Option WOp
  why : List Blocker
  deriving DecidableEq, Repr

/-- Every blocked descriptor, lowest form number and chain offset first. -/
def WState.blocked (s : WState) : List BlockItem :=
  s.forms.zipIdx.flatMap fun e =>
    let f := e.1
    let heads := match f.node with
      | some n => if f.ended || (s.blockers f n).isEmpty then [] else [(⟨e.2, f.num, n.off, none, s.blockers f n⟩ : BlockItem)]
      | none => []
    let ops := f.ops.filterMap fun o => (s.starving f o).map fun q => (⟨e.2, f.num, o.off, some o, [.pop q]⟩ : BlockItem)
    (heads ++ ops).mergeSort fun a b => decide (a.off ≤ b.off)

/-- The descriptors that a form's walk can still come to: from the outermost loop it is in, or from its place. -/
def WForm.ahead (f : WForm) : List Node :=
  let lo := match f.loops.getLast? with
    | some l => l.off
    | none => f.pc
  f.chain.nodes.filter fun n => decide (lo ≤ n.off)

/-- The signals that wait on a blocked descriptor: its own and its successors' on the chain, or those of an issued one
and of the loops it keeps open. -/
def WState.sigsOf (s : WState) (b : BlockItem) (own : Bool) : List (BitVec 64) :=
  match s.forms[b.ix]?, b.op with
  | some f, none => (f.ahead.filter fun n => own || decide (n.off ≠ f.pc)).flatMap fun n => n.sigs.map Prod.fst
  | some f, some o => o.sigs ++ (f.exits.filter fun e => decide (e.lo ≤ o.num ∧ o.num < e.hi)).map WExit.sig
  | none, _ => []

/-- The queues that a blocked head and its successors push: F queues through the charts they arm. -/
def WState.pushesOf (s : WState) (P : Prog) (b : BlockItem) : List Nat :=
  match s.forms[b.ix]? with
  | none => []
  | some f => f.ahead.flatMap fun n =>
      match n.item with
      | .layer d => (d.opCounts f.scalar).2.map Prod.fst ++ ((f.arms P d).map fun e => srefSlot (d.sref e.1)).filter fun k => decide (k < 8)
      | _ => []

/-- `b`'s signals or pushes could release `a`. -/
def WState.releases (s : WState) (P : Prog) (a b : BlockItem) : Bool :=
  let same := decide (a = b)
  a.why.any fun
  | .tally t _ => (s.sigsOf b (!same)).any fun w => sigEn w && decide (sigTally w = t)
  | .scalar r => !same && decide (a.ix = b.ix) && match b.op with
      | some o => decide (o.scalar = some r)
      | none => false
  | .slot k => !same && decide (a.ix = b.ix) && match b.op with
      | some o => o.slots.contains k
      | none => false
  | .ops => !same && decide (a.ix = b.ix) && b.op.isSome
  | .pop q => !same && b.op.isNone &&
      (if 8 ≤ q ∧ q < 12 then
        s.feeders.any fun e => decide (e.1 = (a.num, q - 8) ∧ e.2.1 = b.num) && (s.pushesOf P b).contains (8 + e.2.2)
      else decide (a.ix = b.ix) && (s.pushesOf P b).contains q)

/-- Follow the trail of R174: true with its members when it comes back to one, false with the whole trail when
nothing could release the last. -/
def WState.trail (s : WState) (P : Prog) (items : List BlockItem) : Nat → List BlockItem → Bool × List BlockItem
  | 0, tr => (false, tr)
  | fuel + 1, tr =>
    match tr.getLast? with
    | none => (false, tr)
    | some x =>
      match items.find? (s.releases P x) with
      | none => (false, tr)
      | some y => if tr.contains y then (true, tr.drop (tr.idxOf y)) else s.trail P items fuel (tr ++ [y])

/-- The deadlock of the blocked descriptors (R174, R180). -/
def WState.findDeadlock (s : WState) (P : Prog) (items : List BlockItem) : Option Deadlock :=
  match items with
  | [] => none
  | x :: _ =>
    let r := s.trail P items (items.length + 1) [x]
    let members := if r.1 then items.filter fun b => r.2.contains b else r.2
    let a := members.headD x
    let b := if r.1 then members.getD 1 a else members.getLastD a
    let w : Nat × Nat := match a.why with
      | .tally t f :: _ => (f, t.toNat)
      | _ => (0x7FF, 0)
    some { cycle := r.1, loc := { kind := 2, form := a.num, off := a.off, field := w.1, form2 := b.num, off2 := b.off, detail := w.2 } }

/-- The forms whose blocked descriptor waits for a carried tally other than a version tally, in either wait. -/
def WState.carriedHeads (s : WState) (items : List BlockItem) : List Nat :=
  (items.filter fun b => b.op.isNone && b.why.any fun
    | .tally t _ => s.isCarried t
    | _ => false).map BlockItem.ix

/-- Run a walk to its end, its deadlock or its limit (R171, R174, R175). -/
def WState.run (P : Prog) : Nat → WState → WState
  | 0, s => s
  | fuel + 1, s =>
    if s.beyond then s
    else match (List.range s.forms.length).findSome? (s.stepForm P) with
    | some t => WState.run P fuel t
    | none =>
      if s.forms.all WForm.ended then s
      else
        let items := s.blocked
        let heads := s.carriedHeads items
        if heads.isEmpty then { s with deadlock := s.findDeadlock P items }
        else
          let c := match s.carried with
            | some d => some d
            | none => s.findDeadlock P items
          WState.run P fuel { heads.foldl (fun t i => t.modForm i fun f => { f with force := true }) s with carried := c }

/-- The form whose cells hold a cell. -/
def Prog.formAt (P : Prog) (c : Nat) : Option Nat :=
  (P.forms.find? fun e => bit e.1.benches (c / 16)).map fun e => e.1.num

/-- Which form and X queue feeds which (R48, R171, log 52): ((form, queue) at the far end, (form, queue) at the source). -/
def Prog.feeders (P : Prog) : List ((Nat × Nat) × (Nat × Nat)) :=
  (P.routes.filterMap fun r =>
    match Config.routeEnd P.image.timetable r.1 r.2, P.formAt r.1 with
    | some e, some f => (P.formAt e.1).map fun g => ((g, e.2), (f, r.2))
    | _, _ => none).dedup

/-- The tallies at a walk's start (R171, R198): version tallies at USES, tally 0x000 of each die at 1. -/
def Prog.startTallies (P : Prog) : SMap Nat :=
  P.weights.foldl (fun m e => put 0 (put 0 m (wtTally e.1 0).toNat (wtUses e.1)) (wtTally e.1 1).toNat (wtUses e.1))
    ((List.range 4).foldl (fun m d => put 0 m (4096 * d) 1) [])

/-- A walk of the image with a limit of model events, a decision forced, and a descriptor held. -/
def Prog.walk (P : Prog) (cs : List Chain) (limit : Nat) (forced : Option (Decider × Nat)) (held : Option (Nat × Nat)) : WState :=
  WState.run P (4 * limit + 64)
    { forms := cs.map fun c => { chain := c, counts := (List.range 8).map fun m => some (c.form.cinit m).toNat }
      tallies := P.startTallies
      versions := P.weights.flatMap fun e => [wtTally e.1 0, wtTally e.1 1]
      feeders := P.feeders
      links := (cs.flatMap fun c => ((List.range 20).filter fun q => decide (q < 8 ∨ 12 ≤ q)).map fun q =>
          (⟨c.form.num, q, c.form.num, q, [], []⟩ : QueueLink)) ++
        P.feeders.map fun e => (⟨e.1.1, 8 + e.1.2, e.2.1, 8 + e.2.2, [], []⟩ : QueueLink)
      forced := forced, held := held, limit := limit }

end Sys2Proof.Machine
end

