-- ==== Sys2Proof/Machine/PathChecks.lean ====
section
/-! DEFINITION. Proctor's checks over its walks: reasons 0x0207, 0x0208, 0x0401, 0x0404, 0x0405, 0x0503, 0x0505, 0x0506, 0x0601-0x0603, 0x0703, 0x0805, 0x0902, 0x0903 (R182). -/

namespace Sys2Proof.Machine

/-- A fault found: its reason and its location. -/
abbrev Finding := Nat × Loc

/-- A location in one descriptor, and in two. -/
def atDesc (f off : Nat) : Loc := { kind := 2, form := f, off := off }
def atDescs (f off f2 off2 : Nat) : Loc := { kind := 2, form := f, off := off, form2 := f2, off2 := off2 }

/-- The layer descriptor of a chain at an offset. -/
def Chain.desc (c : Chain) (off : Nat) : Desc :=
  ((c.layers.find? fun e => decide (e.1 = off)).map Prod.snd).getD 0

/-! ## One form's path (R46, R54, R56, R66, R147, R148, R176) -/

/-- A queue end with the agent that has it: the code, the consumer end or the producer end, the agent (R45, R46): a
unit, or the fetch engine (10) or the gather unit (11) that runs a stream (R109). -/
structure QueueEnd where
  code  : Nat
  pops  : Bool
  agent : Nat
  deriving DecidableEq, Repr

/-- What a descriptor on the path uses: its queue ends, and the banks it uses with the agent's bit in the bank map. -/
structure Uses where
  off   : Nat
  num   : Nat
  ends  : List QueueEnd := []
  banks : List (Nat × Nat) := []
  deriving DecidableEq, Repr

/-- What is carried along one form's path: the uses of the last three layer descriptors and of persistent streams by
slot; the slots with a persistent stream; the last ramp; by tile slot the ENGINEs not drained, the last mode, the
count of compare-and-count. -/
structure Path where
  last    : List Uses := []
  persist : List (Nat × Uses) := []
  ramp    : Option Nat := none
  open'   : SMap (List Nat) := []
  modes   : SMap (Option Nat) := []
  counts  : SMap Nat := []
  found   : List Finding := []
  deriving DecidableEq, Repr

/-- The unit of an operation (R140, R144): 1 engine, 3 vector engine, 4 row engine. -/
def Desc.unit (d : Desc) : Nat := if d.op = 2 then 1 else if d.op = 5 then 3 else d.op

/-- The queue ends an operation's unit has. -/
def Desc.unitEnds (d : Desc) : List QueueEnd :=
  if d.freeze ∨ d.op = 0 ∨ d.op = 6 then []
  else
    let field (pops : Bool) (lo : Nat) : Option QueueEnd :=
      if d.uses lo && decide (fldN d lo 8 < 20) then some ⟨fldN d lo 8, pops, d.unit⟩ else none
    [96, 104, 112].filterMap (field true) ++ [120, 128, 136, 144].filterMap (field false)

/-- The queue end of a stream. -/
def streamEnd (slot : Nat) (c : PChart) : QueueEnd :=
  ⟨if slot < 8 then slot else 8 + slot, decide (8 ≤ slot),
   if c.walk.index.isSome || (decide (c.space = 3) && !c.write) then 11 else 10⟩

/-- The banks a stream uses with its agent's bit: the fetch engine's EMITs in the cell store, the gather unit's index
array (R109, R148). Element reads that an index decides are not seen. -/
def streamBanks (c : Chain) (off : Nat) (r : BitVec 128) (ch : PChart) : List (Nat × Nat) :=
  if ch.walk.index.isSome then ch.indexBanks.map fun b => (b, 1)
  else if ch.space ≠ 0 then []
  else
    -- a bank depends on the base modulo 1,024, and so on n and i modulo 32
    let bases := (List.range (min 32 c.form.cells)).flatMap fun n =>
      (List.range (min 32 (c.refLimit off r))).map fun i => refBase r n i % 1024
    ((bases.dedup).flatMap ch.banks).dedup.map fun b => (b, 0)

/-- A bank map withholds a bank from an agent (R148). -/
def Desc.withholds (d : Desc) (e : Nat × Nat) : Bool := !bit d.bankMap (5 * e.1 + e.2)

/-- The first window outside the grants for a reference (R102, R147): its base. -/
def Prog.outside (P : Prog) (c : Chain) (off : Nat) (r : BitVec 128) (ch : PChart) : Option Int :=
  let try' (gs : List (Int × Int)) : Option Int :=
    (firstOutside r c.form.cells (c.refLimit off r) (32 * ch.extent) gs).map fun e => refBase r e.1 e.2
  if ch.space = 3 then try' [(0, 256 * rmLen (P.image.remotes.getD (chRrec ch.hdr) 0))]
  else if ch.space = 0 then try' (P.grantsFor c.form.num ch.write none)
  else c.form.dies.findSome? fun d => try' (P.grantsFor c.form.num ch.write (some d))

def loc0503 (f off k : Nat) (base : Int) : Loc :=
  { kind := 2, form := f, off := off, field := 1024 + 128 * k + 32, detail := (base % 2 ^ 32).toNat }

/-- The tile slot checks of an operation that is not frozen (R54, R66, R176). -/
def Path.slotChecks (p : Path) (f off : Nat) (d : Desc) : Path :=
  if d.op ≠ 1 ∧ d.op ≠ 2 then p
  else if d.slotInd then
    { p with
      counts := []
      modes := if d.op = 1 then [] else p.modes
      open' := if d.op = 2 ∨ d.drains then [] else p.open' }
  else
    let s := d.slot
    let keep := decide (d.init = 1)
    let c := d.steps * d.rank + if keep then look 0 p.counts s else 0
    let undrained := look [] p.open' s
    let e1 : List Finding := if d.op = 1 ∧ keep = false then undrained.map fun o => (0x0601, atDescs f o f off) else []
    let e2 : List Finding := match look none p.modes s with
      | some m => if d.op = 1 ∧ keep ∧ m ≠ d.func then [(0x0602, atDesc f off)] else []
      | none => []
    let e3 : List Finding := if d.op = 1 ∧ d.func = 5 ∧ 2 ^ 32 < c then [(0x0603, atDesc f off)] else []
    { p with
      found := p.found ++ e1 ++ e2 ++ e3
      open' := put [] p.open' s (if d.op = 1 ∧ d.drains = false then
        (if undrained.contains off then undrained else undrained ++ [off]) else [])
      modes := if d.op = 1 then put none p.modes s (some d.func) else p.modes
      counts := if d.op = 1 then put 0 p.counts s (if d.func = 5 then c else 0) else p.counts }

/-- One issue of the form's path. -/
def Path.step (P : Prog) (c : Chain) (p : Path) (i : Issue) : Path :=
  if i.join then { p with last := [] }
  else
    let d := c.desc i.off
    let f := c.form.num
    let refs := if d.freeze then [] else (List.range 8).filter fun k => srefEn (d.sref k)
    let slots := refs.map fun k => srefSlot (d.sref k)
    let chain (x : PChart) (k : Nat) : List (Nat × Nat) := streamBanks c i.off (d.sref k) x
    let own : Uses :=
      { off := i.off, num := i.num
        ends := i.arms.map (fun e => streamEnd (srefSlot (d.sref e.1)) e.2) ++ d.unitEnds
        banks := (i.arms.flatMap fun e => chain e.2 e.1).dedup }
    -- persistent streams count as agents of every descriptor until they are disarmed
    let still := (p.persist.filter fun e => !slots.contains e.1).map Prod.snd
    let me : Uses := { own with
      ends := own.ends ++ still.flatMap Uses.ends, banks := (own.banks ++ still.flatMap Uses.banks).dedup }
    let others := p.last.filter fun u => !i.except.contains u.num
    let e0207 : List Finding := (i.lacks.map fun b => (0x0207, { atDesc f i.off with field := b })).toList
    -- a chained ramp
    let ramped := d.op = 1 ∧ d.freeze = false
    let e0208 : List Finding := match p.ramp with
      | some r => if ramped ∧ d.chain ∧ r ≠ d.ramp then [(0x0208, { atDesc f i.off with field := 24 })] else []
      | none => []
    -- queue ends
    let twice : List Finding := if slots.dedup.length < slots.length then [(0x0401, atDescs f i.off f i.off)] else []
    let e0401 : List Finding := others.filterMap fun u =>
      if u.ends.any fun x => me.ends.any fun y => decide (x.code = y.code ∧ x.pops = y.pops ∧ x.agent ≠ y.agent) then
        some (0x0401, atDescs f u.off f i.off) else none
    -- bank maps
    let e0404 : List Finding := if others.any fun u => u.banks.any d.withholds then
      [(0x0404, { atDesc f i.off with field := 512 })] else []
    let e0405 : List Finding := if own.banks.any d.withholds then [(0x0405, atDesc f i.off)] else []
    -- re-arms
    let rearms := refs.filter fun k => decide (srefChart (d.sref k) = 0xFFFFFF)
    let e0505 : List Finding := rearms.filterMap fun k =>
      if i.arms.any fun e => decide (e.1 = k) then none
      else some (0x0505, { atDesc f i.off with field := 1024 + 128 * k })
    let e0503 : List Finding := rearms.filterMap fun k =>
      match i.arms.find? fun e => decide (e.1 = k) with
      | some e => (P.outside c i.off (d.sref k) e.2).map fun b => (0x0503, loc0503 f i.off k b)
      | none => none
    let persist := (p.persist.filter fun e => !slots.contains e.1) ++ (i.arms.filter fun e => e.2.persist).map fun e =>
      (srefSlot (d.sref e.1), ({ off := i.off, num := i.num, ends := [streamEnd (srefSlot (d.sref e.1)) e.2], banks := chain e.2 e.1 } : Uses))
    let p1 : Path := { p with
      last := (p.last ++ [me]).drop ((p.last.length + 1) - 3)
      persist := persist
      ramp := if ramped then some d.ramp else p.ramp
      found := p.found ++ e0207 ++ e0208 ++ twice ++ e0401 ++ e0404 ++ e0405 ++ e0505 ++ e0503 }
    if d.freeze then p1 else p1.slotChecks f i.off d

/-- The issues of one form on a walk, in order. -/
def WState.path (w : WState) (f : Nat) : List Issue := (w.issues.filter fun i => decide (i.form = f)).reverse

/-- What one form's path shows. -/
def pathFindings (P : Prog) (c : Chain) (w : WState) : List Finding :=
  ((w.path c.form.num).foldl (Path.step P c) {}).found

/-- 0x0503 for the references that load charts of grants, whatever the walk. -/
def loadWindows (P : Prog) (cs : List Chain) : List Finding :=
  cs.flatMap fun c => (chainRefs c).filterMap fun x =>
    match chartAt P.image.charts x.unit with
    | none => none
    | some ch => if x.desc.freeze ∨ ch.space = 3 then none
      else (P.outside c x.off x.ref ch).map fun b => (0x0503, loc0503 c.form.num x.off x.k b)

/-! ## Weight buffers (R169, R196, R197) -/

/-- The windows of an arming at its iteration in the cells on a die, without repeats. -/
def armWindows (c : Chain) (r : BitVec 128) (iters : List Nat) (ch : PChart) (die : Nat) : List (Int × Int) :=
  ((c.form.cellList.zipIdx.filter fun e => decide (dieOf e.1 = die)).map fun e =>
    let b := srefBase r e.2 iters
    (b, b + 32 * ch.extent)).dedup

/-- A stretch of a Y queue: entries [from', to') written by an arming, or pushed by an operation. -/
structure Stretch where
  queue : Nat
  from' : Nat
  to'   : Nat
  issue : Issue
  ref   : Nat := 0
  chart : Option PChart := none
  deriving DecidableEq, Repr

/-- Stretches of items with their counts, in queue order. -/
def stretches (items : List (Nat × Nat × Issue × Nat × Option PChart)) : List Stretch :=
  (items.foldl (fun (a : List Stretch × SMap Nat) e =>
    let at' := look 0 a.2 e.1
    (⟨e.1, at', at' + e.2.1, e.2.2.1, e.2.2.2.1, e.2.2.2.2⟩ :: a.1, put 0 a.2 e.1 (at' + e.2.1))) ([], [])).1.reverse

/-- The write armings of a path, with the stretches of Y entries they take. -/
def allTakers (c : Chain) (is : List Issue) : List Stretch :=
  stretches (is.flatMap fun i => i.arms.filterMap fun e =>
    let q := srefSlot ((c.desc i.off).sref e.1)
    if 8 ≤ q then some (8 + q, e.2.entries, i, e.1, some e.2) else none)

/-- Those in DH. -/
def takers (c : Chain) (is : List Issue) : List Stretch :=
  (allTakers c is).filter fun s =>
    match s.chart with
    | some ch => decide (ch.space = 2)
    | none => false

/-- The operations of a path with the stretches of Y entries they push. Pushes of unknown count match their consumer's
pops (R440): they go up to the end of the stretch that an arming takes there. -/
def pushers (c : Chain) (is : List Issue) : List Stretch :=
  let takes := allTakers c is
  ((is.flatMap fun i => (i.pushes.filter fun e => decide (16 ≤ e.1 ∧ e.1 < 20)).map fun e => (i, e)).foldl
    (fun (a : List Stretch × SMap Nat) (x : Issue × (Nat × Option Nat)) =>
      let q := x.2.1
      let from' := look 0 a.2 q
      let to' := match x.2.2 with
        | some n => from' + n
        | none => ((takes.find? fun t => decide (t.queue = q ∧ t.from' ≤ from' ∧ from' < t.to')).map Stretch.to').getD from'
      (⟨q, from', to', x.1, 0, none⟩ :: a.1, put 0 a.2 q to')) ([], [])).1.reverse

/-- 0x0902 and 0x0903 for one issue that writes through an arming (R169). `first` gives the iterations at the
descriptor's first issue. -/
def weightFindings (P : Prog) (c : Chain) (first : Nat → List Nat) (i : Issue) (s : Stretch) : List Finding :=
  let d := c.desc i.off
  match s.chart with
  | none => []
  | some ch => P.weights.flatMap fun e =>
      let w := e.1
      let wins := armWindows c ((c.desc s.issue.off).sref s.ref) s.issue.iters ch (wtDie w)
      let hits (a : Nat) : Bool := wins.any fun x => decide (x.1 < a + 256 * wtLen w ∧ (a : Int) < x.2)
      let optim (u : Nat) : Bool := decide (d.op = 3 ∧ d.func = 7) && [d.wait 0, d.wait 1].any fun x =>
        sigEn x && decide (sigTally x = wtTally w u ∧ wtUses w ≤ threshold (first i.off) x)
      let l : Loc := { atDesc c.form.num i.off with detail := e.2 }
      (if hits (wtGrad w) && !wtBound w c.form.num i.off then [(0x0902, l)] else []) ++
      (if (hits (wtVer w 0) && !optim 0) || (hits (wtVer w 1) && !optim 1) then [(0x0903, l)] else [])

/-- What one form's path writes of the weight table's buffers. -/
def writeFindings (P : Prog) (c : Chain) (w : WState) : List Finding :=
  if P.weights.isEmpty then []
  else
    let is := (w.path c.form.num).filter fun i => !i.join
    let first (off : Nat) : List Nat := ((is.find? fun i => decide (i.off = off)).map Issue.iters).getD []
    let ts := takers c is
    let ps := pushers c is
    ts.flatMap fun t => weightFindings P c first t.issue t ++
      (ps.filter fun p => decide (p.queue = t.queue) && rangesMeet p.from' p.to' t.from' t.to').flatMap fun p =>
        weightFindings P c first p.issue t

/-! ## Overlapping windows (R115, log 54) -/

/-- An arming on a walk, with its windows by die (space CS: by cell). A write arming in RM stands for the arrivals it
makes at its record's window: every member of a bell group loads the same image (R131). `arrives`: ATALLY of such. -/
structure Arming where
  issue   : Issue
  store   : Bool
  write   : Bool
  wins    : List (Nat × Int × Int)
  arrives : Option (BitVec 14) := none
  waits   : List (BitVec 64) := []
  deriving DecidableEq, Repr

/-- The armings of a walk, in issue order. Remote reads are left out: what they read is on another device (log 54). -/
def armingsOf (P : Prog) (cs : List Chain) (w : WState) : List Arming :=
  w.issues.reverse.flatMap fun i =>
    match cs.find? fun c => decide (c.form.num = i.form) with
    | none => []
    | some c => i.arms.filterMap fun e =>
        let r := (c.desc i.off).sref e.1
        let ch := e.2
        let waits := [(c.desc i.off).wait 0, (c.desc i.off).wait 1]
        let span (n : Nat) : Int × Int := (srefBase r n i.iters, srefBase r n i.iters + 32 * ch.extent)
        if ch.space = 3 then
          let rec' := P.image.remotes.getD (chRrec ch.hdr) 0
          if ch.write then
            some ⟨i, false, true, ((List.range c.form.cells).map fun n =>
              (rmDdie rec', rmBase rec' + (span n).1, rmBase rec' + (span n).2)).dedup, some (rmTally rec'), waits⟩
          else none
        else if ch.space = 0 then
          some ⟨i, true, ch.write, c.form.cellList.zipIdx.map fun x => (x.1, span x.2), none, waits⟩
        else some ⟨i, false, ch.write, c.form.dies.flatMap fun d => (armWindows c r i.iters ch d).map fun x => (d, x.1, x.2),
          none, waits⟩

/-- Two armings have overlapping windows, at least one of them written: those of different descriptors, and a read
and a write of one descriptor, of one issue or of two. -/
def Arming.clash (a b : Arming) : Bool :=
  (a.write || b.write) && a.store == b.store &&
  (decide ((a.issue.form, a.issue.off) ≠ (b.issue.form, b.issue.off)) || a.write != b.write) &&
  a.wins.any fun x => b.wins.any fun y => decide (x.1 = y.1 ∧ x.2.1 < y.2.2 ∧ y.2.1 < x.2.2)

/-- A descriptor waits for an arrival (R115, R132). -/
def Arming.awaits (a : Arming) (t : BitVec 14) : Bool :=
  a.waits.any fun w => sigEn w && decide (sigTally w = t)

/-- The location of a pair, lower place first (R179). -/
def Arming.pair (a b : Arming) : Finding :=
  if a.issue.form < b.issue.form ∨ (a.issue.form = b.issue.form ∧ a.issue.off ≤ b.issue.off) then
    (0x0506, atDescs a.issue.form a.issue.off b.issue.form b.issue.off)
  else (0x0506, atDescs b.issue.form b.issue.off a.issue.form a.issue.off)

/-- 0x0506 (R115, log 54). Armings of one issue have no order. An arrival is ordered before a reader that waits for its
ATALLY. Of two others, the later one's descriptor issues although one cell does not complete the earlier one's. -/
def overlapFindings (P : Prog) (cs : List Chain) (forced : Option (Decider × Nat)) (w : WState) : List Finding :=
  let as := armingsOf P cs w
  as.zipIdx.flatMap fun e =>
    let a := e.1
    let later := (as.drop (e.2 + 1)).filter a.clash
    let remote := later.filter fun b => a.arrives.isSome != b.arrives.isSome
    let loose := remote.filter fun b =>
      match a.arrives, b.arrives with
      | some t, _ => !b.awaits t
      | _, some t => !a.awaits t
      | _, _ => false
    let here := later.filter fun b => a.arrives.isNone && b.arrives.isNone
    let same := here.filter fun b => decide (b.issue.num = a.issue.num ∧ b.issue.form = a.issue.form)
    let after := here.filter fun b => !same.contains b
    let open' := if after.isEmpty then []
      else
        let held := P.walk cs w.limit forced (some (a.issue.form, a.issue.num))
        after.filter fun b => held.issues.any fun i => decide (i.form = b.issue.form ∧ i.num = b.issue.num ∧ i.join = false)
    (loose ++ same ++ open').map a.pair

/-! ## Declared counts of rotas (R178) -/

/-- 0x0805: a route's pushes on a walk against its declared count (R178). Of a walk that its limit cuts off, an excess
alone is seen. -/
def rotaFindings (P : Prog) (w : WState) : List Finding :=
  P.image.timetable.zipIdx.flatMap fun e =>
    let t := e.1
    if ttDeclared t then
      (ttOwners t).zipIdx.filterMap fun o =>
        let n := match P.formAt (384 * ttDie t + o.1 / 4) with
          | some f => ((w.forms.find? fun g => decide (g.num = f)).map fun g => look 0 g.pushed (8 + o.1 % 4)).getD 0
          | none => 0
        if (if w.beyond then ttCount t o.2 < n else n ≠ ttCount t o.2) then some (0x0805, { kind := 5, off := e.2, field := 144 + 64 * o.2, detail := n }) else none
    else []

/-! ## A walk's findings -/

def walkFindings (P : Prog) (cs : List Chain) (forced : Option (Decider × Nat)) (w : WState) : List Finding :=
  cs.flatMap (fun c => pathFindings P c w ++ writeFindings P c w) ++ overlapFindings P cs forced w ++ rotaFindings P w ++
  match w.saturated with
  | some (f, off, t) => [(0x0703, { atDesc f off with detail := t })]
  | none => []

end Sys2Proof.Machine
end

