-- ==== Sys2Proof/Machine/Proctor.lean ====
section
/-! DEFINITION. Proctor: the order of its checks, its walks, its warnings and its verdict (R167-R182). -/

namespace Sys2Proof.Machine

/-! ## The first pass (R179) -/

/-- The checks that need no walk, in ascending reason code, after the header and the sections. -/
def firstPass (P : Prog) (cs : List Chain) : List (Nat × (Unit → Option Loc)) :=
  let node (f : NodeCheck) (_ : Unit) : Option Loc := firstNode f P cs
  [(0x0101, fun _ => check0101 P), (0x0102, fun _ => check0102 P), (0x0103, fun _ => check0103 P),
   (0x0104, fun _ => check0104 P), (0x0105, fun _ => check0105 P), (0x0106, fun _ => check0106 P cs),
   (0x0107, fun _ => check0107 P), (0x0108, fun _ => check0108 P),
   (0x0201, node node0201), (0x0202, node node0202), (0x0203, node node0203), (0x0204, node node0204),
   (0x0205, node node0205), (0x0206, node node0206), (0x0207, node node0207), (0x0209, node node0209),
   (0x020A, node node020A), (0x0301, node node0301), (0x0302, node node0302), (0x0303, fun _ => check0303 cs),
   (0x0402, node node0402), (0x0403, node node0403),
   (0x0501, fun _ => check0501 P cs), (0x0502, fun _ => check0502 P cs), (0x0504, fun _ => check0504 P cs),
   (0x0507, fun _ => check0507 P cs), (0x0508, fun _ => check0508 P),
   (0x0801, fun _ => check0801 P cs), (0x0802, fun _ => check0802 P), (0x0803, fun _ => check0803 P),
   (0x0804, fun _ => check0804 P), (0x0901, fun _ => check0901 P), (0x0904, fun _ => check0904 P cs),
   (0x0905, fun _ => check0905 P)]

/-- The first check that finds a fault. -/
def firstFault : List (Nat × (Unit → Option Loc)) → Option Finding
  | [] => none
  | (r, f) :: l =>
    match f () with
    | some x => some (r, x)
    | none => firstFault l

/-! ## Walks (R173, R175) -/

/-- The model events of the reference walk, those of all deviation walks, and the number of deviation walks. -/
def refLimit : Nat := 2 ^ 26
def devLimit : Nat := 2 ^ 28
def devWalks : Nat := 4096

/-- The decisions that a deciding descriptor gives deviation walks: a branch taken, a loop that latches 0 and 1. -/
def Decider.choices (x : Decider) : List (Decider × Nat) := if x.loop then [(x, 0), (x, 1)] else [(x, 1)]

/-- Decisions not yet walked, in ascending form number and chain offset. -/
def mergeChoices (todo new : List (Decider × Nat)) : List (Decider × Nat) :=
  (todo ++ new).mergeSort fun a b =>
    decide (a.1.form < b.1.form ∨ (a.1.form = b.1.form ∧ (a.1.off < b.1.off ∨ (a.1.off = b.1.off ∧ a.2 ≤ b.2))))

/-- The deviation walks made, each with its decision, and whether walks were skipped. -/
def deviations (P : Prog) (cs : List Chain) : Nat → List (Decider × Nat) → List Decider → Nat →
    List ((Decider × Nat) × WState) → List ((Decider × Nat) × WState) × Bool
  | 0, todo, _, _, acc => (acc.reverse, !todo.isEmpty)
  | _, [], _, _, acc => (acc.reverse, false)
  | fuel + 1, x :: todo, known, total, acc =>
    if devLimit ≤ total then (acc.reverse, true)
    else
      let w := P.walk cs (devLimit - total) (some x) none
      let new := w.deciders.filter fun d => !known.contains d
      let r := deviations P cs fuel (mergeChoices todo (new.flatMap Decider.choices)) (known ++ new)
        (total + w.events) ((x, w) :: acc)
      (r.1, r.2 || w.beyond)

/-! ## The verdict (R174, R179-R182) -/

/-- The place of a location for R179's order. -/
def Loc.key (l : Loc) : List Nat := [l.form, l.off, l.form2, l.off2, l.field, l.detail]

def keyLe : List Nat → List Nat → Bool
  | [], _ => true
  | _, [] => false
  | a :: x, b :: y => decide (a < b) || (decide (a = b) && keyLe x y)

/-- The first of the locations found for a reason. -/
def firstOf (fs : List Finding) (r : Nat) : Option Loc :=
  ((fs.filter fun f => decide (f.1 = r)).map Prod.snd).foldl (fun a l =>
    match a with
    | none => some l
    | some x => if keyLe x.key l.key then a else some l) none

/-- The walk-dependent reasons in ascending order (R179); ahead of them 0x0207, for an input that R440 requires in a
ROW's mode, which only a walk knows (R170, log 59). -/
def walkReasons : List Nat :=
  [0x0207, 0x0208, 0x0401, 0x0404, 0x0405, 0x0503, 0x0505, 0x0506, 0x0601, 0x0602, 0x0603, 0x0701, 0x0702, 0x0703, 0x0704,
   0x0805, 0x0902, 0x0903]

/-- The first descriptor that sets SLOTIND (R176, R180). -/
def slotIndAt (cs : List Chain) : Option Loc :=
  cs.findSome? fun c => (c.layers.find? fun e => e.2.slotInd).map fun e => { atDesc c.form.num e.1 with field := 23 }

/-- The verdict over the walks. No deviation walk follows a reference walk that passes its limit, which rejects the image
(R175; DESIGN CHOICE, log 63: the manual does not say whether they are made). -/
def walkVerdict (P : Prog) (cs : List Chain) : Report :=
  let w := P.walk cs refLimit none none
  let ds := if w.beyond then ([], false)
    else deviations P cs devWalks (mergeChoices [] (w.deciders.flatMap Decider.choices)) w.deciders 0 []
  let fs := loadWindows P cs ++ walkFindings P cs none w ++ (ds.1.flatMap fun e => walkFindings P cs (some e.1) e.2) ++
    (match w.deadlock with
      | some d => [(if d.cycle then 0x0701 else 0x0702, d.loc)]
      | none => []) ++
    if w.beyond then [(0x0704, {})] else []
  let walks := ds.1.length
  match walkReasons.findSome? fun r => (firstOf fs r).map fun l => (r, l) with
  | some (r, l) => { reason := r, loc := l, walks := walks }
  | none =>
    let cyc := ds.1.findSome? fun e => e.2.deadlock.map Deadlock.loc
    let ind := slotIndAt cs
    let car := (w :: ds.1.map Prod.snd).findSome? fun x => x.carried.map Deadlock.loc
    let warn := cyc.isSome.toNat + 2 * ds.2.toNat + 4 * ind.isSome.toNat + 8 * car.isSome.toNat +
      16 * (P.image.single && decide (P.regionSize 1 = 0)).toNat
    { loc := ([cyc, ind, car].findSome? id).getD {}, warn := warn, walks := walks }

/-- Proctor's report on an image's bytes for the load's parameters and the partition's (R167, R168). -/
def proctor (part : Nat) (dies : BitVec 4) (maps : SMap (BitVec 16)) (image : Image) (bytes : List Byte) : Report :=
  match headerFault bytes with
  | some l => { reason := 0x0101, loc := l }
  | none =>
    match sectionFault bytes with
    | some l => { reason := 0x0101, loc := l }
    | none =>
      let P : Prog := { part := part, dies := dies, maps := maps, image := image, segs := readSegments bytes, bytes := bytes }
      let cs := P.chains
      match firstFault (firstPass P cs) with
      | some (r, l) => { reason := r, loc := l }
      | none => walkVerdict P cs

end Sys2Proof.Machine
end

