-- ==== Sys2Proof/Machine/Loading.lean ====
section
/-! DEFINITION. Loading a program image: LOAD's verdict, and the copy of an accepted image (R167, R327, R332, R353, R393). -/

namespace Sys2Proof.Machine

/-- The parameters of LOAD out of range (R326, R327). -/
def badLoad (c : PendCmd) : Option Nat :=
  lowest [firstBad [(0, decide (c.par 0 64 % 64 ≠ 0)), (64, decide (0xFFFFFFC0 < c.par 64 32)),
      (96, decide (c.par 96 1 = 1 ∧ c.par 97 1 = 1)), (248, decide (c.par 248 7 < 4 ∨ 64 < c.par 248 7))],
    c.rsv 98 30, c.rsv 247 1, c.rsv 255 257]

/-- The image bytes that a loader read gives. -/
def PendCmd.imageBytes (c : PendCmd) (img : HostData) : List Byte :=
  let n := c.par 64 32
  (img.bytes ++ List.replicate (n - img.bytes.length) 0).take n

/-- The image that LOAD's parameters make of some bytes. -/
def PendCmd.readImage (c : PendCmd) (bytes : List Byte) : Image :=
  Machine.readImage bytes (BitVec.ofNat 64 (c.par 128 64)) (BitVec.ofNat 40 (c.par 192 40)) (BitVec.ofNat 15 (c.par 232 15))
    (BitVec.ofNat 7 (c.par 248 7)) (decide (c.par 97 1 = 1)) (decide (c.par 96 1 = 1))

/-- LOAD (R167, R327): Proctor examines the image. A rejected image ends the command; an accepted one waits for its
second reading. -/
def execLoadImage (r : RingIx) (img : HostData) (s : State) : Res :=
  s.runCmd r 0x0201 [.empty, .loaded, .halted, .fenced] badLoad fun c t =>
    match img.failAt with
    | some n => t.reply r c 0x0301 n []
    | none =>
      let bytes := c.imageBytes img
      let image := c.readImage bytes
      let v := proctor c.part (t.part c.part).dies t.fabric.maps image bytes
      if v.reason ≠ 0 then t.reply r c 0x0202 v.reason v.bytes
      else t.modPart c.part fun P => { P with
        loading := some ⟨image, readSegments bytes, (bytes.drop 32).take 32, v.bytes⟩ }

/-- One load segment copied (R332): into HBM, or into every cell of its form. -/
def State.copySegment (image : Image) (bytes : List Byte) (s : State) (g : BitVec 128) : State :=
  let bs := (bytes.drop (sgSrc g)).take (sgLen g)
  if sgStore g then
    ((image.forms.filter fun f => f.valid && decide (f.num = sgForm g)).flatMap FormRec.cellList).foldl
      (fun t c => t.modCell c fun x => { x with store := writeBytes x.store (sgDest g) bs }) s
  else s.writeHbm (sgDie g) (sgDest g) bs

/-- The bytes that the load segments copy, in index order (R332, R353). -/
def copiedBytes (segs : List (BitVec 128)) (bytes : List Byte) : List Byte :=
  (segs.filter sgValid).flatMap fun g => (bytes.drop (sgSrc g)).take (sgLen g)

/-- A partition that has taken an image (R151, R292, R327): a reserve waits for its chart, any other keeps the chart
it holds; the next close sends a full update. -/
def Partition.withImage (P : Partition) (chart : Chart) (image : Image) : Partition :=
  { P with image := image, chart := if image.reserve then {} else chart
           mirror := { P.mirror with fullDue := true, exposed := true } }

/-- The partition takes its image (R151, R327, R332, R393). -/
def State.takeImage (s : State) (p : Nat) (l : Loading) (bytes : List Byte) : State :=
  let chart := (s.part p).chart
  let image := { l.image with digest := shake256 (copiedBytes l.segs bytes) 64 }
  let s1 := (s.dropImage p).modPart p fun P => P.withImage chart image
  let s2 := (l.segs.filter sgValid).foldl (State.copySegment image bytes) s1
  ((s2.resetVersions p).setPartState p (if image.reserve then .primed else .loaded)).settleBenches p

/-- The partition loses its image to bytes that changed during the load (R326): what the copy has written stays in
memory. -/
def State.loseImage (s : State) (p : Nat) (l : Loading) (bytes : List Byte) : State :=
  let s1 := (l.segs.filter sgValid).foldl (State.copySegment l.image bytes) (s.dropImage p)
  (s1.setPartState p .empty).settleBenches p

/-- LOADER_READ_COMPLETE (R327): the second reading is copied and its digest compared with the header's. -/
def execLoaderReadComplete (r : RingIx) (img : HostData) (s : State) : Res :=
  match (s.ring r).running.find? fun c => decide (c.opcode = 0x0201) with
  | none => .next s
  | some c =>
    match (s.part c.part).loading with
    | none => .next s
    | some l =>
      s.afterSnoops ((l.segs.filter fun g => sgValid g && !sgStore g).map fun g => (sgDie g, sgDest g, sgLen g, true)) <|
      let s1 := (s.assertAt 0 8).modPart c.part fun P => { P with loading := none }
      match img.failAt with
      | some n => .next (s1.reply r c 0x0301 n [])
      | none =>
        let bytes := c.imageBytes img
        if imageDigest bytes = l.digest then .next ((s1.takeImage c.part l bytes).reply r c 0 0 l.report)
        else .next ((s1.loseImage c.part l bytes).reply r c 0x0302 0 l.report)

end Sys2Proof.Machine
end

