-- ==== Sys2Proof/Machine/Measures.lean ====
section
/-! DEFINITION. Measurements and identity (R348, R350, R353), the announcement (R338, R339). -/

namespace Sys2Proof.Machine

/-! ## Measurements (R353) -/

/-- The loader image and the firmware image in force: those in the slots (R360, log 20), and during a switch, until
its event 5, those that stood there before it (R369). -/
def Firmware.inForce (f : Firmware) : Option (List Byte) × Option (List Byte) := f.before.getD (f.loader, f.running)
def State.loaderImage (s : State) : List Byte := s.fw.inForce.1.getD Config.shippedLoader
def State.runningImage (s : State) : List Byte := s.fw.inForce.2.getD Config.shippedFirmware

/-- The staged image's bytes. -/
def Firmware.stagedBytes (f : Firmware) : List Byte := readBytes f.staging 0 f.length

/-- An operator slot's key and mask as measurement 4 takes them: the key in 57 bytes, zeros when empty, then the
mask (log 46). -/
def KeySlot.bytes (k : KeySlot) : List Byte := (k.key ++ List.replicate 57 0).take 57 ++ bytesOfBv 1 k.mask

/-- The item of measurement 4: the debug-disable fuse, the unlock flag, the SVN floor (R373), the operator slots
(log 46). -/
def State.securityBytes (s : State) : List Byte :=
  bytesOfNat 1 s.fw.debugFuse.toNat ++ bytesOfNat 1 s.sec.unlocked.toNat ++ bytesOfBv 1 s.fw.svnFloor ++
    (List.range 4).flatMap fun k => (look {} s.mgmt.keys k).bytes

def zeros64 : List Byte := List.replicate 64 0

/-- Measurement i, 64 bytes (R353). -/
def State.measurement (s : State) (i : Nat) : List Byte :=
  match i with
  | 1 => shake256 Config.romImage 64
  | 2 => shake256 s.loaderImage 64
  | 3 => shake256 s.runningImage 64
  | 4 => shake256 s.securityBytes 64
  | 9 => if s.fw.state = 3 ∨ s.fw.state = 4 then shake256 s.fw.stagedBytes 64 else zeros64
  | _ =>
    let P := s.part (i - 5)
    if P.state = .empty then zeros64 else P.image.digest

/-! ## Keys and certificates (R348, R350) -/

/-- The seed of the identity key, and that of the attestation key. -/
def idSeed : List Byte := shake256 (Config.puf ++ Config.fuseSecret ++ ascii "VVD-ID") 57
def State.aliasSeed (s : State) : List Byte :=
  shake256 (idSeed ++ s.measurement 1 ++ s.measurement 2 ++ s.measurement 3 ++ ascii "VVD-ALIAS") 57

/-- The attestation certificate: what it certifies, signed by the identity key (R348). -/
def State.issuedCert (s : State) : List Byte :=
  let body := Config.certBody (edPublic s.aliasSeed) (s.measurement 1 ++ s.measurement 2 ++ s.measurement 3)
  Config.certOf body (ed448Sign idSeed body [])

/-- A firmware start issues the attestation key and its certificate (R348, R349); an unlocked device issues neither
(R357). -/
def State.issueKey (s : State) : State :=
  if s.sec.unlocked then s
  else { s with sec := { s.sec with attKey := some s.aliasSeed, attCert := s.issuedCert } }

/-- The certificate chain of slot 0 (R350). -/
def State.chain (s : State) : List Byte := Config.certificates ++ s.sec.attCert

/-! ## The announcement (R338, R339) -/

/-- The announcement: the bytes of IDENTIFY and measurement 4, signed by the attestation key if there is one (R357,
R372). None is sent while the link is down. -/
def State.announce (s : State) : State :=
  if s.mgmt.linkUp then s.sendKmp 6 s.signs (s.identity ++ s.measurement 4) else s

/-- The functions are connected to the package balls: EXTEST disconnects them (R355). -/
def State.connected (s : State) : Bool := decide (s.sec.tap ≠ .extest)

/-- The management link goes down (shared source 41, R378). -/
def State.mgmtDown (s : State) : State :=
  if s.mgmt.linkUp then State.assertShared { s with mgmt := { s.mgmt with linkUp := false } } 41 else s

end Sys2Proof.Machine
end

