-- ==== Sys2Proof/Machine/Replacing.lean ====
section
/-! DEFINITION. Replacing the firmware (R358-R374). -/

namespace Sys2Proof.Machine

/-! ## Staging (R361-R365) -/

/-- Pieces of an image of `n` bytes, and those not yet received. -/
def pieceCount (n : Nat) : Nat := (n + 1023) / 1024
def Firmware.missing (f : Firmware) : Nat := pieceCount f.length - f.pieces.length

/-- The limit of an image of a kind (R358). -/
def kindLimit (k : Nat) : Nat := if k = 2 then 0x100000 else 0x1000000

/-- One block or piece refused. -/
def State.refusedPiece (s : State) : State := { s with fw := { s.fw with refused := satAdd s.fw.refused 1 } }

/-- Bytes written into the staging area at a piece's offset: the pieces they cover are in place, and with none
missing the session is verified (R361, R363, R365, R366). `path`: 0 a host block, 1 a trickle piece. -/
def State.stage (s : State) (path off : Nat) (bs : List Byte) : State :=
  let ps := (List.range (pieceCount bs.length)).map (off / 1024 + ·)
  let f := { s.fw with
    staging := writeBytes s.fw.staging off bs
    pieces := ps.foldl (fun l i => insNat i l) s.fw.pieces
    paths := s.fw.paths ||| (1#2 <<< path) }
  State.assertShared { s with fw := { f with state := if f.missing = 0 then 2 else f.state } } 43

/-- The parameters of FwBegin that are out of range (R362). -/
def badFwBegin (c : PendCmd) : Option Nat :=
  lowest [firstBad [(0, decide (c.par 0 4 ≠ 1 ∧ c.par 0 4 ≠ 2)),
    (32, decide (c.par 32 32 = 0 ∨ kindLimit (c.par 0 4) < c.par 32 32))], c.rsv 4 28]

/-- FW_BEGIN (R362, R365, R367): the open session resumes, or a new one opens in STATE 1. -/
def execFwBegin (r : RingIx) (s : State) : Res :=
  s.runCmd r 0x0501 anyState badFwBegin fun c t =>
    let f := t.fw
    if f.state = 4 then t.reply r c 0x0504 4 []
    else if 1 ≤ f.state ∧ f.state ≤ 3 ∧ f.length = c.par 32 32 ∧ f.imageId.toNat = c.par 64 64 then t.ok r c
    else
      State.ok { t with fw := { f.clear 1 with
        kind := BitVec.ofNat 4 (c.par 0 4), paths := 0, length := c.par 32 32
        imageId := BitVec.ofNat 64 (c.par 64 64), opened := c.num } } r c

/-- BYTES of a FW_BLOCK at an offset of a session (R363). -/
def blockOk (length off n : Nat) : Bool :=
  decide (0 < n) && (decide (off + n = length) || (decide (n % 1024 = 0 ∧ n ≤ 0x400000) && decide (off + n ≤ length)))

/-- FW_BLOCK (R363, R365): `data` is what the read of the host's bytes gives. -/
def execFwBlock (r : RingIx) (data : HostData) (s : State) : Res :=
  s.runCmd r 0x0502 anyState noParams fun c t =>
    let f := t.fw
    let off := c.par 64 32
    let n := c.par 96 32
    let no (status detail : Nat) : State := t.refusedPiece.reply r c status detail []
    if f.state = 0 then no 0x0501 0
    else if f.state ≠ 1 then no 0x0504 f.state
    else if f.imageId.toNat ≠ c.par 128 64 then no 0x0502 (f.imageId.toNat % 2 ^ 32)
    else if off % 1024 ≠ 0 ∨ f.length ≤ off then no 0x0503 off
    else if blockOk f.length off n = false then no 0x0106 96
    else
      match data.failAt with
      | some k => t.reply r c 0x0301 k []
      | none => (t.stage 0 off ((data.bytes ++ List.replicate n 0).take n)).ok r c

/-- The session record and the resumption bitmap (R361). -/
def Firmware.statusBytes (f : Firmware) : List Byte :=
  let map : Nat := (f.pieces.map fun i => 2 ^ i).sum
  bytesOfBv 64 (at' 512 0 3 f.state ||| at' 512 3 4 f.kind.toNat ||| at' 512 8 2 f.paths.toNat |||
    at' 512 32 32 f.length ||| at' 512 64 64 f.imageId.toNat |||
    at' 512 128 15 f.missing ||| at' 512 144 16 f.lastFail.toNat |||
    at' 512 160 32 f.refused.toNat ||| at' 512 192 64 f.opened.toNat) ++ bytesOfNat 2048 map

/-- FW_STATUS (R361). -/
def execFwStatus (r : RingIx) (s : State) : Res :=
  s.runCmd r 0x0503 anyState noParams fun c t => t.reply r c 0 0 t.fw.statusBytes

/-- FW_DISCARD (R362, R365, R367): LAST and REFUSED stand. -/
def execFwDiscard (r : RingIx) (s : State) : Res :=
  s.runCmd r 0x0505 anyState noParams fun c t =>
    if t.fw.state = 4 then t.reply r c 0x0504 4 []
    else State.ok { t with fw := t.fw.endSession } r c

/-! ## Verification (R358, R359, R366) -/

/-- A field of an image's header. -/
def imgField (bs : List Byte) (lo len : Nat) : Nat := natOfBytes (bs.take 128) / 2 ^ lo % 2 ^ len

/-- The first bit of a header field that is not as R358 and R359 give. -/
def badHeader (kind length : Nat) (bs : List Byte) : Option Nat :=
  firstBad [(0, decide (imgField bs 0 32 ≠ 0x31574656)), (32, decide (imgField bs 32 4 ≠ kind)),
    (36, decide (imgField bs 36 4 ≠ 0)), (46, decide (imgField bs 46 2 ≠ 0)), (48, decide (imgField bs 48 8 ≠ 0xA1)),
    (56, decide (imgField bs 56 8 ≠ 0)),
    (64, decide (imgField bs 64 32 ≠ length ∨ kindLimit kind < length ∨ length < 242)),
    (160, decide (imgField bs 160 864 ≠ 0))]

/-- The image ID of some bytes. -/
def imageId (bs : List Byte) : BitVec 64 := bvOfBytes 64 (shake256 bs 8)

/-- R359: why the staged image is not verified, in the order of its list; none when it is. -/
def State.verifyFails (s : State) : Option Nat :=
  let f := s.fw
  let bs := f.stagedBytes
  if imageId bs ≠ f.imageId then some 0x0507
  else if (badHeader f.kind.toNat f.length bs).isSome then some 0x0506
  else if ed448Verify Config.firmwareKey (bs.take (f.length - 114)) (bs.drop (f.length - 114)) (ascii "VFW1") = false then
    some 0x0505
  else if imgField bs 40 6 < f.svnFloor.toNat then some 0x0508
  else if f.kind = 1 ∧ s.loaderVersion.toNat < imgField bs 128 32 then some 0x0509
  else none

/-- FW_VERIFICATION_DONE (R366). -/
def execFwVerificationDone (s : State) : Res :=
  if s.fw.state ≠ 2 then .next s
  else
    match s.verifyFails with
    | some e => .next { s with fw := { s.fw.clear 5 with lastFail := BitVec.ofNat 16 e } }
    | none => .next { s with fw := { s.fw with state := 3 } }

/-! ## The switch (R368-R370, R372) -/

/-- The slot of the session's kind written with some bytes; what the slots held stands beside them until the session
ends (R369). -/
def Firmware.writeSlot (f : Firmware) (bs : List Byte) : Firmware :=
  let g := { f with before := some (f.loader, f.running) }
  if f.kind = 2 then { g with loader := some bs } else { g with running := some bs }

/-- The parameters of FwActivate that are out of range (R362). -/
def badFwActivate (c : PendCmd) : Option Nat := lowest [firstBad [(0, decide (600 < c.par 0 16))], c.rsv 16 16]

/-- FW_ACTIVATE (R368, R372). In recovery mode it needs no boundary: the slot is written, the mark cleared, the
reply sent, and the hub cold-started. -/
def execFwActivate (r : RingIx) (s : State) : Res :=
  s.runCmd r 0x0504 anyState badFwActivate fun c t =>
    let f := t.fw
    if f.state = 0 then t.reply r c 0x0501 0 []
    else if f.state ≠ 3 then t.reply r c 0x0504 f.state []
    else if t.power.state = .recovery then
      let t1 := (t.ok r c).endAll 0x0401 1
      State.coldReset { t1 with fw := { (f.writeSlot f.stagedBytes).endSession with startFailed := false, switchFlag := false } }
    else
      { t with fw := { f with
        state := 4, stage := .waitingBoundary, window := if c.par 0 16 = 0 then 60 else c.par 0 16 } }

/-- A partition is at a switch boundary (R368). -/
def Partition.atBoundary (P : Partition) : Bool :=
  decide (P.state ≠ .running) || (P.period.closed && !P.period.isOpen && decide (1000000 ≤ P.watch.patience))

/-- Clerk 2 is applying a mirror log, streaming a refill or restoring a waypoint for a partition (R368). -/
def Partition.clerk2Busy (P : Partition) : Bool :=
  P.mirror.applying || P.mirror.refillTo.isSome || P.restoring.isSome

/-- The mask of what is not at a boundary: partitions, and bit 4 for clerk 2 (R374). -/
def State.notAtBoundary (s : State) : Nat :=
  ((List.range 4).map fun p => if (s.part p).atBoundary then 0 else 2 ^ p).sum +
    if (List.range 4).any fun p => (s.part p).clerk2Busy then 16 else 0

/-- Service work in flight is dropped as late (R272, R369). -/
def State.dropServices (s : State) : State :=
  let s1 := match s.hub.services.quizPair with
    | some (d, b) =>
      ((pairCells d b).foldl (fun (t : State) c => t.modCell c fun x => { x with quiz := false }) (s.countLate 1)).modServices fun v =>
        { v with quizPair := none }
    | none => s
  (List.range 4).foldl (fun t p =>
    if (t.part p).mirror.streaming then
      (t.countLate 3).modMirror p fun m => { m with streaming := false, staged := none }
    else t) s1.lateSlices

/-- Bytes that the manual leaves open. -/
def freeBytes (k n : Nat) : List Byte := (List.range n).map fun i => (Config.freeWord (k + i)).setWidth 8

/-- HELD at every clerk (R384). -/
def State.holdClerks (s : State) : State :=
  (List.range 4).foldl (fun t k => t.modClerk k fun c => { c with held := true }) s

/-- The clerks under new firmware (R384): HELD is cleared, VBASE, ENABLE, GIE and OVERDUE have their values after
reset, and PENDING, the counts and the routes are as they stood. -/
def State.restartClerks (s : State) : State :=
  (List.range 4).foldl (fun t k => t.modClerk k fun c =>
    { c with held := false, vbase := 0, enable := 1, gie := false, overdue := 100 }) s

/-- SWITCH_BOUNDARY (R368-R370, R384): at a boundary the flag is set, service work dropped, the clerks held and the slot
written; `badWrites` of the writes fail their verification. After two the start has failed, and what the slot holds is
open. -/
def execSwitchBoundary (badWrites : Fin 3) (s : State) : Res :=
  if s.fw.stage ≠ .waitingBoundary ∨ s.notAtBoundary ≠ 0 then .next s
  else
    let s1 := s.dropServices.holdClerks
    if badWrites = 2 then
      let n := s1.fw.length
      .next (State.startFailure { s1 with free := s1.free + n, fw := s1.fw.writeSlot (freeBytes s1.free n) })
    else
      .next { s1 with fw := { s1.fw.writeSlot s1.fw.stagedBytes with stage := .starting, switchFlag := true } }

/-- ACTIVATE_WINDOW_EXPIRY (R368): admitted; nothing was written, and the session is staged again. -/
def execActivateWindowExpiry (s : State) : Res :=
  if s.fw.stage ≠ .waitingBoundary then .next s
  else
    let mask := s.notAtBoundary
    let s1 := s.admitted .timer 999
    .next (State.finish { s1 with fw := { s1.fw with state := 3, stage := .idle } }
      (fun c => decide (c.opcode = 0x0504)) 0x050A mask [])

/-- FIRMWARE_READY (R354, R369, R384): the clerks run again, the attestation key is derived again, every SPDM session ends, held partitions go
on, FW_ACTIVATE is replied to, and an announcement is sent. -/
def execFirmwareReady (s : State) : Res :=
  if s.fw.stage ≠ .starting then .next s
  else
    let s0 := s.restartClerks
    let s1 : State := { s0 with
      fw := { s.fw.endSession with stage := .idle, switchFlag := false }
      spdm := { s.spdm with doe := 0, i3c := 0, sessions := [] } }
    .next (s1.issueKey.finish (fun c => decide (c.opcode = 0x0504)) 0 0 []).announce

/-- FIRMWARE_READY_TIMEOUT (R370). -/
def execFirmwareReadyTimeout (s : State) : Res :=
  if s.fw.stage = .starting then .next s.startFailure else .next s

/-! ## Fuses (R373) -/

/-- SVN of the running firmware (R358). -/
def State.runningSvn (s : State) : BitVec 6 :=
  match s.fw.running with
  | some bs => BitVec.ofNat 6 (imgField bs 40 6)
  | none => Config.shippedFirmwareSvn

/-- The parameters of FwFuse that are out of range (R373). -/
def badFwFuse (c : PendCmd) : Option Nat :=
  lowest [firstBad [(0, decide (c.par 0 4 ≠ 1 ∧ c.par 0 4 ≠ 2))], c.rsv 4 28]

/-- FW_FUSE (R373, R374). -/
def execFwFuse (r : RingIx) (s : State) : Res :=
  s.runCmd r 0x0506 anyState badFwFuse fun c t =>
    let svn := decide (c.par 0 4 = 1)
    let done := if svn then decide (t.runningSvn ≤ t.fw.svnFloor) else t.fw.debugFuse
    if c.par 32 32 ≠ 0x45535546 then t.reply r c 0x050B 1 []
    else if done then t.reply r c 0x050B 2 []
    else if t.sec.unlocked then t.reply r c 0x050B 3 []
    else if svn then State.ok { t with fw := { t.fw with svnFloor := t.runningSvn } } r c
    else State.ok { t with fw := { t.fw with debugFuse := true } } r c

end Sys2Proof.Machine
end

