-- ==== Sys2Proof/Machine/Management.lean ====
section
/-! DEFINITION. The management port, KMP and I3C (R335-R347). -/

namespace Sys2Proof.Machine

/-! ## Addresses (R336) -/

/-- The MAC address: 0x02, then bits [39:0] of the serial number, most significant byte first. -/
def macAddr : BitVec 48 := 0x02#8 ++ Config.serial.setWidth 40

/-- The IPv6 link-local address by EUI-64. -/
def linkLocal : BitVec 128 := 0xFE80000000000000#64 ++ (0x00#8 ++ fld macAddr 24 16 ++ 0xFFFE#16 ++ fld macAddr 0 24)

/-- ARP_REQUEST (R336). -/
def execArpRequest (ip : BitVec 32) (s : State) : Res :=
  if s.mgmt.linkUp ∧ s.mgmt.ipv4 = some ip then .next (s.emit (.arp macAddr ip)) else .next s

/-- NEIGHBOR_SOLICITATION (R336). -/
def execNeighborSolicitation (ip : BitVec 128) (s : State) : Res :=
  if s.mgmt.linkUp ∧ (ip = linkLocal ∨ s.mgmt.ipv6 = some ip) then .next (s.emit (.advert macAddr ip)) else .next s

/-- ECHO_REQUEST (R336): an ICMP echo needs an IPv4 address. -/
def execEchoRequest (m : Echo) (s : State) : Res :=
  if s.mgmt.linkUp ∧ (m.v6 ∨ s.mgmt.ipv4.isSome) then .next (s.emit (.echo m)) else .next s

/-! ## The link (R339, R378) -/

/-- A record kept while the link was down is sent, within the rate limit (R339). -/
def State.sendKept (s : State) (rcd : BitVec 512) : State :=
  if s.hub.sentNow < 1000 then (s.modHub fun h => { h with sentNow := h.sentNow + 1 }).sendKmp 1 false (bytesOfBv 64 rcd)
  else s.modServices fun v => { v with withheld := satAdd v.withheld 1 }

/-- ANNOUNCEMENT_TIMER (R339): the announcement of link-up, with the records kept for it, or that of every 10 s. -/
def execAnnouncementTimer (s : State) : Res :=
  if s.mgmt.linkUp then .next s.announce
  else if s.mgmt.trained ∧ s.connected then
    let s1 := State.assertShared { s with mgmt := { s.mgmt with linkUp := true, kept := [] } } 41
    .next (s.mgmt.kept.foldl State.sendKept s1).announce
  else .next s

/-- MANAGEMENT_LINK_LOSS (R378). -/
def execManagementLinkLoss (s : State) : Res := .next s.mgmtDown

/-! ## Messages to the device (R337, R338, R343) -/

def kmpType (m : Kmp) : Nat := fldN m.hdr 32 8
def kmpSigned (m : Kmp) : Bool := bit m.hdr 40
def kmpLen (m : Kmp) : Nat := fldN m.hdr 48 16
def kmpSeq (m : Kmp) : BitVec 64 := fld m.hdr 128 64
def kmpSlot (m : Kmp) : Nat := fldN m.hdr 192 3

/-- A message that the device does not discard (R338): a datagram comes on UDP port 17,510 (R336). -/
def kmpKept (m : Kmp) : Bool :=
  (m.viaI3c || decide (m.port = 17510)) &&
  decide (fldN m.hdr 0 32 = 0x31504D4B) && [3, 5, 7, 8].contains (kmpType m) && decide (fldN m.hdr 41 7 = 0) &&
  decide (fldN m.hdr 195 5 = 0) && decide (fldN m.hdr 216 40 = 0) && decide (fld m.hdr 64 64 = Config.serial)

/-- The management path that a message came by is open: I3C serves KMP once firmware runs, or in recovery mode
(R372, R436). -/
def State.mgmtOpen (s : State) (m : Kmp) : Bool :=
  if m.viaI3c then s.mgmt.trained else s.mgmt.linkUp

/-- The common part of received messages: one that is discarded is not admitted (R338); a kept one is
admitted (R27) and takes effect as `f` says, given its ingress number, after a firmware switch that is in the way
(R369, R384). -/
def State.takeKmp (s : State) (i : Instr) (m : Kmp) (type : Nat) (f : BitVec 64 → State → State) : Res :=
  if s.mgmtOpen m = false ∨ kmpKept m = false ∨ kmpType m ≠ type then .next s
  else
    let kind : IngressKind := if m.viaI3c then .i3c else .kmp
    let key := if m.viaI3c then 7 else 5
    if s.fw.stage = .starting then .next (s.holdOver i kind key)
    else
      let a := s.intake kind key
      .next (f a.1 a.2)

/-- Where the answer to a message goes (R338, R347). -/
def State.backTo (s : State) (m : Kmp) : KmpDest :=
  if m.viaI3c then .i3c else .udp m.sender.1 m.sender.2 s.mgmt.vlan

/-- A reject with its reason, at most 10 a second (R343). -/
def State.reject (s : State) (m : Kmp) (reason : Nat) : State :=
  let n := if m.newSecond then 0 else s.mgmt.rejects
  if n < 10 then
    let s1 := s.kmpTo (kmpHdr 9 false 1 s.mgmt.seq.toNat 0 1) (bytesOfNat 1 reason) false (s.backTo m)
    { s1 with mgmt := { s1.mgmt with seq := s1.mgmt.seq + 1, rejects := n + 1 } }
  else { s with mgmt := { s.mgmt with rejects := n } }

/-- The slot a request names: slots 4-7 do not exist, and hold no key. -/
def State.keySlot (s : State) (k : Nat) : KeySlot := if k < 4 then look {} s.mgmt.keys k else {}

/-- The signature of a request verifies under its slot's key (R337). -/
def State.kmpVerifies (s : State) (m : Kmp) : Bool :=
  kmpSigned m && ed448Verify (s.keySlot (kmpSlot m)).key (bytesOfBv 32 m.hdr ++ m.payload) m.sig (ascii "KMP1")

/-- R343: why a request is rejected (log 49: the order of the checks). LENGTH is at most 1,306 (R337). `listed`: R344 lists what it asks for;
`perm`: the bit of the permission it needs. -/
def State.kmpReason (s : State) (m : Kmp) (parses listed : Bool) (perm : Nat) : Option Nat :=
  let k := s.keySlot (kmpSlot m)
  if !parses || decide (kmpLen m ≠ m.payload.length ∨ 1306 < kmpLen m) then some 6
  else if m.viaI3c then (if listed then none else some 4)
  else if k.key.isEmpty then some 5
  else if s.kmpVerifies m = false then some 1
  else if kmpSeq m ≤ k.lastSeq then some 2
  else if !listed then some 4
  else if bit k.mask perm = false then some 3
  else none

/-- An accepted request's SEQ is the last of its slot (R343). -/
def State.acceptSeq (s : State) (m : Kmp) : State :=
  if m.viaI3c then s
  else { s with mgmt := { s.mgmt with
    keys := alter {} s.mgmt.keys (kmpSlot m) fun k => { k with lastSeq := kmpSeq m } } }

/-! ## Control requests (R342, R344) -/

/-- The permission bit of R344 that an opcode needs; none where R344 and R362 do not list it. -/
def opPermission (op : Nat) : Option Nat :=
  if [0x0101, 0x0102, 0x0205, 0x0304, 0x0402, 0x0801, 0x0803].contains op then some 0
  else if [0x0105, 0x0203, 0x0802, 0x0804].contains op then some 1
  else if op / 256 = 6 ∧ op ≠ 0x0600 ∨ op / 256 = 7 ∧ op ≠ 0x0700 then some 2
  else if op / 256 = 5 ∧ op ≠ 0x0500 ∧ op ≠ 0x0502 then some 3
  else if op = 0x0106 then some 4
  else none

/-- The submit entry that a control request carries, with its parameters (R342). -/
def requestCmd (m : Kmp) (num : BitVec 64) : PendCmd :=
  { index := 0, entry := bvOfBytes 512 (m.payload.take 64), ext := ⟨m.payload.drop 64, none⟩, num := num, seq := kmpSeq m, i3c := m.viaI3c
    peer := m.sender }

/-- The payload of a control request parses (R342, R343). -/
def requestParses (m : Kmp) : Bool :=
  let c := requestCmd m 0
  decide (64 ≤ m.payload.length) &&
    (if c.inline then decide (m.payload.length = 64) else decide (m.payload.length = 64 + c.plen ∧ c.plen ≤ 1024))

/-- CONTROL_REQUEST (R342-R344): the command waits as one of a fifth ring, or the request is rejected. -/
def execControlRequest (m : Kmp) (s : State) : Res :=
  s.takeKmp (.controlRequest m) m 3 fun num t =>
    let c := (requestCmd m num).seen t.teleView
    let perm := opPermission c.opcode
    match t.kmpReason m (requestParses m) perm.isSome (perm.getD 0) with
    | some n => t.reject m n
    | none =>
      (t.acceptSeq m).modRing 4 fun R =>
        match c.header 4 with
        | none => { R with pend := R.pend ++ [c] }
        | some e => { R with done := R.done ++ [{ cmd := c, status := BitVec.ofNat 16 e.1, detail := BitVec.ofNat 32 e.2 }] }

/-! ## Firmware pieces (R364, R365) -/

/-- A piece that the open session accepts: its header and length are consistent with R361. -/
def Firmware.takesPiece (f : Firmware) (bs : List Byte) : Bool :=
  let h := bvOfBytes 256 (bs.take 32)
  let i := fldN h 96 14
  let n := fldN h 112 11
  decide (f.state = 1) && decide (fld h 0 64 = f.imageId) && decide (fldN h 64 32 = f.length) &&
  decide (fldN h 110 2 = 0) && decide (fldN h 123 133 = 0) && decide (i < pieceCount f.length) &&
  decide (n = min 1024 (f.length - 1024 * i)) && decide (bs.length = 32 + n)

/-- FIRMWARE_PIECE (R364, R365): written, or counted as refused; never answered. -/
def execFirmwarePiece (m : Kmp) (s : State) : Res :=
  s.takeKmp (.firmwarePiece m) m 5 fun _ t =>
    if kmpSigned m = false ∧ kmpLen m = m.payload.length ∧ t.fw.takesPiece m.payload then
      t.stage 1 (1024 * fldN (bvOfBytes 256 (m.payload.take 32)) 96 14) (m.payload.drop 32)
    else t.refusedPiece

/-! ## Configuration and keys (R336, R343, R345) -/

/-- NETWORK_CONFIGURATION (R336, R343, R345). -/
def execNetworkConfiguration (m : Kmp) (s : State) : Res :=
  s.takeKmp (.networkConfiguration m) m 7 fun _ t =>
    match Config.parseNetwork m.payload, t.kmpReason m (Config.parseNetwork m.payload).isSome true 5 with
    | some n, none =>
      let t1 := t.acceptSeq m
      { t1 with mgmt := { t1.mgmt with ipv4 := n.ipv4, ipv6 := n.ipv6, vlan := n.vlan, collector := n.collector } }
    | _, some e => t.reject m e
    | none, none => t

/-- The key store after a change: the slot keeps its last SEQ (R345). -/
def changeKey (e : KeyChange) (keys : SMap KeySlot) : SMap KeySlot :=
  alter {} keys e.slot fun k => match e.key with
    | some key => { k with key := key, mask := e.mask }
    | none => { k with key := [], mask := 0 }

/-- Some slot holds the Keys permission. -/
def keysHeld (keys : SMap KeySlot) : Bool := keys.any fun e => !e.2.key.isEmpty && bit e.2.mask 6

/-- Every operator slot is empty (R347). -/
def noKeys (keys : SMap KeySlot) : Bool := keys.all fun e => e.2.key.isEmpty

/-- KEY_MANAGEMENT (R343, R345, R347): over I3C only while every slot is empty; never a change that leaves no slot
with the Keys permission. -/
def execKeyManagement (m : Kmp) (s : State) : Res :=
  s.takeKmp (.keyManagement m) m 8 fun _ t =>
    match Config.parseKeyChange m.payload, t.kmpReason m (Config.parseKeyChange m.payload).isSome true 6 with
    | some e, none =>
      let keys := changeKey e (t.acceptSeq m).mgmt.keys
      if (m.viaI3c && !noKeys t.mgmt.keys) || !keysHeld keys then t.reject m 3
      else { t.acceptSeq m with mgmt := { (t.acceptSeq m).mgmt with keys := keys } }
    | _, some n => t.reject m n
    | none, none => t

/-! ## MCTP and I3C (R346, R347) -/

/-- MCTP_CONTROL (R347, R436): from order 4 of the start-up sequence; admitted. -/
def execMctpControl (m : MctpControl) (s : State) : Res :=
  if s.power.on = false ∨ s.power.order < 4 then .next s
  else
    let t := s.admitted .i3c 7
    match m with
    | .setEndpointId eid =>
      if eid = 0 ∨ eid = 0xFF then .next (t.emit (.mctp 1 [2, 0, t.mgmt.eid, 0]))
      else .next (State.emit { t with mgmt := { t.mgmt with eid := eid } } (.mctp 1 [0, 0, eid, 0]))
    | .getEndpointId => .next (t.emit (.mctp 2 [0, t.mgmt.eid, 0, 0]))
    | .getVersionSupport => .next (t.emit (.mctp 4 ([0, 1] ++ bytesOfBv 4 Config.mctpVersion)))
    | .getMessageTypeSupport => .next (t.emit (.mctp 5 [0, 4, 0x00, 0x05, 0x06, 0x7F]))

/-- I3C_COMMON_COMMAND (R346, R436): a device without a dynamic address answers ENTDAA, and takes the broadcasts ENEC,
DISEC, RSTDAA, SETMWL, SETMRL and RSTACT. It is admitted (R27). -/
def execI3cCommonCommand (cc : I3cCommand) (s : State) : Res :=
  if s.power.on = false ∨ s.power.order < 4 then .next s
  else
    let s := s.admitted .i3c 7
    let m := s.mgmt
    let with' (m : Mgmt) : State := { s with mgmt := m }
    let pid := (bytesOfBv 6 (Config.i3cPid Config.serial)).reverse
    match cc, m.dynAddr with
    | .entdaa addr, none => .next ((with' { m with dynAddr := some addr }).emit (.i3c (pid ++ [Config.i3cBcr, Config.i3cDcr])))
    | .setnewda addr, some _ => .next (with' { m with dynAddr := some addr })
    | .rstdaa, _ => .next (with' { m with dynAddr := none })
    | .enec, _ => .next (with' { m with ibiOff := false })
    | .disec, _ => .next (with' { m with ibiOff := true })
    | .setmwl n, _ => .next (with' { m with mwl := n })
    | .setmrl n, _ => .next (with' { m with mrl := n })
    | .rstact a, _ => .next (with' { m with rstAct := a })
    | .getpid, some _ => .next (s.emit (.i3c pid))
    | .getbcr, some _ => .next (s.emit (.i3c [Config.i3cBcr]))
    | .getdcr, some _ => .next (s.emit (.i3c [Config.i3cDcr]))
    | .getstatus, some _ => .next (s.fresh.2.emit (.i3c (bytesOfBv 2 (s.fresh.1.setWidth 16))))
    | .getcaps, some _ => .next (s.emit (.i3c (bytesOfBv 4 Config.i3cCaps)))
    | .getmwl, some _ => .next (s.emit (.i3c (bytesOfBv 2 m.mwl).reverse))
    | .getmrl, some _ => .next (s.emit (.i3c (bytesOfBv 2 m.mrl).reverse))
    | _, _ => .next s

end Sys2Proof.Machine
end

