-- ==== Sys2Proof/Machine/PowerStates.lean ====
section
/-! DEFINITION. Power states, the governor, sprint and wear, conversion faults, the power commands (R388-R408). -/

namespace Sys2Proof.Machine

/-! ## Rails (R389, R390, R399, R402) -/

/-- Every bench of the device changed by its flat number. -/
def State.mapBenches (s : State) (f : Nat → Bench → Bench) : State :=
  (List.range 96).foldl (fun t k => t.modBench k (f k)) s

/-- Every sprint ends: the rails come down to 0.75 V. -/
def Bench.endSprint (b : Bench) : Bench := if b.mode = .sprint then (b.rail (min b.mv 750)).enter .active else b
def Bench.endBoost (b : Bench) : Bench := if b.mode = .boost then b.enter .active else b
def State.endSprints (s : State) : State := s.mapBenches fun _ b => b.endSprint

/-- Some bench domain is in sprint. -/
def State.sprinting (s : State) : Bool := (List.range 96).any fun k => decide ((s.bench k).mode = .sprint)
def State.boosting (s : State) : Bool := (List.range 96).any fun k => decide ((s.bench k).mode = .boost)

/-- A rail of a domain under a policy (R399, R402): no higher than TARGET but in an allowed sprint, and no boost that
is not allowed. -/
def Bench.under (q : PowerPolicy) (b : Bench) : Bench :=
  match b.mode with
  | .recess => b
  | m => (b.rail (if q.sprint then b.mv else min b.mv q.target)).enter
      (if (m = .sprint ∧ q.sprint = false) ∨ (m = .boost ∧ (q.boost = false ∨ q.target < 650)) then .active else m)

/-- The wear counter's sum of the last 24 hours, and the allowance (R403). -/
def wearAllowance : Nat := 2160000
def Power.wearSum (w : Power) : Nat := w.wearHours.sum

/-- Sprint time in the 2 s window (R402): `sprintMs` holds one flag a millisecond, the present one first. -/
def Power.sprintTime (w : Power) : Nat := (w.sprintMs.filter id).length

/-- Sprint is allowed by the window and the wear counter (R402, R403). -/
def Power.sprintOk (w : Power) : Bool := !w.sprintOff && decide (w.wearSum < wearAllowance)

/-- One raise of a domain that holds a form (R399): to TARGET, then to boost, then to sprint up to 0.85 V. -/
def Bench.raise (q : PowerPolicy) (sprintOk : Bool) (b : Bench) : Bench :=
  if b.mode = .recess then b
  else if b.mv < q.target then b.rail (b.mv + 10)
  else if b.mode = .active ∧ q.boost ∧ 650 ≤ b.mv ∧ b.mv ≤ 750 then b.enter .boost
  else if q.sprint ∧ sprintOk ∧ b.mv < 850 then
    (b.rail (b.mv + 10)).enter (if 750 < b.mv + 10 then .sprint else b.mode)
  else b

/-! ## The governor (R398-R402) -/

/-- The limits that a sample would pass within its margin, as bits of LIMITS (R398, R399, R407). -/
def nearLimits (ceiling : Nat) (g : GovSample) : Nat :=
  (if 1000 * ceiling < g.powerMw + 50000 then 1 else 0) + (if 48000 < g.inputMa then 2 else 0) +
  (if 480000 < g.busMa then 4 else 0) + (if 16 * 85 < g.tj16 + 32 then 8 else 0) + (if 95 < g.thbm + 2 then 16 else 0)

/-- R399: the governor's next action: every sprint ended, or else every boost removed, or else every Active rail of
a form lowered by 10 mV. -/
def State.governDown (s : State) : State :=
  if s.sprinting then s.endSprints
  else if s.boosting then s.mapBenches fun _ b => b.endBoost
  else s.mapBenches fun k b =>
    if (s.benchForm k).isSome ∧ b.mode = .active ∧ 560 ≤ b.mv then b.rail (b.mv - 10) else b

/-- R399, R401: a raise, where there has been room for 1 ms. A sprint leaves granted slices their headroom. -/
def State.governUp (s : State) (g : GovSample) : State :=
  let room := decide (g.powerMw + 150000 + s.power.grantedMw ≤ 1000 * s.power.ceiling)
  s.mapBenches fun k b =>
    match s.benchForm k with
    | some p => b.raise (s.part p).policy (s.power.sprintOk && room)
    | none => b

/-- A millisecond of the hub reference ends (R402, R403, R407): its sprint time is summed and worn, and the window
moves on. -/
def Power.endMs (sprinting : Bool) (w : Power) : Power :=
  let ended := w.sprintMs.headD false
  let win := trimEnd false ((sprinting :: w.sprintMs).take 2000)
  { w with
    sprintMs := win
    sprintOff := w.sprintOff && decide (150 < (win.filter id).length)
    wearNow := if ended then w.wearNow + (if w.msHot then 2 else 1) else w.wearNow
    msHot := false, limits := 0 }

/-- A millisecond of the second of R339's rate limit ends; with its thousandth a new second begins. -/
def State.endRateMs (s : State) : State := s.modHub fun h =>
  if 999 ≤ h.rateMs then { h with rateMs := 0, sentNow := 0 } else { h with rateMs := h.rateMs + 1 }

/-- The present millisecond counts as sprint time if a domain is in sprint in it. -/
def State.markSprint (s : State) : State :=
  if s.sprinting then { s with power := { s.power with sprintMs := true :: s.power.sprintMs.drop 1 } } else s

/-- GOVERNOR_SAMPLE (R398-R403): an action while a limit is near; a raise after 1 ms of room. -/
def execGovernorSample (g : GovSample) (s : State) : Res :=
  if s.power.state ≠ .ready then .next s
  else
    let s0 : State := if g.newMs then State.endRateMs { s with power := s.power.endMs s.sprinting } else s
    let act := nearLimits s0.power.ceiling g
    let s1 : State := { s0 with power := { s0.power with
      inputMw := g.powerMw, newMw := 0, msHot := s0.power.msHot || decide (16 * 75 < g.tj16), limits := s0.power.limits ||| BitVec.ofNat 8 act } }
    let s2 := if 8 ≤ act then s1.assertAt 3 9 else s1
    if act ≠ 0 then
      let s3 := s2.governDown
      let lowered := (List.range 96).any fun k => decide ((s3.bench k).mv < (s2.bench k).mv)
      .next (if act % 2 = 1 ∧ lowered then (s3.assertAt 3 1).modServices fun v => { v with limitedNow := true } else s3)
    else if g.room1ms ∧ g.newMs then .next (s2.governUp g).markSprint
    else .next s2

/-- SPRINT_LIMIT (R402): the window holds 200 ms of sprint time. -/
def execSprintLimit (s : State) : Res :=
  if 200 ≤ s.power.sprintTime then
    let s1 := s.endSprints
    .next { s1 with power := { s1.power with sprintOff := true, limits := s1.power.limits ||| 32 } }
  else .next s

/-- WEAR_HOUR (R403). -/
def execWearHour (s : State) : Res :=
  if s.power.on = false then .next s
  else
    let l := s.power.wearHours ++ [s.power.wearNow]
    let s1 : State := { s with power := { s.power with wearHours := l.drop (l.length - 24), wearNow := 0 } }
    if s1.power.wearSum < wearAllowance then .next s1
    else
      let s2 := s1.endSprints
      .next { s2 with power := { s2.power with limits := s2.power.limits ||| 64 } }

/-! ## Dies (R391, R393-R397) -/

/-- What a cell keeps of a loss of logic power (R391): cell store and side memory, and the counters. -/
def Cell.afterDormant (x : Cell) : Cell := { x.formReset with lanes := [], check := [], quiz := false }

/-- The logic state of a die lost (R391). -/
def State.loseLogic (s : State) (d : Nat) : State :=
  ((List.range 384).foldl (fun t i => t.modCell (384 * d + i) Cell.afterDormant) s).modDie d fun D =>
    { D with wc := [], fills := [], ports := [], chans := [], gateway := [], runs := [], runPos := [], runsDone := [] }

/-- A Dormant request of a die (R397). -/
def Die.sleep (D : Die) : Die :=
  match D.mode with
  | .up => { D with mode := .shuttingDown, event := 1 }
  | .pendingUp => { D with mode := .shuttingDown }
  | .waking => { D with heldDormant := true }
  | _ => D

/-- A partition's DIE_STATE is complete (R406): the state it asks for holds on every die; a Dormant request that a
wake overtook completes once every die is Up again. -/
def State.dieStateDone (s : State) (c : PendCmd) : Bool :=
  let ds := (s.part c.part).dieList.map s.die
  (ds.all fun D => decide (D.mode = .up) && !D.heldDormant) || (decide (c.par 0 1 = 1) && ds.all fun D => decide (D.mode = .dormant))

/-- The commands that a die's new state completes (R406). -/
def State.finishPower (s : State) : State :=
  s.finish (fun c => (decide (c.opcode = 0x0604) && s.dieStateDone c) ||
    (decide (c.opcode = 0x0605) && decide (c.par 0 1 = 0) && (List.range 4).all fun d => decide ((s.die d).mode = .up))) 0 0 []

/-- Nothing of a die's partition is in flight (R395, event 1): no request of a stream or a fill, no packet. -/
def State.quiet (s : State) (d : Nat) : Bool :=
  let p := s.partOf d
  ((List.range 384).all fun i => (s.cell (384 * d + i)).streams.all fun e => e.2.reqs.isEmpty && e.2.writes.isEmpty) &&
  (s.die d).fills.isEmpty && (s.die d).gateway.isEmpty && (s.fabric.inject.all fun e => decide (some e.part.val ≠ p)) &&
  s.fabric.delivered.all fun e => decide (some e.1.val ≠ p)

/-- SHUTDOWN_EVENT_COMPLETE (R394, R395, R397): the die's event in progress is over. -/
def execShutdownEventComplete (d : DieIx) (s : State) : Res :=
  let D := s.die d
  if D.mode ≠ .shuttingDown ∧ D.mode ≠ .pendingUp then .next s
  else
    match D.event with
    | 1 => if s.quiet d then .next (s.modDie d fun D => { D with event := 2 }) else .next s
    | 2 => .next (s.modDie d fun D => { D with event := 3, clamped := true })
    | 3 =>
      .next (s.modDie d fun D =>
        if D.mode = .pendingUp then { D with retained := true, mode := .waking, event := 1 }
        else { D with retained := true, event := 4 })
    | 4 =>
      .next (((s.loseLogic d).modDie d fun D =>
        let E := { D with railsOff := true, refsStopped := true }
        if D.mode = .pendingUp then { E with mode := .waking, event := 1 } else { E with mode := .dormant, event := 0 }).finishPower)
    | _ => .next s

/-- One step of the wake order is over (R396): the logic is reset and the clamps released in the fourth, and a
held Dormant request then takes effect. -/
def State.wakeStep (s : State) (d : Nat) : State :=
  match (s.die d).event with
  | 1 => s.modDie d fun D => { D with event := 2, railsOff := false }
  | 2 => s.modDie d fun D => { D with event := 3, refsStopped := false }
  | 3 => s.modDie d fun D => { D with event := 4, retained := false }
  | 4 =>
    (s.loseLogic d).modDie d fun D =>
      let E := { D with clamped := false, heldDormant := false }
      if D.heldDormant then { E with mode := .shuttingDown, event := 1 } else { E with mode := .up, event := 0 }
  | _ => s

/-- WAKE_STEP_COMPLETE (R396, R397). In the start-up sequence the four dies wake together under COLD_START. -/
def execWakeStepComplete (d : DieIx) (s : State) : Res :=
  if (s.die d).mode = .waking ∧ s.power.state = .ready then .next (s.wakeStep d).finishPower else .next s

/-! ## Input and conversion faults (R404) -/

/-- The ceiling that the stages in service allow (R404). -/
def Power.stageCeiling (w : Power) : Nat := if w.stages = 0xF then 2500 else 1800

/-- STAGE_FAULT (R404): a stage stops while others run. -/
def execStageFault (k : Fin 4) (code : BitVec 64) (s : State) : Res :=
  let left := s.power.stages &&& ~~~(1#4 <<< k.val)
  if s.power.on = false ∨ bit s.power.stages k = false then .next s
  else if left = 0 then .next s.powerOff
  else
    let w := { s.power with stages := left }
    State.notice { s with power := { w with ceiling := min w.cap w.stageCeiling } }
      { reason := 0xA001, unit := 4, part := 0, loc := BitVec.ofNat 32 k, detail := code } |> .next

/-- INPUT_UNDERVOLTAGE (R404, R434): the device is in Off. -/
def execInputUndervoltage (s : State) : Res :=
  .next { s.powerOff with power := { s.powerOff.power with vinHigh := false } }

/-- OVER_TEMPERATURE_STOP (R404, R434): the device is in Off, with THERMTRIP_N low. -/
def execOverTemperatureStop (s : State) : Res :=
  if s.power.on then .next { s.powerOff with power := { s.powerOff.power with thermtripN := false } } else .next s

/-! ## Commands (R406-R408) -/

def DieMode.num : DieMode → Nat
  | .up => 0
  | .shuttingDown => 1
  | .pendingUp => 2
  | .dormant => 3
  | .waking => 4
  | .off => 5

def BenchMode.num : BenchMode → Nat
  | .active => 0
  | .boost => 1
  | .recess => 2
  | .sprint => 3

/-- The 64 bytes of POWER_STATUS (R407). -/
def State.powerStatus (s : State) : List Byte :=
  let w := s.power
  let dies : BitVec 512 := (List.range 4).foldl (fun v d => v ||| at' 512 (96 + 3 * d) 3 (s.die d).mode.num) 0
  let benches : BitVec 512 := (List.range 96).foldl (fun v k => v ||| at' 512 (128 + 2 * k) 2 (s.bench k).mode.num) 0
  bytesOfBv 64 (at' 512 0 16 w.ceiling ||| at' 512 16 16 (min 200 w.sprintTime) ||| at' 512 32 32 w.wearSum |||
    at' 512 64 32 wearAllowance ||| dies ||| at' 512 108 4 w.stages.toNat ||| benches ||| at' 512 320 8 w.limits.toNat |||
    bitAt 512 325 w.sprintOff ||| bitAt 512 326 (decide (wearAllowance ≤ w.wearSum)) ||| bitAt 512 327 (decide (w.stages ≠ 0xF)))

/-- POWER_STATUS (R407). -/
def execPowerStatus (r : RingIx) (s : State) : Res :=
  s.runCmd r 0x0601 anyState noParams fun c t => t.reply r c 0 0 t.powerStatus

/-- The parameters of PowerPolicy that are out of range (R406). -/
def badPolicy (c : PendCmd) : Option Nat :=
  lowest [firstBad [(0, decide (c.par 0 10 < 550 ∨ 750 < c.par 0 10 ∨ c.par 0 10 % 10 ≠ 0))], c.rsv 12 20]

/-- POWER_POLICY (R399, R402, R406): the partition's rails come within the policy. -/
def execPowerPolicy (r : RingIx) (s : State) : Res :=
  s.runCmd r 0x0602 anyState badPolicy fun c t =>
    let q : PowerPolicy := { target := c.par 0 10, boost := decide (c.par 10 1 = 1), sprint := decide (c.par 11 1 = 1) }
    let t1 := t.modPart c.part fun P => { P with policy := q }
    (t1.mapBenches fun k b => if t1.benchForm k = some c.part then b.under q else b).ok r c

/-- BENCH_STATE (R393, R406, R408). -/
def execBenchState (r : RingIx) (s : State) : Res :=
  s.runCmd r 0x0603 anyState (fun c => lowest [c.rsv 3 29, c.rsv 56 8]) fun c t =>
    let P := t.part c.part
    let down := decide (c.par 2 1 = 1)
    if bit P.dies (c.par 0 2) = false then t.reply r c 0x0107 2 []
    else if down ∧ (P.state = .running ∨ P.state = .starting) then t.reply r c 0x0601 1 []
    else if t.power.standby then t.reply r c 0x0601 4 []
    else
      ((List.range 24).foldl (fun u b =>
        if c.par (32 + b) 1 = 1 then u.modBench (24 * c.par 0 2 + b) (if down then Bench.toRecess else Bench.toActive) else u) t).ok r c

/-- DIE_STATE (R393, R397, R406, R408): a request of every die of the partition. -/
def execDieState (r : RingIx) (s : State) : Res :=
  s.runCmd r 0x0604 anyState (fun c => c.rsv 1 31) fun c t =>
    let P := t.part c.part
    let down := decide (c.par 0 1 = 1)
    if down ∧ [PartState.running, .starting].contains P.state then t.reply r c 0x0601 2 []
    else if t.power.standby then t.reply r c 0x0601 4 []
    else
      (P.dieList.foldl (fun (u : State) d => u.modDie d (if down then Die.sleep else Die.wake)) t).finishPower

/-- Standby (R391): the compute dies and HBM without power. -/
def State.enterStandby (s : State) : State :=
  { s with
    dies := s.dies.foldl (fun m e => put {} m e.1 e.2.unpowered) []
    cells := s.cells.foldl (fun m e => put {} m e.1 e.2.afterDeviceReset) []
    power := { s.power with standby := true } }

/-- The wake of every die from no power (R396). -/
def State.wakeAll (s : State) : State :=
  (List.range 4).foldl (fun t d => t.modDie d fun D => { D with mode := .waking, event := 1 }) s

/-- DEVICE_STANDBY (R393, R396, R406, R408). -/
def execDeviceStandby (r : RingIx) (s : State) : Res :=
  s.runCmd r 0x0605 anyState (fun c => c.rsv 1 31) fun c t =>
    if decide (c.par 0 1 = 1) = t.power.standby then t.ok r c
    else if c.par 0 1 = 1 then
      if ((List.range 4).all fun p => decide ((t.part p).state = .empty)) && (List.range 4).all fun i => decide ((t.port i).state = .off) then
        t.enterStandby.ok r c
      else t.reply r c 0x0601 3 []
    else State.wakeAll { t with power := { t.power with standby := false } }

/-- The parameters of PowerCap that are out of range (R406). -/
def badCap (c : PendCmd) : Option Nat := lowest [firstBad [(0, decide (c.par 0 12 < 1000 ∨ 2500 < c.par 0 12))], c.rsv 12 20]

/-- POWER_CAP (R398, R404, R406, R408). -/
def execPowerCap (r : RingIx) (s : State) : Res :=
  s.runCmd r 0x0606 anyState badCap fun c t =>
    let n := c.par 0 12
    if t.power.stageCeiling < n then t.reply r c 0x0602 t.power.stageCeiling []
    else State.ok { t with power := { t.power with cap := n, ceiling := n } } r c

end Sys2Proof.Machine
end

