-- ==== Sys2Proof/Machine/Rings.lean ====
section
/-! DEFINITION. The host's command rings and the registers that writes reach (R14, R310, R311, R319-R323, R385, R439). -/

namespace Sys2Proof.Machine

/-! ## Reading registers (R319, R439) -/

/-- Where ring p's registers stand in BAR0 (R319). -/
def ringOffset (p : Nat) : Nat := 0x1000 + 0x100 * p

/-- The 64 bytes of a ring's registers (R319). -/
def Ring.image (R : Ring) : BitVec 512 :=
  at' 512 0 64 R.subBase.toNat ||| at' 512 64 64 R.repBase.toNat ||| at' 512 128 8 R.subTail.toNat |||
  at' 512 136 8 R.subHead.toNat ||| at' 512 144 8 R.repTail.toNat ||| at' 512 152 8 R.repHead.toNat |||
  bitAt 512 160 R.enable ||| bitAt 512 161 R.ringErr ||| at' 512 168 6 R.msix.toNat

/-- The STATE field of the device status register (R439). -/
def DevState.num : DevState → Nat
  | .starting => 0
  | .ready => 1
  | .startHold => 2
  | .recovery => 3

/-- The device status register (R439). -/
def State.deviceStatus (s : State) : BitVec 128 :=
  at' 128 0 4 s.power.order ||| at' 128 4 2 s.power.state.num ||| bitAt 128 6 s.memActive ||| bitAt 128 7 s.sec.unlocked |||
  at' 128 8 4 s.power.failDie.toNat ||| at' 128 16 12 s.power.failStack.toNat ||| at' 128 32 32 s.power.startMs.toNat

/-- The bytes of BAR0 that R319 and R439 place: those of the device status register and of the rings; the rest reads 0
(log 147). -/
def State.bar0 (s : State) (a : Nat) : Byte :=
  if a < 16 then fld s.deviceStatus (8 * a) 8
  else match (List.range 4).find? fun p => decide (ringOffset p ≤ a ∧ a < ringOffset p + 64) with
    | some p => fld (s.ring p).image (8 * (a - ringOffset p)) 8
    | none => 0

/-- The data-in-transit cache size that the device reports, in bytes, and the size of the HDM window (R309). -/
def cacheSize : Nat := 65536
def hdmSize : Nat := 0x1000000000

/-- What the registers of the configuration space read (R309-R311): the enable bit of an absent feature reads 0. -/
def State.configRead (s : State) : Reg → BitVec 64
  | .bar i => look 0 s.cxl.bars i
  | .msixEnable => bitAt 64 0 s.cxl.msixEn
  | .hdmBase => s.cxl.hdmBase
  | .hdmCommit => bitAt 64 0 s.cxl.hdmCommit
  | .memEnable => bitAt 64 0 s.cxl.memEn
  | .cacheEnable => bitAt 64 0 s.cxl.cacheEn
  | _ => 0

/-! ## Submit entries (R319-R322) -/

/-- The host address of the next submit entry (R319). -/
def Ring.entryAddr (R : Ring) : BitVec 64 := R.subBase + BitVec.ofNat 64 (64 * R.subHead.toNat)

/-- One submit entry read: it waits in ring order under the number of the doorbell that submitted it, or fails at once by
its header (R320, R322, R326). -/
def Ring.take (r : Nat) (x : Submit) (R : Ring) : Ring :=
  let bell := (R.bells.find? fun b => decide (b.tail ≠ R.subHead)).getD ⟨0, 0, {}⟩
  let c := PendCmd.seen { index := R.subHead, entry := x.entry, ext := x.ext, num := bell.num } bell.view
  let R1 := { R with subHead := R.subHead + 1, bells := R.bells.filter fun b => decide (b.tail ≠ R.subHead + 1) }
  match c.header r with
  | none => { R1 with pend := R1.pend ++ [c] }
  | some e => { R1 with done := R1.done ++ [{ cmd := c, status := BitVec.ofNat 16 e.1, detail := BitVec.ofNat 32 e.2, data := [] }] }

/-- Entries outstanding from SUB_HEAD up to a tail, modulo 256 (R320). -/
def Ring.span (R : Ring) (tail : Byte) : Nat := (tail - R.subHead).toNat

/-- The device reads entries from SUB_HEAD on, as far as they are submitted and `subs` gives what its reads of host memory
found: those not read yet stay between SUB_HEAD and SUB_TAIL (R320, log 149). -/
def State.readEntries (s : State) (r : Nat) (subs : List Submit) : State :=
  (subs.take ((s.ring r).span (s.ring r).subTail)).foldl (fun t x =>
    (t.emit (.dmaRead (t.ring r).entryAddr 64)).modRing r (Ring.take r x)) s

/-- DOORBELL (R320): admitted. A tail that would shrink the span of entries is a move backwards past SUB_HEAD:
it is ignored and sets RING_ERR. A ring in use reads entries; another only stores the tail. -/
def execDoorbell (r : HostRing) (tail : Byte) (subs : List Submit) (s : State) : Res :=
  let a := s.intake .doorbell (1 + r)
  let s1 := a.2
  let R := s1.ring r
  if R.span tail < R.span R.subTail then .next (s1.modRing r fun R => { R with ringErr := true })
  else
    let s2 := s1.modRing r fun R =>
      { R with subTail := tail, bells := if tail = R.subTail then R.bells else R.bells ++ [⟨tail, a.1, s1.teleView⟩] }
    .next (if R.enable then s2.readEntries r subs else s2)

/-- REP_HEAD_WRITE (R319, R320): reply slots are free. -/
def execRepHeadWrite (r : HostRing) (head : Byte) (s : State) : Res :=
  .next ((s.modRing r fun R => { R with repHead := head }).assertAt 0 6)

/-- RING_ENABLE_WRITE (R319, R320, R323): set, the first pass through the reply ring begins, and the device reads the entries
that wait between SUB_HEAD and SUB_TAIL, as `on` gives them; cleared (`none`), the commands not replied to are discarded without reply. -/
def execRingEnableWrite (r : HostRing) (on : Option (List Submit)) (s : State) : Res :=
  match on with
  | some subs =>
    .next ((s.modRing r fun R => { R with enable := true, phase := if R.enable then R.phase else true }).readEntries r subs)
  | none => .next (s.modRing r fun R => { R.clear with enable := false })

/-- REGISTER_WRITE (R14): RW stores, W1C clears the bits written as 1, RO and reserved bits ignore. OVERDUE
ignores a value outside 1-1,000; VBASE's low 12 bits read 0 and ENABLE's bit 0 reads 1 (R385). With Cache_Enable the reads of
host memory that wait go out (R311). -/
def execRegisterWrite (reg : Reg) (v : BitVec 64) (s : State) : Res :=
  match reg with
  | .subBase r => .next (s.modRing r fun R => { R with subBase := v })
  | .repBase r => .next (s.modRing r fun R => { R with repBase := v })
  | .ringErr r => .next (s.modRing r fun R => { R with ringErr := R.ringErr && !bit v 0 })
  | .msix r => .next (s.modRing r fun R => { R with msix := fld v 0 6 })
  | .ovf k => .next (s.modClerk k fun c => { c with ovf := c.ovf && !bit v 0 })
  | .overdue k => .next (s.modClerk k fun c =>
      if 1 ≤ fldN v 0 10 ∧ fldN v 0 10 ≤ 1000 then { c with overdue := fld v 0 10 } else c)
  | .vbase k => .next (s.modClerk k fun c => { c with vbase := (fld v 0 32 >>> 12) <<< 12 })
  | .enable k => .next (s.modClerk k fun c => { c with enable := v ||| 1 })
  | .faultBits k => .next (s.modClerk k fun c => { c with fault := c.fault &&& ~~~(fld v 0 3) })
  | .memEnable => .next { s with cxl := { s.cxl with memEn := bit v 0 } }
  | .cacheEnable =>
    let t : State := { s with cxl := { s.cxl with cacheEn := bit v 0 } }
    .next (if s.cacheOk then t else t.reissueReads)
  | .bar i => .next { s with cxl := { s.cxl with bars := put 0 s.cxl.bars i v } }
  | .msixEnable => .next { s with cxl := { s.cxl with msixEn := bit v 0 } }
  | .hdmBase => .next { s with cxl := { s.cxl with hdmBase := v } }
  | .hdmCommit => .next { s with cxl := { s.cxl with hdmCommit := bit v 0 } }
  | .subHead _ | .repTail _ | .deviceStatus | .clerkReadOnly _ | .absentFeature _ => .next s

/-- COMMAND_REPLY (R320, R323, R342): a ring's oldest finished command is replied to, if a slot is free. -/
def execCommandReply (r : RingIx) (s : State) : Res := .next (s.writeReply r)

end Sys2Proof.Machine
end

