-- ==== Sys2Proof/Machine/Spdm.lean ====
section
/-! DEFINITION. The SPDM responder (R318, R350-R354, R357). Response and error codes are those of DMTF DSP0274, which R351 names (log 21). -/

namespace Sys2Proof.Machine

/-! ## Connections (R351) -/

/-- The responder answers on a transport: firmware runs, and the transport is there. None runs in recovery
mode (R372, R436). -/
def State.spdmRuns (s : State) (t : Transport) : Bool :=
  s.power.on && decide (7 ≤ s.power.order) && decide (s.power.state ≠ .recovery) &&
    match t with
    | .doe => decide (s.cxl.width ≠ 0)
    | .i3c => true

/-- How far a transport's connection has come. -/
def Spdm.conn (x : Spdm) : Transport → Nat
  | .doe => x.doe
  | .i3c => x.i3c

def Spdm.setConn (x : Spdm) (t : Transport) (n : Nat) : Spdm :=
  match t with
  | .doe => { x with doe := n }
  | .i3c => { x with i3c := n }

/-- An SPDM response. -/
def State.respond (s : State) (t : Transport) (code : Byte) (bytes : List Byte) (signed : Bool) : State :=
  s.emit (.spdm t code bytes signed)

/-- An ERROR response with its error code. -/
def State.spdmError (s : State) (t : Transport) (e : Byte) : State := s.respond t 0x7F [e] false

/-- A request admitted, where it comes on I3C (R27, R347). -/
def State.spdmIn (s : State) (t : Transport) : State :=
  match t with
  | .i3c => s.admitted .i3c 7
  | .doe => s

/-- The common part of the requests: one that comes while no responder runs is not answered; any other is admitted;
one before the connection has come as far as `need` is unexpected. -/
def State.takeSpdm (s : State) (t : Transport) (need : Nat → Bool) (f : State → State) : Res :=
  if s.spdmRuns t = false then .next s
  else if need ((s.spdmIn t).spdm.conn t) then .next (f (s.spdmIn t)) else .next ((s.spdmIn t).spdmError t 4)

/-- Set a connection's progress. -/
def State.connTo (s : State) (t : Transport) (n : Nat) : State := { s with spdm := s.spdm.setConn t n }

/-- The connection has agreed on algorithms. -/
def agreed (n : Nat) : Bool := decide (n = 3)

/-- GET_VERSION (R351): SPDM 1.2. It begins the connection anew, without the sessions it had. -/
def execGetVersion (t : Transport) (s : State) : Res :=
  s.takeSpdm t (fun _ => true) fun u =>
    let v : State := { u with spdm := { u.spdm with sessions := u.spdm.sessions.filter fun x => decide (x.transport ≠ t) } }
    (v.connTo t 1).respond t 0x04 [0x12] false

/-- GET_CAPABILITIES (R351): DataTransferSize and MaxSPDMmsgSize are both 4,096 bytes. -/
def execGetCapabilities (t : Transport) (s : State) : Res :=
  s.takeSpdm t (fun n => decide (n = 1)) fun u =>
    (u.connTo t 2).respond t 0x61 (bytesOfNat 4 4096 ++ bytesOfNat 4 4096) false

/-- The requester accepts every algorithm that the device offers (R352). -/
def acceptsAll (a : AlgorithmOffer) : Bool :=
  a.ed448 && a.sha3x512 && a.rawStream && a.secp384r1 && a.aes256gcm && a.keySchedule

/-- NEGOTIATE_ALGORITHMS (R352). -/
def execNegotiateAlgorithms (t : Transport) (a : AlgorithmOffer) (s : State) : Res :=
  s.takeSpdm t (fun n => decide (n = 2)) fun u =>
    if acceptsAll a then (u.connTo t 3).respond t 0x63 [] false else u.spdmError t 1

/-! ## Certificates and measurements (R350, R353, R357) -/

/-- GET_DIGESTS (R350, R352): slot 0 alone is provisioned. -/
def execGetDigests (t : Transport) (s : State) : Res :=
  s.takeSpdm t agreed fun u => u.respond t 0x01 (sha3x512 u.chain) false

/-- GET_CERTIFICATE (R350): a portion of the chain, within one message of 4,096 bytes. -/
def execGetCertificate (t : Transport) (slot : Byte) (off len : Nat) (s : State) : Res :=
  s.takeSpdm t agreed fun u =>
    if slot ≠ 0 ∨ u.chain.length ≤ off then u.spdmError t 1
    else u.respond t 0x02 ((u.chain.drop off).take (min len 4088)) false

/-- 32 bytes of the device's random source. -/
def State.nonce (s : State) : List Byte × State :=
  ((List.range 4).flatMap fun i => bytesOfBv 8 (Config.freeWord (s.free + i)), { s with free := s.free + 4 })

/-- CHALLENGE (R351, R357): the chain's digest and a nonce, signed by the attestation key. -/
def execChallenge (t : Transport) (_nonce : BitVec 256) (s : State) : Res :=
  s.takeSpdm t agreed fun u =>
    if u.signs then u.nonce.2.respond t 0x03 (sha3x512 u.chain ++ u.nonce.1) true else u.spdmError t 5

/-- A measurement block: its index and value. -/
def State.block (s : State) (i : Nat) : List Byte := bytesOfNat 1 i ++ s.measurement i

/-- GET_MEASUREMENTS (R353, R357): 0 asks for their number, 0xFF for all. -/
def execGetMeasurements (t : Transport) (ix : Byte) (_nonce : BitVec 256) (sign : Bool) (s : State) : Res :=
  s.takeSpdm t agreed fun u =>
    if sign && !u.signs then u.spdmError t 5
    else if ix = 0 then u.respond t 0x60 [9] sign
    else if ix = 0xFF then u.respond t 0x60 ((List.range 9).flatMap fun i => u.block (i + 1)) sign
    else if ix.toNat ≤ 9 then u.respond t 0x60 (u.block ix.toNat) sign
    else u.spdmError t 1

/-! ## Sessions (R318, R351) -/

/-- KEY_EXCHANGE (R351, R357): at most four sessions are open across both transports. -/
def execKeyExchange (t : Transport) (pub : List Byte) (s : State) : Res :=
  s.takeSpdm t agreed fun u =>
    if 4 ≤ u.spdm.sessions.length then u.spdmError t 0x0A
    else if pub.length ≠ 96 then u.spdmError t 1
    else if u.signs = false then u.spdmError t 5
    else
      let random := u.nonce
      let v : State := { random.2 with spdm := { u.spdm with
        sessions := u.spdm.sessions ++ [{ num := u.spdm.next, transport := t, keys := Config.sessionKeys random.1 pub }]
        next := u.spdm.next + 1 } }
      v.nonce.2.respond t 0x64 (bytesOfNat 2 u.spdm.next ++ v.nonce.1) true

/-- A session of a transport, in the phase asked for. -/
def Session.isSess (t : Transport) (sess : Nat) (ready : Bool) (x : Session) : Bool :=
  decide (x.transport = t) && decide (x.num = sess) && (x.ready == ready)

/-- A request that a session carries. -/
def State.inSession (s : State) (t : Transport) (sess : Nat) (ready : Bool) (f : State → State) : Res :=
  s.takeSpdm t agreed fun u =>
    if u.spdm.sessions.any (Session.isSess t sess ready) then f u else u.spdmError t 2

/-- The sessions changed. -/
def State.modSessions (s : State) (f : List Session → List Session) : State :=
  { s with spdm := { s.spdm with sessions := f s.spdm.sessions } }

/-- FINISH (R351): the session is established; a request that does not verify ends it. -/
def execFinish (t : Transport) (sess : Nat) (macOk : Bool) (s : State) : Res :=
  s.inSession t sess false fun u =>
    if macOk then
      (u.modSessions fun l => l.map fun x => if Session.isSess t sess false x then { x with ready := true } else x).respond t 0x65 [] false
    else (u.modSessions fun l => l.filter fun x => !Session.isSess t sess false x).spdmError t 6

/-- HEARTBEAT (R351). -/
def execHeartbeat (t : Transport) (sess : Nat) (s : State) : Res :=
  s.inSession t sess true fun u => u.respond t 0x68 [] false

/-- KEY_UPDATE (R351): the session goes on under new keys. -/
def execKeyUpdate (t : Transport) (sess : Nat) (s : State) : Res :=
  s.inSession t sess true fun u =>
    (u.modSessions fun l => l.map fun x => if Session.isSess t sess true x then { x with keys := Config.nextSessionKeys x.keys } else x).respond t 0x69 [] false

/-- END_SESSION (R351). -/
def execEndSession (t : Transport) (sess : Nat) (s : State) : Res :=
  s.inSession t sess true fun u =>
    (u.modSessions fun l => l.filter fun x => !Session.isSess t sess true x).respond t 0x6C [] false

/-- VENDOR_DEFINED_REQUEST (R318, R351): CXL_IDE_KM sets the key of a stream, on the DOE mailbox alone. -/
def execVendorDefinedRequest (t : Transport) (sess : Nat) (km : IdeKm) (s : State) : Res :=
  s.inSession t sess true fun u =>
    match t with
    | .i3c => u.spdmError t 7
    | .doe =>
      State.respond { u with cxl := { u.cxl with ideKeys := put [] u.cxl.ideKeys km.stream km.key } } t 0x7E [] false

end Sys2Proof.Machine
end

