-- ==== Sys2Proof/Machine/Startup.lean ====
section
/-! DEFINITION. Start-up and resets by pins (R371, R396, R432-R439). -/

namespace Sys2Proof.Machine

/-! ## The start-up sequence (R435) -/

/-- The dies and stacks of a start hold, and its notice (R438). -/
def State.startHold (s : State) (order : Nat) (failed : BitVec 12) (dies : BitVec 4) : State :=
  let s1 := s.notice
    { reason := 0xB001, unit := 4, part := 0, loc := BitVec.ofNat 32 order
      detail := match lowestBit failed 12 with
        | some n => BitVec.ofNat 64 n
        | none => 0xFF }
  let mask := (List.range 4).foldl (fun (v : BitVec 4) d => if fldN failed (3 * d) 3 ≠ 0 then v ||| (1#4 <<< d) else v) dies
  let s2 := s1.enterStandby
  { s2 with power := { s2.power with
      standby := s.power.standby, state := .startHold, ready := false, memAct := false, failDie := mask, failStack := failed } }

/-- Recovery mode entered by the table of R371. -/
def State.bootRecovery (s : State) : State := s.recoveryMode

/-- Order 5 (R371): the mask ROM acts on the start-failed mark and on the loader slot. -/
def State.bootLoader (s : State) (ok : Bool) : State :=
  let f := s.fw
  if f.startFailed then
    State.bootRecovery { s with fw := { f.endSession with lastFail := 0x050D, switchFlag := false } }
  else if ok then { s with power := { s.power with order := 5 } }
  else if f.switchFlag ∧ f.kind = 2 ∧ (f.state = 3 ∨ f.state = 4) then
    { s with fw := { f with loader := some f.stagedBytes }, power := { s.power with order := 5 } }
  else s.bootRecovery

/-- Order 6 (R371): the loader acts on the running slot. -/
def State.bootRunning (s : State) (ok : Bool) : State :=
  let f := s.fw
  if f.switchFlag ∧ f.kind = 1 then
    { s with fw := { f with running := some f.stagedBytes }, power := { s.power with order := 6 } }
  else if ok then { s with power := { s.power with order := 6 } }
  else s.bootRecovery

/-- Order 7: firmware starts, the attestation key is issued (R348, R357), a switch is complete (R367), the
management port trains, and the four dies begin to wake. -/
def State.bootFirmware (s : State) : State :=
  State.wakeAll (State.issueKey { s with
    fw := if s.fw.switchFlag then { s.fw.endSession with switchFlag := false } else s.fw
    mgmt := { s.mgmt with trained := true }
    power := { s.power with order := 7 } })

/-- The next event of the sequence, of orders 1 to 12. -/
def State.boot (s : State) (st : BootSample) : State :=
  let next (t : State) : State := { t with power := { t.power with order := s.power.order + 1 } }
  let wake : State := (List.range 4).foldl State.wakeStep s
  match s.power.order + 1 with
  | 1 | 2 | 3 | 4 => next s
  | 5 => s.bootLoader st.loaderOk
  | 6 => s.bootRunning st.runningOk
  | 7 => s.bootFirmware
  | 8 | 9 | 11 => next wake
  | 10 => if st.badStacks = 0 then next wake else s.startHold 10 st.badStacks 0
  | 12 =>
    next (s.examAll st.exams)
  | _ => s

/-- COLD_START (R371, R396, R422, R435, R438): the sequence goes on by its next event, up to the full exam. -/
def execColdStart (st : BootSample) (s : State) : Res :=
  if s.power.on ∧ s.power.vinHigh ∧ s.power.coldN ∧ s.power.state = .starting then .next (s.boot st) else .next s

/-- STARTUP_READY (R435, order 13): Memory_Active is set, or once the host has done its part of R311, every bench enters Recess, READY goes high, and an
announcement is sent; `ms` is what START_MS reads. -/
def execStartupReady (ms : Word) (s : State) : Res :=
  if s.power.state = .starting ∧ s.power.order = 12 then
    let s1 := s.mapBenches fun _ b => b.toRecess
    .next (State.announce { s1 with power := { s1.power with
      order := 13, state := .ready, ready := true, memAct := true, startMs := ms } })
  else .next s

/-- START_HOLD (R438): the wake step in progress at start-up, or at a wake from Standby, fails or is overdue. -/
def execStartHold (order : Fin 16) (failed : BitVec 12) (dies : BitVec 4) (s : State) : Res :=
  let starting := decide (s.power.state = .starting) && decide (order.val = s.power.order + 1)
  let leaving := decide (s.power.state = .ready) && ((List.range 4).all fun d => decide ((s.die d).mode = .waking)) &&
    (List.range 4).any fun d => decide (7 + (s.die d).event = order.val)
  if 8 ≤ order.val ∧ order.val ≤ 11 ∧ (starting || leaving) then .next (s.startHold order failed dies) else .next s

/-! ## Pins (R404, R432-R434) -/

/-- VIN_RISE (R404, R432): a cold start, unless the device runs already or COLD_N holds it. -/
def execVinRise (s : State) : Res :=
  let s1 : State := { s with power := { s.power with vinHigh := true } }
  if s.power.on ∨ s.power.coldN = false then .next s1 else .next s1.coldReset

/-- COLD_N_ASSERT (R432-R434): the device is in Off, and THERMTRIP_N is released. -/
def execColdNAssert (s : State) : Res :=
  .next { s.powerOff with power := { s.powerOff.power with coldN := false } }

/-- COLD_N_RELEASE (R432): after 10 µs low, a cold start where the input is there. -/
def execColdNRelease (held10us : Bool) (s : State) : Res :=
  if s.power.coldN then .next s
  else
    let s1 : State := { s with power := { s.power with coldN := true } }
    if held10us ∧ s.power.vinHigh then .next s1.coldReset else .next s1

/-- PERST_ASSERT (R432, R433): a device reset where PERST# stays low for 1 µs, once the hub has power. -/
def execPerstAssert (held1us : Bool) (s : State) : Res :=
  if s.power.perstN = false then .next s
  else
    let s1 : State := { s with power := { s.power with perstN := false } }
    if held1us ∧ s.power.on ∧ 3 ≤ s.power.order then .next s1.deviceReset else .next s1

/-- PERST_RELEASE (R433): the CXL link may train. -/
def execPerstRelease (s : State) : Res := .next { s with power := { s.power with perstN := true } }

end Sys2Proof.Machine
end

