-- ==== Sys2Proof/Machine/TestAccess.lean ====
section
/-! DEFINITION. The test access port and debug unlock (R355-R357, R432). -/

namespace Sys2Proof.Machine

/-- An instruction of the test access port takes the place of the last one. -/
def State.tapTo (s : State) (i : TapInstr) : State := { s with sec := { s.sec with tap := i } }

/-- TRST_N_ASSERT (R355, R432): the test logic alone is reset. -/
def execTrstNAssert (s : State) : Res :=
  .next { s with sec := { s.sec with tap := .idcode, challenge := none } }

/-- BYPASS (R355): one bit, 0 as it is captured. -/
def execBypass (s : State) : Res := .next ((s.tapTo .bypass).emit (.tdo [0]))

/-- IDCODE (R355). -/
def execIdcode (s : State) : Res := .next ((s.tapTo .idcode).emit (.tdo (bytesOfBv 4 Config.idcode)))

/-- SAMPLE/PRELOAD (R355): what the balls carry is outside the model (log 50). -/
def execSamplePreload (s : State) : Res := .next (s.tapTo .samplePreload)

/-- CLAMP (R355). -/
def execClamp (s : State) : Res := .next (s.tapTo .clamp)

/-- EXTEST (R355): the functions are disconnected from the balls until the test logic is reset, so every link of the
device is lost. -/
def execExtest (s : State) : Res :=
  let s1 := (s.tapTo .extest).mgmtDown
  let s2 := if s1.cxl.width = 0 then s1 else s1.linkDown
  .next ((List.range 4).foldl (fun t i =>
    match (t.port i).state with
    | .train | .verify | .up => t.portDown i
    | _ => t) s2)

/-- DEBUG_UNLOCK (R356, order 1): the serial number and a challenge are shifted out, unless the debug-disable fuse is
blown. -/
def execDebugUnlock (s : State) : Res :=
  let s1 := s.tapTo .unlock
  if s.fw.debugFuse ∨ s.power.on = false ∨ s.power.order < 3 then .next s1
  else
    let ch := (List.range 4).flatMap fun i => bytesOfBv 8 (Config.freeWord (s.free + i))
    let s2 : State := { s1 with free := s1.free + 4, sec := { s1.sec with challenge := some ch } }
    .next ((s2.assertShared 47).emit (.tdo (bytesOfBv 8 Config.serial ++ ch)))

/-- A partition stopped by an unlock, without what HBM and the journal head held (R356). -/
def Partition.stopped (P : Partition) : Partition :=
  { P with mirror := {}, journal := [], bulk := [], refilling := false, restoring := none
           period := { P.period with waiting := none, isOpen := false }
           watch := { P.watch with running := false }, lode := {} }

/-- The memories of the device written with zeros (R356, order 5). -/
def State.zeroise (s : State) : State :=
  { s with
    cells := s.cells.foldl (fun m e => put {} m e.1 { e.2 with store := [], side := [], slots := [] }) []
    dies := s.dies.foldl (fun m e => put {} m e.1 { e.2 with wc := [], fills := [], gateway := [], hbm := [] }) []
    fw := { s.fw.endSession with stage := .idle, switchFlag := false } }

/-- R356, orders 3 to 7: every partition stops, ports go Off, links and sessions end, keys and memories are
destroyed, and debug access opens. -/
def State.unlock (s : State) : State :=
  let s1 := (List.range 4).foldl (fun t p =>
    let P := t.part p
    let u := ((t.stopWalks p).resetForms p).modPart p Partition.stopped
    if P.state = .running ∨ P.state = .starting then u.setPartState p .halted else u) s
  let s2 := (List.range 4).foldl (fun t i => t.setPort i false) s1
  let s3 := if s2.cxl.width = 0 then s2 else s2.linkDown
  let s4 := (s3.finish (fun c => decide (c.opcode = 0x0504)) 0x0501 0 []).zeroise
  { s4 with
    cxl := { s4.cxl with ideKeys := [] }
    spdm := { s4.spdm with sessions := [] }
    fabric := { s4.fabric with inject := [], delivered := [], relays := [] }
    power := { s4.power with memAct := false }
    sec := { s4.sec with attKey := none, idBlocked := true, unlocked := true, access := true, challenge := none } }

/-- UNLOCK_RESPONSE (R356): the authority key is the one whose digest the fuses hold, and its signature covers the
serial number and the challenge. A response that fails ends the sequence with nothing changed. -/
def execUnlockResponse (key sig : List Byte) (s : State) : Res :=
  match s.sec.challenge with
  | none => .next s
  | some ch =>
    if shake256 key 64 = Config.debugKeyDigest ∧ ed448Verify key (bytesOfBv 8 Config.serial ++ ch) sig [] then .next s.unlock
    else .next { s with sec := { s.sec with challenge := none } }

end Sys2Proof.Machine
end

