-- ==== Sys2Proof/Machine/Dispatch.lean ====
section
/-! DEFINITION. One arm for each command: its effect on everything but the queue. -/

namespace Sys2Proof.Machine

/-- The effect of a command. -/
def exec (i : Instr) (s : State) : Host.Outcome State Fault Refusal :=
  match i with
  | .identify r => Sys2Proof.Machine.execIdentify r s
  | .featureRead r => Sys2Proof.Machine.execFeatureRead r s
  | .partitionSet r => Sys2Proof.Machine.execPartitionSet r s
  | .fabricConfig r => Sys2Proof.Machine.execFabricConfig r s
  | .portEnable r => Sys2Proof.Machine.execPortEnable r s
  | .deviceReset r => Sys2Proof.Machine.execDeviceReset r s
  | .loadImage r img => Sys2Proof.Machine.execLoadImage r img s
  | .loaderReadComplete r img => Sys2Proof.Machine.execLoaderReadComplete r img s
  | .startJob r => Sys2Proof.Machine.execStartJob r s
  | .stopJob r => Sys2Proof.Machine.execStopJob r s
  | .unload r => Sys2Proof.Machine.execUnload r s
  | .status r => Sys2Proof.Machine.execStatus r s
  | .writeHbm r data => Sys2Proof.Machine.execWriteHbm r data s
  | .readHbm r => Sys2Proof.Machine.execReadHbm r s
  | .apertureMap r => Sys2Proof.Machine.execApertureMap r s
  | .journalRead r => Sys2Proof.Machine.execJournalRead r s
  | .chartLoad r => Sys2Proof.Machine.execChartLoad r s
  | .chartRead r => Sys2Proof.Machine.execChartRead r s
  | .fwBegin r => Sys2Proof.Machine.execFwBegin r s
  | .fwBlock r data => Sys2Proof.Machine.execFwBlock r data s
  | .fwStatus r => Sys2Proof.Machine.execFwStatus r s
  | .fwActivate r => Sys2Proof.Machine.execFwActivate r s
  | .fwDiscard r => Sys2Proof.Machine.execFwDiscard r s
  | .fwFuse r => Sys2Proof.Machine.execFwFuse r s
  | .powerStatus r => Sys2Proof.Machine.execPowerStatus r s
  | .powerPolicy r => Sys2Proof.Machine.execPowerPolicy r s
  | .benchState r => Sys2Proof.Machine.execBenchState r s
  | .dieState r => Sys2Proof.Machine.execDieState r s
  | .deviceStandby r => Sys2Proof.Machine.execDeviceStandby r s
  | .powerCap r => Sys2Proof.Machine.execPowerCap r s
  | .examResults r => Sys2Proof.Machine.execExamResults r s
  | .examRun r => Sys2Proof.Machine.execExamRun r s
  | .examPolicy r => Sys2Proof.Machine.execExamPolicy r s
  | .telemetryRead r smp => Sys2Proof.Machine.execTelemetryRead r smp s
  | .telemetryClear r => Sys2Proof.Machine.execTelemetryClear r s
  | .recordRead r => Sys2Proof.Machine.execRecordRead r s
  | .serviceSet r => Sys2Proof.Machine.execServiceSet r s
  | .doorbell r tail subs => Sys2Proof.Machine.execDoorbell r tail subs s
  | .repHeadWrite r head => Sys2Proof.Machine.execRepHeadWrite r head s
  | .ringEnableWrite r on => Sys2Proof.Machine.execRingEnableWrite r on s
  | .registerWrite reg v => Sys2Proof.Machine.execRegisterWrite reg v s
  | .commandReply r => Sys2Proof.Machine.execCommandReply r s
  | .completeWrite k v => Sys2Proof.Machine.execCompleteWrite k v s
  | .gieWrite k on => Sys2Proof.Machine.execGieWrite k on s
  | .routeWrite src k => Sys2Proof.Machine.execRouteWrite src k s
  | .interruptDelivery k posts => Sys2Proof.Machine.execInterruptDelivery k posts s
  | .handlerOverdue k => Sys2Proof.Machine.execHandlerOverdue k s
  | .periodStart p => Sys2Proof.Machine.execPeriodStart p s
  | .descriptorLoad c ecc => Sys2Proof.Machine.execDescriptorLoad c ecc s
  | .descriptorIssue c => Sys2Proof.Machine.execDescriptorIssue c s
  | .descriptorComplete c k => Sys2Proof.Machine.execDescriptorComplete c k s
  | .tallySignal p => Sys2Proof.Machine.execTallySignal p s
  | .nop c => Sys2Proof.Machine.execNop c s
  | .engine c => Sys2Proof.Machine.execEngine c s
  | .multiplyAdd c fault => Sys2Proof.Machine.execMultiplyAdd c fault s
  | .absoluteDifference c fault => Sys2Proof.Machine.execAbsoluteDifference c fault s
  | .squaredDifference c fault => Sys2Proof.Machine.execSquaredDifference c fault s
  | .minPlus c fault => Sys2Proof.Machine.execMinPlus c fault s
  | .maxPlus c fault => Sys2Proof.Machine.execMaxPlus c fault s
  | .compareAndCount c fault => Sys2Proof.Machine.execCompareAndCount c fault s
  | .drain c => Sys2Proof.Machine.execDrain c s
  | .vector c => Sys2Proof.Machine.execVector c s
  | .vecAdd c => Sys2Proof.Machine.execVecAdd c s
  | .dequant c => Sys2Proof.Machine.execDequant c s
  | .splitFp32 c => Sys2Proof.Machine.execSplitFp32 c s
  | .splitBf16 c => Sys2Proof.Machine.execSplitBf16 c s
  | .vecFma c => Sys2Proof.Machine.execVecFma c s
  | .convert c => Sys2Proof.Machine.execConvert c s
  | .optim c => Sys2Proof.Machine.execOptim c s
  | .row c => Sys2Proof.Machine.execRow c s
  | .softmaxForward c => Sys2Proof.Machine.execSoftmaxForward c s
  | .softmaxBackward c => Sys2Proof.Machine.execSoftmaxBackward c s
  | .normalisationForward c => Sys2Proof.Machine.execNormalisationForward c s
  | .normalisationBackward c => Sys2Proof.Machine.execNormalisationBackward c s
  | .orthonormalisation c => Sys2Proof.Machine.execOrthonormalisation c s
  | .scalar c => Sys2Proof.Machine.execScalar c s
  | .scalarSum c => Sys2Proof.Machine.execScalarSum c s
  | .scalarSumOfSquares c => Sys2Proof.Machine.execScalarSumOfSquares c s
  | .scalarMaximum c => Sys2Proof.Machine.execScalarMaximum c s
  | .scalarMinimum c => Sys2Proof.Machine.execScalarMinimum c s
  | .nanCount c => Sys2Proof.Machine.execNanCount c s
  | .infinityCount c => Sys2Proof.Machine.execInfinityCount c s
  | .move c => Sys2Proof.Machine.execMove c s
  | .endWalk c => Sys2Proof.Machine.execEndWalk c s
  | .loop c => Sys2Proof.Machine.execLoop c s
  | .loopExitSignal c => Sys2Proof.Machine.execLoopExitSignal c s
  | .branch c => Sys2Proof.Machine.execBranch c s
  | .setCount c => Sys2Proof.Machine.execSetCount c s
  | .join c => Sys2Proof.Machine.execJoin c s
  | .joinSignal f => Sys2Proof.Machine.execJoinSignal f s
  | .feature c => Sys2Proof.Machine.execFeature c s
  | .skipPad c => Sys2Proof.Machine.execSkipPad c s
  | .formPeriodEnd f => Sys2Proof.Machine.execFormPeriodEnd f s
  | .slotTokenTake c sl => Sys2Proof.Machine.execSlotTokenTake c sl s
  | .engineStep c fault => Sys2Proof.Machine.execEngineStep c fault s
  | .drainStart c => Sys2Proof.Machine.execDrainStart c s
  | .slotBufferPush c sl => Sys2Proof.Machine.execSlotBufferPush c sl s
  | .queuePush c q e => Sys2Proof.Machine.execQueuePush c q e s
  | .queuePop c q out => Sys2Proof.Machine.execQueuePop c q out s
  | .streamEntryStart c st errs => Sys2Proof.Machine.execStreamEntryStart c st errs s
  | .memoryReturn c st errs k => Sys2Proof.Machine.execMemoryReturn c st errs k s
  | .writeStreamEntry c st => Sys2Proof.Machine.execWriteStreamEntry c st s
  | .writeAccepted c w => Sys2Proof.Machine.execWriteAccepted c w s
  | .weightCacheFill d x => Sys2Proof.Machine.execWeightCacheFill d x s
  | .hbmTurn d pc => Sys2Proof.Machine.execHbmTurn d pc s
  | .remoteWritePacket p pkt => Sys2Proof.Machine.execRemoteWritePacket p pkt s
  | .readRequest p pkt ecc => Sys2Proof.Machine.execReadRequest p pkt ecc s
  | .readResponse p pkt => Sys2Proof.Machine.execReadResponse p pkt s
  | .runStart d kind bad => Sys2Proof.Machine.execRunStart d kind bad s
  | .reductionOpen p pkt => Sys2Proof.Machine.execReductionOpen p pkt s
  | .reductionPartial p pkt bad => Sys2Proof.Machine.execReductionPartial p pkt bad s
  | .reductionFinal p pkt => Sys2Proof.Machine.execReductionFinal p pkt s
  | .runComplete d x => Sys2Proof.Machine.execRunComplete d x s
  | .dataFlit port u rx => Sys2Proof.Machine.execDataFlit port u rx s
  | .idleFlit port u rx => Sys2Proof.Machine.execIdleFlit port u rx s
  | .controlFlit port u rx => Sys2Proof.Machine.execControlFlit port u rx s
  | .flitSlot port x => Sys2Proof.Machine.execFlitSlot port x s
  | .replayLimit port u fec => Sys2Proof.Machine.execReplayLimit port u fec s
  | .laneSignalLoss port lane => Sys2Proof.Machine.execLaneSignalLoss port lane s
  | .retrainComplete port u ok => Sys2Proof.Machine.execRetrainComplete port u ok s
  | .packetRoute src => Sys2Proof.Machine.execPacketRoute src s
  | .packetSend port u vc => Sys2Proof.Machine.execPacketSend port u vc s
  | .packetEscape src => Sys2Proof.Machine.execPacketEscape src s
  | .multicastRelay => Sys2Proof.Machine.execMulticastRelay s
  | .detectSignal port quads => Sys2Proof.Machine.execDetectSignal port quads s
  | .detectTimeout port => Sys2Proof.Machine.execDetectTimeout port s
  | .trainComplete port nb => Sys2Proof.Machine.execTrainComplete port nb s
  | .trainTimeout port => Sys2Proof.Machine.execTrainTimeout port s
  | .verifyComplete port pass => Sys2Proof.Machine.execVerifyComplete port pass s
  | .mirrorBridgeWait port u => Sys2Proof.Machine.execMirrorBridgeWait port u s
  | .stepBell p ctl => Sys2Proof.Machine.execStepBell p ctl s
  | .restartBell p ctl => Sys2Proof.Machine.execRestartBell p ctl s
  | .holdBell p ctl => Sys2Proof.Machine.execHoldBell p ctl s
  | .haltBell p ctl => Sys2Proof.Machine.execHaltBell p ctl s
  | .beacon p ctl => Sys2Proof.Machine.execBeacon p ctl s
  | .memberToken p ctl => Sys2Proof.Machine.execMemberToken p ctl s
  | .rowToken p ctl us => Sys2Proof.Machine.execRowToken p ctl us s
  | .holdAnswer p ctl us => Sys2Proof.Machine.execHoldAnswer p ctl us s
  | .slowNotice p ctl => Sys2Proof.Machine.execSlowNotice p ctl s
  | .troubleNotice p ctl => Sys2Proof.Machine.execTroubleNotice p ctl s
  | .claim p ctl => Sys2Proof.Machine.execClaim p ctl s
  | .paceChange p tj msPassed => Sys2Proof.Machine.execPaceChange p tj msPassed s
  | .patienceExpiry p => Sys2Proof.Machine.execPatienceExpiry p s
  | .answerWindowExpiry p => Sys2Proof.Machine.execAnswerWindowExpiry p s
  | .examinationAllowanceExpiry p => Sys2Proof.Machine.execExaminationAllowanceExpiry p s
  | .beaconTimer p => Sys2Proof.Machine.execBeaconTimer p s
  | .watchExpiry p => Sys2Proof.Machine.execWatchExpiry p s
  | .takeover p => Sys2Proof.Machine.execTakeover p s
  | .firstStepTimeout p => Sys2Proof.Machine.execFirstStepTimeout p s
  | .periodClose p => Sys2Proof.Machine.execPeriodClose p s
  | .mirrorPacket p pkt => Sys2Proof.Machine.execMirrorPacket p pkt s
  | .mirrorCommit p pkt => Sys2Proof.Machine.execMirrorCommit p pkt s
  | .mirrorApplyComplete p => Sys2Proof.Machine.execMirrorApplyComplete p s
  | .mirrorAcknowledge p ctl => Sys2Proof.Machine.execMirrorAcknowledge p ctl s
  | .snapshotPacket p pkt => Sys2Proof.Machine.execSnapshotPacket p pkt s
  | .snapshotStreamComplete p => Sys2Proof.Machine.execSnapshotStreamComplete p s
  | .chartUpdate p ctl => Sys2Proof.Machine.execChartUpdate p ctl s
  | .chartCommit p ctl => Sys2Proof.Machine.execChartCommit p ctl s
  | .chartAcknowledge p ctl => Sys2Proof.Machine.execChartAcknowledge p ctl s
  | .seatRequest p ctl => Sys2Proof.Machine.execSeatRequest p ctl s
  | .seatReady p ctl => Sys2Proof.Machine.execSeatReady p ctl s
  | .refillRequest p ctl => Sys2Proof.Machine.execRefillRequest p ctl s
  | .refillDone p ctl => Sys2Proof.Machine.execRefillDone p ctl s
  | .waypointSealed p ctl => Sys2Proof.Machine.execWaypointSealed p ctl s
  | .waypointWhole p ctl => Sys2Proof.Machine.execWaypointWhole p ctl s
  | .restoreOrder p ctl => Sys2Proof.Machine.execRestoreOrder p ctl s
  | .waypointRestoreComplete p wp => Sys2Proof.Machine.execWaypointRestoreComplete p wp s
  | .restoreDone p ctl => Sys2Proof.Machine.execRestoreDone p ctl s
  | .fenceNotice p ctl => Sys2Proof.Machine.execFenceNotice p ctl s
  | .errorReport e => Sys2Proof.Machine.execErrorReport e s
  | .reexaminationComplete unit passed => Sys2Proof.Machine.execReexaminationComplete unit passed s
  | .quizTimer => Sys2Proof.Machine.execQuizTimer s
  | .quizDigestsComplete faulty => Sys2Proof.Machine.execQuizDigestsComplete faulty s
  | .telemetryTimer x => Sys2Proof.Machine.execTelemetryTimer x s
  | .examTimer => Sys2Proof.Machine.execExamTimer s
  | .waypointTimer finishes => Sys2Proof.Machine.execWaypointTimer finishes s
  | .scrubTimer x => Sys2Proof.Machine.execScrubTimer x s
  | .sliceGrant x => Sys2Proof.Machine.execSliceGrant x s
  | .examSliceComplete t rs => Sys2Proof.Machine.execExamSliceComplete t rs s
  | .sliceBudgetExpiry t => Sys2Proof.Machine.execSliceBudgetExpiry t s
  | .hostMemRead line => Sys2Proof.Machine.execHostMemRead line s
  | .hostMemWrite line data be => Sys2Proof.Machine.execHostMemWrite line data be s
  | .bisnpResponse d line => Sys2Proof.Machine.execBisnpResponse d line s
  | .h2dSnoop addr => Sys2Proof.Machine.execH2dSnoop addr s
  | .dataServiceLine p k off data poison => Sys2Proof.Machine.execDataServiceLine p k off data poison s
  | .cxlLinkUp width rate flit256 => Sys2Proof.Machine.execCxlLinkUp width rate flit256 s
  | .cxlLinkReset kind => Sys2Proof.Machine.execCxlLinkReset kind s
  | .viralReceived => Sys2Proof.Machine.execViralReceived s
  | .ideIntegrityFailure => Sys2Proof.Machine.execIdeIntegrityFailure s
  | .controlRequest m => Sys2Proof.Machine.execControlRequest m s
  | .firmwarePiece m => Sys2Proof.Machine.execFirmwarePiece m s
  | .networkConfiguration m => Sys2Proof.Machine.execNetworkConfiguration m s
  | .keyManagement m => Sys2Proof.Machine.execKeyManagement m s
  | .announcementTimer => Sys2Proof.Machine.execAnnouncementTimer s
  | .arpRequest ip => Sys2Proof.Machine.execArpRequest ip s
  | .neighborSolicitation ip => Sys2Proof.Machine.execNeighborSolicitation ip s
  | .echoRequest m => Sys2Proof.Machine.execEchoRequest m s
  | .mctpControl m => Sys2Proof.Machine.execMctpControl m s
  | .getVersion t => Sys2Proof.Machine.execGetVersion t s
  | .getCapabilities t => Sys2Proof.Machine.execGetCapabilities t s
  | .negotiateAlgorithms t a => Sys2Proof.Machine.execNegotiateAlgorithms t a s
  | .getDigests t => Sys2Proof.Machine.execGetDigests t s
  | .getCertificate t slot off len => Sys2Proof.Machine.execGetCertificate t slot off len s
  | .challenge t nonce => Sys2Proof.Machine.execChallenge t nonce s
  | .getMeasurements t ix nonce sign => Sys2Proof.Machine.execGetMeasurements t ix nonce sign s
  | .keyExchange t pub => Sys2Proof.Machine.execKeyExchange t pub s
  | .finish t sess macOk => Sys2Proof.Machine.execFinish t sess macOk s
  | .heartbeat t sess => Sys2Proof.Machine.execHeartbeat t sess s
  | .keyUpdate t sess => Sys2Proof.Machine.execKeyUpdate t sess s
  | .endSession t sess => Sys2Proof.Machine.execEndSession t sess s
  | .vendorDefinedRequest t sess km => Sys2Proof.Machine.execVendorDefinedRequest t sess km s
  | .fwVerificationDone => Sys2Proof.Machine.execFwVerificationDone s
  | .switchBoundary badWrites => Sys2Proof.Machine.execSwitchBoundary badWrites s
  | .activateWindowExpiry => Sys2Proof.Machine.execActivateWindowExpiry s
  | .firmwareReady => Sys2Proof.Machine.execFirmwareReady s
  | .firmwareReadyTimeout => Sys2Proof.Machine.execFirmwareReadyTimeout s
  | .governorSample smp => Sys2Proof.Machine.execGovernorSample smp s
  | .sprintLimit => Sys2Proof.Machine.execSprintLimit s
  | .wearHour => Sys2Proof.Machine.execWearHour s
  | .shutdownEventComplete d => Sys2Proof.Machine.execShutdownEventComplete d s
  | .wakeStepComplete d => Sys2Proof.Machine.execWakeStepComplete d s
  | .stageFault k code => Sys2Proof.Machine.execStageFault k code s
  | .inputUndervoltage => Sys2Proof.Machine.execInputUndervoltage s
  | .overTemperatureStop => Sys2Proof.Machine.execOverTemperatureStop s
  | .vinRise => Sys2Proof.Machine.execVinRise s
  | .coldNAssert => Sys2Proof.Machine.execColdNAssert s
  | .coldNRelease held10us => Sys2Proof.Machine.execColdNRelease held10us s
  | .coldStart st => Sys2Proof.Machine.execColdStart st s
  | .perstAssert held1us => Sys2Proof.Machine.execPerstAssert held1us s
  | .perstRelease => Sys2Proof.Machine.execPerstRelease s
  | .startupReady ms => Sys2Proof.Machine.execStartupReady ms s
  | .startHold order failed dies => Sys2Proof.Machine.execStartHold order failed dies s
  | .trstNAssert => Sys2Proof.Machine.execTrstNAssert s
  | .bypass => Sys2Proof.Machine.execBypass s
  | .idcode => Sys2Proof.Machine.execIdcode s
  | .samplePreload => Sys2Proof.Machine.execSamplePreload s
  | .extest => Sys2Proof.Machine.execExtest s
  | .clamp => Sys2Proof.Machine.execClamp s
  | .debugUnlock => Sys2Proof.Machine.execDebugUnlock s
  | .unlockResponse key sig => Sys2Proof.Machine.execUnlockResponse key sig s
  | .waypointCopyComplete p => Sys2Proof.Machine.execWaypointCopyComplete p s
  | .bodyInvalidReport p => Sys2Proof.Machine.execBodyInvalidReport p s
  | .managementLinkLoss => Sys2Proof.Machine.execManagementLinkLoss s
  | .i3cCommonCommand cc => Sys2Proof.Machine.execI3cCommonCommand cc s

end Sys2Proof.Machine
end

