-- ==== Sys2Proof/Machine/Step.lean ====
section
/-! DEFINITION. The step of the block: the command at the front of the queue. -/

namespace Sys2Proof.Machine

/-- One step: the command at the front of the queue takes effect on a state that holds the queue's
rest. On an empty queue a command deferred by a firmware switch takes effect once no switch is in
progress (R369), and otherwise the block idles (log 1). -/
def step (s : State) : Host.Outcome State Fault Refusal :=
  match s.pending with
  | c :: rest => exec c { s with pending := rest }
  | [] =>
    match s.deferred, s.fw.stage with
    | c :: rest, .idle =>
      match exec c.1 { s with deferred := rest, hub := { s.hub with given := c.2 } } with
      | .next t => .next { t with hub := { t.hub with given := none } }
      | o => o
    | _, _ => .next s

/-- The state with the command that a table word spells put at the front of the queue; unchanged where
the word spells none. -/
def State.withFetchWord (s : State) (nbits w : Nat) : State :=
  match decodeTableWord nbits w with
  | some c => { s with pending := c :: s.pending }
  | none => s

end Sys2Proof.Machine
end

