-- ==== Sys2Proof/Laws/Maps.lean ====
section
/-! SUPPORT. The laws of sparse maps and of byte memories: what a read gives after a write, and that every operation keeps the canonical form. -/

namespace Sys2Proof.Machine

section
variable {α : Type} {d : α} {m : SMap α} {i j : Nat} {v w : α}

@[simp] theorem look_nil (d : α) (i : Nat) : look d [] i = d := rfl

theorem look_of_below (h : ∀ e ∈ m, i < e.1) : look d m i = d := by
  induction m with
  | nil => rfl
  | cons e m ih =>
    have h0 := h e (by simp)
    have : i ≠ e.1 := by omega
    simp only [look, this, if_false]
    exact ih fun x hx => h x (by simp [hx])

/-- What is listed is not the value an unlisted key reads as. -/
theorem mem_of_look {x : α} (h : look d m i = x) (hx : x ≠ d) : (i, x) ∈ m := by
  induction m with
  | nil => exact absurd h.symm hx
  | cons e m ih =>
    simp only [look] at h
    split_ifs at h with hi
    · subst hi; subst h; simp
    · exact List.mem_cons_of_mem _ (ih h)

variable [DecidableEq α]

theorem look_put_ne (h : j ≠ i) : look d (put d m i v) j = look d m j := by
  induction m with
  | nil => unfold put; split <;> simp [look, h]
  | cons e m ih => unfold put; split_ifs <;> simp_all [look]

theorem look_put_of_ne_default (h : v ≠ d) : look d (put d m i v) i = v := by
  induction m with
  | nil => simp [put, h, look]
  | cons e m ih => unfold put; split_ifs <;> simp_all [look]

theorem SMap.wf_cons {e : Nat × α} : SMap.wf d (e :: m) = true ↔ e.2 ≠ d ∧ (∀ x ∈ m, e.1 < x.1) ∧ SMap.wf d m = true := by
  simp [SMap.wf, and_assoc]

theorem look_put_same (h : SMap.wf d m = true) : look d (put d m i v) i = v := by
  by_cases hv : v = d
  · subst hv
    induction m with
    | nil => simp [put]
    | cons e m ih =>
      have hw := SMap.wf_cons.1 h
      by_cases h1 : i = e.1
      · have := look_of_below (d := v) (m := m) (i := i) fun x hx => by have := hw.2.1 x hx; omega
        simpa [put, h1] using h1 ▸ this
      · by_cases h2 : i < e.1
        · have := look_of_below (d := v) (m := m) (i := i) fun x hx => by have := hw.2.1 x hx; omega
          simpa [put, h1, h2, look] using this
        · simpa [put, h1, h2, look] using ih hw.2.2
  · exact look_put_of_ne_default hv

theorem look_put (h : SMap.wf d m = true) : look d (put d m i v) j = if j = i then v else look d m j := by
  split_ifs with hj
  · rw [hj, look_put_same h]
  · exact look_put_ne hj

theorem mem_put {x : Nat × α} (h : x ∈ put d m i v) : x = (i, v) ∨ x ∈ m := by
  induction m with
  | nil => unfold put at h; split_ifs at h <;> simp_all
  | cons e m ih =>
    unfold put at h
    split_ifs at h
    · exact .inr (by simp [h])
    · rcases List.mem_cons.1 h with h | h
      · exact .inl h
      · exact .inr (by simp [h])
    · exact .inr h
    · rcases List.mem_cons.1 h with h | h
      · exact .inl h
      · exact .inr h
    · rcases List.mem_cons.1 h with h | h
      · exact .inr (by simp [h])
      · rcases ih h with h | h
        · exact .inl h
        · exact .inr (by simp [h])

theorem put_wf (h : SMap.wf d m = true) : SMap.wf d (put d m i v) = true := by
  induction m with
  | nil => unfold put; split_ifs with hv <;> simp [SMap.wf, hv]
  | cons e m ih =>
    have hw := SMap.wf_cons.1 h
    unfold put
    split_ifs with h1 h2 h3 h4
    · exact hw.2.2
    · exact SMap.wf_cons.2 ⟨h2, fun x hx => by have := hw.2.1 x hx; omega, hw.2.2⟩
    · exact h
    · refine SMap.wf_cons.2 ⟨h4, fun x hx => ?_, h⟩
      rcases List.mem_cons.1 hx with hx | hx
      · subst hx; exact h3
      · have := hw.2.1 x hx; omega
    · refine SMap.wf_cons.2 ⟨hw.1, fun x hx => ?_, ih hw.2.2⟩
      rcases mem_put hx with hx | hx
      · subst hx; show e.1 < i; omega
      · exact hw.2.1 x hx

theorem put_put (h : SMap.wf d m = true) : put d (put d m i v) i w = put d m i w := by
  induction m with
  | nil => by_cases hv : v = d <;> by_cases hw : w = d <;> simp [put, hv, hw]
  | cons e m ih =>
    have hk := SMap.wf_cons.1 h
    by_cases h1 : i = e.1
    · by_cases hv : v = d
      · have hm : put d m i w = if w = d then m else (i, w) :: m := by
          cases m with
          | nil => rfl
          | cons e' m' =>
            have h2 := hk.2.1 e' (by simp)
            have h3 : i ≠ e'.1 := by omega
            have h4 : i < e'.1 := by omega
            simp [put, h3, h4]
        simp [put, h1, hv]
        rw [← h1, hm]
      · simp [put, h1, hv]
    · by_cases h2 : i < e.1
      · by_cases hv : v = d <;> by_cases hw : w = d <;> simp [put, h1, h2, hv, hw]
      · simp [put, h1, h2, ih hk.2.2]

theorem alter_wf {f : α → α} (h : SMap.wf d m = true) : SMap.wf d (alter d m i f) = true := put_wf h

theorem look_alter {f : α → α} (h : SMap.wf d m = true) :
    look d (alter d m i f) j = if j = i then f (look d m i) else look d m j := look_put h

theorem filter_wf {f : Nat × α → Bool} (h : SMap.wf d m = true) : SMap.wf d (m.filter f) = true := by
  induction m with
  | nil => rfl
  | cons e m ih =>
    have hw := SMap.wf_cons.1 h
    simp only [List.filter]
    split
    · exact SMap.wf_cons.2 ⟨hw.1, fun x hx => hw.2.1 x (List.mem_filter.1 hx).1, ih hw.2.2⟩
    · exact ih hw.2.2

end

theorem mapVals_wf {α : Type} [DecidableEq α] {d : α} {f : α → α} {m : SMap α} (h : SMap.wf d m = true) :
    SMap.wf d (mapVals d f m) = true := by
  unfold mapVals
  induction m with
  | nil => rfl
  | cons e m ih =>
    have hw := SMap.wf_cons.1 h
    simp only [List.map_cons, List.filter]
    split
    · rename_i hd
      refine SMap.wf_cons.2 ⟨by simpa using hd, fun x hx => ?_, ih hw.2.2⟩
      obtain ⟨y, hy, rfl⟩ := List.mem_map.1 (List.mem_filter.1 hx).1
      exact hw.2.1 y hy
    · exact ih hw.2.2

/-! ## Memories of bytes -/

theorem writeBytes_wf {m : SMap Byte} {a : Nat} {bs : List Byte} (h : Memory.wf m = true) :
    Memory.wf (writeBytes m a bs) = true := by
  induction bs generalizing m a with
  | nil => exact h
  | cons b bs ih => exact ih (put_wf h)

theorem eraseRange_wf {m : SMap Byte} {a b : Nat} (h : Memory.wf m = true) : Memory.wf (eraseRange m a b) = true :=
  filter_wf h

/-- A byte outside the written ones reads as before. -/
theorem look_writeBytes_out {m : SMap Byte} {a x : Nat} {bs : List Byte} (h : x < a ∨ a + bs.length ≤ x) :
    look 0 (writeBytes m a bs) x = look 0 m x := by
  induction bs generalizing m a with
  | nil => rfl
  | cons b bs ih =>
    have hl : (b :: bs).length = bs.length + 1 := rfl
    rw [writeBytes, ih (by omega), look_put_ne (by omega)]

/-- A written byte reads as it was written. -/
theorem look_writeBytes_in {m : SMap Byte} {a : Nat} {bs : List Byte} (hw : Memory.wf m = true) (k : Nat)
    (hk : k < bs.length) : look 0 (writeBytes m a bs) (a + k) = bs.getD k 0 := by
  induction bs generalizing m a k with
  | nil => simp at hk
  | cons b bs ih =>
    cases k with
    | zero =>
      rw [writeBytes, look_writeBytes_out (by omega)]
      simpa using look_put_same hw
    | succ k =>
      have hl : (b :: bs).length = bs.length + 1 := rfl
      have := ih (m := put 0 m a b) (a := a + 1) (put_wf hw) k (by omega)
      rw [writeBytes, show a + (k + 1) = a + 1 + k by omega, this]
      simp

theorem length_readBytes (m : SMap Byte) (a n : Nat) : (readBytes m a n).length = n := by
  induction n generalizing a with
  | zero => rfl
  | succ n ih => simp [readBytes, ih]

end Sys2Proof.Machine
end

