-- ==== Sys2Proof/Laws/State.lean ====
section
/-! SUPPORT. What each named update of the state leaves in each field and each part: the updates' small lemmas, true by unfolding them once. -/

namespace Sys2Proof.Machine

variable (s : State)

/-! ### setCell -/

@[simp] theorem setCell_pending (c : Nat) (x : Cell) : (s.setCell c x).pending = s.pending := rfl
@[simp] theorem setCell_deferred (c : Nat) (x : Cell) : (s.setCell c x).deferred = s.deferred := rfl
@[simp] theorem setCell_cells (c : Nat) (x : Cell) : (s.setCell c x).cells = put {} s.cells c x := rfl
@[simp] theorem setCell_dies (c : Nat) (x : Cell) : (s.setCell c x).dies = s.dies := rfl
@[simp] theorem setCell_fabric (c : Nat) (x : Cell) : (s.setCell c x).fabric = s.fabric := rfl
@[simp] theorem setCell_parts (c : Nat) (x : Cell) : (s.setCell c x).parts = s.parts := rfl
@[simp] theorem setCell_hub (c : Nat) (x : Cell) : (s.setCell c x).hub = s.hub := rfl
@[simp] theorem setCell_rings (c : Nat) (x : Cell) : (s.setCell c x).rings = s.rings := rfl
@[simp] theorem setCell_cxl (c : Nat) (x : Cell) : (s.setCell c x).cxl = s.cxl := rfl
@[simp] theorem setCell_mgmt (c : Nat) (x : Cell) : (s.setCell c x).mgmt = s.mgmt := rfl
@[simp] theorem setCell_spdm (c : Nat) (x : Cell) : (s.setCell c x).spdm = s.spdm := rfl
@[simp] theorem setCell_fw (c : Nat) (x : Cell) : (s.setCell c x).fw = s.fw := rfl
@[simp] theorem setCell_sec (c : Nat) (x : Cell) : (s.setCell c x).sec = s.sec := rfl
@[simp] theorem setCell_power (c : Nat) (x : Cell) : (s.setCell c x).power = s.power := rfl
@[simp] theorem setCell_free (c : Nat) (x : Cell) : (s.setCell c x).free = s.free := rfl
@[simp] theorem setCell_out (c : Nat) (x : Cell) : (s.setCell c x).out = s.out := rfl
@[simp] theorem setCell_die (c : Nat) (x : Cell) (i : Nat) : (s.setCell c x).die i = s.die i := rfl
@[simp] theorem setCell_part (c : Nat) (x : Cell) (i : Nat) : (s.setCell c x).part i = s.part i := rfl
@[simp] theorem setCell_ring (c : Nat) (x : Cell) (i : Nat) : (s.setCell c x).ring i = s.ring i := rfl
@[simp] theorem setCell_clerk (c : Nat) (x : Cell) (i : Nat) : (s.setCell c x).clerk i = s.clerk i := rfl
@[simp] theorem setCell_port (c : Nat) (x : Cell) (i : Nat) : (s.setCell c x).port i = s.port i := rfl
@[simp] theorem setCell_unit (c : Nat) (x : Cell) (i j : Nat) : (s.setCell c x).unit i j = s.unit i j := rfl

/-! ### modCell -/

@[simp] theorem modCell_pending (c : Nat) (f : Cell → Cell) : (s.modCell c f).pending = s.pending := rfl
@[simp] theorem modCell_deferred (c : Nat) (f : Cell → Cell) : (s.modCell c f).deferred = s.deferred := rfl
@[simp] theorem modCell_cells (c : Nat) (f : Cell → Cell) : (s.modCell c f).cells = put {} s.cells c (f (s.cell c)) := rfl
@[simp] theorem modCell_dies (c : Nat) (f : Cell → Cell) : (s.modCell c f).dies = s.dies := rfl
@[simp] theorem modCell_fabric (c : Nat) (f : Cell → Cell) : (s.modCell c f).fabric = s.fabric := rfl
@[simp] theorem modCell_parts (c : Nat) (f : Cell → Cell) : (s.modCell c f).parts = s.parts := rfl
@[simp] theorem modCell_hub (c : Nat) (f : Cell → Cell) : (s.modCell c f).hub = s.hub := rfl
@[simp] theorem modCell_rings (c : Nat) (f : Cell → Cell) : (s.modCell c f).rings = s.rings := rfl
@[simp] theorem modCell_cxl (c : Nat) (f : Cell → Cell) : (s.modCell c f).cxl = s.cxl := rfl
@[simp] theorem modCell_mgmt (c : Nat) (f : Cell → Cell) : (s.modCell c f).mgmt = s.mgmt := rfl
@[simp] theorem modCell_spdm (c : Nat) (f : Cell → Cell) : (s.modCell c f).spdm = s.spdm := rfl
@[simp] theorem modCell_fw (c : Nat) (f : Cell → Cell) : (s.modCell c f).fw = s.fw := rfl
@[simp] theorem modCell_sec (c : Nat) (f : Cell → Cell) : (s.modCell c f).sec = s.sec := rfl
@[simp] theorem modCell_power (c : Nat) (f : Cell → Cell) : (s.modCell c f).power = s.power := rfl
@[simp] theorem modCell_free (c : Nat) (f : Cell → Cell) : (s.modCell c f).free = s.free := rfl
@[simp] theorem modCell_out (c : Nat) (f : Cell → Cell) : (s.modCell c f).out = s.out := rfl
@[simp] theorem modCell_die (c : Nat) (f : Cell → Cell) (i : Nat) : (s.modCell c f).die i = s.die i := rfl
@[simp] theorem modCell_part (c : Nat) (f : Cell → Cell) (i : Nat) : (s.modCell c f).part i = s.part i := rfl
@[simp] theorem modCell_ring (c : Nat) (f : Cell → Cell) (i : Nat) : (s.modCell c f).ring i = s.ring i := rfl
@[simp] theorem modCell_clerk (c : Nat) (f : Cell → Cell) (i : Nat) : (s.modCell c f).clerk i = s.clerk i := rfl
@[simp] theorem modCell_port (c : Nat) (f : Cell → Cell) (i : Nat) : (s.modCell c f).port i = s.port i := rfl
@[simp] theorem modCell_unit (c : Nat) (f : Cell → Cell) (i j : Nat) : (s.modCell c f).unit i j = s.unit i j := rfl

/-! ### setDie -/

@[simp] theorem setDie_pending (d : Nat) (x : Die) : (s.setDie d x).pending = s.pending := rfl
@[simp] theorem setDie_deferred (d : Nat) (x : Die) : (s.setDie d x).deferred = s.deferred := rfl
@[simp] theorem setDie_cells (d : Nat) (x : Die) : (s.setDie d x).cells = s.cells := rfl
@[simp] theorem setDie_dies (d : Nat) (x : Die) : (s.setDie d x).dies = put {} s.dies d x := rfl
@[simp] theorem setDie_fabric (d : Nat) (x : Die) : (s.setDie d x).fabric = s.fabric := rfl
@[simp] theorem setDie_parts (d : Nat) (x : Die) : (s.setDie d x).parts = s.parts := rfl
@[simp] theorem setDie_hub (d : Nat) (x : Die) : (s.setDie d x).hub = s.hub := rfl
@[simp] theorem setDie_rings (d : Nat) (x : Die) : (s.setDie d x).rings = s.rings := rfl
@[simp] theorem setDie_cxl (d : Nat) (x : Die) : (s.setDie d x).cxl = s.cxl := rfl
@[simp] theorem setDie_mgmt (d : Nat) (x : Die) : (s.setDie d x).mgmt = s.mgmt := rfl
@[simp] theorem setDie_spdm (d : Nat) (x : Die) : (s.setDie d x).spdm = s.spdm := rfl
@[simp] theorem setDie_fw (d : Nat) (x : Die) : (s.setDie d x).fw = s.fw := rfl
@[simp] theorem setDie_sec (d : Nat) (x : Die) : (s.setDie d x).sec = s.sec := rfl
@[simp] theorem setDie_power (d : Nat) (x : Die) : (s.setDie d x).power = s.power := rfl
@[simp] theorem setDie_free (d : Nat) (x : Die) : (s.setDie d x).free = s.free := rfl
@[simp] theorem setDie_out (d : Nat) (x : Die) : (s.setDie d x).out = s.out := rfl
@[simp] theorem setDie_cell (d : Nat) (x : Die) (i : Nat) : (s.setDie d x).cell i = s.cell i := rfl
@[simp] theorem setDie_part (d : Nat) (x : Die) (i : Nat) : (s.setDie d x).part i = s.part i := rfl
@[simp] theorem setDie_ring (d : Nat) (x : Die) (i : Nat) : (s.setDie d x).ring i = s.ring i := rfl
@[simp] theorem setDie_clerk (d : Nat) (x : Die) (i : Nat) : (s.setDie d x).clerk i = s.clerk i := rfl
@[simp] theorem setDie_port (d : Nat) (x : Die) (i : Nat) : (s.setDie d x).port i = s.port i := rfl
@[simp] theorem setDie_unit (d : Nat) (x : Die) (i j : Nat) : (s.setDie d x).unit i j = s.unit i j := rfl

/-! ### modDie -/

@[simp] theorem modDie_pending (d : Nat) (f : Die → Die) : (s.modDie d f).pending = s.pending := rfl
@[simp] theorem modDie_deferred (d : Nat) (f : Die → Die) : (s.modDie d f).deferred = s.deferred := rfl
@[simp] theorem modDie_cells (d : Nat) (f : Die → Die) : (s.modDie d f).cells = s.cells := rfl
@[simp] theorem modDie_dies (d : Nat) (f : Die → Die) : (s.modDie d f).dies = put {} s.dies d (f (s.die d)) := rfl
@[simp] theorem modDie_fabric (d : Nat) (f : Die → Die) : (s.modDie d f).fabric = s.fabric := rfl
@[simp] theorem modDie_parts (d : Nat) (f : Die → Die) : (s.modDie d f).parts = s.parts := rfl
@[simp] theorem modDie_hub (d : Nat) (f : Die → Die) : (s.modDie d f).hub = s.hub := rfl
@[simp] theorem modDie_rings (d : Nat) (f : Die → Die) : (s.modDie d f).rings = s.rings := rfl
@[simp] theorem modDie_cxl (d : Nat) (f : Die → Die) : (s.modDie d f).cxl = s.cxl := rfl
@[simp] theorem modDie_mgmt (d : Nat) (f : Die → Die) : (s.modDie d f).mgmt = s.mgmt := rfl
@[simp] theorem modDie_spdm (d : Nat) (f : Die → Die) : (s.modDie d f).spdm = s.spdm := rfl
@[simp] theorem modDie_fw (d : Nat) (f : Die → Die) : (s.modDie d f).fw = s.fw := rfl
@[simp] theorem modDie_sec (d : Nat) (f : Die → Die) : (s.modDie d f).sec = s.sec := rfl
@[simp] theorem modDie_power (d : Nat) (f : Die → Die) : (s.modDie d f).power = s.power := rfl
@[simp] theorem modDie_free (d : Nat) (f : Die → Die) : (s.modDie d f).free = s.free := rfl
@[simp] theorem modDie_out (d : Nat) (f : Die → Die) : (s.modDie d f).out = s.out := rfl
@[simp] theorem modDie_cell (d : Nat) (f : Die → Die) (i : Nat) : (s.modDie d f).cell i = s.cell i := rfl
@[simp] theorem modDie_part (d : Nat) (f : Die → Die) (i : Nat) : (s.modDie d f).part i = s.part i := rfl
@[simp] theorem modDie_ring (d : Nat) (f : Die → Die) (i : Nat) : (s.modDie d f).ring i = s.ring i := rfl
@[simp] theorem modDie_clerk (d : Nat) (f : Die → Die) (i : Nat) : (s.modDie d f).clerk i = s.clerk i := rfl
@[simp] theorem modDie_port (d : Nat) (f : Die → Die) (i : Nat) : (s.modDie d f).port i = s.port i := rfl
@[simp] theorem modDie_unit (d : Nat) (f : Die → Die) (i j : Nat) : (s.modDie d f).unit i j = s.unit i j := rfl

/-! ### setPart -/

@[simp] theorem setPart_pending (p : Nat) (x : Partition) : (s.setPart p x).pending = s.pending := rfl
@[simp] theorem setPart_deferred (p : Nat) (x : Partition) : (s.setPart p x).deferred = s.deferred := rfl
@[simp] theorem setPart_cells (p : Nat) (x : Partition) : (s.setPart p x).cells = s.cells := rfl
@[simp] theorem setPart_dies (p : Nat) (x : Partition) : (s.setPart p x).dies = s.dies := rfl
@[simp] theorem setPart_fabric (p : Nat) (x : Partition) : (s.setPart p x).fabric = s.fabric := rfl
@[simp] theorem setPart_parts (p : Nat) (x : Partition) : (s.setPart p x).parts = put {} s.parts p x := rfl
@[simp] theorem setPart_hub (p : Nat) (x : Partition) : (s.setPart p x).hub = s.hub := rfl
@[simp] theorem setPart_rings (p : Nat) (x : Partition) : (s.setPart p x).rings = s.rings := rfl
@[simp] theorem setPart_cxl (p : Nat) (x : Partition) : (s.setPart p x).cxl = s.cxl := rfl
@[simp] theorem setPart_mgmt (p : Nat) (x : Partition) : (s.setPart p x).mgmt = s.mgmt := rfl
@[simp] theorem setPart_spdm (p : Nat) (x : Partition) : (s.setPart p x).spdm = s.spdm := rfl
@[simp] theorem setPart_fw (p : Nat) (x : Partition) : (s.setPart p x).fw = s.fw := rfl
@[simp] theorem setPart_sec (p : Nat) (x : Partition) : (s.setPart p x).sec = s.sec := rfl
@[simp] theorem setPart_power (p : Nat) (x : Partition) : (s.setPart p x).power = s.power := rfl
@[simp] theorem setPart_free (p : Nat) (x : Partition) : (s.setPart p x).free = s.free := rfl
@[simp] theorem setPart_out (p : Nat) (x : Partition) : (s.setPart p x).out = s.out := rfl
@[simp] theorem setPart_cell (p : Nat) (x : Partition) (i : Nat) : (s.setPart p x).cell i = s.cell i := rfl
@[simp] theorem setPart_die (p : Nat) (x : Partition) (i : Nat) : (s.setPart p x).die i = s.die i := rfl
@[simp] theorem setPart_ring (p : Nat) (x : Partition) (i : Nat) : (s.setPart p x).ring i = s.ring i := rfl
@[simp] theorem setPart_clerk (p : Nat) (x : Partition) (i : Nat) : (s.setPart p x).clerk i = s.clerk i := rfl
@[simp] theorem setPart_port (p : Nat) (x : Partition) (i : Nat) : (s.setPart p x).port i = s.port i := rfl
@[simp] theorem setPart_unit (p : Nat) (x : Partition) (i j : Nat) : (s.setPart p x).unit i j = s.unit i j := rfl

/-! ### modPart -/

@[simp] theorem modPart_pending (p : Nat) (f : Partition → Partition) : (s.modPart p f).pending = s.pending := rfl
@[simp] theorem modPart_deferred (p : Nat) (f : Partition → Partition) : (s.modPart p f).deferred = s.deferred := rfl
@[simp] theorem modPart_cells (p : Nat) (f : Partition → Partition) : (s.modPart p f).cells = s.cells := rfl
@[simp] theorem modPart_dies (p : Nat) (f : Partition → Partition) : (s.modPart p f).dies = s.dies := rfl
@[simp] theorem modPart_fabric (p : Nat) (f : Partition → Partition) : (s.modPart p f).fabric = s.fabric := rfl
@[simp] theorem modPart_parts (p : Nat) (f : Partition → Partition) : (s.modPart p f).parts = put {} s.parts p (f (s.part p)) := rfl
@[simp] theorem modPart_hub (p : Nat) (f : Partition → Partition) : (s.modPart p f).hub = s.hub := rfl
@[simp] theorem modPart_rings (p : Nat) (f : Partition → Partition) : (s.modPart p f).rings = s.rings := rfl
@[simp] theorem modPart_cxl (p : Nat) (f : Partition → Partition) : (s.modPart p f).cxl = s.cxl := rfl
@[simp] theorem modPart_mgmt (p : Nat) (f : Partition → Partition) : (s.modPart p f).mgmt = s.mgmt := rfl
@[simp] theorem modPart_spdm (p : Nat) (f : Partition → Partition) : (s.modPart p f).spdm = s.spdm := rfl
@[simp] theorem modPart_fw (p : Nat) (f : Partition → Partition) : (s.modPart p f).fw = s.fw := rfl
@[simp] theorem modPart_sec (p : Nat) (f : Partition → Partition) : (s.modPart p f).sec = s.sec := rfl
@[simp] theorem modPart_power (p : Nat) (f : Partition → Partition) : (s.modPart p f).power = s.power := rfl
@[simp] theorem modPart_free (p : Nat) (f : Partition → Partition) : (s.modPart p f).free = s.free := rfl
@[simp] theorem modPart_out (p : Nat) (f : Partition → Partition) : (s.modPart p f).out = s.out := rfl
@[simp] theorem modPart_cell (p : Nat) (f : Partition → Partition) (i : Nat) : (s.modPart p f).cell i = s.cell i := rfl
@[simp] theorem modPart_die (p : Nat) (f : Partition → Partition) (i : Nat) : (s.modPart p f).die i = s.die i := rfl
@[simp] theorem modPart_ring (p : Nat) (f : Partition → Partition) (i : Nat) : (s.modPart p f).ring i = s.ring i := rfl
@[simp] theorem modPart_clerk (p : Nat) (f : Partition → Partition) (i : Nat) : (s.modPart p f).clerk i = s.clerk i := rfl
@[simp] theorem modPart_port (p : Nat) (f : Partition → Partition) (i : Nat) : (s.modPart p f).port i = s.port i := rfl
@[simp] theorem modPart_unit (p : Nat) (f : Partition → Partition) (i j : Nat) : (s.modPart p f).unit i j = s.unit i j := rfl

/-! ### setRing -/

@[simp] theorem setRing_pending (r : Nat) (x : Ring) : (s.setRing r x).pending = s.pending := rfl
@[simp] theorem setRing_deferred (r : Nat) (x : Ring) : (s.setRing r x).deferred = s.deferred := rfl
@[simp] theorem setRing_cells (r : Nat) (x : Ring) : (s.setRing r x).cells = s.cells := rfl
@[simp] theorem setRing_dies (r : Nat) (x : Ring) : (s.setRing r x).dies = s.dies := rfl
@[simp] theorem setRing_fabric (r : Nat) (x : Ring) : (s.setRing r x).fabric = s.fabric := rfl
@[simp] theorem setRing_parts (r : Nat) (x : Ring) : (s.setRing r x).parts = s.parts := rfl
@[simp] theorem setRing_hub (r : Nat) (x : Ring) : (s.setRing r x).hub = s.hub := rfl
@[simp] theorem setRing_rings (r : Nat) (x : Ring) : (s.setRing r x).rings = put {} s.rings r x := rfl
@[simp] theorem setRing_cxl (r : Nat) (x : Ring) : (s.setRing r x).cxl = s.cxl := rfl
@[simp] theorem setRing_mgmt (r : Nat) (x : Ring) : (s.setRing r x).mgmt = s.mgmt := rfl
@[simp] theorem setRing_spdm (r : Nat) (x : Ring) : (s.setRing r x).spdm = s.spdm := rfl
@[simp] theorem setRing_fw (r : Nat) (x : Ring) : (s.setRing r x).fw = s.fw := rfl
@[simp] theorem setRing_sec (r : Nat) (x : Ring) : (s.setRing r x).sec = s.sec := rfl
@[simp] theorem setRing_power (r : Nat) (x : Ring) : (s.setRing r x).power = s.power := rfl
@[simp] theorem setRing_free (r : Nat) (x : Ring) : (s.setRing r x).free = s.free := rfl
@[simp] theorem setRing_out (r : Nat) (x : Ring) : (s.setRing r x).out = s.out := rfl
@[simp] theorem setRing_cell (r : Nat) (x : Ring) (i : Nat) : (s.setRing r x).cell i = s.cell i := rfl
@[simp] theorem setRing_die (r : Nat) (x : Ring) (i : Nat) : (s.setRing r x).die i = s.die i := rfl
@[simp] theorem setRing_part (r : Nat) (x : Ring) (i : Nat) : (s.setRing r x).part i = s.part i := rfl
@[simp] theorem setRing_clerk (r : Nat) (x : Ring) (i : Nat) : (s.setRing r x).clerk i = s.clerk i := rfl
@[simp] theorem setRing_port (r : Nat) (x : Ring) (i : Nat) : (s.setRing r x).port i = s.port i := rfl
@[simp] theorem setRing_unit (r : Nat) (x : Ring) (i j : Nat) : (s.setRing r x).unit i j = s.unit i j := rfl

/-! ### modRing -/

@[simp] theorem modRing_pending (r : Nat) (f : Ring → Ring) : (s.modRing r f).pending = s.pending := rfl
@[simp] theorem modRing_deferred (r : Nat) (f : Ring → Ring) : (s.modRing r f).deferred = s.deferred := rfl
@[simp] theorem modRing_cells (r : Nat) (f : Ring → Ring) : (s.modRing r f).cells = s.cells := rfl
@[simp] theorem modRing_dies (r : Nat) (f : Ring → Ring) : (s.modRing r f).dies = s.dies := rfl
@[simp] theorem modRing_fabric (r : Nat) (f : Ring → Ring) : (s.modRing r f).fabric = s.fabric := rfl
@[simp] theorem modRing_parts (r : Nat) (f : Ring → Ring) : (s.modRing r f).parts = s.parts := rfl
@[simp] theorem modRing_hub (r : Nat) (f : Ring → Ring) : (s.modRing r f).hub = s.hub := rfl
@[simp] theorem modRing_rings (r : Nat) (f : Ring → Ring) : (s.modRing r f).rings = put {} s.rings r (f (s.ring r)) := rfl
@[simp] theorem modRing_cxl (r : Nat) (f : Ring → Ring) : (s.modRing r f).cxl = s.cxl := rfl
@[simp] theorem modRing_mgmt (r : Nat) (f : Ring → Ring) : (s.modRing r f).mgmt = s.mgmt := rfl
@[simp] theorem modRing_spdm (r : Nat) (f : Ring → Ring) : (s.modRing r f).spdm = s.spdm := rfl
@[simp] theorem modRing_fw (r : Nat) (f : Ring → Ring) : (s.modRing r f).fw = s.fw := rfl
@[simp] theorem modRing_sec (r : Nat) (f : Ring → Ring) : (s.modRing r f).sec = s.sec := rfl
@[simp] theorem modRing_power (r : Nat) (f : Ring → Ring) : (s.modRing r f).power = s.power := rfl
@[simp] theorem modRing_free (r : Nat) (f : Ring → Ring) : (s.modRing r f).free = s.free := rfl
@[simp] theorem modRing_out (r : Nat) (f : Ring → Ring) : (s.modRing r f).out = s.out := rfl
@[simp] theorem modRing_cell (r : Nat) (f : Ring → Ring) (i : Nat) : (s.modRing r f).cell i = s.cell i := rfl
@[simp] theorem modRing_die (r : Nat) (f : Ring → Ring) (i : Nat) : (s.modRing r f).die i = s.die i := rfl
@[simp] theorem modRing_part (r : Nat) (f : Ring → Ring) (i : Nat) : (s.modRing r f).part i = s.part i := rfl
@[simp] theorem modRing_clerk (r : Nat) (f : Ring → Ring) (i : Nat) : (s.modRing r f).clerk i = s.clerk i := rfl
@[simp] theorem modRing_port (r : Nat) (f : Ring → Ring) (i : Nat) : (s.modRing r f).port i = s.port i := rfl
@[simp] theorem modRing_unit (r : Nat) (f : Ring → Ring) (i j : Nat) : (s.modRing r f).unit i j = s.unit i j := rfl

/-! ### modHub -/

@[simp] theorem modHub_pending (f : Hub → Hub) : (s.modHub f).pending = s.pending := rfl
@[simp] theorem modHub_deferred (f : Hub → Hub) : (s.modHub f).deferred = s.deferred := rfl
@[simp] theorem modHub_cells (f : Hub → Hub) : (s.modHub f).cells = s.cells := rfl
@[simp] theorem modHub_dies (f : Hub → Hub) : (s.modHub f).dies = s.dies := rfl
@[simp] theorem modHub_fabric (f : Hub → Hub) : (s.modHub f).fabric = s.fabric := rfl
@[simp] theorem modHub_parts (f : Hub → Hub) : (s.modHub f).parts = s.parts := rfl
@[simp] theorem modHub_hub (f : Hub → Hub) : (s.modHub f).hub = f s.hub := rfl
@[simp] theorem modHub_rings (f : Hub → Hub) : (s.modHub f).rings = s.rings := rfl
@[simp] theorem modHub_cxl (f : Hub → Hub) : (s.modHub f).cxl = s.cxl := rfl
@[simp] theorem modHub_mgmt (f : Hub → Hub) : (s.modHub f).mgmt = s.mgmt := rfl
@[simp] theorem modHub_spdm (f : Hub → Hub) : (s.modHub f).spdm = s.spdm := rfl
@[simp] theorem modHub_fw (f : Hub → Hub) : (s.modHub f).fw = s.fw := rfl
@[simp] theorem modHub_sec (f : Hub → Hub) : (s.modHub f).sec = s.sec := rfl
@[simp] theorem modHub_power (f : Hub → Hub) : (s.modHub f).power = s.power := rfl
@[simp] theorem modHub_free (f : Hub → Hub) : (s.modHub f).free = s.free := rfl
@[simp] theorem modHub_out (f : Hub → Hub) : (s.modHub f).out = s.out := rfl
@[simp] theorem modHub_cell (f : Hub → Hub) (i : Nat) : (s.modHub f).cell i = s.cell i := rfl
@[simp] theorem modHub_die (f : Hub → Hub) (i : Nat) : (s.modHub f).die i = s.die i := rfl
@[simp] theorem modHub_part (f : Hub → Hub) (i : Nat) : (s.modHub f).part i = s.part i := rfl
@[simp] theorem modHub_ring (f : Hub → Hub) (i : Nat) : (s.modHub f).ring i = s.ring i := rfl
@[simp] theorem modHub_port (f : Hub → Hub) (i : Nat) : (s.modHub f).port i = s.port i := rfl
@[simp] theorem modHub_unit (f : Hub → Hub) (i j : Nat) : (s.modHub f).unit i j = s.unit i j := rfl

/-! ### modClerk -/

@[simp] theorem modClerk_pending (k : Nat) (f : Clerk → Clerk) : (s.modClerk k f).pending = s.pending := rfl
@[simp] theorem modClerk_deferred (k : Nat) (f : Clerk → Clerk) : (s.modClerk k f).deferred = s.deferred := rfl
@[simp] theorem modClerk_cells (k : Nat) (f : Clerk → Clerk) : (s.modClerk k f).cells = s.cells := rfl
@[simp] theorem modClerk_dies (k : Nat) (f : Clerk → Clerk) : (s.modClerk k f).dies = s.dies := rfl
@[simp] theorem modClerk_fabric (k : Nat) (f : Clerk → Clerk) : (s.modClerk k f).fabric = s.fabric := rfl
@[simp] theorem modClerk_parts (k : Nat) (f : Clerk → Clerk) : (s.modClerk k f).parts = s.parts := rfl
@[simp] theorem modClerk_rings (k : Nat) (f : Clerk → Clerk) : (s.modClerk k f).rings = s.rings := rfl
@[simp] theorem modClerk_cxl (k : Nat) (f : Clerk → Clerk) : (s.modClerk k f).cxl = s.cxl := rfl
@[simp] theorem modClerk_mgmt (k : Nat) (f : Clerk → Clerk) : (s.modClerk k f).mgmt = s.mgmt := rfl
@[simp] theorem modClerk_spdm (k : Nat) (f : Clerk → Clerk) : (s.modClerk k f).spdm = s.spdm := rfl
@[simp] theorem modClerk_fw (k : Nat) (f : Clerk → Clerk) : (s.modClerk k f).fw = s.fw := rfl
@[simp] theorem modClerk_sec (k : Nat) (f : Clerk → Clerk) : (s.modClerk k f).sec = s.sec := rfl
@[simp] theorem modClerk_power (k : Nat) (f : Clerk → Clerk) : (s.modClerk k f).power = s.power := rfl
@[simp] theorem modClerk_free (k : Nat) (f : Clerk → Clerk) : (s.modClerk k f).free = s.free := rfl
@[simp] theorem modClerk_out (k : Nat) (f : Clerk → Clerk) : (s.modClerk k f).out = s.out := rfl
@[simp] theorem modClerk_cell (k : Nat) (f : Clerk → Clerk) (i : Nat) : (s.modClerk k f).cell i = s.cell i := rfl
@[simp] theorem modClerk_die (k : Nat) (f : Clerk → Clerk) (i : Nat) : (s.modClerk k f).die i = s.die i := rfl
@[simp] theorem modClerk_part (k : Nat) (f : Clerk → Clerk) (i : Nat) : (s.modClerk k f).part i = s.part i := rfl
@[simp] theorem modClerk_ring (k : Nat) (f : Clerk → Clerk) (i : Nat) : (s.modClerk k f).ring i = s.ring i := rfl
@[simp] theorem modClerk_port (k : Nat) (f : Clerk → Clerk) (i : Nat) : (s.modClerk k f).port i = s.port i := rfl
@[simp] theorem modClerk_unit (k : Nat) (f : Clerk → Clerk) (i j : Nat) : (s.modClerk k f).unit i j = s.unit i j := rfl

/-! ### modServices -/

@[simp] theorem modServices_pending (f : Services → Services) : (s.modServices f).pending = s.pending := rfl
@[simp] theorem modServices_deferred (f : Services → Services) : (s.modServices f).deferred = s.deferred := rfl
@[simp] theorem modServices_cells (f : Services → Services) : (s.modServices f).cells = s.cells := rfl
@[simp] theorem modServices_dies (f : Services → Services) : (s.modServices f).dies = s.dies := rfl
@[simp] theorem modServices_fabric (f : Services → Services) : (s.modServices f).fabric = s.fabric := rfl
@[simp] theorem modServices_parts (f : Services → Services) : (s.modServices f).parts = s.parts := rfl
@[simp] theorem modServices_rings (f : Services → Services) : (s.modServices f).rings = s.rings := rfl
@[simp] theorem modServices_cxl (f : Services → Services) : (s.modServices f).cxl = s.cxl := rfl
@[simp] theorem modServices_mgmt (f : Services → Services) : (s.modServices f).mgmt = s.mgmt := rfl
@[simp] theorem modServices_spdm (f : Services → Services) : (s.modServices f).spdm = s.spdm := rfl
@[simp] theorem modServices_fw (f : Services → Services) : (s.modServices f).fw = s.fw := rfl
@[simp] theorem modServices_sec (f : Services → Services) : (s.modServices f).sec = s.sec := rfl
@[simp] theorem modServices_power (f : Services → Services) : (s.modServices f).power = s.power := rfl
@[simp] theorem modServices_free (f : Services → Services) : (s.modServices f).free = s.free := rfl
@[simp] theorem modServices_out (f : Services → Services) : (s.modServices f).out = s.out := rfl
@[simp] theorem modServices_cell (f : Services → Services) (i : Nat) : (s.modServices f).cell i = s.cell i := rfl
@[simp] theorem modServices_die (f : Services → Services) (i : Nat) : (s.modServices f).die i = s.die i := rfl
@[simp] theorem modServices_part (f : Services → Services) (i : Nat) : (s.modServices f).part i = s.part i := rfl
@[simp] theorem modServices_ring (f : Services → Services) (i : Nat) : (s.modServices f).ring i = s.ring i := rfl
@[simp] theorem modServices_port (f : Services → Services) (i : Nat) : (s.modServices f).port i = s.port i := rfl
@[simp] theorem modServices_unit (f : Services → Services) (i j : Nat) : (s.modServices f).unit i j = s.unit i j := rfl

/-! ### modPort -/

@[simp] theorem modPort_pending (i : Nat) (f : Port → Port) : (s.modPort i f).pending = s.pending := rfl
@[simp] theorem modPort_deferred (i : Nat) (f : Port → Port) : (s.modPort i f).deferred = s.deferred := rfl
@[simp] theorem modPort_cells (i : Nat) (f : Port → Port) : (s.modPort i f).cells = s.cells := rfl
@[simp] theorem modPort_dies (i : Nat) (f : Port → Port) : (s.modPort i f).dies = s.dies := rfl
@[simp] theorem modPort_parts (i : Nat) (f : Port → Port) : (s.modPort i f).parts = s.parts := rfl
@[simp] theorem modPort_hub (i : Nat) (f : Port → Port) : (s.modPort i f).hub = s.hub := rfl
@[simp] theorem modPort_rings (i : Nat) (f : Port → Port) : (s.modPort i f).rings = s.rings := rfl
@[simp] theorem modPort_cxl (i : Nat) (f : Port → Port) : (s.modPort i f).cxl = s.cxl := rfl
@[simp] theorem modPort_mgmt (i : Nat) (f : Port → Port) : (s.modPort i f).mgmt = s.mgmt := rfl
@[simp] theorem modPort_spdm (i : Nat) (f : Port → Port) : (s.modPort i f).spdm = s.spdm := rfl
@[simp] theorem modPort_fw (i : Nat) (f : Port → Port) : (s.modPort i f).fw = s.fw := rfl
@[simp] theorem modPort_sec (i : Nat) (f : Port → Port) : (s.modPort i f).sec = s.sec := rfl
@[simp] theorem modPort_power (i : Nat) (f : Port → Port) : (s.modPort i f).power = s.power := rfl
@[simp] theorem modPort_free (i : Nat) (f : Port → Port) : (s.modPort i f).free = s.free := rfl
@[simp] theorem modPort_out (i : Nat) (f : Port → Port) : (s.modPort i f).out = s.out := rfl
@[simp] theorem modPort_cell (i : Nat) (f : Port → Port) (a : Nat) : (s.modPort i f).cell a = s.cell a := rfl
@[simp] theorem modPort_die (i : Nat) (f : Port → Port) (a : Nat) : (s.modPort i f).die a = s.die a := rfl
@[simp] theorem modPort_part (i : Nat) (f : Port → Port) (a : Nat) : (s.modPort i f).part a = s.part a := rfl
@[simp] theorem modPort_ring (i : Nat) (f : Port → Port) (a : Nat) : (s.modPort i f).ring a = s.ring a := rfl
@[simp] theorem modPort_clerk (i : Nat) (f : Port → Port) (a : Nat) : (s.modPort i f).clerk a = s.clerk a := rfl

/-! ### modUnit -/

@[simp] theorem modUnit_pending (i u : Nat) (f : LinkUnit → LinkUnit) : (s.modUnit i u f).pending = s.pending := rfl
@[simp] theorem modUnit_deferred (i u : Nat) (f : LinkUnit → LinkUnit) : (s.modUnit i u f).deferred = s.deferred := rfl
@[simp] theorem modUnit_cells (i u : Nat) (f : LinkUnit → LinkUnit) : (s.modUnit i u f).cells = s.cells := rfl
@[simp] theorem modUnit_dies (i u : Nat) (f : LinkUnit → LinkUnit) : (s.modUnit i u f).dies = s.dies := rfl
@[simp] theorem modUnit_parts (i u : Nat) (f : LinkUnit → LinkUnit) : (s.modUnit i u f).parts = s.parts := rfl
@[simp] theorem modUnit_hub (i u : Nat) (f : LinkUnit → LinkUnit) : (s.modUnit i u f).hub = s.hub := rfl
@[simp] theorem modUnit_rings (i u : Nat) (f : LinkUnit → LinkUnit) : (s.modUnit i u f).rings = s.rings := rfl
@[simp] theorem modUnit_cxl (i u : Nat) (f : LinkUnit → LinkUnit) : (s.modUnit i u f).cxl = s.cxl := rfl
@[simp] theorem modUnit_mgmt (i u : Nat) (f : LinkUnit → LinkUnit) : (s.modUnit i u f).mgmt = s.mgmt := rfl
@[simp] theorem modUnit_spdm (i u : Nat) (f : LinkUnit → LinkUnit) : (s.modUnit i u f).spdm = s.spdm := rfl
@[simp] theorem modUnit_fw (i u : Nat) (f : LinkUnit → LinkUnit) : (s.modUnit i u f).fw = s.fw := rfl
@[simp] theorem modUnit_sec (i u : Nat) (f : LinkUnit → LinkUnit) : (s.modUnit i u f).sec = s.sec := rfl
@[simp] theorem modUnit_power (i u : Nat) (f : LinkUnit → LinkUnit) : (s.modUnit i u f).power = s.power := rfl
@[simp] theorem modUnit_free (i u : Nat) (f : LinkUnit → LinkUnit) : (s.modUnit i u f).free = s.free := rfl
@[simp] theorem modUnit_out (i u : Nat) (f : LinkUnit → LinkUnit) : (s.modUnit i u f).out = s.out := rfl
@[simp] theorem modUnit_cell (i u : Nat) (f : LinkUnit → LinkUnit) (a : Nat) : (s.modUnit i u f).cell a = s.cell a := rfl
@[simp] theorem modUnit_die (i u : Nat) (f : LinkUnit → LinkUnit) (a : Nat) : (s.modUnit i u f).die a = s.die a := rfl
@[simp] theorem modUnit_part (i u : Nat) (f : LinkUnit → LinkUnit) (a : Nat) : (s.modUnit i u f).part a = s.part a := rfl
@[simp] theorem modUnit_ring (i u : Nat) (f : LinkUnit → LinkUnit) (a : Nat) : (s.modUnit i u f).ring a = s.ring a := rfl
@[simp] theorem modUnit_clerk (i u : Nat) (f : LinkUnit → LinkUnit) (a : Nat) : (s.modUnit i u f).clerk a = s.clerk a := rfl

/-! ### emit -/

@[simp] theorem emit_pending (o : Out) : (s.emit o).pending = s.pending := rfl
@[simp] theorem emit_deferred (o : Out) : (s.emit o).deferred = s.deferred := rfl
@[simp] theorem emit_cells (o : Out) : (s.emit o).cells = s.cells := rfl
@[simp] theorem emit_dies (o : Out) : (s.emit o).dies = s.dies := rfl
@[simp] theorem emit_fabric (o : Out) : (s.emit o).fabric = s.fabric := rfl
@[simp] theorem emit_parts (o : Out) : (s.emit o).parts = s.parts := rfl
@[simp] theorem emit_hub (o : Out) : (s.emit o).hub = s.hub := rfl
@[simp] theorem emit_rings (o : Out) : (s.emit o).rings = s.rings := rfl
@[simp] theorem emit_cxl (o : Out) : (s.emit o).cxl = s.cxl := rfl
@[simp] theorem emit_mgmt (o : Out) : (s.emit o).mgmt = s.mgmt := rfl
@[simp] theorem emit_spdm (o : Out) : (s.emit o).spdm = s.spdm := rfl
@[simp] theorem emit_fw (o : Out) : (s.emit o).fw = s.fw := rfl
@[simp] theorem emit_sec (o : Out) : (s.emit o).sec = s.sec := rfl
@[simp] theorem emit_power (o : Out) : (s.emit o).power = s.power := rfl
@[simp] theorem emit_free (o : Out) : (s.emit o).free = s.free := rfl
@[simp] theorem emit_out (o : Out) : (s.emit o).out = s.out ++ [o] := rfl
@[simp] theorem emit_cell (o : Out) (i : Nat) : (s.emit o).cell i = s.cell i := rfl
@[simp] theorem emit_die (o : Out) (i : Nat) : (s.emit o).die i = s.die i := rfl
@[simp] theorem emit_part (o : Out) (i : Nat) : (s.emit o).part i = s.part i := rfl
@[simp] theorem emit_ring (o : Out) (i : Nat) : (s.emit o).ring i = s.ring i := rfl
@[simp] theorem emit_clerk (o : Out) (i : Nat) : (s.emit o).clerk i = s.clerk i := rfl
@[simp] theorem emit_port (o : Out) (i : Nat) : (s.emit o).port i = s.port i := rfl
@[simp] theorem emit_unit (o : Out) (i j : Nat) : (s.emit o).unit i j = s.unit i j := rfl

/-! ### What a part reads as after its own update -/

variable {s}

theorem cell_setCell (h : SMap.wf {} s.cells = true) (c i : Nat) (x : Cell) :
    (s.setCell c x).cell i = if i = c then x else s.cell i := look_put h
theorem cell_modCell (h : SMap.wf {} s.cells = true) (c i : Nat) (f : Cell → Cell) :
    (s.modCell c f).cell i = if i = c then f (s.cell c) else s.cell i := look_put h
theorem cell_modCell_ne {c i : Nat} (h : i ≠ c) (f : Cell → Cell) : (s.modCell c f).cell i = s.cell i := look_put_ne h
theorem die_modDie (h : SMap.wf {} s.dies = true) (d i : Nat) (f : Die → Die) :
    (s.modDie d f).die i = if i = d then f (s.die d) else s.die i := look_put h
theorem die_modDie_ne {d i : Nat} (h : i ≠ d) (f : Die → Die) : (s.modDie d f).die i = s.die i := look_put_ne h
theorem part_modPart (h : SMap.wf {} s.parts = true) (p i : Nat) (f : Partition → Partition) :
    (s.modPart p f).part i = if i = p then f (s.part p) else s.part i := look_put h
theorem part_modPart_ne {p i : Nat} (h : i ≠ p) (f : Partition → Partition) : (s.modPart p f).part i = s.part i :=
  look_put_ne h
theorem ring_modRing (h : SMap.wf {} s.rings = true) (r i : Nat) (f : Ring → Ring) :
    (s.modRing r f).ring i = if i = r then f (s.ring r) else s.ring i := look_put h
theorem ring_modRing_ne {r i : Nat} (h : i ≠ r) (f : Ring → Ring) : (s.modRing r f).ring i = s.ring i := look_put_ne h
theorem clerk_modClerk (h : SMap.wf {} s.hub.clerks = true) (k i : Nat) (f : Clerk → Clerk) :
    (s.modClerk k f).clerk i = if i = k then f (s.clerk k) else s.clerk i := look_put h
theorem clerk_modClerk_ne {k i : Nat} (h : i ≠ k) (f : Clerk → Clerk) : (s.modClerk k f).clerk i = s.clerk i :=
  look_put_ne h
theorem port_modPort (h : SMap.wf {} s.fabric.ports = true) (k i : Nat) (f : Port → Port) :
    (s.modPort k f).port i = if i = k then f (s.port k) else s.port i := look_put h
theorem port_modPort_ne {k i : Nat} (h : i ≠ k) (f : Port → Port) : (s.modPort k f).port i = s.port i := look_put_ne h

end Sys2Proof.Machine
end

