-- ==== Sys2Proof/Safety.lean ====
section
/-! DEFINITION. What counts as a safe step, the state's canonical form, when a command may take effect, and what an answer to one leaves: the terms claims use. -/

namespace Sys2Proof.Machine

/-- A step goes on: it ends neither in a fault nor in a refusal. -/
def Goes (o : Host.Outcome State Fault Refusal) : Prop := ∃ t, o = .next t

/-! ## The canonical form -/

/-- The memories of a cell: its store, and its queues and streams by number. -/
abbrev Cell.Canon (x : Cell) : Prop := Memory.wf x.store = true ∧ SMap.wf {} x.queues = true ∧ SMap.wf {} x.streams = true

/-- The memories of a die: its HBM and its tallies. -/
abbrev Die.Canon (D : Die) : Prop := Memory.wf D.hbm = true ∧ SMap.wf 0 D.tallies = true

/-- Equal states are equal data: the sparse maps of cells, dies, partitions, rings, clerks and ports are in canonical
form, and so is the memory of every cell and die. -/
abbrev State.Canon (s : State) : Prop :=
  SMap.wf {} s.cells = true ∧ SMap.wf {} s.dies = true ∧ SMap.wf {} s.parts = true ∧ SMap.wf {} s.rings = true ∧
  SMap.wf {} s.hub.clerks = true ∧ SMap.wf {} s.fabric.ports = true ∧
  (∀ e ∈ s.cells, e.2.Canon) ∧ ∀ e ∈ s.dies, e.2.Canon

/-! ## When a command may take effect -/

/-- No exam slice holds the cell's bench (R414). -/
abbrev State.Awake (s : State) (c : Nat) : Prop := (s.cell c).paused = false

/-- No firmware switch is in progress (R369). -/
abbrev State.NoSwitch (s : State) : Prop := s.fw.stage ≠ .starting

/-- The host's snoop filter records no line that these accesses of HBM would snoop (R315): die, address, length, and
whether it writes. -/
abbrev State.Unrecorded (s : State) (acc : List (Nat × Nat × Nat × Bool)) : Prop :=
  ∀ e ∈ acc, s.cxl.mustSnoop e.1 e.2.1 e.2.2.1 e.2.2.2 = []

/-- What accesses of HBM leave that must wait for the host (R315): its lines are snooped, and nothing else happens. -/
def State.snooped (s : State) (acc : List (Nat × Nat × Nat × Bool)) : State :=
  acc.foldl (fun t e => t.snoopRange e.1 e.2.1 e.2.2.1 e.2.2.2) s

/-- What the manual asks of a command before it takes effect: a device in start-hold takes only what R438 names, one in
recovery mode only what R372 names; its partition has dies, unless it is a command of the whole device; its parameters
hold no reserved value (`bad`, R326); its partition is in one of the states that R325 lists for it; and one that would
wake a die finds the device out of Standby (R391). -/
abbrev State.Allows (s : State) (op : Nat) (states : List PartState) (bad : Option Nat) (c : PendCmd) : Prop :=
  (s.power.state = .startHold → op / 256 ∈ [1, 5, 8] ∨ op = 0x0701) ∧
  (s.power.state = .recovery → op ∈ [0x0101, 0x0501, 0x0502, 0x0503, 0x0504, 0x0505, 0x0106]) ∧
  ((s.part c.part).dies ≠ 0 ∨ (opInfo op).map OpInfo.ring0 = some true) ∧ bad = none ∧
  (s.part c.part).state ∈ states ∧ (wakes op = true → s.power.standby = false)

/-- Command `c` of opcode `op` takes effect now: it is the oldest that waits on ring `r`, nothing keeps it from starting
(R324, R369, R436), it meets what the manual asks of it (R326, R372, R391, R438) and it waits for no wake (R393). Every
condition is one on the state and the command. -/
abbrev State.Starts (s : State) (r : RingIx) (op : Nat) (states : List PartState) (bad : PendCmd → Option Nat)
    (c : PendCmd) : Prop :=
  (s.ring r).pend.head? = some c ∧ c.opcode = op ∧ (c.fence = true → (s.ring r).running = []) ∧
  s.exclusiveFree c = true ∧ s.isNext r c = true ∧ (s.power.state = .starting → op / 256 = 1) ∧ s.NoSwitch ∧
  s.Allows op states (bad c) c ∧ (wakes op = true → s.partUp c.part = true) ∧
  c.mute = false ∧ c ∉ (s.ring r).running ∧ SMap.wf {} s.rings = true

/-- The oldest command that waits on ring `r` is `c`, of opcode `op`; it may start now (R324, R369, R436), and its start is
refused with a status and a detail (R326, R372, R391, R438). -/
abbrev State.Refused (s : State) (r : RingIx) (op : Nat) (states : List PartState) (bad : PendCmd → Option Nat)
    (c : PendCmd) (e : Nat × Nat) : Prop :=
  (s.ring r).pend.head? = some c ∧ c.opcode = op ∧ (c.fence = true → (s.ring r).running = []) ∧
  s.exclusiveFree c = true ∧ s.isNext r c = true ∧ (s.power.state = .starting → op / 256 = 1) ∧ s.NoSwitch ∧
  s.refuse c states (bad c) = some e ∧
  c.mute = false ∧ c ∉ (s.ring r).running ∧ SMap.wf {} s.rings = true

/-- The state once the command at the front of a ring runs (R324). -/
def State.started (s : State) (r : RingIx) (c : PendCmd) : State :=
  s.modRing r fun R => { R with pend := R.pend.tail, running := R.running ++ [c] }

/-- A command's reply on ring `r` (R323, R326): OK turns into OK_TRUNCATED where the data is longer than DATA_MAX. -/
def replyOf (r : Nat) (c : PendCmd) (status detail : Nat) (data : List Byte) : Reply :=
  if status = 0 ∧ c.dataMax r < data.length then ⟨c, 1, BitVec.ofNat 32 (c.dataMax r), data⟩
  else ⟨c, BitVec.ofNat 16 status, BitVec.ofNat 32 detail, data⟩

/-- The command at the front of ring `r` has been answered: it no longer waits, and its reply waits to be written. The
rest of the state is `s`. -/
def State.answered (s : State) (r : RingIx) (c : PendCmd) (status detail : Nat) (data : List Byte) : State :=
  s.modRing r fun R => { R with pend := R.pend.tail, done := R.done ++ [replyOf r c status detail data] }

/-- A control packet of this type that the partition takes: neither reserved nor stale (R258), outside a switch. -/
abbrev State.TakesCtl (s : State) (p : PartIx) (type : Nat) (c : Control) : Prop :=
  s.NoSwitch ∧ reservedCtype c = false ∧ ctype c = type ∧ (s.part p).staleCtl c = false

/-- A KMP message of this type that is kept (R338), outside a switch. -/
abbrev State.TakesKmp (s : State) (m : Kmp) (type : Nat) : Prop :=
  s.NoSwitch ∧ s.mgmtOpen m = true ∧ kmpKept m = true ∧ kmpType m = type

/-- The state in which a kept KMP message takes effect: it has been admitted (R27). -/
def State.kmpIn (s : State) (m : Kmp) : BitVec 64 × State :=
  s.intake (if m.viaI3c then .i3c else .kmp) (if m.viaI3c then 7 else 5)

/-- The SPDM responder runs on a transport (R351). -/
abbrev State.Answers (s : State) (t : Transport) : Prop := s.spdmRuns t = true

end Sys2Proof.Machine
end

