-- ==== Sys2Proof/Laws/Commands.lean ====
section
/-! SUPPORT. What the shared operations of the commands do: starting from a ring and replying, receiving control packets, KMP messages and SPDM requests, and the events of cells. -/

namespace Sys2Proof.Machine

variable {s t : State}

/-! ## Events that wait -/

theorem onCell_awake {c : Nat} {r : Res} (h : s.Awake c) : s.onCell c r = r := by simp [State.onCell, h]

theorem onCell_paused {c : Nat} {r : Res} (h : (s.cell c).paused = true) : s.onCell c r = .next s := by
  simp [State.onCell, h]

theorem defers_noSwitch {i : Instr} {r : Res} (h : s.NoSwitch) : s.defers i r = r := by simp [State.defers, h]

theorem defers_switch {i : Instr} {r : Res} (h : s.fw.stage = .starting) :
    s.defers i r = .next { s with deferred := s.deferred ++ [(i, none)] } := by simp [State.defers, h]

/-- What accesses HBM goes on where the host holds no line of it. -/
theorem afterSnoops_free {acc : List (Nat × Nat × Nat × Bool)} {r : Res}
    (h : ∀ e ∈ acc, s.cxl.mustSnoop e.1 e.2.1 e.2.2.1 e.2.2.2 = []) : s.afterSnoops acc r = r := by
  have h' : acc.all (fun e => (s.cxl.mustSnoop e.1 e.2.1 e.2.2.1 e.2.2.2).isEmpty) = true := by
    simpa [List.all_eq_true] using fun a b c d he => h (a, b, c, d) he
  simp only [State.afterSnoops, h', if_true]

@[simp] theorem afterSnoops_nil {r : Res} : s.afterSnoops [] r = r := rfl

/-- Everything that an access to HBM can do: it goes on, or it snoops the host's lines and waits. -/
theorem afterSnoops_cases {acc : List (Nat × Nat × Nat × Bool)} {r : Res} (h : s.afterSnoops acc r = .next t) :
    r = .next t ∨ t = acc.foldl (fun u e => u.snoopRange e.1 e.2.1 e.2.2.1 e.2.2.2) s := by
  unfold State.afterSnoops at h
  split at h
  · exact .inl h
  · injection h with h; exact .inr h.symm

/-! ## Commands of the rings -/

/-- Everything that `runCmd` can do: nothing, a refusal's reply, a wake, snoops that the host must answer first, or the
command's own effect. -/
theorem runCmd_cases {r : RingIx} {op : Nat} {states : List PartState} {bad : PendCmd → Option Nat}
    {f : PendCmd → State → State} {acc : PendCmd → List (Nat × Nat × Nat × Bool)}
    (h : s.runCmd r op states bad f acc = .next t) :
    t = s ∨ ∃ c rest, (s.ring r).pend = c :: rest ∧ c.opcode = op ∧
      ((∃ e, s.refuse c states (bad c) = some e ∧ t = (s.started r c).reply r c e.1 e.2 []) ∨
       (s.refuse c states (bad c) = none ∧ wakes op = true ∧ s.partUp c.part = false ∧ t = s.wakePart c.part) ∨
       (s.refuse c states (bad c) = none ∧
         (t = (acc c).foldl (fun u e => u.snoopRange e.1 e.2.1 e.2.2.1 e.2.2.2) s ∨ t = f c (s.started r c)))) := by
  unfold State.runCmd at h
  cases hp : (s.ring r).pend with
  | nil => simp only [hp] at h; exact .inl (by injection h with h; exact h.symm)
  | cons c rest =>
    simp only [hp] at h
    have hs : s.modRing r (fun R => { R with pend := rest, running := R.running ++ [c] }) = s.started r c := by
      simp [State.started, State.modRing, hp]
    rw [hs] at h
    split at h
    · exact .inl (by injection h with h; exact h.symm)
    · rename_i hn
      have hop : c.opcode = op := by
        by_contra hne
        exact hn (.inl hne)
      refine .inr ⟨c, rest, rfl, hop, ?_⟩
      cases hr : s.refuse c states (bad c) with
      | some e =>
        simp only [hr] at h
        injection h with h
        exact .inl ⟨e, rfl, h.symm⟩
      | none =>
        simp only [hr] at h
        split at h
        · rename_i hw
          injection h with h
          exact .inr (.inl ⟨rfl, hw.1, hw.2, h.symm⟩)
        · rcases afterSnoops_cases h with h | h
          · injection h with h
            exact .inr (.inr ⟨rfl, .inr h.symm⟩)
          · exact .inr (.inr ⟨rfl, .inl h⟩)

/-- No check of R326, R372, R391 and R438 refuses a command exactly where it meets what they ask. -/
theorem refuse_none {c : PendCmd} {states : List PartState} {bad : Option Nat} :
    s.refuse c states bad = none ↔ s.Allows c.opcode states bad c := by
  unfold State.refuse State.Allows
  cases bad <;> simp only [] <;> (repeat' split) <;> simp_all
  rename_i h1 h2 h3 _ _
  refine ⟨fun h => by have := h1 h; omega, fun h => by have := h2 h; omega, ?_⟩
  by_cases h : (s.part c.part).dies = 0#4
  · exact .inr (h3 h)
  · exact .inl h

/-- A command that may start, and whose lines of HBM the host does not hold, takes its effect. -/
theorem runCmd_starts {r : RingIx} {op : Nat} {states : List PartState} {bad : PendCmd → Option Nat} {c : PendCmd}
    {f : PendCmd → State → State} {acc : PendCmd → List (Nat × Nat × Nat × Bool)} (h : s.Starts r op states bad c)
    (hacc : ∀ e ∈ acc c, s.cxl.mustSnoop e.1 e.2.1 e.2.2.1 e.2.2.2 = []) :
    s.runCmd r op states bad f acc = .next (f c (s.started r c)) := by
  obtain ⟨h1, h2, h3, h4, hx, h5, h6, h7, h8, -, -, -⟩ := h
  cases hp : (s.ring r).pend with
  | nil => simp [hp] at h1
  | cons x rest =>
    obtain rfl : x = c := by simpa [hp] using h1
    have hs : s.modRing r (fun R => { R with pend := rest, running := R.running ++ [x] }) = s.started r x := by
      simp [State.started, State.modRing, hp]
    have hc : ¬(x.opcode ≠ op ∨ (x.fence ∧ (s.ring r).running ≠ []) ∨ s.exclusiveFree x = false ∨
        (s.power.state = .starting ∧ op / 256 ≠ 1) ∨ s.fw.stage = .starting ∨ s.isNext r x = false) := by
      rintro (h | ⟨h, h'⟩ | h | ⟨h, h'⟩ | h | h)
      · exact h h2
      · exact h' (h3 h)
      · simp [h4] at h
      · exact h' (h5 h)
      · exact h6 h
      · simp [hx] at h
    have hw : ¬(wakes op = true ∧ s.partUp x.part = false) := by
      rintro ⟨h, h'⟩; simp [h8 h] at h'
    have h7' := refuse_none.2 (h2 ▸ h7)
    unfold State.runCmd
    simp only [hp, hs, hc, if_false, h7', hw, afterSnoops_free hacc]

/-! ### A started command changes its ring alone -/

@[simp] theorem started_pending (s : State) (r : RingIx) (c : PendCmd) : (s.started r c).pending = s.pending := rfl
@[simp] theorem started_deferred (s : State) (r : RingIx) (c : PendCmd) : (s.started r c).deferred = s.deferred := rfl
@[simp] theorem started_cells (s : State) (r : RingIx) (c : PendCmd) : (s.started r c).cells = s.cells := rfl
@[simp] theorem started_dies (s : State) (r : RingIx) (c : PendCmd) : (s.started r c).dies = s.dies := rfl
@[simp] theorem started_fabric (s : State) (r : RingIx) (c : PendCmd) : (s.started r c).fabric = s.fabric := rfl
@[simp] theorem started_parts (s : State) (r : RingIx) (c : PendCmd) : (s.started r c).parts = s.parts := rfl
@[simp] theorem started_hub (s : State) (r : RingIx) (c : PendCmd) : (s.started r c).hub = s.hub := rfl
@[simp] theorem started_cxl (s : State) (r : RingIx) (c : PendCmd) : (s.started r c).cxl = s.cxl := rfl
@[simp] theorem started_mgmt (s : State) (r : RingIx) (c : PendCmd) : (s.started r c).mgmt = s.mgmt := rfl
@[simp] theorem started_spdm (s : State) (r : RingIx) (c : PendCmd) : (s.started r c).spdm = s.spdm := rfl
@[simp] theorem started_fw (s : State) (r : RingIx) (c : PendCmd) : (s.started r c).fw = s.fw := rfl
@[simp] theorem started_sec (s : State) (r : RingIx) (c : PendCmd) : (s.started r c).sec = s.sec := rfl
@[simp] theorem started_power (s : State) (r : RingIx) (c : PendCmd) : (s.started r c).power = s.power := rfl
@[simp] theorem started_free (s : State) (r : RingIx) (c : PendCmd) : (s.started r c).free = s.free := rfl
@[simp] theorem started_out (s : State) (r : RingIx) (c : PendCmd) : (s.started r c).out = s.out := rfl
@[simp] theorem started_cell (s : State) (r : RingIx) (c : PendCmd) (i : Nat) : (s.started r c).cell i = s.cell i := rfl
@[simp] theorem started_die (s : State) (r : RingIx) (c : PendCmd) (i : Nat) : (s.started r c).die i = s.die i := rfl
@[simp] theorem started_part (s : State) (r : RingIx) (c : PendCmd) (i : Nat) : (s.started r c).part i = s.part i := rfl
@[simp] theorem started_clerk (s : State) (r : RingIx) (c : PendCmd) (i : Nat) : (s.started r c).clerk i = s.clerk i := rfl
@[simp] theorem started_port (s : State) (r : RingIx) (c : PendCmd) (i : Nat) : (s.started r c).port i = s.port i := rfl
@[simp] theorem started_unit (s : State) (r : RingIx) (c : PendCmd) (i j : Nat) : (s.started r c).unit i j = s.unit i j := rfl

/-- A command that ran and finishes leaves its reply, and the ring is otherwise as before it started. -/
theorem reply_ran {r : RingIx} {c : PendCmd} (hm : c.mute = false) (hn : c ∉ (s.ring r).running)
    (hw : SMap.wf {} s.rings = true) (status detail : Nat) (data : List Byte) :
    (s.started r c).reply r c status detail data = s.answered r c status detail data := by
  have hr : (s.started r c).ring r = { s.ring r with pend := (s.ring r).pend.tail, running := (s.ring r).running ++ [c] } := by
    unfold State.started
    rw [ring_modRing hw]; simp
  have he : ((s.ring r).running ++ [c]).erase c = (s.ring r).running := by
    rw [List.erase_append_right _ hn]; simp
  unfold State.reply State.modRing
  rw [hr]
  simp only [List.contains_append, List.contains_cons, beq_self_eq_true, Bool.true_or, Bool.or_true, if_true, hm, he]
  unfold State.started State.answered State.modRing State.setRing
  simp only [put_put hw]
  simp only [replyOf]
  by_cases h0 : status = 0 <;> by_cases h1 : c.dataMax r < data.length <;> simp [h0, h1]

/-- As `reply_ran`, for a command that may start. -/
theorem reply_started {r : RingIx} {op : Nat} {states : List PartState} {bad : PendCmd → Option Nat} {c : PendCmd}
    (h : s.Starts r op states bad c) (status detail : Nat) (data : List Byte) :
    (s.started r c).reply r c status detail data = s.answered r c status detail data := by
  obtain ⟨-, -, -, -, -, -, -, -, -, hm, hn, hw⟩ := h
  exact reply_ran hm hn hw status detail data

/-- A command that is refused is answered at once, and changes its ring alone. -/
theorem runCmd_refused {r : RingIx} {op : Nat} {states : List PartState} {bad : PendCmd → Option Nat} {c : PendCmd}
    {e : Nat × Nat} {f : PendCmd → State → State} {acc : PendCmd → List (Nat × Nat × Nat × Bool)}
    (h : s.Refused r op states bad c e) : s.runCmd r op states bad f acc = .next (s.answered r c e.1 e.2 []) := by
  obtain ⟨h1, h2, h3, h4, hx, h5, h6, h7, hm, hn, hw⟩ := h
  cases hp : (s.ring r).pend with
  | nil => simp [hp] at h1
  | cons x rest =>
    obtain rfl : x = c := by simpa [hp] using h1
    have hs : s.modRing r (fun R => { R with pend := rest, running := R.running ++ [x] }) = s.started r x := by
      simp [State.started, State.modRing, hp]
    have hc : ¬(x.opcode ≠ op ∨ (x.fence ∧ (s.ring r).running ≠ []) ∨ s.exclusiveFree x = false ∨
        (s.power.state = .starting ∧ op / 256 ≠ 1) ∨ s.fw.stage = .starting ∨ s.isNext r x = false) := by
      rintro (h | ⟨h, h'⟩ | h | ⟨h, h'⟩ | h | h)
      · exact h h2
      · exact h' (h3 h)
      · simp [h4] at h
      · exact h' (h5 h)
      · exact h6 h
      · simp [hx] at h
    unfold State.runCmd
    simp only [hp, hs, hc, if_false, h7, reply_ran hm hn hw]

/-- A reply changes the rings alone, and nothing else decides what it leaves in them. -/
theorem reply_eq (s : State) (r : Nat) (c : PendCmd) (status detail : Nat) (data : List Byte) (x : SMap Ring) :
    State.reply { s with rings := x } r c status detail data =
      { s with rings := (State.reply { s with rings := x } r c status detail data).rings } := by
  unfold State.reply
  split <;> rfl

theorem reply_rings {u : State} (h : t.rings = u.rings) (r : Nat) (c : PendCmd) (status detail : Nat) (data : List Byte) :
    (t.reply r c status detail data).rings = (u.reply r c status detail data).rings := by
  have hr : t.ring r = u.ring r := by unfold State.ring; rw [h]
  unfold State.reply
  rw [hr]
  split
  · unfold State.modRing State.setRing; simp only [hr, h]
  · exact h

/-- As `reply_started`, once the command has changed anything but the rings. -/
theorem reply_started_of {r : RingIx} {op : Nat} {states : List PartState} {bad : PendCmd → Option Nat} {c : PendCmd}
    (h : s.Starts r op states bad c) {u : State} (hu : u.rings = (s.started r c).rings) (status detail : Nat) (data : List Byte) :
    u.reply r c status detail data = State.answered { u with rings := s.rings } r c status detail data := by
  have h1 := reply_rings hu r c status detail data
  rw [reply_started h] at h1
  have h2 := reply_eq u r c status detail data u.rings
  rw [show ({ u with rings := u.rings } : State) = u from rfl, h1] at h2
  rw [h2]
  rfl

/-! ## Received packets, messages and requests -/

theorem takeCtl_takes {i : Instr} {p : PartIx} {type key : Nat} {c : Control} {casc : Bool} {f : BitVec 64 → State → State}
    (h : s.TakesCtl p type c) :
    s.takeCtl i p type c casc key f = .next (f (s.receiveCtl p c casc key).1 (s.receiveCtl p c casc key).2) := by
  obtain ⟨h0, h1, h2, h3⟩ := h
  simp [State.takeCtl, h0, h1, h2, h3]

/-- A control packet that comes during a firmware switch is admitted, and waits (R369, R384). -/
theorem takeCtl_switch {i : Instr} {p : PartIx} {type key : Nat} {c : Control} {casc : Bool} {f : BitVec 64 → State → State}
    (h : s.fw.stage = .starting) (h1 : reservedCtype c = false) (h2 : ctype c = type) :
    s.takeCtl i p type c casc key f = .next (s.holdOver i .vc1 key) := by
  simp [State.takeCtl, h, h1, h2]

/-- Everything that the reception of a control packet can do: nothing, a wait for the end of a firmware switch, a discard
that is counted, or its effect. -/
theorem takeCtl_cases {i : Instr} {p : PartIx} {type key : Nat} {c : Control} {casc : Bool} {f : BitVec 64 → State → State}
    (h : s.takeCtl i p type c casc key f = .next t) :
    t = s ∨ (∃ k, t = s.holdOver i .vc1 k) ∨ (∃ k, t = (s.receiveCtl p c false k).2.dropCtl p) ∨
    t = f (s.receiveCtl p c casc key).1 (s.receiveCtl p c casc key).2 := by
  unfold State.takeCtl at h
  simp only at h
  split at h
  · injection h with h; exact .inl h.symm
  · split at h
    · injection h with h; exact .inr (.inl ⟨_, h.symm⟩)
    · split at h
      · injection h with h; exact .inr (.inr (.inl ⟨_, h.symm⟩))
      · rename_i hr
        have hk : reservedCtype c = false := by
          by_contra hne
          simp only [Bool.not_eq_false] at hne
          exact hr (by simp [hne])
        simp only [hk, Bool.false_eq_true, if_false] at h
        injection h with h; exact .inr (.inr (.inr h.symm))

theorem takeKmp_takes {i : Instr} {m : Kmp} {type : Nat} {f : BitVec 64 → State → State} (h : s.TakesKmp m type) :
    s.takeKmp i m type f = .next (f (s.kmpIn m).1 (s.kmpIn m).2) := by
  obtain ⟨h1, h2, h3, h4⟩ := h
  simp [State.takeKmp, h1, h2, h3, h4, State.kmpIn]

/-- A kept message that comes during a firmware switch is admitted, and waits (R369, R384). -/
theorem takeKmp_switch {i : Instr} {m : Kmp} {type : Nat} {f : BitVec 64 → State → State} (h : s.fw.stage = .starting)
    (h1 : s.mgmtOpen m = true) (h2 : kmpKept m = true) (h3 : kmpType m = type) :
    s.takeKmp i m type f = .next (s.holdOver i (if m.viaI3c then .i3c else .kmp) (if m.viaI3c then 7 else 5)) := by
  simp [State.takeKmp, h, h1, h2, h3]

theorem takeSpdm_answers {tr : Transport} {need : Nat → Bool} {f : State → State} (h : s.Answers tr)
    (hn : need ((s.spdmIn tr).spdm.conn tr) = true) : s.takeSpdm tr need f = .next (f (s.spdmIn tr)) := by
  simp [State.takeSpdm, h, hn]

end Sys2Proof.Machine
end

