-- ==== Sys2Proof/Certificates/Slice0/Obligations.lean ====
section
/-! DEFINITION. The statements for the provers. -/

open Sys2Proof Sys2Proof.Machine

/-! ## The step and the queue -/

/-- A step runs the command at the front of the queue, on a state that holds the queue's rest; what the command does is
`exec`'s, whole. -/
def Obligations.StepRunsFrontCommand : Prop :=  ∀ (c : Instr) (rest : List Instr) (s : State), s.pending = c :: rest → step s = exec c { s with pending := rest }

/-- An empty queue: a command that a firmware switch deferred runs once no switch is in progress (R369), and the oldest
first, with the ingress sequence number that it was given when it came (R384); otherwise the block idles (DESIGN CHOICE,
log 1). -/
def Obligations.EmptyQueueSteps : Prop :=  (∀ (s : State) (c : Instr) (n : Option (BitVec 64)) (rest : List (Instr × Option (BitVec 64))),
    s.pending = [] → s.deferred = (c, n) :: rest → s.fw.stage = .idle →
    let u := { s with deferred := rest, hub := { s.hub with given := n } }
    (∀ t, exec c u = .next t → step s = .next { t with hub := { t.hub with given := none } }) ∧
    (∀ f, exec c u = .fault f → step s = .fault f) ∧ (∀ f, exec c u = .refused f → step s = .refused f)) ∧
  (∀ s : State, s.pending = [] → s.deferred = [] → step s = .next s) ∧
  (∀ s : State, s.pending = [] → s.fw.stage ≠ .idle → step s = .next s)

/-! ## Over all commands -/

/-- Whatever the command, a step leaves equal states equal data: the sparse maps and memories keep their canonical form.
-/
def Obligations.StepKeepsCanonical : Prop :=  ∀ s t : State, s.Canon → step s = .next t → t.Canon

/-- No command takes a fuse back: the debug-disable fuse stays blown, and the SVN floor never falls (R359, R373). -/
def Obligations.FusesOnlyBlow : Prop :=  ∀ s t : State, step s = .next t → (s.fw.debugFuse = true → t.fw.debugFuse = true) ∧ s.fw.svnFloor ≤ t.fw.svnFloor

/-- The machine after reset is in canonical form. -/
def Obligations.ResetCanonical : Prop := State.reset.Canon

/-- What the device holds after reset, where the manual gives the value: no partition but partition 0 has dies, and it
has all four (R437); every ring, its MSIX vector aside, and every interrupt control block at the "After reset" column of
R319 and R385; the ports Off, X = Y = 1, the maps of R241; no session, no policy but R406's; the queues empty (R72);
START_MS and the failures 0. The queue of waiting commands is empty. A choice of the model in it: log 3. -/
def Obligations.ResetValues : Prop :=  let s := State.reset
  s.pending = [] ∧ s.deferred = [] ∧
  (s.part 0).dies = 0xF ∧ (∀ p, 1 ≤ p → p < 4 → (s.part p).dies = 0) ∧ (∀ p, p < 4 → (s.part p).state = .empty) ∧
  (∀ p, p < 4 → (s.part p).policy = { target := 750, boost := false, sprint := false } ∧ (s.part p).watch.lodestar = none) ∧
  (∀ r, r < 4 → let R := s.ring r
    R.subBase = 0 ∧ R.repBase = 0 ∧ R.subTail = 0 ∧ R.subHead = 0 ∧ R.repTail = 0 ∧ R.repHead = 0 ∧ R.enable = false ∧
    R.ringErr = false ∧ R.msix.toNat = r ∧ R.phase = true ∧ R.pend = [] ∧ R.running = [] ∧ R.done = []) ∧
  (∀ k, k < 4 → let c := s.clerk k
    c.gie = false ∧ c.held = false ∧ c.ovf = false ∧ c.overdue = 100 ∧ c.vbase = 0 ∧ c.enable = 1 ∧ c.pending = 0 ∧
    c.isSrc = 0xFF ∧ c.isCount = 0 ∧ c.fault = 0 ∧ c.faultSrc = 0xFF ∧ c.faultWr = 0xFF) ∧
  (∀ i, i < 4 → (s.port i).state = .off) ∧ s.fabric.sizeX = 1 ∧ s.fabric.sizeY = 1 ∧
  s.hub.ingress = 0 ∧ s.hub.rseq = 0 ∧ s.hub.records = [] ∧ s.fw.state = 0 ∧ s.power.order = 0 ∧ s.power.ready = false ∧
  s.power.memAct = false ∧ s.power.failDie = 0 ∧ s.power.failStack = 0 ∧ s.power.startMs = 0 ∧ s.power.ceiling = 2500 ∧
  (∀ c q, (s.cell c).queue q = {}) ∧ (∀ c q, ((s.cell c).slot q).phase = .unowned)

/-- A device reset (R432) keeps what MRAM, fuses and the counters since cold start hold, and puts every other part of
the device at its value after reset; what the model keeps beyond R432's list (the counters of cells, dies and ports, and
what R412 and R421 count from cold start) is log 25. Choices of the model in it: logs 4, 5, 18, 24, 25. -/
def Obligations.DeviceResetKeeps : Prop :=  ∀ s : State, let t := s.deviceReset
    t.hub.records = s.hub.records ∧ t.hub.rseq = s.hub.rseq ∧ t.hub.counts = s.hub.counts ∧ t.hub.ingress = s.hub.ingress ∧
    t.mgmt.keys = s.mgmt.keys ∧ t.mgmt.collector = s.mgmt.collector ∧ t.mgmt.ipv4 = s.mgmt.ipv4 ∧
    t.fw.running = s.fw.running ∧ t.fw.loader = s.fw.loader ∧ t.fw.staging = s.fw.staging ∧ t.fw.svnFloor = s.fw.svnFloor ∧
    t.fw.debugFuse = s.fw.debugFuse ∧ t.power.wearHours = s.power.wearHours ∧
    (∀ p, p < 4 → (t.part p).journal = (s.part p).journal ∧ (t.part p).state = .empty ∧ (t.part p).chart = {} ∧
      (t.part p).image = {} ∧ (t.part p).dies = if p = 0 then 0xF else 0) ∧
    t.rings = State.reset.rings ∧ t.cxl = {} ∧ t.spdm = {} ∧ t.hub.clerks = [] ∧ t.hub.log = [] ∧ t.fabric.ports = [] ∧
    t.hub.services.late = [] ∧ t.hub.services.withheld = 0 ∧
    t.power.ready = false ∧ t.power.memAct = false ∧ t.power.order = 3 ∧ t.pending = s.pending

/-- An exam slice holds a bench (R414, R418): no event of a cell there changes anything until the slice's Release. -/
def Obligations.PausedCellWaits : Prop :=  ∀ (s : State) (c : CellIx), (s.cell c).paused = true →
    (∀ i ∈ [Instr.descriptorIssue c, .nop c, .engine c, .drain c, .vector c, .vecAdd c, .dequant c, .splitFp32 c,
        .splitBf16 c, .vecFma c, .convert c, .optim c, .row c, .softmaxForward c, .softmaxBackward c, .normalisationForward c,
        .normalisationBackward c, .orthonormalisation c, .scalar c, .scalarSum c, .scalarSumOfSquares c, .scalarMaximum c,
        .scalarMinimum c, .nanCount c, .infinityCount c, .move c, .endWalk c, .loop c, .loopExitSignal c, .branch c,
        .setCount c, .join c, .feature c, .skipPad c, .drainStart c], exec i s = .next s) ∧
    (∀ ecc, exec (.descriptorLoad c ecc) s = .next s) ∧ (∀ k, exec (.descriptorComplete c k) s = .next s) ∧
    (∀ sl, exec (.slotTokenTake c sl) s = .next s ∧ exec (.slotBufferPush c sl) s = .next s) ∧
    (∀ f, ∀ i ∈ [Instr.engineStep c f, .multiplyAdd c f, .absoluteDifference c f, .squaredDifference c f, .minPlus c f,
        .maxPlus c f, .compareAndCount c f], exec i s = .next s) ∧
    (∀ q e, exec (.queuePush c q e) s = .next s) ∧ (∀ q out, exec (.queuePop c q out) s = .next s) ∧
    (∀ st errs k, exec (.streamEntryStart c st errs) s = .next s ∧ exec (.memoryReturn c st errs k) s = .next s ∧
      exec (.writeStreamEntry c st) s = .next s ∧ exec (.writeAccepted c ⟨st, errs⟩) s = .next s)

/-- The work of a cell stays in its cell: an event of the engine, the drain path, the vector and row engines and the
sequencer changes its own cell, the signals and counts of its partition, the detected errors that wait and, to read a
control descriptor, the weight cache of its die (R134); and nothing else: no other cell, no tally, no byte of HBM, no
register of the hub, no ring. -/
def Obligations.CellWorkStaysInItsCell : Prop :=  ∀ (s t : State) (c : CellIx) (i : Instr) (f : Option SiteFault) (k : Fin 4) (sl : SlotIx),
    s.Canon → i ∈ [Instr.descriptorIssue c, .descriptorComplete c k, .nop c, .move c, .engine c, .drain c, .drainStart c,
      .slotTokenTake c sl, .slotBufferPush c sl, .engineStep c f, .multiplyAdd c f, .absoluteDifference c f,
      .squaredDifference c f, .minPlus c f, .maxPlus c f, .compareAndCount c f, .vector c, .vecAdd c, .dequant c,
      .splitFp32 c, .splitBf16 c, .vecFma c, .convert c, .optim c, .row c, .softmaxForward c, .softmaxBackward c,
      .normalisationForward c, .normalisationBackward c, .orthonormalisation c, .endWalk c, .loop c, .loopExitSignal c,
      .branch c, .setCount c, .join c, .feature c, .skipPad c] →
    exec i s = .next t →
    t = { s with cells := t.cells, parts := t.parts, dies := t.dies, hub := { s.hub with reports := t.hub.reports } } ∧
    (∀ e, e ≠ c.val → t.cell e = s.cell e) ∧ (∀ d, d ≠ dieOf c → t.die d = s.die d) ∧
    (let D := t.die (dieOf c)
     D = { s.die (dieOf c) with wc := D.wc, fills := D.fills, ports := D.ports }) ∧
    (∀ p, t.part p = { s.part p with period := { (s.part p).period with
      signals := (t.part p).period.signals, counts := (t.part p).period.counts, clamped := (t.part p).period.clamped } })

/-- A command of a ring that R326, R372, R391 or R438 refuses is answered with the status and the detail of that
refusal, and changes nothing but its ring. Choices of the model in it: logs 40, 41. -/
def Obligations.RefusedCommandsChangeNothing : Prop :=  ∀ (s : State) (r : RingIx) (c : PendCmd) (e : Nat × Nat) (data : HostData) (smp : TeleSample),
    ∀ x ∈ ([(.identify r, 0x0101, anyState, noParams), (.featureRead r, 0x0102, anyState, noParams),
      (.partitionSet r, 0x0103, anyState, fun c => lowest [badMasks c.masks, c.rsv 16 16]),
      (.fabricConfig r, 0x0104, anyState, badFabric s), (.portEnable r, 0x0105, anyState, fun c => c.rsv 8 24),
      (.deviceReset r, 0x0106, anyState, noParams),
      (.loadImage r data, 0x0201, [.empty, .loaded, .halted, .fenced], badLoad),
      (.startJob r, 0x0202, [.loaded, .halted], badStart s), (.stopJob r, 0x0203, [.running, .starting], noParams),
      (.unload r, 0x0204, [.empty, .loaded, .primed, .halted, .fenced], noParams), (.status r, 0x0205, anyState, noParams),
      (.writeHbm r data, 0x0301, [.loaded, .halted, .running], badSpan true),
      (.readHbm r, 0x0302, [.loaded, .primed, .starting, .running, .halted, .fenced], badSpan false),
      (.apertureMap r, 0x0303, anyState, badAperture),
      (.journalRead r, 0x0304, [.loaded, .primed, .starting, .running, .halted, .fenced], badJournalRead),
      (.chartLoad r, 0x0401, [.loaded, .halted, .primed], badChart), (.chartRead r, 0x0402, anyState, noParams),
      (.fwBegin r, 0x0501, anyState, badFwBegin), (.fwBlock r data, 0x0502, anyState, noParams),
      (.fwStatus r, 0x0503, anyState, noParams), (.fwActivate r, 0x0504, anyState, badFwActivate),
      (.fwDiscard r, 0x0505, anyState, noParams), (.fwFuse r, 0x0506, anyState, badFwFuse),
      (.powerStatus r, 0x0601, anyState, noParams), (.powerPolicy r, 0x0602, anyState, badPolicy),
      (.benchState r, 0x0603, anyState, fun c => lowest [c.rsv 3 29, c.rsv 56 8]),
      (.dieState r, 0x0604, anyState, fun c => c.rsv 1 31), (.deviceStandby r, 0x0605, anyState, fun c => c.rsv 1 31),
      (.powerCap r, 0x0606, anyState, badCap), (.examResults r, 0x0701, anyState, badExamResults),
      (.examRun r, 0x0702, anyState, badExamRun), (.examPolicy r, 0x0703, anyState, fun c => c.rsv 7 25),
      (.telemetryRead r smp, 0x0801, anyState, badSelector true), (.telemetryClear r, 0x0802, anyState, badSelector false),
      (.recordRead r, 0x0803, anyState, badRecordRead), (.serviceSet r, 0x0804, anyState, badServiceSet)] :
        List (Instr × Nat × List PartState × (PendCmd → Option Nat))),
      s.Refused r x.2.1 x.2.2.1 x.2.2.2 c e → exec x.1 s = .next (s.answered r c e.1 e.2 [])

/-- Each ring command takes effect: one that starts (`State.Starts`: conditions on the state and the command alone) in a
state that its own rules ask for is taken off its ring, and either runs on or is answered OK (or OK_TRUNCATED). What it
does is said in the statements about its group; a device reset leaves every ring as it is after reset. Choices of the
model in it: logs 41, 99, 115, 118, 122. -/
def Obligations.RingCommandsComplete : Prop := ∀ (s : State) (r : RingIx) (c : PendCmd) (data : HostData) (smp : TeleSample),
    let P := s.part c.part
    let busy := P.state = .running ∨ P.state = .starting
    let idle := (∀ p < 4, (s.part p).state = .empty) ∧ ∀ i < 4, (s.port i).state = .off
    let own : Option (BitVec 4) := if 1 ≤ r.val ∧ r.val ≤ 3 then some (s.part r.val).dies else none
    let here (write : Bool) := bit P.dies (c.par 64 2) = true ∧ s.cxl.mustSnoop (c.par 64 2) (c.par 96 40) (c.par 160 32) write = []
    let block := s.fw.state = 1 ∧ s.fw.imageId.toNat = c.par 128 64 ∧ c.par 64 32 % 1024 = 0 ∧ c.par 64 32 < s.fw.length ∧
      0 < c.par 96 32 ∧ (c.par 64 32 + c.par 96 32 = s.fw.length ∨
        c.par 96 32 % 1024 = 0 ∧ c.par 96 32 ≤ 0x400000 ∧ c.par 64 32 + c.par 96 32 ≤ s.fw.length)
    (∀ x ∈ ([(.identify r, 0x0101, anyState, noParams, True), (.featureRead r, 0x0102, anyState, noParams, True),
      (.partitionSet r, 0x0103, anyState, fun c => lowest [badMasks c.masks, c.rsv 16 16], ∀ p < 4, (s.part p).state = .empty),
      (.fabricConfig r, 0x0104, anyState, badFabric s, ∀ i < 4, (s.port i).state = .off),
      (.portEnable r, 0x0105, anyState, fun c => c.rsv 8 24, True),
      (.loadImage r data, 0x0201, [.empty, .loaded, .halted, .fenced], badLoad, data.failAt = none ∧
        (proctor c.part P.dies s.fabric.maps (c.readImage (c.imageBytes data)) (c.imageBytes data)).reason = 0),
      (.startJob r, 0x0202, [.loaded, .halted], badStart s,
        if P.image.single = true then c.par 65 1 = 0 else P.chart.held = true),
      (.stopJob r, 0x0203, [.running, .starting], noParams, P.isLode = true),
      (.unload r, 0x0204, [.empty, .loaded, .primed, .halted, .fenced], noParams, True),
      (.status r, 0x0205, anyState, noParams, True),
      (.writeHbm r data, 0x0301, [.loaded, .halted, .running], badSpan true, here true ∧ data.failAt = none),
      (.readHbm r, 0x0302, [.loaded, .primed, .starting, .running, .halted, .fenced], badSpan false, here false),
      (.apertureMap r, 0x0303, anyState, badAperture, (c.part = 0 ∨ c.par 31 1 = 1 ∨ bit P.dies (c.par 4 2) = true) ∧
        s.cxl.remap = [] ∧ ∃ a : Fin 16, c.par 0 4 = a.val ∧ look none s.cxl.apertures a = none),
      (.journalRead r, 0x0304, [.loaded, .primed, .starting, .running, .halted, .fenced], badJournalRead, True),
      (.chartLoad r, 0x0401, [.loaded, .halted, .primed], badChart,
        ¬(P.state = .primed ∧ P.chart.held = true) ∧ s.chartRefused P c.chart = none),
      (.chartRead r, 0x0402, anyState, noParams, P.chart.held = true),
      (.fwBegin r, 0x0501, anyState, badFwBegin, s.fw.state ≠ 4),
      (.fwBlock r data, 0x0502, anyState, noParams, block ∧ data.failAt = none),
      (.fwStatus r, 0x0503, anyState, noParams, True),
      (.fwActivate r, 0x0504, anyState, badFwActivate, s.fw.state = 3 ∧ s.power.state ≠ .recovery),
      (.fwDiscard r, 0x0505, anyState, noParams, s.fw.state ≠ 4),
      (.fwFuse r, 0x0506, anyState, badFwFuse, c.par 32 32 = 0x45535546 ∧ s.sec.unlocked = false ∧
        (c.par 0 4 = 1 ∧ s.fw.svnFloor < s.runningSvn ∨ c.par 0 4 = 2 ∧ s.fw.debugFuse = false)),
      (.powerStatus r, 0x0601, anyState, noParams, True), (.powerPolicy r, 0x0602, anyState, badPolicy, True),
      (.benchState r, 0x0603, anyState, fun c => lowest [c.rsv 3 29, c.rsv 56 8],
        bit P.dies (c.par 0 2) = true ∧ s.power.standby = false ∧ (c.par 2 1 = 0 ∨ ¬busy)),
      (.dieState r, 0x0604, anyState, fun c => c.rsv 1 31, s.power.standby = false ∧ (c.par 0 1 = 0 ∨ ¬busy)),
      (.deviceStandby r, 0x0605, anyState, fun c => c.rsv 1 31, c.par 0 1 = 0 ∨ s.power.standby = true ∨ idle),
      (.powerCap r, 0x0606, anyState, badCap, c.par 0 12 ≤ s.power.stageCeiling),
      (.examResults r, 0x0701, anyState, badExamResults, True),
      (.examRun r, 0x0702, anyState, badExamRun, c.par 32 1 = 1 ∨ s.examRefused own (BitVec.ofNat 32 (c.par 0 32)) = none),
      (.examPolicy r, 0x0703, anyState, fun c => c.rsv 7 25, True),
      (.telemetryRead r smp, 0x0801, anyState, badSelector true, True),
      (.telemetryClear r, 0x0802, anyState, badSelector false, True),
      (.recordRead r, 0x0803, anyState, badRecordRead, True), (.serviceSet r, 0x0804, anyState, badServiceSet, True)] :
        List (Instr × Nat × List PartState × (PendCmd → Option Nat) × Prop)),
      s.Starts r x.2.1 x.2.2.1 x.2.2.2.1 c → x.2.2.2.2 →
      ∃ t, exec x.1 s = .next t ∧ (t.ring r).pend = (s.ring r).pend.tail ∧
        (c ∈ (t.ring r).running ∨ ∃ q ∈ (t.ring r).done, q.cmd = c ∧ q.status.toNat ≤ 1)) ∧
    (s.Starts r 0x0106 anyState noParams c → ∃ t, exec (.deviceReset r) s = .next t ∧ t.rings = State.reset.rings)

/-- A KMP message or a fabric packet that comes while new firmware starts waits until it runs (R369): it joins the
messages that wait. A control packet and a kept KMP message are admitted as they come (R384); nothing else happens. A
choice of the model in it: log 111. -/
def Obligations.SwitchDefersMessages : Prop :=  ∀ (s : State) (p : PartIx) (c : Control) (pkt : Packet) (ecc : Ecc) (us : Nat), s.fw.stage = .starting →
    (∀ x ∈ [(1, 128 + p.val, Instr.stepBell p c), (2, 128 + p.val, .holdBell p c), (3, 128 + p.val, .restartBell p c),
        (4, 128 + p.val, .haltBell p c), (5, 999, .beacon p c), (9, 999, .holdAnswer p c us), (10, 999, .slowNotice p c),
        (11, 38, .troubleNotice p c), (12, 999, .claim p c), (0x10, 69, .mirrorAcknowledge p c), (0x11, 39, .chartUpdate p c),
        (0x12, 39, .chartCommit p c), (0x13, 39, .chartAcknowledge p c), (0x14, 39, .seatRequest p c), (0x15, 39, .seatReady p c),
        (0x16, 39, .refillRequest p c), (0x17, 39, .refillDone p c), (0x18, 39, .waypointSealed p c),
        (0x19, 39, .waypointWhole p c), (0x1A, 39, .restoreOrder p c), (0x1B, 39, .restoreDone p c), (0x1C, 39, .fenceNotice p c)],
      ctype c = x.1 → exec x.2.2 s = .next (s.holdOver x.2.2 .vc1 x.2.1)) ∧
    (ctype c = 8 → bit (arg1 c) 0 = false → exec (.memberToken p c) s = .next (s.holdOver (.memberToken p c) .vc1 999)) ∧
    (ctype c = 8 → bit (arg1 c) 0 = true → exec (.rowToken p c us) s = .next (s.holdOver (.rowToken p c us) .vc1 999)) ∧
    (∀ i ∈ [Instr.mirrorPacket p pkt, .mirrorCommit p pkt, .snapshotPacket p pkt, .remoteWritePacket p pkt,
        .readRequest p pkt ecc, .readResponse p pkt, .reductionOpen p pkt, .reductionPartial p pkt none, .reductionFinal p pkt],
      exec i s = .next { s with deferred := s.deferred ++ [(i, none)] }) ∧
    (∀ (m : Kmp), s.mgmtOpen m = true → kmpKept m = true →
      ∀ e ∈ [(3, Instr.controlRequest m), (5, .firmwarePiece m), (7, .networkConfiguration m), (8, .keyManagement m)],
        kmpType m = e.1 →
          exec e.2 s = .next (s.holdOver e.2 (if m.viaI3c then .i3c else .kmp) (if m.viaI3c then 7 else 5)))

/-- A reply (R323) changes its ring alone: the command no longer runs there and, unless its ring was cleared meanwhile
(R319), its reply joins those that wait to be written; a command that does not run there gets none. A choice of the
model in it: log 138. -/
def Obligations.ReplyChangesItsRingAlone : Prop :=  ∀ (s : State) (r : Nat) (c : PendCmd) (status detail : Nat) (data : List Byte), SMap.wf {} s.rings = true →
    let t := s.reply r c status detail data
    t = { s with rings := t.rings } ∧ (∀ q, q ≠ r → t.ring q = s.ring q) ∧
    (c ∈ (s.ring r).running → t.ring r = { s.ring r with
      running := (s.ring r).running.erase c
      done := if c.mute then (s.ring r).done else (s.ring r).done ++ [replyOf r c status detail data] }) ∧
    (c ∉ (s.ring r).running → t.ring r = s.ring r)

/-! ## Memory -/

/-- The bytes of a die's HBM (R99): a write is read back, every byte outside it and every other die's memory reads as
before, and it changes besides only the snoops that wait (R315), the die's cached lines (R123) and the written flags of
its partition's mirror list (R290). -/
def Obligations.HbmWritesReadBack : Prop :=  ∀ (s : State) (d a : Nat) (bs : List Byte), s.Canon →
    let t := s.writeHbm d a bs
    t.readHbm d a bs.length = bs ∧
    (∀ x n, (x + n ≤ a ∨ a + bs.length ≤ x) → t.readHbm d x n = s.readHbm d x n) ∧
    (∀ e, e ≠ d → t.die e = s.die e) ∧ t.cells = s.cells ∧ t.rings = s.rings ∧ t.hub = s.hub ∧ t.fabric = s.fabric ∧
    (t.die d).tallies = (s.die d).tallies ∧ (t.die d).runs = (s.die d).runs ∧
    (∀ p, (t.part p).image = (s.part p).image ∧ (t.part p).period = (s.part p).period ∧ (t.part p).state = (s.part p).state) ∧
    (t.cxl.snoop = s.cxl.snoop ∧ t.cxl.apertures = s.cxl.apertures)

/-- R123 in the memory of a die: a write leaves none of the lines that it covers in the weight cache and marks every
fill of such a line whose data was read before it; such a fill is then discarded and not installed, nor is one with an
uncorrectable block (R125); and what a read gives never depends on the weight cache. A choice of the model in it: log 13. -/
def Obligations.WritesInvalidateCachedLines : Prop :=  (∀ (D : Die) (a : Nat) (bs : List Byte) (line : Nat), SMap.wf [] D.wc = true → line ∈ linesOf a bs.length →
    line ∉ look [] (D.writeHbm a bs).wc (wcSet line) ∧
    (∀ f ∈ (D.writeHbm a bs).fills, f.line = line → 0 < f.blocks → f.stale = true)) ∧
  (∀ (s : State) (d : DieIx) (f : Fill) (line : Nat) (errs : WordErrs),
    (s.die d).fills.find? (fun f => decide (f.line = line ∧ f.blocks = 4)) = some f →
    s.examHolds (wcTarget d (wcSet line / 256)) = false →
    let u := (List.range 4).foldl (fun t b => t.fillBlock d (line + 64 * b) (errOf errs b)) s
    ((∀ b < 4, errOf errs b = .clean) → u = s) ∧
    ((f.stale = true ∨ ∃ b < 4, errOf errs b = .uncorrectable) → exec (.weightCacheFill d ⟨line, errs⟩) s =
      .next (u.modDie d fun D => { D with fills := D.fills.filter fun g => decide (g.line ≠ line) })) ∧
    (f.stale = false → (∀ b < 4, errOf errs b ≠ .uncorrectable) → exec (.weightCacheFill d ⟨line, errs⟩) s =
      .next (u.modDie d fun D => { D with fills := D.fills.filter fun g => decide (g.line ≠ line), wc := wcInstall D.wc line }))) ∧
  (∀ (s : State) (d e a n : Nat) (wc : SMap (List Nat)),
    (s.modDie d fun D => { D with wc := wc }).readHbm e a n = s.readHbm e a n)

/-! ## Rules stated whole -/

/-- R244: the outputs that are productive for a packet at (own x, own y), in each dimension, of a torus of X × Y
devices. -/
def Obligations.ProductiveOutputs : Prop :=  ∀ (f : Fabric) (h : BitVec 256), f.ownX < f.sizeX → f.ownY < f.sizeY → pktDx h < f.sizeX → pktDy h < f.sizeY →
    let dx := (((pktDx h : Int) - f.ownX) % f.sizeX).toNat
    let dy := (((pktDy h : Int) - f.ownY) % f.sizeY).toNat
    (dx = 0 → f.xOuts h = []) ∧ (0 < dx → 2 * dx < f.sizeX → f.xOuts h = [2]) ∧
    (f.sizeX < 2 * dx → f.xOuts h = [0]) ∧ (0 < dx → 2 * dx = f.sizeX → f.xOuts h = [2, 0]) ∧
    (dy = 0 → f.yOuts h = []) ∧ (0 < dy → 2 * dy < f.sizeY → f.yOuts h = [1]) ∧
    (f.sizeY < 2 * dy → f.yOuts h = [3]) ∧ (0 < dy → 2 * dy = f.sizeY → f.yOuts h = [1, 3])

/-- R312: a CXL.mem request that comes before Memory_Active is answered with poisoned data, and a write is discarded;
nothing else changes. -/
def Obligations.RequestsBeforeMemoryActive : Prop :=  ∀ (s : State) (line : BitVec 30) (data : BitVec 512) (be : BitVec 64), s.memLink = true → s.power.memAct = false →
    s.cxl.remap = [] →
    exec (.hostMemRead line) s = .next (s.emit (.memData line 0 true)) ∧
    exec (.hostMemWrite line data be) s = .next (s.emit (.memDone line))

/-- FW_BLOCK (R361, R363): a block of the image that is being staged, whole and in its place, is copied; any other ends
the command with its own status, counts as refused and copies nothing. A read of host memory that fails copies nothing.
A block sets every bit that it covers and no other, and its bytes stand over those of an earlier block. -/
def Obligations.FirmwareBlocksComplete : Prop :=  (∀ (s : State) (r : RingIx) (c : PendCmd) (data : HostData), s.Starts r 0x0502 anyState noParams c →
    let off := c.par 64 32
    let n := c.par 96 32
    let ok := 0 < n ∧ (off + n = s.fw.length ∨ n % 1024 = 0 ∧ n ≤ 0x400000 ∧ off + n ≤ s.fw.length)
    (s.fw.state = 0 → exec (.fwBlock r data) s = .next (s.refusedPiece.answered r c 0x0501 0 [])) ∧
    (s.fw.state ≠ 0 → s.fw.state ≠ 1 → exec (.fwBlock r data) s = .next (s.refusedPiece.answered r c 0x0504 s.fw.state [])) ∧
    (s.fw.state = 1 → s.fw.imageId.toNat ≠ c.par 128 64 →
      exec (.fwBlock r data) s = .next (s.refusedPiece.answered r c 0x0502 (s.fw.imageId.toNat % 2 ^ 32) [])) ∧
    (s.fw.state = 1 → s.fw.imageId.toNat = c.par 128 64 → (off % 1024 ≠ 0 ∨ s.fw.length ≤ off) →
      exec (.fwBlock r data) s = .next (s.refusedPiece.answered r c 0x0503 off [])) ∧
    (s.fw.state = 1 → s.fw.imageId.toNat = c.par 128 64 → off % 1024 = 0 → off < s.fw.length → ¬ok →
      exec (.fwBlock r data) s = .next (s.refusedPiece.answered r c 0x0106 96 [])) ∧
    (s.fw.state = 1 → s.fw.imageId.toNat = c.par 128 64 → off % 1024 = 0 → off < s.fw.length → ok →
      ∀ k, data.failAt = some k → exec (.fwBlock r data) s = .next (s.answered r c 0x0301 k [])) ∧
    (s.fw.state = 1 → s.fw.imageId.toNat = c.par 128 64 → off % 1024 = 0 → off < s.fw.length → ok →
      data.failAt = none → exec (.fwBlock r data) s = .next
        (((s.started r c).stage 0 off ((data.bytes ++ List.replicate n 0).take n)).reply r c 0 0 []))) ∧
  (∀ (s : State) (off : Nat) (bs : List Byte), off % 1024 = 0 → Memory.wf s.fw.staging = true →
    let t := s.stage 0 off bs
    (∀ k, k ∈ t.fw.pieces ↔ k ∈ s.fw.pieces ∨ off ≤ 1024 * k ∧ 1024 * k < off + bs.length) ∧
    (∀ i, i < bs.length → look 0 t.fw.staging (off + i) = bs.getD i 0) ∧
    ∀ x, (x < off ∨ off + bs.length ≤ x) → look 0 t.fw.staging x = look 0 s.fw.staging x)

/-- LOOP (R156-R158): once its line stands in the weight cache, which it is asked for until then (R134), and its entry
wait is met, it latches its count, reduced to LIMIT (which sets the form's count-clamp flag). A count of zero, and an empty body, goes straight to BODYEND, and the loop's on-exit signal is still due;
any other begins the body at iteration 0. A loop left for the last time sends its on-exit signal once every descriptor
of its body has completed. -/
def Obligations.LoopsComplete : Prop :=  (∀ (s : State) (c : CellIx), s.Awake c → s.chainCached c 64 = false → exec (.loop c) s = .next (s.chainFetch c 64)) ∧
  (∀ (s : State) (c : CellIx), s.Awake c → s.atControl c 0x81 = true →
    s.waitMet (s.cellPart c) (s.cell c).seq.iters (cWait (s.control c)) = false → exec (.loop c) s = .next s) ∧
  (∀ (s : State) (c : CellIx), s.Awake c → s.atControl c 0x81 = true →
    s.waitMet (s.cellPart c) (s.cell c).seq.iters (cWait (s.control c)) = true →
    let q := (s.cell c).seq
    let d := s.control c
    let n := if loopCsrc d then (look 0 q.counts (loopCreg d)).toNat else loopCount d
    let u := s.chainRead c 64
    let s1 := if loopLimit d < n then u.clampFlag c else u
    (min n (loopLimit d) = 0 ∨ loopBodyEnd d ≤ q.pc + 64 →
      exec (.loop c) s = .next (s1.modSeq c fun q => Seq.goto (loopBodyEnd d)
        { q with nextLoop := q.nextLoop + 1, exits := q.exits ++ [⟨q.nextLoop, cSig d, q.nextOp, q.nextOp, q.pc⟩] })) ∧
    (min n (loopLimit d) ≠ 0 → q.pc + 64 < loopBodyEnd d →
      exec (.loop c) s = .next (s1.modSeq c fun q => Seq.goto (q.pc + 64)
        { q with nextLoop := q.nextLoop + 1
                 loops := ⟨q.pc + 64, loopBodyEnd d, min n (loopLimit d), 0, cSig d, q.nextLoop, q.nextOp⟩ :: q.loops }))) ∧
  (∀ (s : State) (c : CellIx) (e : LoopExit), s.Awake c →
    (s.cell c).seq.exits.find? (fun e => (s.cell c).seq.openOps.all fun o => decide (o < e.firstOp ∨ e.lastOp ≤ o)) = some e →
    exec (.loopExitSignal c) s =
      .next ((s.modSeq c fun q => { q with exits := q.exits.erase e }).signal c .loopExit e.num e.off e.sig))

/-! ## Commands from the rings -/

/-- The device-wide commands that answer with what the device is: IDENTIFY, FEATURE_READ, STATUS (R166, R442). Each
takes the command at its ring's front off the ring and leaves its reply there; nothing else changes. The device-wide
commands that set the device up: PARTITION_SET (R34) while every partition is Empty, FABRIC_CONFIG (R238, R241) while
every port is Off, PORT_ENABLE (R252), DEVICE_RESET (R432). Where a partition is not Empty, or a port not Off, the
command ends with WRONG_STATE or PORT_ACTIVE and changes nothing. Choices of the model in it: logs 40, 43, 98, 101, 136.
-/
def Obligations.HostSetupCommandsComplete : Prop :=
  ((∀ (s : State) (r : RingIx) (c : PendCmd), s.Starts r 0x0101 anyState noParams c →
    exec (.identify r) s = .next (s.answered r c 0 0 s.identity)) ∧
  (∀ (s : State) (r : RingIx) (c : PendCmd), s.Starts r 0x0102 anyState noParams c →
    exec (.featureRead r) s = .next (s.answered r c 0 0 ((List.range 64).flatMap fun i => bytesOfNat 4 (featurePage.getD i 0)))) ∧
  (∀ (s : State) (r : RingIx) (c : PendCmd), s.Starts r 0x0205 anyState noParams c →
    exec (.status r) s = .next (s.answered r c 0 0 (s.part c.part).statusBytes))) ∧
  ((∀ (s : State) (r : RingIx) (c : PendCmd),
    s.Starts r 0x0103 anyState (fun c => lowest [badMasks c.masks, c.rsv 16 16]) c →
    (∀ p < 4, (s.part p).state = .empty) →
    exec (.partitionSet r) s = .next (State.answered
      ((List.range 4).foldl (fun u p => u.modPart p fun P => { P with dies := BitVec.ofNat 4 (c.par (4 * p) 4) }) s) r c 0 0 [])) ∧
  (∀ (s : State) (r : RingIx) (c : PendCmd) (p : Nat),
    s.Starts r 0x0103 anyState (fun c => lowest [badMasks c.masks, c.rsv 16 16]) c →
    p < 4 → (s.part p).state ≠ .empty → (∀ q < p, (s.part q).state = .empty) →
    exec (.partitionSet r) s = .next (s.answered r c 0x0201 (s.part p).state.num [])) ∧
  (∀ (s : State) (r : RingIx) (c : PendCmd), s.Starts r 0x0104 anyState (badFabric s) c →
    (∀ i < 4, (s.port i).state = .off) →
    exec (.fabricConfig r) s = .next (State.answered { s with fabric := { s.fabric with
      sizeX := c.par 0 7, sizeY := c.par 8 7, ownX := c.par 16 6, ownY := c.par 24 6
      maps := (List.range 4).foldl (fun m i => put 0 m i (BitVec.ofNat 16 (c.par (32 + 16 * i) 16))) s.fabric.maps } } r c 0 0 [])) ∧
  (∀ (s : State) (r : RingIx) (c : PendCmd), s.Starts r 0x0104 anyState (badFabric s) c →
    (∃ i < 4, (s.port i).state ≠ .off) →
    ∃ n, exec (.fabricConfig r) s = .next (s.answered r c 0x0205 n [])) ∧
  (∀ (s : State) (r : RingIx) (c : PendCmd), s.Starts r 0x0105 anyState (fun c => c.rsv 8 24) c →
    exec (.portEnable r) s = .next (State.answered
      ((List.range 4).foldl (fun u i => if c.par i 1 = 1 then u.setPort i (decide (c.par (4 + i) 1 = 1)) else u) s) r c 0 0 [])) ∧
  (∀ (s : State) (r : RingIx) (c : PendCmd), s.Starts r 0x0106 anyState noParams c →
    exec (.deviceReset r) s = .next ((s.answered r c 0 0 []).endAll 0x0401 1).deviceReset))

/-- LOAD (R167, R327): an image that the host's memory does not give whole, and an image that Proctor rejects, end the
command and leave the partition exactly as it stood; an accepted image waits for its second reading, the partition still
as it stood. LOADER_READ_COMPLETE (R326, R327, R332): the second reading of an accepted image. Bytes whose digest is the
header's are copied and the partition takes the image; bytes that changed leave the partition Empty; a reading that
fails leaves it as it stood. Each ends the LOAD with Proctor's report or the status of R326. The copy waits for the host
to give back the lines of HBM that it writes (R315). Choices of the model in it: logs 51, 66, 67. -/
def Obligations.LoadCompletes : Prop :=
  (∀ (s : State) (r : RingIx) (c : PendCmd) (img : HostData),
    s.Starts r 0x0201 [.empty, .loaded, .halted, .fenced] badLoad c →
    let bytes := c.imageBytes img
    let v := proctor c.part (s.part c.part).dies s.fabric.maps (c.readImage bytes) bytes
    (∀ n, img.failAt = some n → exec (.loadImage r img) s = .next (s.answered r c 0x0301 n [])) ∧
    (img.failAt = none → v.reason ≠ 0 → exec (.loadImage r img) s = .next (s.answered r c 0x0202 v.reason v.bytes)) ∧
    (img.failAt = none → v.reason = 0 →
      exec (.loadImage r img) s = .next ((s.started r c).modPart c.part fun P =>
        { P with loading := some ⟨c.readImage bytes, readSegments bytes, (bytes.drop 32).take 32, v.bytes⟩ }))) ∧
  (∀ (s : State) (r : RingIx) (c : PendCmd) (l : Loading) (img : HostData),
    (s.ring r).running.find? (fun c => decide (c.opcode = 0x0201)) = some c → (s.part c.part).loading = some l →
    (∀ g ∈ l.segs, sgValid g = true → sgStore g = false → s.cxl.mustSnoop (sgDie g) (sgDest g) (sgLen g) true = []) →
    let s1 := (s.assertAt 0 8).modPart c.part fun P => { P with loading := none }
    let bytes := c.imageBytes img
    (∀ n, img.failAt = some n → exec (.loaderReadComplete r img) s = .next (s1.reply r c 0x0301 n [])) ∧
    (img.failAt = none → imageDigest bytes = l.digest →
      exec (.loaderReadComplete r img) s = .next ((s1.takeImage c.part l bytes).reply r c 0 0 l.report)) ∧
    (img.failAt = none → imageDigest bytes ≠ l.digest →
      exec (.loaderReadComplete r img) s = .next ((s1.loseImage c.part l bytes).reply r c 0x0302 0 l.report)))

/-- START (R276, R328) in a partition that is Loaded or Halted and holds a chart, or needs none in single-device
operation. Without FROM_WAYPOINT it sends its restore done and is answered; with it, the command runs until the waypoint
has been read. Either way the partition is in Starting. Without a chart the command ends with NO_CHART, and a single-
device partition has no waypoint (WAYPOINT_BAD). STOP (R267) on the lodestar sets the pending stop and is answered; on
any other member it ends with NOT_LODESTAR and names the lodestar. UNLOAD (R325) leaves the partition Empty, without its
image. Choices of the model in it: logs 90, 96, 97, 137. -/
def Obligations.JobCommandsComplete : Prop :=
  ((∀ (s : State) (r : RingIx) (c : PendCmd), s.Starts r 0x0202 [.loaded, .halted] (badStart s) c →
    let P := s.part c.part
    let first : BitVec 64 := BitVec.ofNat 64 (c.par 0 64)
    (P.image.single = false → P.chart.held = false → exec (.startJob r) s = .next (s.answered r c 0x0203 0 [])) ∧
    (P.image.single = true → c.par 65 1 = 1 → exec (.startJob r) s = .next (s.answered r c 0x0303 1 [])) ∧
    (P.image.single = false → P.chart.held = true → c.par 65 1 = 1 →
      exec (.startJob r) s = .next ((s.started r c).beginJob c.part first true)) ∧
    ((P.image.single = true ∨ P.chart.held = true) → c.par 65 1 = 0 →
      exec (.startJob r) s = .next
        ((((s.started r c).beginJob c.part first false).sendRestoreDone c.part (first - 1)).reply r c 0 0 []))) ∧
  (∀ (s : State) (p : Nat) (first : BitVec 64) (wp : Bool), ((s.beginJob p first wp).part p).state = .starting)) ∧
  ((∀ (s : State) (r : RingIx) (c : PendCmd), s.Starts r 0x0203 [.running, .starting] noParams c →
    ((s.part c.part).isLode = true →
      exec (.stopJob r) s = .next (State.answered (s.modLode c.part fun L => { L with stop := true }) r c 0 0 [])) ∧
    ((s.part c.part).isLode = false →
      exec (.stopJob r) s = .next (s.answered r c 0x0204 ((s.part c.part).watch.lodestar.getD 0xFFF) []))) ∧
  (∀ (s : State) (r : RingIx) (c : PendCmd), s.Starts r 0x0204 [.empty, .loaded, .primed, .halted, .fenced] noParams c →
    exec (.unload r) s = .next
      (((((s.started r c).dropImage c.part).setPartState c.part .empty).settleBenches c.part).reply r c 0 0 [])) ∧
  (∀ (s : State) (p : Nat), SMap.wf {} s.parts = true →
    ((s.dropImage p).part p).image = {} ∧ ((s.dropImage p).part p).dies = (s.part p).dies))

/-- CHART_LOAD (R326, R329) on a Loaded or Halted partition, or a Primed one without a chart: a chart that no check of
R326 refuses is held, and another deskmate than before leaves the partition exposed until a full update (R292); a
refused chart leaves the partition as it stood. CHART_READ (R325) answers with the chart held, or NO_CHART. The memory
commands (R313-R315, R325, R441): WRITE and READ of a die of the partition, APERTURE_MAP, JOURNAL_READ. WRITE and READ
of a die of another partition end with WRONG_PARTITION (DETAIL 2), and a host read that fails ends WRITE; both wait
until the host has answered the snoops of the lines that it holds. An APERTURE_MAP that maps snoops the recorded lines of the old mapping first, and completes once none is left. Choices of
the model in it: logs 45, 99, 100, 102. -/
def Obligations.ChartAndMemoryCommandsComplete : Prop :=
  ((∀ (s : State) (r : RingIx) (c : PendCmd), s.Starts r 0x0401 [.loaded, .halted, .primed] badChart c →
    let P := s.part c.part
    let desk (X : Chart) : Nat × Nat := (seatDesk (X.entry X.own.toNat), fldN (X.entry (seatDesk (X.entry X.own.toNat))) 0 12)
    (P.state = .primed → P.chart.held = true → exec (.chartLoad r) s = .next (s.answered r c 0x0201 2 [])) ∧
    (¬(P.state = .primed ∧ P.chart.held = true) → ∀ n, s.chartRefused P c.chart = some n →
      exec (.chartLoad r) s = .next (s.answered r c 0x0206 n [])) ∧
    (¬(P.state = .primed ∧ P.chart.held = true) → s.chartRefused P c.chart = none →
      exec (.chartLoad r) s = .next (State.answered (s.modPart c.part fun P => { P with
        chart := c.chart
        mirror := if P.chart.held ∧ desk P.chart = desk c.chart then P.mirror
                  else { P.mirror with fullDue := true, exposed := true } }) r c 0 0 []))) ∧
  (∀ (s : State) (r : RingIx) (c : PendCmd), s.Starts r 0x0402 anyState noParams c →
    ((s.part c.part).chart.held = true → exec (.chartRead r) s = .next (s.answered r c 0 0 (s.part c.part).chart.bytes)) ∧
    ((s.part c.part).chart.held = false → exec (.chartRead r) s = .next (s.answered r c 0x0203 0 [])))) ∧
  ((∀ (s : State) (r : RingIx) (c : PendCmd) (data : HostData), s.Starts r 0x0301 [.loaded, .halted, .running] (badSpan true) c →
    let n := c.par 160 32
    (bit (s.part c.part).dies (c.par 64 2) = false → exec (.writeHbm r data) s = .next (s.answered r c 0x0107 2 [])) ∧
    (bit (s.part c.part).dies (c.par 64 2) = true → s.cxl.mustSnoop (c.par 64 2) (c.par 96 40) n true ≠ [] →
      exec (.writeHbm r data) s = .next (s.snoopRange (c.par 64 2) (c.par 96 40) n true)) ∧
    (bit (s.part c.part).dies (c.par 64 2) = true → s.cxl.mustSnoop (c.par 64 2) (c.par 96 40) n true = [] →
      ∀ k, data.failAt = some k → exec (.writeHbm r data) s = .next (s.answered r c 0x0301 k [])) ∧
    (bit (s.part c.part).dies (c.par 64 2) = true → s.cxl.mustSnoop (c.par 64 2) (c.par 96 40) n true = [] → data.failAt = none →
      exec (.writeHbm r data) s = .next (((s.started r c).hostWrite (c.par 64 2) (c.par 96 40)
        ((data.bytes ++ List.replicate n 0).take n)).reply r c 0 0 []))) ∧
  (∀ (s : State) (r : RingIx) (c : PendCmd),
    s.Starts r 0x0302 [.loaded, .primed, .starting, .running, .halted, .fenced] (badSpan false) c →
    (bit (s.part c.part).dies (c.par 64 2) = false → exec (.readHbm r) s = .next (s.answered r c 0x0107 2 [])) ∧
    (bit (s.part c.part).dies (c.par 64 2) = true → s.cxl.mustSnoop (c.par 64 2) (c.par 96 40) (c.par 160 32) false ≠ [] →
      exec (.readHbm r) s = .next (s.snoopRange (c.par 64 2) (c.par 96 40) (c.par 160 32) false)) ∧
    (bit (s.part c.part).dies (c.par 64 2) = true → s.cxl.mustSnoop (c.par 64 2) (c.par 96 40) (c.par 160 32) false = [] →
      exec (.readHbm r) s = .next (s.answered r c 0 0 (s.hbmView (c.par 64 2) (c.par 96 40) (c.par 160 32))))) ∧
  (∀ (s : State) (r : RingIx) (c : PendCmd) (a : Fin 16), s.Starts r 0x0303 anyState badAperture c →
    c.par 0 4 = a.val → (c.part = 0 ∨ c.par 31 1 = 1 ∨ bit (s.part c.part).dies (c.par 4 2) = true) →
    look none s.cxl.apertures a = none → s.cxl.remap = [] →
    exec (.apertureMap r) s = .next (State.finish { s.started r c with cxl := { s.cxl with
      apertures := put none s.cxl.apertures a c.aperture } } (isMapOf a) 0 0 [])) ∧
  (∀ (s : State) (r : RingIx) (c : PendCmd),
    s.Starts r 0x0304 [.loaded, .primed, .starting, .running, .halted, .fenced] badJournalRead c →
    exec (.journalRead r) s = .next (s.answered r c 0 0 ((List.range (c.par 64 7)).flatMap fun i =>
      match (s.part c.part).journal.find? fun e => decide (e.step.toNat = c.par 0 64 + i) with
      | some e => jEntryBytes e
      | none => []))))

/-- FW_BEGIN and FW_STATUS, FW_DISCARD (R361-R363, R366, R367): a session opens with nothing staged, or goes on where
the same image is begun again; FW_STATUS answers with the session's record; FW_DISCARD ends it. While a switch waits or
is in progress (STATE 4), beginning and discarding end with FW_BUSY. FW_ACTIVATE (R368, R372): a verified image waits
for its boundary, for 60 or the given seconds; without one the command ends with NO_SESSION or FW_BUSY. In recovery mode
it is answered, every other command ends with ABORTED, the image is written and the device starts anew. FW_FUSE (R373)
raises the SVN floor to the running firmware's, or blows the debug-disable fuse, once; a wrong key, a fuse already blown
and an unlocked device are refused with the reason. Choices of the model in it: logs 115, 118. -/
def Obligations.FirmwareCommandsComplete : Prop :=
  ((∀ (s : State) (r : RingIx) (c : PendCmd), s.Starts r 0x0501 anyState badFwBegin c →
    (s.fw.state = 4 → exec (.fwBegin r) s = .next (s.answered r c 0x0504 4 [])) ∧
    (1 ≤ s.fw.state → s.fw.state ≤ 3 → s.fw.length = c.par 32 32 → s.fw.imageId.toNat = c.par 64 64 →
      exec (.fwBegin r) s = .next (s.answered r c 0 0 [])) ∧
    (s.fw.state ≠ 4 → (s.fw.state = 0 ∨ s.fw.state = 5 ∨ s.fw.length ≠ c.par 32 32 ∨ s.fw.imageId.toNat ≠ c.par 64 64) →
      exec (.fwBegin r) s = .next (State.answered { s with fw := { s.fw with
        staging := [], pieces := [], state := 1, kind := BitVec.ofNat 4 (c.par 0 4), paths := 0, length := c.par 32 32
        imageId := BitVec.ofNat 64 (c.par 64 64), opened := c.num } } r c 0 0 []))) ∧
  (∀ (s : State) (r : RingIx) (c : PendCmd), s.Starts r 0x0503 anyState noParams c →
    exec (.fwStatus r) s = .next (s.answered r c 0 0 s.fw.statusBytes)) ∧
  (∀ (s : State) (r : RingIx) (c : PendCmd), s.Starts r 0x0505 anyState noParams c →
    (s.fw.state = 4 → exec (.fwDiscard r) s = .next (s.answered r c 0x0504 4 [])) ∧
    (s.fw.state ≠ 4 → exec (.fwDiscard r) s = .next (State.answered { s with fw := s.fw.endSession } r c 0 0 [])))) ∧
  ((∀ (s : State) (r : RingIx) (c : PendCmd), s.Starts r 0x0504 anyState badFwActivate c →
    (s.fw.state = 0 → exec (.fwActivate r) s = .next (s.answered r c 0x0501 0 [])) ∧
    (s.fw.state ≠ 0 → s.fw.state ≠ 3 → exec (.fwActivate r) s = .next (s.answered r c 0x0504 s.fw.state [])) ∧
    (s.fw.state = 3 → s.power.state = .recovery → exec (.fwActivate r) s = .next
      (let t := (s.answered r c 0 0 []).endAll 0x0401 1
       State.coldReset { t with fw := { (s.fw.writeSlot s.fw.stagedBytes).endSession with startFailed := false, switchFlag := false } })) ∧
    (s.fw.state = 3 → s.power.state ≠ .recovery → exec (.fwActivate r) s = .next { s.started r c with fw := { s.fw with
        state := 4, stage := .waitingBoundary, window := if c.par 0 16 = 0 then 60 else c.par 0 16 } })) ∧
  (∀ (s : State) (r : RingIx) (c : PendCmd), s.Starts r 0x0506 anyState badFwFuse c →
    (c.par 32 32 ≠ 0x45535546 → exec (.fwFuse r) s = .next (s.answered r c 0x050B 1 [])) ∧
    (c.par 32 32 = 0x45535546 → c.par 0 4 = 1 → s.runningSvn ≤ s.fw.svnFloor →
      exec (.fwFuse r) s = .next (s.answered r c 0x050B 2 [])) ∧
    (c.par 32 32 = 0x45535546 → c.par 0 4 = 2 → s.fw.debugFuse = true →
      exec (.fwFuse r) s = .next (s.answered r c 0x050B 2 [])) ∧
    (c.par 32 32 = 0x45535546 → c.par 0 4 = 1 → s.fw.svnFloor < s.runningSvn → s.sec.unlocked = true →
      exec (.fwFuse r) s = .next (s.answered r c 0x050B 3 [])) ∧
    (c.par 32 32 = 0x45535546 → c.par 0 4 = 1 → s.fw.svnFloor < s.runningSvn → s.sec.unlocked = false →
      exec (.fwFuse r) s = .next (State.answered { s with fw := { s.fw with svnFloor := s.runningSvn } } r c 0 0 [])) ∧
    (c.par 32 32 = 0x45535546 → c.par 0 4 = 2 → s.fw.debugFuse = false → s.sec.unlocked = false →
      exec (.fwFuse r) s = .next (State.answered { s with fw := { s.fw with debugFuse := true } } r c 0 0 []))))

/-- The power commands (R391, R393, R394, R398, R406, R408): POWER_STATUS, POWER_POLICY, BENCH_STATE, DIE_STATE,
DEVICE_STANDBY and POWER_CAP, each with the states in which it ends with POWER_REFUSED or POWER_CAP_REFUSED and changes
nothing. A DIE_STATE and a leaving of Standby are answered when every die has arrived. Choices of the model in it: logs
121, 122, 124, 125. -/
def Obligations.PowerCommandsComplete : Prop :=  (∀ (s : State) (r : RingIx) (c : PendCmd), s.Starts r 0x0601 anyState noParams c →
    exec (.powerStatus r) s = .next (s.answered r c 0 0 s.powerStatus)) ∧
  (∀ (s : State) (r : RingIx) (c : PendCmd), s.Starts r 0x0602 anyState badPolicy c →
    let q : PowerPolicy := { target := c.par 0 10, boost := decide (c.par 10 1 = 1), sprint := decide (c.par 11 1 = 1) }
    exec (.powerPolicy r) s = .next
      ((((s.started r c).modPart c.part fun P => { P with policy := q }).mapBenches fun k b =>
        if ((s.started r c).modPart c.part fun P => { P with policy := q }).benchForm k = some c.part then b.under q else b).reply r c 0 0 [])) ∧
  (∀ (s : State) (r : RingIx) (c : PendCmd), s.Starts r 0x0603 anyState (fun c => lowest [c.rsv 3 29, c.rsv 56 8]) c →
    (bit (s.part c.part).dies (c.par 0 2) = false → exec (.benchState r) s = .next (s.answered r c 0x0107 2 [])) ∧
    (bit (s.part c.part).dies (c.par 0 2) = true → c.par 2 1 = 1 → (s.part c.part).state = .running ∨ (s.part c.part).state = .starting →
      exec (.benchState r) s = .next (s.answered r c 0x0601 1 [])) ∧
    (bit (s.part c.part).dies (c.par 0 2) = true → c.par 2 1 = 1 → (s.part c.part).state ≠ .running → (s.part c.part).state ≠ .starting →
      s.power.standby = false → exec (.benchState r) s = .next (State.answered ((List.range 24).foldl (fun u b =>
        if c.par (32 + b) 1 = 1 then u.modBench (24 * c.par 0 2 + b) Bench.toRecess else u) s) r c 0 0 [])) ∧
    (bit (s.part c.part).dies (c.par 0 2) = true → (c.par 2 1 = 0 ∨ (s.part c.part).state = .loaded) → s.power.standby = true →
      exec (.benchState r) s = .next (s.answered r c 0x0601 4 [])) ∧
    (bit (s.part c.part).dies (c.par 0 2) = true → c.par 2 1 = 0 → s.power.standby = false →
      exec (.benchState r) s = .next (State.answered ((List.range 24).foldl (fun u b =>
        if c.par (32 + b) 1 = 1 then u.modBench (24 * c.par 0 2 + b) Bench.toActive else u) s) r c 0 0 []))) ∧
  (∀ (s : State) (r : RingIx) (c : PendCmd), s.Starts r 0x0604 anyState (fun c => c.rsv 1 31) c →
    (c.par 0 1 = 1 → (s.part c.part).state = .running ∨ (s.part c.part).state = .starting →
      exec (.dieState r) s = .next (s.answered r c 0x0601 2 [])) ∧
    (¬((s.part c.part).state = .running ∨ (s.part c.part).state = .starting) ∨ c.par 0 1 = 0 → s.power.standby = true →
      exec (.dieState r) s = .next (s.answered r c 0x0601 4 [])) ∧
    (¬((s.part c.part).state = .running ∨ (s.part c.part).state = .starting) ∨ c.par 0 1 = 0 → s.power.standby = false →
      exec (.dieState r) s = .next ((s.part c.part).dieList.foldl (fun (u : State) d =>
        u.modDie d (if c.par 0 1 = 1 then Die.sleep else Die.wake)) (s.started r c)).finishPower)) ∧
  (∀ (s : State) (r : RingIx) (c : PendCmd), s.Starts r 0x0605 anyState (fun c => c.rsv 1 31) c →
    (c.par 0 1 = 1 → s.power.standby = true → exec (.deviceStandby r) s = .next (s.answered r c 0 0 [])) ∧
    (c.par 0 1 = 1 → s.power.standby = false → (∀ p < 4, (s.part p).state = .empty) → (∀ i < 4, (s.port i).state = .off) →
      exec (.deviceStandby r) s = .next ((s.started r c).enterStandby.reply r c 0 0 [])) ∧
    (c.par 0 1 = 1 → s.power.standby = false → ((∃ p < 4, (s.part p).state ≠ .empty) ∨ ∃ i < 4, (s.port i).state ≠ .off) →
      exec (.deviceStandby r) s = .next (s.answered r c 0x0601 3 [])) ∧
    (c.par 0 1 = 0 → s.power.standby = false → exec (.deviceStandby r) s = .next (s.answered r c 0 0 [])) ∧
    (c.par 0 1 = 0 → s.power.standby = true →
      exec (.deviceStandby r) s = .next (State.wakeAll { s.started r c with power := { s.power with standby := false } }))) ∧
  (∀ (s : State) (r : RingIx) (c : PendCmd), s.Starts r 0x0606 anyState badCap c →
    (s.power.stageCeiling < c.par 0 12 → exec (.powerCap r) s = .next (s.answered r c 0x0602 s.power.stageCeiling [])) ∧
    (c.par 0 12 ≤ s.power.stageCeiling → exec (.powerCap r) s = .next
      (State.answered { s with power := { s.power with cap := c.par 0 12, ceiling := c.par 0 12 } } r c 0 0 [])))

/-- The exam commands (R420, R423, R424) and the record and telemetry commands (R272, R340, R341, R441). EXAM_RUN of one
target that nothing refuses, or of all (FULL), puts slices in the queue, and is answered when they are done. Choices of
the model in it: logs 106, 109, 110, 131. -/
def Obligations.ServiceCommandsComplete : Prop :=  (∀ (s : State) (r : RingIx) (c : PendCmd), s.Starts r 0x0701 anyState badExamResults c →
    exec (.examResults r) s = .next (s.answered r c 0 0
      ((((typeTargets (c.par 0 4)).drop (c.par 16 16)).take (c.par 32 16)).flatMap fun x => (s.examRec x).bytes x))) ∧
  (∀ (s : State) (r : RingIx) (c : PendCmd), s.Starts r 0x0702 anyState badExamRun c → c.par 32 1 = 0 →
    let own : Option (BitVec 4) := if 1 ≤ r.val ∧ r.val ≤ 3 then some (s.part r.val).dies else none
    let x : Word := BitVec.ofNat 32 (c.par 0 32)
    (∀ n, s.examRefused own x = some n → exec (.examRun r) s = .next (s.answered r c 0x0701 n [])) ∧
    (s.examRefused own x = none → exec (.examRun r) s = .next ((s.started r c).modServices fun v =>
      { v with slices := addSlices [x] (fun x => { target := x, cmd := some r }) v.slices }))) ∧
  (∀ (s : State) (r : RingIx) (c : PendCmd), s.Starts r 0x0702 anyState badExamRun c → c.par 32 1 = 1 →
    let own : Option (BitVec 4) := if 1 ≤ r.val ∧ r.val ≤ 3 then some (s.part r.val).dies else none
    let all := s.fullExam.filter fun x => (s.examRefused own x).isNone
    exec (.examRun r) s = .next (State.finishExams ((s.started r c).modServices fun v =>
      { v with slices := addSlices all (fun x => { target := x, cmd := some r }) v.slices }))) ∧
  (∀ (s : State) (r : RingIx) (c : PendCmd), s.Starts r 0x0703 anyState (fun c => c.rsv 7 25) c →
    exec (.examPolicy r) s = .next
      (State.answered (s.modServices fun v => { v with policy := BitVec.ofNat 7 (c.par 0 7) }) r c 0 0 [])) ∧
  (∀ (s : State) (r : RingIx) (c : PendCmd) (smp : TeleSample), s.Starts r 0x0801 anyState (badSelector true) c →
    exec (.telemetryRead r smp) s = .next (s.answered r c 0 0
      ((List.range (c.par 32 32)).flatMap fun i => s.counterRecord (c.view.getD s.teleView) smp (c.par 0 8) (c.par 8 24 + i)))) ∧
  (∀ (s : State) (r : RingIx) (c : PendCmd), s.Starts r 0x0802 anyState (badSelector false) c →
    exec (.telemetryClear r) s = .next (((s.started r c).clearRecord (c.par 0 8) (c.par 8 24)).reply r c 0 0 [])) ∧
  (∀ (s : State) (r : RingIx) (c : PendCmd), s.Starts r 0x0803 anyState badRecordRead c →
    exec (.recordRead r) s = .next (s.answered r c 0 0 ((List.range (c.par 16 9)).flatMap fun i =>
      match s.hub.records.find? fun e => decide (fldN e 48 16 = (c.par 0 16 + i) % 65536) with
      | some e => bytesOfBv 64 e
      | none => []))) ∧
  (∀ (s : State) (r : RingIx) (c : PendCmd), s.Starts r 0x0804 anyState badServiceSet c →
    let periods := (List.range 5).foldl (fun m k =>
      if c.par (32 * k) 32 = 0 then m else put 0 m k (c.par (32 * k) 32)) s.hub.services.periods
    exec (.serviceSet r) s = .next
      (State.answered ((s.modServices fun v => { v with periods := periods }).assertShared 44) r c 0 0 []))

/-! ## Rings, registers, interrupt controller -/

/-- The writes to a ring's registers (R319, R320, R323). REP_HEAD frees reply slots. ENABLE cleared discards what is not
replied to; set, it begins the first pass and the entries that wait are read. A doorbell is admitted; a tail that would
shrink the span of entries sets RING_ERR alone; on a ring in use the entries up to the tail are read in order, each from
SUB_BASE + 64 × SUB_HEAD. REGISTER_WRITE (R14, R385): an RW field
takes the value written, an RW1C bit is cleared by a 1, an RO register keeps its value; OVERDUE ignores a value outside
1-1,000, VBASE's low 12 bits read 0 and ENABLE's bit 0 reads 1. COMMAND_REPLY (R320, R323): the oldest finished command
of a host ring writes its data and its reply into the next free slot, the MSI-X message follows, and PHASE inverts as
the ring wraps; where (REP_TAIL + 1) mod 256 = REP_HEAD it waits. Choices of the model in it: logs 38, 42. -/
def Obligations.RegistersComplete : Prop :=
  ((∀ (s : State) (r : HostRing) (head : Byte), exec (.repHeadWrite r head) s =
    .next ((s.modRing r fun R => { R with repHead := head }).assertAt 0 6)) ∧
  (∀ (s : State) (r : HostRing), exec (.ringEnableWrite r none) s = .next (s.modRing r fun R => { R with
    enable := false, pend := [], done := [], running := R.running.map fun c => { c with mute := true } })) ∧
  (∀ (s : State) (r : HostRing) (subs : List Submit), exec (.ringEnableWrite r (some subs)) s = .next (State.readEntries
    (s.modRing r fun R => { R with enable := true, phase := if R.enable then R.phase else true }) r subs)) ∧
  (∀ (s : State) (r : HostRing) (tail : Byte) (subs : List Submit),
    let a := s.intake .doorbell (1 + r)
    let R := s.ring r
    let u := a.2.modRing r fun R => { R with
      subTail := tail, bells := if tail = R.subTail then R.bells else R.bells ++ [⟨tail, a.1, a.2.teleView⟩] }
    ((tail - R.subHead).toNat < (R.subTail - R.subHead).toNat →
      exec (.doorbell r tail subs) s = .next (a.2.modRing r fun R => { R with ringErr := true })) ∧
    ((R.subTail - R.subHead).toNat ≤ (tail - R.subHead).toNat → R.enable = false → exec (.doorbell r tail subs) s = .next u) ∧
    ((R.subTail - R.subHead).toNat ≤ (tail - R.subHead).toNat → R.enable = true →
      exec (.doorbell r tail subs) s = .next (u.readEntries r subs))) ∧
  (∀ (s : State) (r : HostRing) (x : Submit) (subs : List Submit), SMap.wf {} s.rings = true →
    ((s.ring r).subHead = (s.ring r).subTail → s.readEntries r subs = s) ∧
    ((s.ring r).subHead ≠ (s.ring r).subTail →
      let t := s.readEntries r [x]
      t.ring r = (s.ring r).take r x ∧ (t.ring r).subHead = (s.ring r).subHead + 1 ∧
      t.out = s.out ++ [.dmaRead ((s.ring r).subBase + BitVec.ofNat 64 (64 * (s.ring r).subHead.toNat)) 64] ∧
      t = { s with rings := t.rings, out := t.out } ∧ ∀ j, j ≠ r.val → t.ring j = s.ring j))) ∧
  (∀ (s : State) (v : BitVec 64),
    (∀ r, exec (.registerWrite (.subBase r) v) s = .next (s.modRing r fun R => { R with subBase := v })) ∧
    (∀ r, exec (.registerWrite (.repBase r) v) s = .next (s.modRing r fun R => { R with repBase := v })) ∧
    (∀ r, exec (.registerWrite (.msix r) v) s = .next (s.modRing r fun R => { R with msix := v.setWidth 6 })) ∧
    (∀ r, v.getLsbD 0 = true → exec (.registerWrite (.ringErr r) v) s = .next (s.modRing r fun R => { R with ringErr := false })) ∧
    (∀ r, v.getLsbD 0 = false → exec (.registerWrite (.ringErr r) v) s = .next (s.modRing r fun R => R)) ∧
    (∀ k, v.getLsbD 0 = true → exec (.registerWrite (.ovf k) v) s = .next (s.modClerk k fun c => { c with ovf := false })) ∧
    (∀ k, 1 ≤ v.toNat % 1024 → v.toNat % 1024 ≤ 1000 → exec (.registerWrite (.overdue k) v) s =
      .next (s.modClerk k fun c => { c with overdue := BitVec.ofNat 10 v.toNat })) ∧
    (∀ k, (v.toNat % 1024 = 0 ∨ 1000 < v.toNat % 1024) → exec (.registerWrite (.overdue k) v) s = .next (s.modClerk k fun c => c)) ∧
    (∀ k, exec (.registerWrite (.vbase k) v) s = .next (s.modClerk k fun c => { c with vbase := v.setWidth 32 &&& 0xFFFFF000 })) ∧
    (∀ k, exec (.registerWrite (.enable k) v) s = .next (s.modClerk k fun c => { c with enable := v ||| 1 })) ∧
    (∀ k, exec (.registerWrite (.faultBits k) v) s = .next (s.modClerk k fun c => { c with fault := c.fault &&& ~~~(v.setWidth 3) })) ∧
    (exec (.registerWrite .memEnable v) s = .next { s with cxl := { s.cxl with memEn := v.getLsbD 0 } }) ∧
    (let t : State := { s with cxl := { s.cxl with cacheEn := v.getLsbD 0 } }
     exec (.registerWrite .cacheEnable v) s = .next (if s.cacheOk then t else t.reissueReads)) ∧
    (∀ i, exec (.registerWrite (.bar i) v) s = .next { s with cxl := { s.cxl with bars := put 0 s.cxl.bars i v } }) ∧
    (exec (.registerWrite .msixEnable v) s = .next { s with cxl := { s.cxl with msixEn := v.getLsbD 0 } }) ∧
    (exec (.registerWrite .hdmBase v) s = .next { s with cxl := { s.cxl with hdmBase := v } }) ∧
    (exec (.registerWrite .hdmCommit v) s = .next { s with cxl := { s.cxl with hdmCommit := v.getLsbD 0 } }) ∧
    (∀ r, exec (.registerWrite (.subHead r) v) s = .next s ∧ exec (.registerWrite (.repTail r) v) s = .next s) ∧
    (exec (.registerWrite .deviceStatus v) s = .next s ∧ ∀ f, exec (.registerWrite (.absentFeature f) v) s = .next s) ∧
    (∀ k, exec (.registerWrite (.clerkReadOnly k) v) s = .next s)) ∧
  (∀ (s : State) (r : RingIx) (q : Reply) (rest : List Reply), SMap.wf {} s.rings = true → r.val < 4 →
    (s.ring r).done = q :: rest → (s.ring r).enable = true →
    ((s.ring r).repTail + 1 = (s.ring r).repHead → exec (.commandReply r) s = .next s) ∧
    ((s.ring r).repTail + 1 ≠ (s.ring r).repHead → ∃ t, exec (.commandReply r) s = .next t ∧
      t.ring r = { s.ring r with
        done := rest, repTail := (s.ring r).repTail + 1
        phase := if (s.ring r).repTail = 0xFF then !(s.ring r).phase else (s.ring r).phase } ∧
      t.out = s.out ++ (if q.data = [] ∨ q.cmd.dataMax r = 0 then [] else [.hostWrite q.cmd.dataAddr (q.data.take (q.cmd.dataMax r))]) ++
        [.hostWrite ((s.ring r).repBase + BitVec.ofNat 64 (16 * (s.ring r).repTail.toNat)) (replyBytes q (s.ring r).phase),
         .msix (s.ring r).msix] ∧
      t = { s with rings := t.rings, out := t.out } ∧ ∀ j, j ≠ r.val → t.ring j = s.ring j))

/-- The interrupt controller (R379-R383, R386): COMPLETE of the source in service ends it, and its handler has taken its
events; any other COMPLETE, and a handler overdue, is a completion fault; GIE changes later deliveries alone; a ROUTE
moves its source's pending bit and count; a ready clerk is given its lowest pending, enabled source. A completion fault
(R386, R387): the source in service is abandoned, pending again with its count added back where it is delivered next; the fault fields say why;
source 0 is in service at once; the error is detected on the hub. One that arises while source 0 is in service is a
clerk failure, and the device enters recovery mode. A choice of the model in it: log 71. -/
def Obligations.ClerksComplete : Prop :=
  ((∀ (s : State) (k : ClerkIx) (v : Byte), (s.clerk k).isSrc = v → v ≠ 0xFF →
    exec (.completeWrite k v) s = .next ((s.modClerk k fun c => { c with isSrc := 0xFF, vector := none }).modHub fun h =>
      { h with log := takeEvents (srcKey k v.toNat) (s.clerk k).isCount.toNat h.log })) ∧
  (∀ (s : State) (k : ClerkIx) (v : Byte), (s.clerk k).isSrc = 0xFF →
    exec (.completeWrite k v) s = .next (s.completionFault k 1 v)) ∧
  (∀ (s : State) (k : ClerkIx) (v : Byte), (s.clerk k).isSrc ≠ 0xFF → (s.clerk k).isSrc ≠ v →
    exec (.completeWrite k v) s = .next (s.completionFault k 0 v)) ∧
  (∀ (s : State) (k : ClerkIx) (on : Bool), exec (.gieWrite k on) s = .next (s.modClerk k fun c => { c with gie := on })) ∧
  (∀ (s : State) (src : Fin 32) (k : ClerkIx), SMap.wf {} s.hub.clerks = true → s.routeOf (32 + src.val) ≠ k.val →
    ∃ t, exec (.routeWrite src k) s = .next t ∧ t.routeOf (32 + src.val) = k.val ∧
      t.clerk (s.routeOf (32 + src.val)) = { s.clerk (s.routeOf (32 + src.val)) with
        pending := (s.clerk (s.routeOf (32 + src.val))).pending &&& ~~~(1#64 <<< (32 + src.val))
        counts := put 0 (s.clerk (s.routeOf (32 + src.val))).counts (32 + src.val) 0 } ∧
      t.clerk k = { s.clerk k with
        pending := (s.clerk k).pending ||| ((s.clerk (s.routeOf (32 + src.val))).pending &&& (1#64 <<< (32 + src.val)))
        counts := put 0 (s.clerk k).counts (32 + src.val) (look 0 (s.clerk (s.routeOf (32 + src.val))).counts (32 + src.val)) } ∧
      t = { s with hub := t.hub }) ∧
  (∀ (s : State) (k : ClerkIx) (n : Nat) (posts : List ClerkIx),
    (s.clerk k).gie = true → (s.clerk k).held = false → (s.clerk k).isSrc = 0xFF →
    lowestBit ((s.clerk k).pending &&& (s.clerk k).enable) 64 = some n →
    exec (.interruptDelivery k posts) s = .next (posts.foldl (fun t q => t.assertAt q (24 + k.val)) (s.modClerk k fun c => { c with
      isCount := look 0 c.counts n, counts := put 0 c.counts n 0, pending := c.pending &&& ~~~(1#64 <<< n)
      isSrc := BitVec.ofNat 8 n, vector := some (c.vbase + BitVec.ofNat 32 (32 * n)) }))) ∧
  (∀ (s : State) (k : ClerkIx) (posts : List ClerkIx), ((s.clerk k).gie = false ∨ (s.clerk k).held = true ∨
      (s.clerk k).isSrc ≠ 0xFF ∨ lowestBit ((s.clerk k).pending &&& (s.clerk k).enable) 64 = none) →
    exec (.interruptDelivery k posts) s = .next s) ∧
  (∀ (s : State) (k : ClerkIx), (s.clerk k).isSrc ≠ 0xFF →
    exec (.handlerOverdue k) s = .next (s.completionFault k 2 0xFF))) ∧
  (∀ (s : State) (k : ClerkIx) (cause : Nat) (wr : Byte), SMap.wf {} s.hub.clerks = true →
    ((s.clerk k).isSrc = 0 → (s.completionFault k cause wr).power.state = .recovery) ∧
    ((s.clerk k).isSrc ≠ 0 →
      let t := s.completionFault k cause wr
      (t.clerk k).isSrc = 0 ∧ (t.clerk k).fault = BitVec.ofNat 3 (2 ^ cause) ∧ (t.clerk k).faultSrc = (s.clerk k).isSrc ∧
      (t.clerk k).faultWr = wr ∧ t = { s with hub := t.hub } ∧ t.hub.reports.length = s.hub.reports.length + 1) ∧
    (let n := (s.clerk k).isSrc.toNat
     let q := s.nextClerk k n
     n ≠ 0 → n < 64 → SMap.wf 0 (s.clerk q).counts = true →
      let t := s.completionFault k cause wr
      (t.clerk q).pending.getLsbD n = true ∧
      look 0 (t.clerk q).counts n = satAdd (look 0 (s.clerk q).counts n) (s.clerk k).isCount.toNat))

/-! ## The sequencer, tallies, descriptors -/

/-- The control descriptors that only move a cell's walk (R136, R137, R160-R162, R166): SKIP, END, FEATURE, SETC,
BRANCH. At one of them, with every earlier descriptor issued, its line in the weight cache and no exam slice on the
bench, the cell's sequencer changes as the rule says, and nothing else does but the cache's order of use (R121, R134).
Until the line stands there it is asked for. A BRANCH or a SETC from a scalar waits while its register is pending;
FEATURE does not. The passes of a loop (R156, R159): a walk that reaches the innermost loop's BODYEND begins the next
pass while one is left, with the next iteration number, and leaves the loop after the last, its on-exit signal then due;
anywhere else it only moves. JOIN (R164): a cell that comes to a JOIN with nothing open counts itself for its form and
waits there; it goes on once its form has sent the signal and its wait is met, and not before; JOIN_SIGNAL sends the
signal once every cell of the form has come. Choices of the model in it: logs 132, 141. -/
def Obligations.ControlDescriptorsComplete : Prop :=
  (∀ (s : State) (c : CellIx), s.Awake c →
    let q := (s.cell c).seq
    let d := s.control c
    let u := s.chainRead c 64
    (∀ i ∈ [(0x86, Instr.skipPad c), (0x80, .endWalk c), (0x85, .feature c), (0x83, .setCount c), (0x82, .branch c)],
      (s.chainCached c 64 = false → exec i.2 s = .next (s.chainFetch c 64)) ∧
      (s.chainCached c 64 = true → s.atControl c i.1 = false → exec i.2 s = .next s)) ∧
    (s.atControl c 0x86 = true → exec (.skipPad c) s = .next (u.modSeq c (Seq.goto (q.pc + 64)))) ∧
    (s.atControl c 0x80 = true → exec (.endWalk c) s = .next (u.modSeq c fun q => { q with ended := true })) ∧
    (s.atControl c 0x85 = true → exec (.feature c) s = .next (u.modSeq c fun q =>
      Seq.goto (q.pc + 64) { q with scalars := put 0 q.scalars (featSreg d) (f32OfNat (featurePage.getD (featWord d) 0))
                                    feats := put 0 q.feats (featSreg d) q.nextOp })) ∧
    (s.atControl c 0x83 = true → setcSrc d = false → exec (.setCount c) s = .next (u.modSeq c fun q =>
      Seq.goto (q.pc + 64) { q with counts := put 0 q.counts (loopCreg d) (setcImm d) })) ∧
    (s.atControl c 0x83 = true → setcSrc d = true → q.pending (setcSreg d) = false →
      exec (.setCount c) s = .next (u.modSeq c fun q => Seq.goto (q.pc + 64)
        { q with counts := put 0 q.counts (loopCreg d) (BitVec.ofInt 24 (truncClamp 0 16777215 0 (q.scalar (setcSreg d)))) })) ∧
    (s.atControl c 0x83 = true → setcSrc d = true → q.pending (setcSreg d) = true → exec (.setCount c) s = .next s) ∧
    (s.atControl c 0x82 = true → q.pending (brSreg d) = false → brSrc d = false →
      exec (.branch c) s = .next (u.modSeq c (Seq.goto
        (if branchTest (brCmp d) (q.scalar (brSreg d)) (brImm d) then brTarget d else q.pc + 64)))) ∧
    (s.atControl c 0x82 = true → q.pending (brSreg d) = false → brSrc d = true → q.pending (brSreg2 d) = false →
      exec (.branch c) s = .next (u.modSeq c (Seq.goto
        (if branchTest (brCmp d) (q.scalar (brSreg d)) (q.scalar (brSreg2 d)) then brTarget d else q.pc + 64)))) ∧
    (s.atControl c 0x82 = true → (q.pending (brSreg d) = true ∨ brSrc d = true ∧ q.pending (brSreg2 d) = true) →
      exec (.branch c) s = .next s)) ∧
  (∀ (s : State) (c n : Nat), (s.chainRead c n).cells = s.cells ∧ (s.chainRead c n).parts = s.parts ∧
    (s.chainRead c n).hub = s.hub ∧
    (SMap.wf {} s.dies = true → ∀ d a k, (s.chainRead c n).readHbm d a k = s.readHbm d a k)) ∧
  (∀ (q : Seq) (l : Loop) (ls : List Loop) (pc : Nat), q.loops = l :: ls → q.headSet = none →
    (pc ≠ l.bodyEnd → q.goto pc = { q with pc := pc }) ∧
    (pc = l.bodyEnd → l.iter + 1 < l.count → q.goto pc = { q with pc := l.start, loops := { l with iter := l.iter + 1 } :: ls }) ∧
    (pc = l.bodyEnd → l.count ≤ l.iter + 1 → (∀ m ∈ ls, m.bodyEnd ≠ pc) →
      q.goto pc = { q with pc := pc, loops := ls, exits := q.exits ++ [⟨l.num, l.sig, l.firstOp, q.nextOp, l.start - 64⟩] })) ∧
  ((∀ (s : State) (c : CellIx) (r : FormRec), s.Awake c → s.atControl c 0x84 = true → (s.cell c).seq.openOps = [] →
    (s.cell c).seq.join = none → s.formOf c = some r →
    let q := (s.cell c).seq
    exec (.join c) s = .next (State.modPart
      ((s.chainRead c 64).modSeq c fun q =>
        { q with join := some ⟨q.nextJoin, cWait (s.control c), cSig (s.control c)⟩, nextJoin := q.nextJoin + 1 })
      (s.cellPart c) fun P => { P with period := { P.period with
        counts := (countForm r.num .join q.nextJoin (r.cellList.length + 1) (s.part (s.cellPart c)).period.counts).1 } })) ∧
  (∀ (s : State) (c : CellIx) (j : JoinAt), s.Awake c → (s.cell c).seq.join = some j → (s.cell c).seq.running = true →
    (s.cell c).seq.stopped = false →
    (s.joinOpen c j.num = false → s.waitMet (s.cellPart c) (s.cell c).seq.iters j.wait = true →
      exec (.join c) s = .next (s.modSeq c fun q => Seq.goto (q.pc + 64) { q with join := none })) ∧
    (s.joinOpen c j.num = true ∨ s.waitMet (s.cellPart c) (s.cell c).seq.iters j.wait = false → exec (.join c) s = .next s)) ∧
  (∀ (s : State) (f : FormIx) (p : Nat) (r : FormRec) (e : FormCount) (j : JoinAt),
    (s.formsNumbered f).find? (fun e => (s.joinDue e).isSome) = some (p, r) →
    (s.part p).period.counts.find? (fun e => decide (e.form = r.num ∧ e.ev = .join ∧ r.cellList.length ≤ e.cells)) = some e →
    (s.cell (r.cellList.headD 0)).seq.join = some j →
    let s1 := s.modPart p fun P => { P with period := { P.period with counts := P.period.counts.erase e } }
    exec (.joinSignal f) s = .next (if sigEn j.sig then s1.launch p j.sig (s.cell (r.cellList.headD 0)).seq.pc else s1)))

/-- A signal in flight lands on its tally (R153, R154): oldest first; a tally outside its partition's dies it leaves as it
is (R34, R134). An add to a tally (R153) raises it, and saturates at 0xF_FFFF with the notice 0x4001; no other tally of
its die changes. A choice of the model in it: log 85. -/
def Obligations.SignalsAndTalliesComplete : Prop :=
  (∀ (s : State) (p : PartIx) (g : Signal) (rest : List Signal), s.Canon → (s.part p).period.signals = g :: rest →
    let u := s.modPart p fun P => { P with period := { P.period with signals := rest } }
    (bit (s.part p).dies (fldN g.tally 12 2) = true → exec (.tallySignal p) s = .next (u.addTally g.tally g.amount g.off)) ∧
    (bit (s.part p).dies (fldN g.tally 12 2) = false → exec (.tallySignal p) s = .next u)) ∧
  (∀ (s : State) (t : BitVec 14) (n off : Nat), s.Canon →
    let d := fldN t 12 2
    ((s.tally t).toNat + n ≤ 0xFFFFF → ((s.addTally t n off).tally t).toNat = (s.tally t).toNat + n ∧
      (s.addTally t n off).hub = s.hub) ∧
    (0xFFFFF < (s.tally t).toNat + n → ((s.addTally t n off).tally t).toNat = 0xFFFFF ∧
      (s.addTally t n off).hub.records.length = min 256 (s.hub.records.length + 1)) ∧
    (∀ k, k ≠ fldN t 0 12 → look 0 ((s.addTally t n off).die d).tallies k = look 0 (s.die d).tallies k) ∧
    (∀ e, e ≠ d → (s.addTally t n off).die e = s.die e))

/-- Layer descriptors in a cell (R134, R136, R139, R141, R144): a load takes the chain's next 256 bytes, once their lines
stand in the weight cache, into a free register set; an uncorrectable block stops the walk there and is detected; the
oldest loaded descriptor is issued once nothing holds it; NOP and MOVE need no engine, and a NOP's register set is free
again at its issue; any other descriptor completes when its unit and its streams are done. A form's period end (R137):
every cell has reached END with nothing open, in an open period that is not dropped: the form's end is admitted, noted
once, and no stream of its cells stays armed. A choice of the model in it: log 141. -/
def Obligations.DescriptorsComplete : Prop :=
  ((∀ (s : State) (c : CellIx) (r : FormRec) (k : Nat) (ecc : Ecc), s.Awake c → s.formOf c = some r → s.walking c = true →
    (∀ l ∈ (s.cell c).seq.loops.head?, (s.cell c).seq.pc ≠ l.bodyEnd) →
    let q := (s.cell c).seq
    let a := r.chain + q.pc
    (s.chainCached c 64 = false → exec (.descriptorLoad c ecc) s = .next (s.chainFetch c 64)) ∧
    (s.chainCached c 64 = true → exec (.descriptorLoad c .uncorrectable) s = .next
      ((s.modSeq c fun q => { q with stopped := true }).detect 0x2003 (dieUnit (dieOf c)) (s.cellPart c)
        (dieOf c + wcSet a * 2 ^ 16) a)) ∧
    (s.chainCached c 64 = true → s.chainCached c 256 = false → fldN (s.control c) 0 8 < 0x80 → ecc ≠ .uncorrectable →
      exec (.descriptorLoad c ecc) s = .next (s.chainFetch c 256)) ∧
    (s.chainCached c 64 = true → s.chainCached c 256 = true → fldN (s.control c) 0 8 < 0x80 →
      (List.range 4).find? (fun k => ((s.cell c).seq.set k).isNone) = some k →
      let set : RegSet := { num := q.nextLoad, desc := bvOfBytes 2048 (s.readHbm (dieOf c) a 256), off := q.pc, iters := q.iters }
      let loaded (t : State) : State :=
        ((t.chainRead c 256).putSet c k (some set)).modSeq c fun q => { q with pc := q.pc + 256, nextLoad := q.nextLoad + 1 }
      exec (.descriptorLoad c .clean) s = .next (loaded s) ∧
      exec (.descriptorLoad c .corrected) s = .next (loaded (s.corrected c 2)))) ∧
  (∀ (s : State) (c : CellIx) (k : Nat) (r : RegSet), s.Awake c → (s.cell c).seq.headSet = some (k, r) → s.walking c = true →
    s.mayIssue c r = true →
    exec (.descriptorIssue c) s = .next (s.issueSet c k r) ∧
    (r.desc.op = 6 → exec (.move c) s = .next (s.issueSet c k r)) ∧
    (r.desc.op = 0 → exec (.nop c) s = .next (s.issueSet c k r) ∧
      (SMap.wf {} s.cells = true → SMap.wf none (s.cell c).seq.sets = true →
        ((s.issueSet c k r).cell c).seq.set k = none ∧
        (s.cell c).seq.nextOp ∉ ((s.issueSet c k r).cell c).seq.openOps))) ∧
  (∀ (s : State) (c : CellIx) (k : Fin 4) (r : RegSet) (o : Nat), s.Awake c → (s.cell c).seq.set k = some r → r.issued = some o →
    r.opDone = true → (s.cell c).streamsDone r o = true →
    exec (.descriptorComplete c k) s = .next (s.completeSet c k r o)) ∧
  (∀ (s : State) (c : CellIx), s.Awake c → (∀ k r, (s.cell c).seq.headSet = some (k, r) → s.mayIssue c r = false) →
    exec (.descriptorIssue c) s = .next s)) ∧
  (∀ (s : State) (p : Nat) (r : FormRec), s.formDone (p, r) = true ↔
    (s.part p).period.isOpen = true ∧ (s.part p).period.dropped = false ∧ r.num ∉ (s.part p).period.ended ∧
    ∀ c ∈ r.cellList, let q := (s.cell c).seq
      q.ended = true ∧ q.stopped = false ∧ q.openOps = [] ∧ q.exits = [] ∧ q.used = []) ∧
  (∀ (s : State) (f : FormIx) (p : Nat) (r : FormRec), (s.formsNumbered f).find? s.formDone = some (p, r) →
    exec (.formPeriodEnd f) s = .next (r.cellList.foldl (fun t c => t.modCell c Cell.disarm)
      ((s.admitted .periodEnd (132 + p)).modPart p fun P =>
        { P with period := { P.period with ended := insNat f.val P.period.ended } })))

/-! ## The engines -/

/-- The engine's operations (R51, R53, R144, R163, R280): the engine takes up its next operation unless a quiz runs; the
operation takes its slot's token when the slot is free, no quiz runs and it is the first to wait for it, and with INIT
Clear or Keep it may step at once, with Load once its entries have come; one that is frozen takes and releases the token in the same instant and completes; a DRAIN takes
the token and keeps the slot's contents. An operation that does not have the turn waits. An engine step (R41, R58, R65):
a running operation that holds its token, whose slot is ready and whose queues allow it, does one step; the six mode
commands are that step for an operation of their own mode, and nothing for another. Otherwise the step waits. The drain
path (R50, R61-R64): the drain at its head, once its slot may be read and there is room, reads its next row; the oldest
entry of a slot buffer enters its Y queue once that has room and every earlier drain into it has passed its last.
Choices of the model in it: logs 80, 81. -/
def Obligations.EngineComplete : Prop :=
  ((∀ (s : State) (c : CellIx) (op : Op) (rest : List Op), s.Awake c → (s.cell c).eng = none → (s.cell c).ework = op :: rest →
    ((s.cell c).quiz = false → exec (.engine c) s = .next (s.setCell c { s.cell c with
      ework := rest, chained := false
      eng := some { op := op, work := 64 * op.desc.steps, chainIn := op.desc.chain && (s.cell c).chained } })) ∧
    ((s.cell c).quiz = true → exec (.engine c) s = .next s)) ∧
  (∀ (s : State) (c : CellIx) (sl : SlotIx) (o k : Nat) (ws : List Nat) (r : RegSet), s.Awake c →
    SMap.wf {} s.cells = true → ((s.cell c).slot sl).phase = .unowned → ((s.cell c).slot sl).waiters = o :: ws →
    (s.cell c).seq.setOf o = some (k, r) → (s.cell c).quiz = false →
    (∀ e, r.desc.freeze = false → r.desc.op = 1 → (s.cell c).eng = some e → e.op.id = o → e.op.desc.init ≠ 2 →
      exec (.slotTokenTake c sl) s = .next (s.engineTake c e)) ∧
    (∀ e, r.desc.freeze = false → r.desc.op = 1 → (s.cell c).eng = some e → e.op.id = o → e.op.desc.init = 2 → e.op.slot = sl →
      exec (.slotTokenTake c sl) s = .next (State.loadSlot c 128 (s.engineTake c e))) ∧
    (∀ d, r.desc.freeze = false → r.desc.op = 2 → (s.cell c).eng = none →
      (s.cell c).drains.find? (fun d => decide (d.op.id = o)) = some d →
      exec (.slotTokenTake c sl) s = .next (s.drainTake c d.op)) ∧
    (r.desc.freeze = true → (s.cell c).eng = none →
      exec (.slotTokenTake c sl) s =
        .next ((s.modSlot c sl fun t => { t with waiters := ws }).completeSet c k r o))) ∧
  (∀ (s : State) (c : CellIx) (sl : SlotIx), s.Awake c → (((s.cell c).slot sl).phase ≠ .unowned ∨ (s.cell c).quiz = true) →
    (s.cell c).eng = none → exec (.slotTokenTake c sl) s = .next s) ∧
  (∀ (s : State) (c : CellIx) (d : DrainRun), s.Awake c → (s.cell c).drains = [d] → d.op.desc.op = 2 → d.ready = false →
    (s.cell c).quiz = false →
    ((s.cell c).slot d.op.slot).phase = .unowned → ((s.cell c).slot d.op.slot).waiters.head? = some d.op.id →
    exec (.drain c) s = .next (s.drainTake c d.op))) ∧
  (∀ (s : State) (c : CellIx) (e : EngineRun) (fault : Option SiteFault), s.Awake c → (s.cell c).eng = some e →
    (e.owned = true → e.ready = true → e.steps < e.op.desc.steps → (s.cell c).stepReady e = true →
      let t := s.engineStep c e fault
      let of (mode : Nat) : State := if e.op.desc.func = mode then t else s
      exec (.engineStep c fault) s = .next t ∧
      exec (.multiplyAdd c fault) s = .next (of 0) ∧ exec (.absoluteDifference c fault) s = .next (of 1) ∧
      exec (.squaredDifference c fault) s = .next (of 2) ∧ exec (.minPlus c fault) s = .next (of 3) ∧
      exec (.maxPlus c fault) s = .next (of 4) ∧ exec (.compareAndCount c fault) s = .next (of 5)) ∧
    ((e.owned = false ∨ e.ready = false ∨ e.op.desc.steps ≤ e.steps ∨ (s.cell c).stepReady e = false) →
      exec (.engineStep c fault) s = .next s)) ∧
  ((∀ (s : State) (c : CellIx) (d : DrainRun) (rest : List DrainRun), s.Awake c → (s.cell c).drains = d :: rest →
    (d.ready = true → (s.cell c).drainRoom d = true → exec (.drainStart c) s = .next (s.drainRow c d)) ∧
    ((d.ready = false ∨ (s.cell c).drainRoom d = false) → exec (.drainStart c) s = .next s)) ∧
  (∀ (s : State) (c : CellIx) (sl : SlotIx) (b : BufEntry) (rest : List BufEntry), s.Awake c →
    ((s.cell c).slot sl).buf = b :: rest →
    (1 ≤ (s.cell c).room b.queue → (s.cell c).earlierPassed b.op b.queue = true →
      exec (.slotBufferPush c sl) s =
        .next (s.setCell c (((s.cell c).modSlot sl fun t => { t with buf := rest }).push b.queue b.entry))) ∧
    (((s.cell c).room b.queue = 0 ∨ (s.cell c).earlierPassed b.op b.queue = false) →
      exec (.slotBufferPush c sl) s = .next s)))

/-- A storage format's bits stand for their value (R73, R74, R89): writing the value that an element's bits hold gives
the same bits, in every format and under every rounding, for every element that is no NaN; so nothing is lost between
memory and the exact arithmetic. -/
def Obligations.FormatsHoldTheirValues : Prop :=  ∀ (f : Fmt) (r : Rounding) (bits : Nat), f ∈ [fmtE4M3, fmtE5M2, fmtE2M1, fmtBF16, fmtFP32, fmtW40] →
    bits < 2 ^ f.width → (decodeBits f bits).isNan = false →
    (∀ n rnd, r = .stochastic n rnd → rnd < 2 ^ n) →
    encodeVal f r (decodeBits f bits) = bits

/-- The vector engine and the row engine take up their next operation in issue order (R86, R140, R144), and seed its
lanes; each waits while an operation of its own runs. The vector functions (R93-R97, R149, R199): with no push of its
outputs waiting, the running operation of the command's function does one vector, by the function's own rule, and ends
after its last; an operation of another function, or one with an output that waits, does nothing. Choices of the model
in it: logs 29, 30, 82. -/
def Obligations.VectorEngineCompletes : Prop :=
  ((∀ (s : State) (c : CellIx) (op : Op) (rest : List Op), s.Awake c → (s.cell c).vec = none → (s.cell c).scal = none →
    (s.cell c).vwork = op :: rest →
    (op.desc.op = 3 → exec (.vector c) s =
      .next ((s.seedLanes c 128 op.desc.pass).modCell c fun y => { y with vwork := rest, vec := some { op := op } })) ∧
    (op.desc.op = 5 → exec (.scalar c) s =
      .next ((s.seedLanes c 128 op.desc.pass).modCell c fun y => { y with vwork := rest, scal := some { op := op } }))) ∧
  (∀ (s : State) (c : CellIx) (v : VecRun), s.Awake c → (s.cell c).vec = some v →
    exec (.vector c) s = .next s ∧ exec (.scalar c) s = .next s) ∧
  (∀ (s : State) (c : CellIx) (op : Op) (rest : List Op), s.Awake c → (s.cell c).rowRun = none → (s.cell c).rwork = op :: rest →
    exec (.row c) s =
      .next ((s.seedLanes c 192 op.desc.pass).modCell c fun y => { y with rwork := rest, rowRun := some { op := op } }))) ∧
  (∀ (s : State) (c : CellIx) (v : VecRun), s.Awake c → (s.cell c).vec = some v →
    let d := v.op.desc
    let done (work : State → VecRun → State × VecRun) (fn : Nat) : State :=
      if d.func = fn then (work s v).1.vecEnd c (work s v).2 else s
    ((s.cell c).vecClear d = true → v.done < vecCount d.steps d.fmtA →
      exec (.vecAdd c) s = .next (done (lanesOf c vaddFn d.input1 d.input2) 1) ∧
      exec (.dequant c) s = .next (done (dequantOne c) 2) ∧
      exec (.splitFp32 c) s = .next (done (splitFp32One c) 3) ∧
      exec (.splitBf16 c) s = .next (done (splitBf16One c) 4) ∧
      exec (.vecFma c) s = .next (done (lanesOf c fmaFn d.input1 d.input2) 5) ∧
      exec (.convert c) s = .next (done (lanesOf c (fun es => es.headD .zero) none none) 6) ∧
      exec (.optim c) s = .next (done (optimOne c) 7)) ∧
    ((s.cell c).vecClear d = true → vecCount d.steps d.fmtA ≤ v.done → d.func = 1 →
      exec (.vecAdd c) s = .next (s.vecEnd c v)) ∧
    ((s.cell c).vecClear d = false → exec (.vecAdd c) s = .next s ∧ exec (.dequant c) s = .next s ∧
      exec (.splitFp32 c) s = .next s ∧ exec (.splitBf16 c) s = .next s ∧ exec (.vecFma c) s = .next s ∧
      exec (.convert c) s = .next s ∧ exec (.optim c) s = .next s))

/-- What a lane of ADD, FMA and DEQUANT gives (R93, R94, R149): the function of that lane of the inputs alone, rounded
once where the manual rounds, and poisoned when one of its inputs is (R119). -/
def Obligations.VectorLanesStandAlone : Prop :=  ∀ (a b x : List InElem) (l : Nat), l < 64 →
    let z : InElem := ⟨.zero, false⟩
    let la := a.getD l z
    let lb := b.getD l z
    let lx := x.getD l z
    (lanewise vaddFn [a, b]).getD l z = ⟨w40Val (rne40 (la.val.add lb.val)), la.poison || lb.poison⟩ ∧
    (lanewise vaddFn [a, b, x]).getD l z =
      ⟨w40Val (rne40 ((w40Val (rne40 (la.val.add lb.val))).add lx.val)), la.poison || lb.poison || lx.poison⟩ ∧
    (lanewise fmaFn [a, b, x]).getD l z =
      ⟨f32Val (rne32 ((la.val.mul lb.val).add lx.val)), la.poison || lb.poison || lx.poison⟩ ∧
    (lanewise dequantFn [a, b]).getD l z = ⟨f32Val (rne32 (la.val.mul lb.val)), la.poison || lb.poison⟩

/-- The row functions (R190-R194, R227): the row engine's running operation of the command's function does one row by
the function's own rule; an operation of another function, or with an output that waits, does nothing. A choice of the
model in it: log 31. -/
def Obligations.RowFunctionsComplete : Prop :=  ∀ (s : State) (c : CellIx) (r : RowRun), s.Awake c → (s.cell c).rowRun = some r →
    let d := r.op.desc
    let op := r.op
    let v := op.rowV
    let ins := d.rowIns op.rowMode
    let p0 := s.rowPull c op ins.1 v r.buf0
    let p1 := p0.2.1.rowPull c op ins.2.1 v r.buf1
    let p2 := p1.2.1.rowPull c op ins.2.2 v r.buf2
    let a := rowElems ins.1 v p0.1
    let b := rowElems ins.2.1 v p1.1
    let g := rowElems ins.2.2 v p2.1
    let x := p2.2.1.cell c
    let full := p0.2.2 && p1.2.2 && p2.2.2
    let last := decide (r.row + 1 = op.rows)
    let rest (dg db : List LVal) (o : OutBuf) : RowRun :=
      { r with row := r.row + 1, buf0 := rowDrop ins.1 v p0.1, buf1 := rowDrop ins.2.1 v p1.1
               buf2 := rowDrop ins.2.2 v p2.1, dg := dg, db := db, outs := if last then {} else o }
    let give (w : RowOut) (crossed : Bool) : State :=
      let t := State.rowPush c op d.ofmt crossed (chunksOf 64 v w.elems) (p2.2.1.modCell c w.side) r.outs
      (t.1.modCell c (Cell.pushAll d.out0 (if last then t.2.flush d.ofmt else []))).rowEnd c (rest [] [] t.2)
        (last && op.rowN == op.rows * v)
    ((s.cell c).rowClear d = true → r.row < op.rows → full = true →
      (d.func = 1 → exec (.softmaxForward c) s =
        .next (give (softmaxRow x op r.row a b) (named d.out1 && !(op.rowMode == 2)))) ∧
      (d.func = 2 → exec (.softmaxBackward c) s = .next (give (softmaxBackRow x op r.row a b) (named d.out1))) ∧
      (d.func = 3 → exec (.normalisationForward c) s = .next (give (normRow op r.row a b g) (named d.out1))) ∧
      (d.func = 4 → op.rowMode ≠ 2 → op.rowMode ≠ 3 →
        exec (.normalisationBackward c) s = .next (give (normBackRow x op r.row a b g) (named d.out1))) ∧
      (d.func = 4 → (op.rowMode = 2 ∨ op.rowMode = 3) →
        let t := normSums x op r.row a b r.dg r.db
        exec (.normalisationBackward c) s = .next (((p2.2.1.modCell c id).modCell c
          (Cell.pushAll d.out0 (if last then r.outs.flush d.ofmt else []))).rowEnd c (rest t.1 t.2 r.outs) false))) ∧
    ((s.cell c).rowClear d = true → r.row < op.rows → full = false → d.func = 1 →
      exec (.softmaxForward c) s = .next (p2.2.1.rowEnd c { r with buf0 := p0.1, buf1 := p1.1, buf2 := p2.1 } false)) ∧
    ((s.cell c).rowClear d = true → d.func = 5 →
      (r.pushed = false → exec (.orthonormalisation c) s = .next (s.orthoOne c r)) ∧
      (r.pushed = true → exec (.orthonormalisation c) s = .next (s.rowEnd c r true))) ∧
    (((s.cell c).rowClear d = false ∨ d.func = 6) → exec (.softmaxForward c) s = .next s ∧
      exec (.softmaxBackward c) s = .next s ∧ exec (.normalisationForward c) s = .next s ∧
      exec (.normalisationBackward c) s = .next s ∧ exec (.orthonormalisation c) s = .next s)

/-- The scalar reductions (R150, R162): the running SCALAR operation of the command's function takes the oldest entry of
its input into the running sum, extreme or count, element by element in order; after its last entry the cell gives its
partial to the form. An operation of another function, an empty input and a partial already given do nothing. A SCALAR
operation's form (R93, R150, R162): the partial of the last cell to come completes the combination, in the order of form
cell numbers, and the value is ready in every cell of the form, unless a later FEATURE has written the register; an
earlier partial waits. A form of one cell gives its
own partial. -/
def Obligations.ScalarsComplete : Prop :=
  (∀ (s : State) (c : CellIx) (r : ScalRun), s.Awake c → (s.cell c).scal = some r →
    let d := r.op.desc
    let fn := d.func
    let cmd : Nat → Instr := fun
      | 1 => .scalarSum c | 2 => .scalarSumOfSquares c | 3 => .scalarMaximum c
      | 4 => .scalarMinimum c | 5 => .nanCount c | _ => .infinityCount c
    (∀ e t, 1 ≤ fn → fn ≤ 6 → r.given = false → s.consume c d.in0 = some (e, t) →
      let es := scalElems d.fmtA (r.buf ++ unpack d.fmtA e)
      let r1 := es.1.foldl (scalAdd fn) { r with done := r.done + 1, buf := es.2 }
      let u := t.consumePoison c r.op e 64
      exec (cmd fn) s = .next (if r1.done = d.steps then u.givePartial c r1 else u.modCell c fun x => { x with scal := some r1 })) ∧
    (∀ k, 1 ≤ k → k ≤ 6 → (k ≠ fn ∨ r.given = true ∨ s.consume c d.in0 = none) → exec (cmd k) s = .next s)) ∧
  ((∀ (s : State) (c : CellIx) (r : ScalRun) (f : FormRec), s.formOf c = some f → 
    let p := s.cellPart c
    let parts := findJoin f.num r.op.id (s.part p).period.scalars ++ [⟨c.val, r.acc, r.any, r.count, r.taint⟩]
    let others := (s.part p).period.scalars.filter fun j => !(j.form == f.num && j.num == r.op.id)
    let inOrder := f.cellList.filterMap fun k => parts.find? fun q => decide (q.cell = k)
    let s1 := s.modCell c fun x => { x with scal := some { r with given := true } }
    (inOrder.length < f.cellList.length → s.givePartial c r =
      s1.modPart p fun P => { P with period := { P.period with scalars := ⟨f.num, r.op.id, parts⟩ :: others } }) ∧
    (∀ q l, inOrder = q :: l → f.cellList.length ≤ inOrder.length →
      let v := scalValue r.op.desc.func (l.foldl (scalJoin r.op.desc.func) q)
      let k := r.op.desc.ssel 0
      s.givePartial c r = f.cellList.foldl (fun t i => (t.modCell i fun x => { x with scal := none }).modSeq i fun y =>
        Seq.opDone r.op.id { y with scalars := if look 0 y.feats k ≤ r.op.id then put 0 y.scalars k v else y.scalars })
        (s1.modPart p fun P => { P with period := { P.period with scalars := others } }))))

/-! ## Queues, streams, memory turns -/

/-- Queues (R45-R48): a push enters, or waits behind those that wait; a pop takes the oldest entry to the queue's
consumer, which of a Y queue is its write stream or, where the command names one, the producer end of an X queue; a pop
of an X queue's producer end is a step of its mesh route, which the timetable fixes. No entry is lost, doubled or
overtaken, in a queue or on a route. A producer end that is the source of no route keeps its entries. A rota that
does not pass by itself (R29, R178) lets an owner of several hand over only within its declared count, and then goes on
to the next; a sole owner hands over at once. What check bits do to a word or block that is read (R70, R125): a clean and a corrected one is
delivered as it is, and a corrected one counted; one with a detected error is delivered as poisoned zeros and reported;
a pattern outside the code's guarantee delivers open bytes of the same number (free values, log 6), counted where the
code takes it for a correction. Choices of the model in it: logs 16, 84, 133. -/
def Obligations.QueuesComplete : Prop :=
  ((∀ (s : State) (c : CellIx) (q : QueueIx) (e : Entry), s.Awake c →
    exec (.queuePush c q e) s = .next (s.modCell c fun x => x.push q e)) ∧
  (∀ (n : Nat) (late : Bool) (e : Entry) (q : Queue), let t := q.push n late e
    t.entries ++ t.waiting = q.entries ++ q.waiting ++ [e] ∧ (q.entries.length ≤ n → t.entries.length ≤ n)) ∧
  (∀ (n : Nat) (q : Queue) (e : Entry) (rest : List Entry), q.entries = e :: rest →
    ∃ t, q.pop n = some (e, t) ∧ t.entries ++ t.waiting = rest ++ q.waiting ∧
      (q.entries.length ≤ n → t.entries.length ≤ n)) ∧
  (∀ (s : State) (c : CellIx) (q : QueueIx), s.Awake c → q.val < 20 →
    (∀ e t, s.consume c q = some (e, t) → exec (.queuePop c q none) s = .next t) ∧
    (s.consume c q = none → exec (.queuePop c q none) s = .next s)) ∧
  (∀ (s : State) (c : CellIx) (q : QueueIx) (x : Fin 4), s.Awake c → q.val < 20 →
    let far := (s.cell c).queue (20 + x.val)
    (∀ e t, 16 ≤ q.val → far.waiting = [] → far.entries.length < 8 → s.popOut c q = some (e, t) →
      exec (.queuePop c q (some x)) s = .next (t.modCell c fun y => y.push (20 + x.val) e)) ∧
    ((q.val < 16 ∨ far.waiting ≠ [] ∨ 8 ≤ far.entries.length ∨ s.popOut c q = none) →
      exec (.queuePop c q (some x)) s = .next s)) ∧
  (∀ (s : State) (c : CellIx) (q : QueueIx) (out : Option (Fin 4)), s.Awake c → 20 ≤ q.val →
    let x := q.val - 20
    let p := s.cellPart c
    let held (u : State) : List (Nat × Entry) := look [] (u.part p).period.hops (4 * c + x)
    exec (.queuePop c q out) s = .next (s.routeStep c x) ∧
    (s.farEnd c x = none → s.routeStep c x = s) ∧
    (∀ far, s.farEnd c x = some far → s.Canon → SMap.wf [] (s.part p).period.hops = true →
      ((held s).map Prod.fst).Pairwise (fun a b => b < a) →
      let all (u : State) : List Entry := ((u.cell far.1).queue (8 + far.2)).entries ++ ((u.cell far.1).queue (8 + far.2)).waiting ++
        (held u).map Prod.snd ++ ((u.cell c).queue q).entries ++ ((u.cell c).queue q).waiting
      far.2 < 4 → all (s.routeStep c x) = all s)) ∧
  (∀ (t : TtRec) (k : Nat) (r u : Rota), r.cross t k = some u →
    u.given = alter 0 r.given k (fun n => n + 1) ∧
    (1 < ttNown t → look 0 r.given k < ttCount t k ∧ u.turn = (k + 1) % ttNown t)) ∧
  (∀ (t : TtRec) (r : Rota), ttNown t ≤ 1 → (r.cross t 0).isSome = true)) ∧
  (∀ (s : State) (bs : List LByte) (count err : State → State),
    s.checked .clean bs count err = (bs, s) ∧ s.checked .corrected bs count err = (bs, count s) ∧
    s.checked .uncorrectable bs count err = (bs.map fun _ => { byte := 0, poison := true, memErr := true }, err s) ∧
    (∃ (l : List Byte) (n : Nat), s.checked .miscorrected bs count err = (l.map fun b => LByte.of b false, { count s with free := n }) ∧
      l.length = bs.length) ∧
    (∃ (l : List Byte) (n : Nat), s.checked .unseen bs count err = (l.map fun b => LByte.of b false, { s with free := n }) ∧ l.length = bs.length))

/-- Writing streams and what returns to reading ones (R68, R108-R111, R114, R122-R127): a write stream takes the oldest
entry of its Y queue; the first of its writes that its memory takes now is accepted, one to the cell store at once, an
HBM write once a turn has gone to it and its bank has served all before it; a request that the HBM has accepted returns
when it is the oldest of its bank, one for a cached line by the bench's port, and one whose line is not there asks for
its fill. What a word's check bits show is delivered, counted and reported word by word (R70). A read stream starts its
next entry (R106, R110, R112) while it holds a credit, a gathered one of memory only while contexts for its EMITs are
free, and only then. Requests take the free slots in rota (R109). Choices of the model in it: logs 77, 133. -/
def Obligations.StreamsComplete : Prop :=
  ((∀ (s : State) (c : CellIx) (st : StreamIx), s.Awake c →
    let x := (s.cell c).stream st
    (∀ (e : Entry) (y : State), 8 ≤ st.val → x.armed = true → x.done = false → x.entries < chEntries x.hdr →
      s.popOut c (st.val + 8) = some (e, y) →
      let f := takeEntry (walkOf x.instrs) x.base (chExtent x.hdr) entryFuel x.pos x.off 0 []
      let s3 := (f.1.foldl (State.takeOne c st e) (y.countStream c st 0 32 1)).modStream c st fun y =>
        { y with pos := f.2.1, off := f.2.2, entries := y.entries + 1 }
      let x3 := (s3.cell c).stream st
      exec (.writeStreamEntry c st) s = .next ((State.issueReqs c false 32
        (if chSpace x.hdr = 3 ∧ x3.entries = chEntries x.hdr ∧ x3.pkt ≠ [] then s3.flushRemote c st true else s3)).settleWrite c st)) ∧
    ((st.val < 8 ∨ x.armed = false ∨ x.done = true ∨ chEntries x.hdr ≤ x.entries ∨ s.popOut c (st.val + 8) = none) →
      exec (.writeStreamEntry c st) s = .next s)) ∧
  (∀ (s : State) (c : CellIx) (st : StreamIx) (errs : WordErrs), s.Awake c →
    let ws := ((s.cell c).stream st).writes
    (s.nextWrite (dieOf c) ws = none → exec (.writeAccepted c ⟨st, errs⟩) s = .next (s.settleWrite c st)) ∧
    (∀ i w, s.nextWrite (dieOf c) ws = some (i, w) →
      let s1 := if w.space = 0 then s.csStore c 0 w.addr w.bytes errs else s.visitBank (dieOf c) w.addr
      exec (.writeAccepted c ⟨st, errs⟩) s = .next ((State.issueReqs c false 1
        (s1.modStream c st fun x => { x with writes := x.writes.eraseIdx i })).settleWrite c st)) ∧
    (∀ w rest, ws = w :: rest → w.space = 0 → s.nextWrite (dieOf c) ws = some (0, w)) ∧
    (∀ i w, s.nextWrite (dieOf c) ws = some (i, w) → ws[i]? = some w ∧ (w.space = 0 ∨ w.granted.isSome = true))) ∧
  (∀ (s : State) (c agent a : Nat) (bs : List Byte), (s.cell c).badWords = [] →
    s.csStore c agent a bs [] = s.modCell c fun x => x.csWrite agent a bs) ∧
  (∀ (s : State) (c : CellIx) (st : StreamIx) (k : Nat) (r : Req), s.Awake c → ((s.cell c).stream st).reqs[k]? = some r →
    let d := dieOf c
    let line := 256 * (r.addr / 256)
    (∀ n, r.state = .accepted n → (∀ m ∈ s.bankQueue d r.addr, n ≤ m) → ∀ errs : WordErrs,
      let q := s.checked (errOf errs 0) (r.data.map fun b => .of b false) (fun t => t.hbmCorrected d r.addr)
        (fun t => t.detect 0x2004 (dieUnit d) (s.cellPart c) (hbmLoc d r.addr) (stackLocal r.addr))
      exec (.memoryReturn c st errs k) s = .next (((q.2.visitBank d r.addr).noteBank c st r.addr).returned c st r q.1)) ∧
    (∀ n, r.state = .accepted n → (∃ m ∈ s.bankQueue d r.addr, m < n) →
      ∀ errs : WordErrs, exec (.memoryReturn c st errs k) s = .next s) ∧
    (r.state = .filling → (look [] (s.die d).wc (wcSet line)).contains line = true → ∀ errs : WordErrs,
      let front (l : List Nat) : List Nat := line :: l.filter fun y => decide (y ≠ line)
      let s1 := (s.portTurn c).modDie d fun D => { D with wc := put [] D.wc (wcSet line) (front (look [] (s.die d).wc (wcSet line))) }
      let seen (w : Nat) (x : Ecc) (t : State) : State :=
        if x = .corrected ∨ x = .miscorrected then t.corrected c 2
        else if x = .uncorrectable then
          t.detect 0x2003 (dieUnit d) (s.cellPart c) (d + wcSet line * 2 ^ 16) (64 * (r.addr / 64) + 32 * w)
        else t
      let q := s1.seeWords seen errs (wordsOf (r.addr % 64) r.size) []
      exec (.memoryReturn c st errs k) s = .next (q.2.returned c st r ((s.readHbm d r.addr r.size).zipIdx.map fun b =>
        seenByte errs q.1 ((r.addr % 64 + b.2) / 32) ((r.addr + b.2) % 32) b.1))) ∧
    (r.state = .filling → (look [] (s.die d).wc (wcSet line)).contains line = false → ∀ errs : WordErrs,
      exec (.memoryReturn c st errs k) s = .next (s.modDie d fun D => D.wantLine line)) ∧
    (r.state = .spoiled → ∀ errs : WordErrs, exec (.memoryReturn c st errs k) s =
      .next (s.returned c st r (List.replicate r.size { byte := 0, poison := true, memErr := true }))) ∧
    ((r.state = .queued ∨ r.state = .waiting ∨ r.state = .remote) → ∀ errs : WordErrs,
      exec (.memoryReturn c st errs k) s = .next s))) ∧
  (∀ (s : State) (c : CellIx) (st : StreamIx) (errs : WordErrs), s.Awake c →
    let x := (s.cell c).stream st
    let w := walkOf x.instrs
    let bad := (s.cell c).storeErrs errs
    -- the words in which the indices of the entry stand, and what their own check bits show
    let stop := (fillEntry w x.base (chExtent x.hdr) (fun _ _ => .inl false) entryFuel x.pos x.off 0 []).2.1
    let ix := s.seeWords (csSeen c) bad ((w.indexWords x.pos stop).filter fun v => (s.cell c).owns 1 (v % 32)) []
    let f := fillEntry w x.base (chExtent x.hdr) ((s.cell c).readIndex bad ix.1) entryFuel x.pos x.off 0 []
    let needs := x.onGather && decide (chSpace x.hdr ≠ 0)
    let may := st.val < 8 ∧ x.armed = true ∧ x.done = false ∧ x.entries < chEntries x.hdr ∧ 0 < (s.cell c).credits st
    (may → (needs = true → (s.cell c).contexts.length + newContexts f.1 ≤ 1024) →
      let s2 := ix.2.modStream c st fun y => { y with asm := y.asm ++ [{ num := y.entries }] }
      let s3 := (f.1.foldl (State.putOne st x.hdr (if x.onGather then 1 else 0) c errs) (s2, ix.1)).1
      exec (.streamEntryStart c st errs) s =
        .next ((s3.modStream c st fun y => { y with pos := f.2.1, off := f.2.2, entries := y.entries + 1 }).settleRead c st)) ∧
    ((¬may ∨ (needs = true ∧ 1024 < (s.cell c).contexts.length + newContexts f.1)) →
      exec (.streamEntryStart c st errs) s = .next s) ∧
    (w.index = none → ix = ([], s)) ∧
    ((∀ v, errOf bad v = .clean) → ix = ([], s)))

/-- HBM turns and weight-cache fills (R121-R127, R419): a turn goes to the next class in rotation and there to the next
owner of its list and the next seat of its rota; while an exam slice holds the pseudo-channel the turn passes. A remote
turn does the remote gateway's oldest block of the pseudo-channel, a snooped one after the host's answer (R315). A fill
whose blocks have been read is installed, unless a covering write came since or a block of it is uncorrectable; one that
is not whole waits. Remote packets at their receiver (R131-R133), outside a switch. A write of the attempt the receiver
is in, to a record that takes it, goes to its die's remote gateway; with its last block written it counts for its
arming, whose arrival tally rises once it is whole. A stale one is counted and discarded; one that no record takes is a
detected error. A read request's block is read in a remote turn and answered with the same TAG; a response gives its
bytes to the request that its TAG names, and one from before the cell's form reset is discarded. Choices of the model in
it: logs 27, 76, 77, 139, 140. -/
def Obligations.TurnsAndRemotePacketsComplete : Prop :=
  ((∀ (s : State) (d : DieIx) (pc : Fin 96),
    let x := look {} (s.die d).chans pc
    let k := x.nextClass (s.shares d)
    let list := s.channelList d pc (k.1 == 0)
    let held := s.examHolds (phyTarget (3 * d + pc / 32) (pc % 32))
    (held = true → exec (.hbmTurn d pc) s = .next s) ∧
    (held = false → k.1 = 2 →
      exec (.hbmTurn d pc) s = .next ((s.modDie d fun D => { D with chans := put {} D.chans pc k.2 }).remoteTurn d pc)) ∧
    (held = false → k.1 = 0 →
      let pos := k.2.readPos
      let o := list.getD (pos % max 1 list.length) 0
      let seat := look 0 k.2.seatPos o % 16
      let next := (pos + 1) % max 1 list.length
      let y : Chan := { k.2 with readPos := next, seatPos := put 0 k.2.seatPos o ((seat + 1) % 16) }
      (o < 24 → exec (.hbmTurn d pc) s =
        .next ((s.modDie d fun D => { D with chans := put {} D.chans pc y }).readTurn d pc (384 * d + 16 * o + seat))) ∧
      (24 ≤ o → exec (.hbmTurn d pc) s =
        .next ((s.modDie d fun D => { D with chans := put {} D.chans pc { k.2 with readPos := next } }).fillTurn d pc))) ∧
    (held = false → k.1 = 1 →
      let pos := k.2.writePos
      let o := list.getD (pos % max 1 list.length) 0
      let seat := look 0 k.2.seatPos o % 16
      let y : Chan := { k.2 with writePos := (pos + 1) % max 1 list.length, seatPos := put 0 k.2.seatPos o ((seat + 1) % 16) }
      o < 24 → exec (.hbmTurn d pc) s =
        .next ((s.modDie d fun D => { D with chans := put {} D.chans pc y }).writeTurn d pc (384 * d + 16 * o + seat)))) ∧
  (∀ (s : State) (d pc : Nat),
    (gateNext pc (s.die d).gateway = none → s.remoteTurn d pc = s) ∧
    (∀ i g j a bs, gateNext pc (s.die d).gateway = some (i, g, j, a, bs) →
      let n := if g.write then bs.length else 64
      (s.cxl.mustSnoop d a n g.write ≠ [] → s.remoteTurn d pc = s.snoopRange d a n g.write) ∧
      (s.cxl.mustSnoop d a n g.write = [] →
        let s1 := s.modDie d fun D => { D with gateway := dropBlock i j D.gateway }
        (g.write = false → s.remoteTurn d pc = s1.answerRead g (s.readHbm d a 64)) ∧
        (g.write = true → 2 ≤ g.todo.length → s.remoteTurn d pc = s1.writeHbm d a bs) ∧
        (g.write = true → g.todo.length ≤ 1 → s.remoteTurn d pc = (s1.writeHbm d a bs).arrived g)))) ∧
  (∀ (s : State) (d : DieIx) (line : Nat) (f : Fill) (errs : WordErrs),
    (s.die d).fills.find? (fun f => decide (f.line = line ∧ f.blocks = 4)) = some f →
    (s.examHolds (wcTarget d (wcSet line / 256)) = true → exec (.weightCacheFill d ⟨line, errs⟩) s = .next s) ∧
    (s.examHolds (wcTarget d (wcSet line / 256)) = false →
      let s1 := [0, 1, 2, 3].foldl (fun t b => t.fillBlock d (line + 64 * b) (errOf errs b)) s
      exec (.weightCacheFill d ⟨line, errs⟩) s = .next (s1.modDie d fun D => { D with
        fills := D.fills.filter fun g => decide (g.line ≠ line)
        wc := if f.stale || [0, 1, 2, 3].any (fun b => decide (errOf errs b = .uncorrectable)) then D.wc else wcInstall D.wc line }))) ∧
  (∀ (s : State) (d a : Nat), s.fillBlock d a .clean = s ∧ s.fillBlock d a .unseen = s ∧
    s.fillBlock d a .corrected = s.hbmCorrected d a ∧ s.fillBlock d a .miscorrected = s.hbmCorrected d a) ∧
  (∀ (s : State) (d : DieIx) (line : Nat) (errs : WordErrs), (∀ f ∈ (s.die d).fills, f.line ≠ line ∨ f.blocks ≠ 4) →
    exec (.weightCacheFill d ⟨line, errs⟩) s = .next s)) ∧
  ((∀ (s : State) (p : PartIx) (pkt : Packet), s.NoSwitch →
    let s1 := s.takeDelivered p fun q => decide (q = pkt)
    let P := s1.part p
    let h := bvOfBytes 128 (pkt.payload.take 16)
    let rrec := fldN h 0 8
    let r := P.image.remotes.getD rrec 0
    let live := fld h 72 32 = P.period.step.setWidth 32 ∧ fld h 104 8 = P.period.attempt ∧ P.state = .running
    ((s.part p).period.waiting.isSome = true → exec (.remoteWritePacket p pkt) s = .next s) ∧
    ((s.part p).period.waiting = none →
      (¬live → exec (.remoteWritePacket p pkt) s = .next (s1.countFabric P.firstPort 0 192 16 1)) ∧
      (live → (bit r 2 = false ∨ fldN r 26 2 ≠ pktDdie pkt.hdr) → exec (.remoteWritePacket p pkt) s =
        .next (s1.detect 0x4002 (dieUnit (pktDdie pkt.hdr)) p rrec (fldN h 0 64))) ∧
      (live → bit r 2 = true → fldN r 26 2 = pktDdie pkt.hdr →
        let g : GatePkt := { part := p, hdr := pkt.hdr, write := true, rhdr := h
                             todo := writeBlocks (pktAddr pkt.hdr) (pkt.payload.drop 16) }
        exec (.remoteWritePacket p pkt) s = .next (if g.todo = [] then s1.arrived g
          else s1.modDie (pktDdie pkt.hdr) fun D => { D with gateway := D.gateway ++ [g] })))) ∧
  (∀ (a : Nat) (bs : List Byte), ((writeBlocks a bs).flatMap Prod.snd) = bs ∧
    ∀ b ∈ writeBlocks a bs, b.2 ≠ [] ∧ b.1 / 64 = (b.1 + b.2.length - 1) / 64) ∧
  (∀ (s : State) (g : GatePkt),
    let P := s.part g.part
    let h := g.rhdr
    let rrec := fldN h 0 8
    let src := pktLsrc g.hdr
    let tag := pktTag g.hdr
    let arm := fldN h 8 16
    let live := fld h 72 32 = P.period.step.setWidth 32 ∧ fld h 104 8 = P.period.attempt
    let l := arrive rrec src tag arm (if bit h 24 then some (fldN h 52 20) else none) P.period.arrivals
    let s1 := s.modPart g.part fun P => { P with period := { P.period with arrivals := l } }
    let whole (a : Arrival) : Prop := a.rrec = rrec ∧ a.src = src ∧ a.tag = tag ∧ a.arm = arm ∧ a.total = some a.got
    (¬live → s.arrived g = s) ∧
    (live → (∃ a ∈ l, whole a) → s.arrived g = s1.addOwn g.part (fld (P.image.remotes.getD rrec 0) 96 14) 1 0) ∧
    (live → (∀ a ∈ l, ¬whole a) → s.arrived g = s1)) ∧
  (∀ (s : State) (p : PartIx) (pkt : Packet) (ecc : Ecc), s.NoSwitch →
    exec (.readRequest p pkt ecc) s = .next ((s.takeDelivered p fun q => decide (q = pkt)).modDie (pktDdie pkt.hdr) fun D =>
      { D with gateway := D.gateway ++
        [{ part := p, hdr := pkt.hdr, write := false, ecc := ecc, todo := [(pktAddr pkt.hdr, [])] }] })) ∧
  (∀ (s : State) (g : GatePkt) (bs : List Byte),
    let d := pktDdie g.hdr
    let a := pktAddr g.hdr
    let q := s.checked g.ecc (bs.map fun b => .of b false) (fun t => t.hbmCorrected d a)
      (fun t => t.detect 0x2004 (dieUnit d) g.part (hbmLoc d a) (stackLocal a))
    s.answerRead g bs = q.2.sendMarked (decide (g.ecc = .uncorrectable)) g.part (pktLsrc g.hdr)
      (dieOf (pktTag g.hdr % 2048)) 2 (pktVc g.hdr) a (pktTag g.hdr) (q.1.map LByte.byte)) ∧
  (∀ (s : State) (p : PartIx) (pkt : Packet), s.NoSwitch →
    let s1 := s.takeDelivered p fun q => decide (q = pkt)
    let tag := pktTag pkt.hdr
    let c := tag % 2048
    let found := (s1.cell c).streams.findSome? fun e =>
      (e.2.reqs.find? fun r => decide (r.state = .remote ∧ r.ctx = tag / 2048 % 1024 ∧ r.blk % 4 = tag / 2097152 % 4)).map
        fun r => (e.1, r)
    (∀ st r, found = some (st, r) → s1.partOf (dieOf c) = some p.val → (s1.cell c).resets.toNat = tag / 8388608 →
      exec (.readResponse p pkt) s = .next (s1.returned c st r (if bit pkt.hdr 60
        then List.replicate r.size { byte := 0, poison := true, memErr := true }
        else ((pkt.payload.drop (r.addr % 64)).take r.size).map fun b => .of b false))) ∧
    ((found = none ∨ s1.partOf (dieOf c) ≠ some p.val ∨ (s1.cell c).resets.toNat ≠ tag / 8388608) →
      exec (.readResponse p pkt) s = .next s1)))

/-- Reductions (R208-R218, R222): a run starts once its bucket is filled, its earlier run done and a run slot free, with
an open to the predecessor, or, for a ring of one member, its result at once; until then nothing happens. What reads or
writes HBM waits while the host records a line of it (R315). Received packets of the run's type are checked first: a
stale or early one is counted and discarded, one that fits no run is a detected error. An open lets the member stream; a partial has this member's contribution added, and goes on, or is
written where it is complete; a final is written and forwarded. A contribution that arrives poisoned stops the run. A
run whose packets have all been accepted and whose result is whole adds to its done tally and asserts shared source 46.
Choices of the model in it: logs 32, 86, 135, 151. -/
def Obligations.ReductionsComplete : Prop :=  (∀ (s : State) (d : DieIx) (kind : Fin 4) (bad : Option (Nat × Ecc)) (p j bn : Nat), s.partOf d = some p → s.nextRun p kind = some (j, bn) →
    let P := s.part p
    let b := P.bucket bn
    let D := s.die d
    let ready := P.state = .running ∧ P.period.isOpen = true ∧ bkDie b = d.val ∧ bkFill b j ≤ (s.tally (fld b 160 14)).toNat ∧
      (D.runs.filter fun r => r.started && r.kind == kind.val).length < 16 ∧ look 0 D.runsDone bn = j
    let g := P.place b
    let r0 := (D.findRun bn j).getD { bucket := bn, run := j, kind := kind }
    let s1 := s.modDie P.lowDie fun L => { L with runPos := alter 0 L.runPos kind (· + 1) }
    -- the elements that the start reads, and its accesses of HBM
    let c := if bkOwnerMode b then 0 else g.pos
    let all : Nat × Nat := if g.n ≤ 1 then (0, bkElems b)
      else if chunkStart b g.n c = g.pos then (chunkLo b g.n c, chunkLen b g.n c) else (0, 0)
    let acc := (d.val, bkBase b + bkSrc b * all.1, bkSrc b * all.2, false) ::
      (if g.n ≤ 1 then [(d.val, bkResult b, bkSrc b * bkElems b, true)] else [])
    (ready → ¬s.Unrecorded acc → exec (.runStart d kind bad) s = .next (s.snooped acc)) ∧
    (ready → s.Unrecorded acc → g.n ≤ 1 →
      let x := s1.contribution p b bn 0 (bkElems b) bad
      ((∀ i, bad = some (i, .uncorrectable) → bkElems b ≤ i) → exec (.runStart d kind bad) s = .next ((x.2.writeResult b 0
        (wireVals (bkWire b) (bkElems b) (wireFirst (bkWire b) 1 (x.1.getD [])))).putRun
          d { r0 with started := true, written := bkElems b })) ∧
      (∀ i, bad = some (i, .uncorrectable) → i < bkElems b →
        exec (.runStart d kind bad) s = .next (x.2.stopRun b { r0 with started := true }))) ∧
    (ready → s.Unrecorded acc → 1 < g.n →
      let s2 := s1.sendRed p b (g.ring.getD ((g.pos + g.n - 1) % g.n) 0)
        (bytesOfBv 16 (redHdr bn j 0 0 0 (bkWire b) 0 0 P.period.step))
      let f := s2.firstChunk p b { r0 with started := true } g bad
      exec (.runStart d kind bad) s = .next (f.2.flushRun p b f.1)) ∧
    (¬ready → exec (.runStart d kind bad) s = .next s)) ∧
  (∀ (s : State) (p : PartIx) (pkt : Packet) (bad : Option (Nat × Ecc)), s.NoSwitch →
    let t := s.takeDelivered p fun q => decide (q = pkt)
    let h := bvOfBytes 128 (pkt.payload.take 16)
    let body := pkt.payload.drop 16
    let c := fldN h 16 12
    let off := fldN h 48 32
    let n := fldN h 80 16
    let cmd : Nat → Instr := fun | 0 => .reductionOpen p pkt | 1 => .reductionPartial p pkt bad | _ => .reductionFinal p pkt
    let tag := pktTag pkt.hdr
    let acc (k : Nat) : List (Nat × Nat × Nat × Bool) := if k = 0 then [] else s.redRanges p pkt k
    (∀ k, k < 3 → ¬s.Unrecorded (acc k) → exec (cmd k) s = .next (s.snooped (acc k))) ∧
    (∀ k, k < 3 → s.Unrecorded (acc k) → fldN h 14 2 = k →
      (t.checkRed p tag h k = .discard → exec (cmd k) s = .next (t.dropRed pkt)) ∧
      (t.checkRed p tag h k = .mismatch → exec (cmd k) s = .next (t.redError p pkt h))) ∧
    (∀ k, k < 3 → fldN h 14 2 ≠ k → exec (cmd k) s = .next s) ∧
    (∀ k b g r, k < 3 → s.Unrecorded (acc k) → fldN h 14 2 = k → t.checkRed p tag h k = .take b g r → r.stopped = true →
      exec (cmd k) s = .next t) ∧
    (∀ b g r, fldN h 14 2 = 0 → t.checkRed p tag h 0 = .take b g r → r.stopped = false →
      exec (.reductionOpen p pkt) s = .next (t.flushRun p b { r with succOpen := true })) ∧
    (∀ b g r, s.Unrecorded (acc 1) → fldN h 14 2 = 1 → t.checkRed p tag h 1 = .take b g r → r.stopped = false →
      let e := chunkLo b g.n c + off
      let x := t.contribution p b r.bucket e n bad
      let clean := ∀ i, bad = some (i, .uncorrectable) → i < e ∨ e + n ≤ i
      let w := wireHop (bkWire b) n body (x.1.getD [])
      let t1 := if w.2 = 0 then x.2 else x.2.countRed (bkDie b) (bkKind b) 32 32 w.2
      let on (type k : Nat) : Nat × List Byte :=
        (n, bytesOfBv 16 (redHdr r.bucket r.run type c k (bkWire b) off n (t.part p).period.step) ++ w.1)
      (∀ i, bad = some (i, .uncorrectable) → e ≤ i → i < e + n →
        exec (.reductionPartial p pkt bad) s = .next (x.2.stopRun b r)) ∧
      (clean → fldN h 28 12 + 1 ≠ g.n → exec (.reductionPartial p pkt bad) s =
        .next (t1.flushRun p b { r with queue := r.queue ++ [on 1 (fldN h 28 12 + 1)] })) ∧
      (clean → fldN h 28 12 + 1 = g.n →
        let t2 := t1.writeResult b e (wireVals (bkWire b) n w.1)
        (bkOwnerMode b = true → exec (.reductionPartial p pkt bad) s = .next (t2.flushRun p b { r with written := r.written + n })) ∧
        (bkOwnerMode b = false → exec (.reductionPartial p pkt bad) s =
          .next (t2.flushRun p b { r with written := r.written + n, queue := r.queue ++ [on 2 0] })))) ∧
    (∀ b g r, s.Unrecorded (acc 2) → fldN h 14 2 = 2 → t.checkRed p tag h 2 = .take b g r → r.stopped = false →
      let t1 := t.writeResult b (chunkLo b g.n c + off) (wireVals (bkWire b) n body)
      (g.pos = (c + g.n - 2) % g.n →
        exec (.reductionFinal p pkt) s = .next (t1.flushRun p b { r with written := r.written + n })) ∧
      (g.pos ≠ (c + g.n - 2) % g.n → exec (.reductionFinal p pkt) s =
        .next (t1.flushRun p b { r with written := r.written + n, queue := r.queue ++ [(n, pkt.payload)] })))) ∧
  (∀ (s : State) (d : DieIx) (b : BucketIx) (p : Nat) (accepted : Bool), s.partOf d = some p →
    let rcd := (s.part p).bucket b
    let whole (r : Run) : Bool := decide (r.bucket = b.val) && s.runComplete p r && (accepted || !s.runSent p r)
    (∀ r, (s.die d).runs.find? whole = some r →
      exec (.runComplete d ⟨b, accepted⟩) s = .next ((((s.modDie d fun D => { D with
        runs := D.runs.filter fun q => !(q.bucket == r.bucket && q.run == r.run)
        runsDone := alter 0 D.runsDone b (· + 1) }).countRed d (bkKind rcd) 0 32 1).addOwn p (fld rcd 216 14) (fldN rcd 232 20)
        0).assertShared 46)) ∧
    ((s.die d).runs.find? whole = none → exec (.runComplete d ⟨b, accepted⟩) s = .next s))

/-! ## The fabric -/

/-- Flits on a unit that is up, in service and not retraining (R231, R233, R234, R249-R251, R254): what FEC decoding
found is counted; a data or idle flit in order and whole is taken, a data flit's chunk to the packet it belongs to; one
whose check fails or that holds a reserved value is discarded and counted, and that and one out of order calls for a
replay; a control flit acknowledges flits, gives back credits and may call for a replay; a flit of another TYPE is not
the command's. A flit slot sends what is due, and after every fifth the pair of codewords on the lanes; after a control
flit that failed, the next one carries its credits again. On any other unit a flit does nothing. Choices of the model in
it: logs 11, 26, 73, 130, 134, 152. -/
def Obligations.FlitsComplete : Prop :=  ∀ (s : State) (i : PortIx) (u : UnitIx) (flit : Flit) (fec : Fec),
    let good := flitCrcOk flit && flitFormOk u flit
    let t := s.countFec i u fec
    (s.unitLive i u = true →
      (good = true → flitType flit = 0 → flitSeq flit = (t.unit i u).rxSeq → exec (.dataFlit i u ⟨flit, fec⟩) s =
        .next ((t.countFabric i u 32 32 1).modUnit i u (LinkUnit.takeData u flit))) ∧
      (good = true → flitType flit = 1 → flitSeq flit = (t.unit i u).rxSeq → exec (.idleFlit i u ⟨flit, fec⟩) s = .next t) ∧
      (good = false →
        let t1 := t.countFabric i u 112 16 1
        let t2 := t1.modUnit i u fun x => { x with nak := true }
        exec (.dataFlit i u ⟨flit, fec⟩) s = .next t2 ∧ exec (.idleFlit i u ⟨flit, fec⟩) s = .next t2 ∧
        exec (.controlFlit i u ⟨flit, fec⟩) s = .next t1) ∧
      (good = true → flitSeq flit ≠ (t.unit i u).rxSeq →
        (flitType flit = 0 → exec (.dataFlit i u ⟨flit, fec⟩) s = .next (t.modUnit i u fun x => { x with nak := true })) ∧
        (flitType flit = 1 → exec (.idleFlit i u ⟨flit, fec⟩) s = .next (t.modUnit i u fun x => { x with nak := true }))) ∧
      (good = true →
        (flitType flit ≠ 0 → exec (.dataFlit i u ⟨flit, fec⟩) s = .next s) ∧
        (flitType flit ≠ 1 → exec (.idleFlit i u ⟨flit, fec⟩) s = .next s) ∧
        (flitType flit ≠ 2 → exec (.controlFlit i u ⟨flit, fec⟩) s = .next s)) ∧
      (good = true → flitType flit = 2 →
        let left (x : LinkUnit) : List SentFlit := ackReplay (fld flit 32 12) x.replay
        let y (x : LinkUnit) : LinkUnit := { x with
          used := (unitChans u).foldl (fun m ch => alter 0 m ch fun n => n - creditOf u flit ch) x.used
          nak := x.nak || decide (flitSeq flit ≠ x.rxSeq) }
        (bit flit 44 = true → exec (.controlFlit i u ⟨flit, fec⟩) s = .next ((t.countFabric i u 128 16 1).modUnit i u fun x =>
          { y x with replay := left x, resend := (left x).map SentFlit.flit })) ∧
        (bit flit 44 = false → exec (.controlFlit i u ⟨flit, fec⟩) s = .next (t.modUnit i u fun x =>
          { y x with replay := left x, resend := x.resend.filter fun f => (left x).any fun e => decide (e.flit = f) }))) ∧
      (∀ lost : Bool,
        let x := s.unit i u
        let r := LinkUnit.nextSlot u (if lost then LinkUnit.retell u x else x)
        let flits := r.2.2.pair ++ [r.1]
        let count (v : State) : State := if r.2.1 then v.countFabric i u 0 32 1 else v
        (flits.length < 5 → exec (.flitSlot i ⟨u, lost⟩) s =
          .next (count ((s.modUnit i u fun _ => { r.2.2 with pair := flits }).emit (.flit i u r.1)))) ∧
        (5 ≤ flits.length → exec (.flitSlot i ⟨u, lost⟩) s =
          .next (count (((s.modUnit i u fun _ => { r.2.2 with pair := [] }).emit (.flit i u r.1)).emit
            (.codewords i u (laneSymbols u flits))))))) ∧
    (s.unitLive i u = false → exec (.dataFlit i u ⟨flit, fec⟩) s = .next s ∧ exec (.idleFlit i u ⟨flit, fec⟩) s = .next s ∧
      exec (.controlFlit i u ⟨flit, fec⟩) s = .next s ∧ ∀ lost, exec (.flitSlot i ⟨u, lost⟩) s = .next s)

/-- The states of a port and of its units (R250-R253): Detect turns into Train when a quad sees a signal, Train into
Verify with the neighbour that the configuration expects, Verify into Up with the quads that pass; a time-out, a wrong
neighbour (notice 0x3002) and a failed check turn it Down. A unit that replays a flit eight times, sees too many bad
codewords, or loses a lane's signal retrains, the escape group turning the port Down; it comes back, or is out of
service (notice 0x3003). In any other state these events do nothing. Choices of the model in it: logs 26, 75. -/
def Obligations.PortsAndUnitsChangeState : Prop :=  (∀ (s : State) (i : PortIx) (quads : BitVec 8),
    ((s.port i).state = .detect → quads ≠ 0 → exec (.detectSignal i quads) s = .next (s.portTo i .train)) ∧
    ((s.port i).state = .detect → exec (.detectTimeout i) s = .next (s.portDown i)) ∧
    ((s.port i).state ≠ .detect → exec (.detectSignal i quads) s = .next s ∧ exec (.detectTimeout i) s = .next s)) ∧
  (∀ (s : State) (i : PortIx) (nb : Neighbour), (s.port i).state = .train →
    let s1 := s.modPort i fun p => { p with nb := some nb }
    ((nb.x.toNat, nb.y.toNat) = s.fabric.neighbour i → nb.port.val = facing i →
      exec (.trainComplete i nb) s = .next (s1.portTo i .verify)) ∧
    (¬((nb.x.toNat, nb.y.toNat) = s.fabric.neighbour i ∧ nb.port.val = facing i) → exec (.trainComplete i nb) s =
      .next ((s1.notice (s.portEvent 0x3002 i i (nb.x.toNat + nb.y.toNat * 64))).portDown i)) ∧
    exec (.trainTimeout i) s = .next (s.portDown i)) ∧
  (∀ (s : State) (i : PortIx) (nb : Neighbour), (s.port i).state ≠ .train →
    exec (.trainComplete i nb) s = .next s ∧ exec (.trainTimeout i) s = .next s) ∧
  (∀ (s : State) (i : PortIx) (pass : BitVec 9),
    ((s.port i).state = .verify → bit pass 8 = true → fldN pass 0 8 ≠ 0 → exec (.verifyComplete i pass) s =
      .next (((List.range 9).foldl (fun t u => t.modUnit i u fun _ => { inService := bit pass u }) s).portTo i .up)) ∧
    ((s.port i).state = .verify → (bit pass 8 = false ∨ fldN pass 0 8 = 0) →
      exec (.verifyComplete i pass) s = .next (s.portDown i)) ∧
    ((s.port i).state ≠ .verify → exec (.verifyComplete i pass) s = .next s)) ∧
  (∀ (s : State) (i : PortIx) (u : UnitIx), s.unitLive i u = true →
    ((∃ e ∈ (s.unit i u).replay, 8 ≤ e.replays) → ∀ fec, exec (.replayLimit i u fec) s = .next (s.retrainUnit i u)) ∧
    (16 < (s.unit i u).badWords → exec (.replayLimit i u true) s = .next (s.retrainUnit i u)) ∧
    ((∀ e ∈ (s.unit i u).replay, e.replays < 8) → exec (.replayLimit i u false) s = .next s ∧
      ((s.unit i u).badWords ≤ 16 → exec (.replayLimit i u true) s = .next s))) ∧
  (∀ (s : State) (i : PortIx) (u : UnitIx) (fec : Bool), s.unitLive i u = false → exec (.replayLimit i u fec) s = .next s) ∧
  (∀ (s : State) (i : PortIx) (lane : Fin 36), exec (.laneSignalLoss i lane) s =
    .next (if s.unitLive i (lane.val / 4) then s.retrainUnit i (lane.val / 4) else s)) ∧
  (∀ (s : State) (i : PortIx) (u : UnitIx), (s.port i).state = .up → (s.unit i u).retrain = true →
    exec (.retrainComplete i u true) s =
      .next (s.modUnit i u fun x => { x with retrain := false, badWords := 0, resend := x.replay.map SentFlit.flit }) ∧
    exec (.retrainComplete i u false) s = .next ((s.modUnit i u fun x => { x with retrain := false, inService := false }).notice
      (s.portEvent 0x3003 i (i.val + u.val * 4) 0))) ∧
  (∀ (s : State) (i : PortIx) (u : UnitIx) (ok : Bool), ((s.port i).state ≠ .up ∨ (s.unit i u).retrain = false) →
    exec (.retrainComplete i u ok) s = .next s) ∧
  (∀ (s : State) (i u : Nat), let t := s.countFabric i u 144 16 1
    s.retrainUnit i u = if u = 8 then t.portDown i else t.modUnit i u fun x => { x with retrain := true }) ∧
  (∀ (s : State) (i : Nat), (s.portDown i).hub.reports.length = s.hub.reports.length + 1)

/-- Packets on their way (R205, R237, R243-R249, R251, R308): of the packets at the heads of an input, one of each
channel, the oldest that can move goes where its route says, which by a quad is only at its turn; one that waits for an
output may enter the escape class instead; a multicast copy goes on by the same rules once its packet has been delivered
here, and one whose next device is not seated is dropped and counted; a packet on a mirror bridge takes the bridge's
path; a queued packet leaves as flits once the far buffer has room for it. A packet past the hop limit is discarded,
counted and reported. One that has no output free waits, and nothing changes. Choices of the model in it: logs 72, 74,
134, 153. -/
def Obligations.PacketsMove : Prop :=  (∀ (s : State) (inp : Input), exec (.packetRoute inp) s = .next (s.moveFirst inp)) ∧
  (∀ s : State, exec .multicastRelay s = .next (s.dropRelays.moveFirst .relay)) ∧
  (∀ (s : State) (inp : Input),
    (∀ pre c post, s.candidates inp = pre ++ c :: post → (∀ d ∈ pre, s.move inp d = .wait) → s.move inp c ≠ .wait →
      s.moveFirst inp = s.carry inp c (s.move inp c)) ∧
    ((∀ c ∈ s.candidates inp, s.move inp c = .wait) → s.moveFirst inp = s)) ∧
  (∀ (s : State) (inp : Input) (c : Cand),
    let r := s.route c.src c.pkt.cls c.pkt.pkt
    let w := inputUnit s c inp
    (∀ i u cls esc, r = .out i u cls esc → s.hasTurn inp c i u = true → s.move inp c = r ∧
      s.carry inp c r = s.passTurn inp c i u (c.taken.toOutput i u cls esc c.pkt.pkt)) ∧
    (∀ i u cls esc, r = .out i u cls esc → s.hasTurn inp c i u = false → s.move inp c = .wait) ∧
    (r = .deliver → s.move inp c = r ∧ s.carry inp c r = c.taken.deliver c.src c.pkt.cls c.pkt.pkt) ∧
    (r = .discard → s.move inp c = r ∧ s.carry inp c r = c.taken.countFabric w.1 w.2 192 16 1) ∧
    (r = .hopLimit → s.move inp c = r ∧ s.carry inp c r =
      (c.taken.countFabric w.1 w.2 192 16 1).detect 0x3004 (dieUnit w.1) ((s.partOf w.1).getD 0) w.1
        (fldN c.pkt.pkt.hdr 16 6 + fldN c.pkt.pkt.hdr 22 6 * 64)) ∧
    ((pktDx c.pkt.pkt.hdr ≠ s.fabric.ownX ∨ pktDy c.pkt.pkt.hdr ≠ s.fabric.ownY) → 128 ≤ pktHops c.pkt.pkt.hdr → r = .hopLimit)) ∧
  (∀ (s : State) (i : PortIx) (u : UnitIx), ∀ c ∈ s.candidates (.unit i u), c.src = .transit i ∧ c.pkt ∈ (s.unit i u).inq) ∧
  (∀ s : State, ∀ c ∈ s.candidates .relay, ∃ r ∈ s.fabric.relays, (∀ e ∈ s.fabric.delivered, e.2 ≠ r.pkt) ∧
    s.relayCopy r = some c.pkt.pkt ∧ c.pkt.cls = r.cls ∧ c.src = .transit r.port) ∧
  (∀ (s : State) (pre : List Relay) (r : Relay) (post : List Relay), s.fabric.relays = pre ++ r :: post →
    s.relayCopy r = none → (∀ e ∈ s.fabric.delivered, e.2 ≠ r.pkt) →
    (∀ q ∈ pre, s.relayCopy q ≠ none ∨ ∃ e ∈ s.fabric.delivered, e.2 = q.pkt) →
    s.dropRelays = State.countFabric { s with fabric := { s.fabric with relays := pre ++ post } } r.port 0 208 16 1) ∧
  (∀ s : State, (∀ q ∈ s.fabric.relays, s.relayCopy q ≠ none ∨ ∃ e ∈ s.fabric.delivered, e.2 = q.pkt) → s.dropRelays = s) ∧
  (∀ (s : State) (i : PortIx) (u : UnitIx) (vc : Fin 8),
    let mine (o : OutPacket) : Bool := decide ((if u.val = 8 then o.cls.toNat else pktVc o.pkt.hdr) = vc.val)
    (∀ o rest, takeFirst mine (s.unit i u).outq = some (o, rest) →
      let n := flitCount o.pkt
      let room := look 0 (s.unit i u).used vc.val + n ≤ unitBuffer u
      let s1 := s.modUnit i u fun x => { x with
        outq := rest, used := alter 0 x.used vc.val (· + n), txq := x.txq ++ packetFlits u vc.val o.pkt }
      (s.unitLive i u = true → room → exec (.packetSend i u vc) s =
        .next (if u.val = 8 then s1.countFabric i u 160 32 1 else s1)) ∧
      (s.unitLive i u = false ∨ ¬room → exec (.packetSend i u vc) s = .next s)) ∧
    ((∀ o ∈ (s.unit i u).outq, mine o = false) → exec (.packetSend i u vc) s = .next s)) ∧
  (∀ (s : State) (inp : Input),
    (∀ pre c post i u cls esc, s.candidates inp = pre ++ c :: post → (∀ d ∈ pre, s.escapeOf d = none) →
      s.escapeOf c = some (i, u, cls, esc) →
      let q := ((List.range 8).find? fun q => decide (s.fabric.owner i q = c.src.code i)).getD 0
      exec (.packetEscape inp) s = .next ((c.taken.toOutput i u cls esc c.pkt.pkt).countFabric i q 160 32 1)) ∧
    ((∀ c ∈ s.candidates inp, s.escapeOf c = none) → exec (.packetEscape inp) s = .next s)) ∧
  (∀ (s : State) (c : Cand) (i u : Nat) (cls esc : Bool), s.escapeOf c = some (i, u, cls, esc) ↔
    (pktEsc c.pkt.pkt.hdr = false ∧ s.route c.src c.pkt.cls c.pkt.pkt = .wait ∧
      s.escapeRoute c.src c.pkt.cls c.pkt.pkt.hdr = .out i u cls esc)) ∧
  (∀ (s : State) (i : PortIx) (u : UnitIx),
    (∀ pre c post j v cls esc, s.candidates (.unit i u) = pre ++ c :: post → (∀ d ∈ pre, s.bridgeOf i d = none) →
      s.route c.src c.pkt.cls c.pkt.pkt = .out j v cls esc → pktKind c.pkt.pkt.hdr = 4 → bridgePath i j ≠ [] →
      let s1 := c.taken.toOutput j v cls esc c.pkt.pkt
      exec (.mirrorBridgeWait i u) s = .next { s1 with fabric := { s1.fabric with
        bridges := (bridgePath i j).foldl (fun m b => alter 0 m b (· + 1)) s1.fabric.bridges } }) ∧
    ((∀ c ∈ s.candidates (.unit i u), s.bridgeOf i c = none) → exec (.mirrorBridgeWait i u) s = .next s))

/-! ## Periods, bells, the lodestar -/

/-- Control packets that a partition does not take (R27, R258, R369): one of reserved type, an older epoch or an earlier
attempt is admitted, discarded and counted, and has no other effect; one that comes during a firmware switch is admitted
then and waits for its end; one of another type is not this command's. A choice of the model in it: log 111. -/
def Obligations.StaleControlPacketsAreCounted : Prop :=  ∀ (s : State) (p : PartIx) (c : Control),
    let cmds : List (Nat × Nat × Instr) := [(1, 128 + p.val, .stepBell p c), (2, 128 + p.val, .holdBell p c),
      (3, 128 + p.val, .restartBell p c), (4, 128 + p.val, .haltBell p c), (5, 999, .beacon p c),
      (9, 999, .holdAnswer p c 0), (0x0A, 999, .slowNotice p c), (0x0B, 38, .troubleNotice p c), (0x0C, 999, .claim p c),
      (0x10, 69, .mirrorAcknowledge p c), (0x11, 39, .chartUpdate p c), (0x12, 39, .chartCommit p c),
      (0x13, 39, .chartAcknowledge p c), (0x15, 39, .seatReady p c), (0x16, 39, .refillRequest p c),
      (0x17, 39, .refillDone p c), (0x18, 39, .waypointSealed p c), (0x19, 39, .waypointWhole p c),
      (0x1A, 39, .restoreOrder p c), (0x1B, 39, .restoreDone p c), (0x1C, 39, .fenceNotice p c)]
    ∀ e ∈ cmds,
      (s.NoSwitch → reservedCtype c = true → exec e.2.2 s = .next ((s.receiveCtl p c false 999).2.dropCtl p)) ∧
      (s.NoSwitch → reservedCtype c = false → ctype c = e.1 → (s.part p).staleCtl c = true →
        exec e.2.2 s = .next ((s.receiveCtl p c false e.2.1).2.dropCtl p)) ∧
      (s.fw.stage = .starting → (reservedCtype c = true ∨ ctype c = e.1) →
        exec e.2.2 s = .next (s.holdOver e.2.2 .vc1 (if reservedCtype c then 999 else e.2.1))) ∧
      (ctype c ≠ e.1 → reservedCtype c = false → exec e.2.2 s = .next s)

/-- The bells (R255-R262, R267, R275): a step bell and a restart bell begin the attempt that they name, the restart bell
with the forms reset, the mirror's unacknowledged entries due again and the step's inputs asked for again; a bell of an attempt already begun only restarts
the watch, as a beacon does; a halt bell stops the partition's work and leaves it Halted; a hold bell is answered with
the partition's status, the seats that it waits for, and where its period is in its drop, an expected time that the
manual leaves open (log 6). Choices of the model in it: logs 39, 87, 88, 92. -/
def Obligations.BellsComplete : Prop :=  ∀ (s : State) (p : PartIx) (c : Control),
    let key : Nat := if ctype c = 5 then 999 else 128 + p.val
    let r := s.receiveCtl p c true key
    let t := r.2
    let P := t.part p
    let fresh := (P.state = .starting ∨ P.state = .running) ∧ P.inAttempt c = false
    let heard := t.modPart p fun P => { P with watch := P.watch.heard true c }
    (s.TakesCtl p 1 c → (fresh → exec (.stepBell p c) s = .next (t.bellIn p c r.1)) ∧
      (¬fresh → exec (.stepBell p c) s = .next heard)) ∧
    (s.TakesCtl p 3 c →
      (fresh → exec (.restartBell p c) s = .next ((((t.resetForms p).bellIn p c r.1).modPart p fun P =>
        let m := P.mirror
        { P.rereadInputs (ctlStep c) with mirror := { m with
          written := m.unacked.foldl (fun l i => insNat i l) m.written, unacked := [], sent := none, acked := none } }).askFor p
            (ctlStep c))) ∧
      (¬fresh → exec (.restartBell p c) s = .next heard)) ∧
    (s.TakesCtl p 4 c →
      ((P.state = .starting ∨ P.state = .running) → exec (.haltBell p c) s =
        .next (((t.stopWalks p).modPart p fun P => { P with
          period := { P.period with waiting := none, isOpen := false }
          lode := { P.lode with restores := [] }
          watch := { P.watch.heard true c with running := false } }).setPartState p .halted)) ∧
      (¬(P.state = .starting ∨ P.state = .running) → exec (.haltBell p c) s = .next t)) ∧
    (s.TakesCtl p 5 c → exec (.beacon p c) s = .next (t.modPart p fun P => { P with watch := P.watch.heard false c })) ∧
    (s.TakesCtl p 2 c →
      ((heard.part p).state ≠ .running → exec (.holdBell p c) s = .next heard) ∧
      ((heard.part p).state = .running →
        let st := heard.holdStatus p
        let seat (l : List Nat) (i : Nat) : Nat := l.getD i 0xFFF * 2 ^ (12 * i)
        let seats (l : List Nat) : Nat := seat l 0 + seat l 1 + seat l 2 + seat l 3
        (st ≠ 1 → st ≠ 2 → st ≠ 4 → exec (.holdBell p c) s =
          .next (heard.sendCtl p (ctlSeat c) (heard.ownCtl p 9 st (seats []) 0))) ∧
        (st = 1 → exec (.holdBell p c) s =
          .next (heard.sendCtl p (ctlSeat c) (heard.ownCtl p 9 1 (seats (heard.blockers p)) 0))) ∧
        (st = 2 → let u := heard.sendDeadlock p r.1
          exec (.holdBell p c) s = .next (u.sendCtl p (ctlSeat c) (u.ownCtl p 9 2 (seats []) 0))) ∧
        (st = 4 → let f := (heard.modPart p fun P => { P with period := { P.period with saidDropped := true } }).fresh
          exec (.holdBell p c) s =
            .next (f.2.sendCtl p (ctlSeat c) (f.2.ownCtl p 9 4 (seats []) (f.1.toNat % 2 ^ 32))))))

/-- A step period (R137, R151, R260, R289, R295): a bell that waits starts it once the device may, with every tally at
its start value, tally 0x000 raised, every sequencer at its chain's start and the signals of the inputs that are in
place; it closes once the work is done, after its update has been sent and acknowledged (none in single-device
operation); the update waits while the host records a line that it reads (R315), and the close for the digest of the
next step's inputs. Otherwise it waits. Choices of the model in it: logs 33, 78, 89, 143. -/
def Obligations.PeriodsOpenAndClose : Prop :=  (∀ (s : State) (p : PartIx) (w : BitVec 64 × BitVec 8), (s.part p).period.waiting = some w → s.mayStart (s.part p) = true →
    let P := s.part p
    let s1 := P.dieList.foldl (fun t d => t.modDie d fun D =>
      { D with tallies := put 0 (startTallies P.period.carried d) 0 1 }) s
    let s2 := P.forms.foldl (fun t r => r.cellList.foldl (fun u c => u.modCell c (Cell.startWalk r)) t) s1
    let s3 := s2.modPart p fun P => { P with period := { P.period with
      waiting := none, isOpen := true, closed := false
      signals := [], counts := [], scalars := [], arrivals := [], clamped := [], rotas := [], hops := [] } }
    exec (.periodStart p) s = .next (s3.signalInputs p (P.inputsReady w.1))) ∧
  (∀ (s : State) (p : PartIx), ((s.part p).period.waiting = none ∨ s.mayStart (s.part p) = false) →
    exec (.periodStart p) s = .next s) ∧
  (∀ (s : State) (p : PartIx),
    let P := s.part p
    let t := if P.period.versions then s
      else (s.resetVersions p).modPart p fun P => { P with period := { P.period with versions := true } }
    P.state = .running → P.period.isOpen = true → P.period.dropped = false → s.workDone p = true →
    (t.headEntry p = none → exec (.periodClose p) s = .next t) ∧
    (∀ e, t.headEntry p = some e →
      let acc := P.updateEntries.map fun i => (i.2.1, i.2.2.1, i.2.2.2, false)
      (P.image.single = true → exec (.periodClose p) s = .next (t.closeNow p e)) ∧
      (P.image.single = false → P.mirror.sent ≠ some P.period.step →
        (t.Unrecorded acc → exec (.periodClose p) s = .next (t.sendUpdate p e)) ∧
        (¬t.Unrecorded acc → exec (.periodClose p) s = .next (t.snooped acc))) ∧
      (P.image.single = false → P.mirror.sent = some P.period.step → P.mirror.acked = some P.period.step →
        exec (.periodClose p) s = .next (t.closeNow p e)) ∧
      (P.image.single = false → P.mirror.sent = some P.period.step → P.mirror.acked ≠ some P.period.step →
        exec (.periodClose p) s = .next t))) ∧
  (∀ (s : State) (p : PartIx), ((s.part p).state ≠ .running ∨ (s.part p).period.isOpen = false ∨
    (s.part p).period.dropped = true ∨ s.workDone p = false) → exec (.periodClose p) s = .next s)

/-- Tokens, answers and paces (R261-R266): a member's token joins its row's at the relay, which sends the row's token
when the row is whole; a row's token counts each member of its row; an answer to a hold bell is recorded with the seats
that it names; a slow notice sets the sender's pace; the pace that the form benches' rails and the dies' hottest
junctions give, where it has changed by 32 or more after a millisecond, is sent to the lodestar. A token of another attempt, and one that reaches a member that is not the lodestar, change nothing
more. The lodestar's timers (R262-R270): patience over while collecting turns to Holding; the answer window and the
examination allowance over while holding end the hold; the beacon timer cascades a beacon with the lodestar's state
while it holds or recovers; a first step that does not come halts the job. On any other member, and in any other state,
a timer does nothing. Choices of the model in it: logs 91, 106, 145. -/
def Obligations.LodestarCompletes : Prop :=
  ((∀ (s : State) (p : PartIx) (c : Control), s.TakesCtl p 8 c → bit (arg1 c) 0 = false →
    let t := (s.receiveCtl p c false 999).2
    let P := t.part p
    let mask := P.watch.relayed ||| arg0 c
    let u := t.modPart p fun P => { P with watch := { P.watch with relayed := mask } }
    let whole := (P.members.filter fun m => decide (m / 64 = P.seat.toNat / 64)).all fun m => bit mask (m % 64)
    (P.inAttempt c = false → exec (.memberToken p c) s = .next t) ∧
    (P.inAttempt c = true → whole = false → exec (.memberToken p c) s = .next u) ∧
    (P.inAttempt c = true → whole = true → exec (.memberToken p c) s =
      .next (u.sendCtl p (P.watch.lodestar.getD 0) (u.ownCtl p 8 mask.toNat 1 0)))) ∧
  (∀ (s : State) (p : PartIx) (c : Control) (us : Nat), s.NoSwitch →
    (bit (arg1 c) 0 = true → exec (.memberToken p c) s = .next s) ∧
    (bit (arg1 c) 0 = false → exec (.rowToken p c us) s = .next s)) ∧
  (∀ (s : State) (p : PartIx) (c : Control) (us : Nat), s.TakesCtl p 8 c → bit (arg1 c) 0 = true →
    let t := (s.receiveCtl p c false 999).2
    let mine := (t.part p).isLode && (t.part p).lode.forStep c
    let row := (List.range 64).filter fun x => bit (arg0 c) x
    (mine = true → exec (.rowToken p c us) s = .next ((t.modLode p fun L =>
      { L with tokens := row.foldl (fun l x => insNat (64 * (ctlSeat c / 64) + x) l) L.tokens }).holdEnd p us)) ∧
    (mine = false → exec (.rowToken p c us) s = .next t)) ∧
  (∀ (s : State) (p : PartIx) (c : Control) (us : Nat), s.TakesCtl p 9 c →
    let t := (s.receiveCtl p c false 999).2
    let P := t.part p
    let mine := P.isLode && P.lode.forStep c && decide (P.lode.state = .holding)
    let blocks := ((List.range 4).map fun i => fldN (arg1 c) (12 * i) 12).filter fun b => decide (b ≠ 0xFFF)
    (mine = true → exec (.holdAnswer p c us) s = .next ((t.modLode p fun L =>
      { L with answers := recordAnswer (ctlSeat c) (fldN (arg0 c) 0 3) blocks L.answers }).holdEnd p us)) ∧
    (mine = false → exec (.holdAnswer p c us) s = .next t)) ∧
  (∀ (s : State) (p : PartIx) (c : Control), s.TakesCtl p 10 c →
    let t := ((s.receiveCtl p c false 999).2).modLode p fun L =>
      { L with paces := put 1024 L.paces (ctlSeat c) (max 1 (min 1024 (fldN (arg0 c) 0 11))) }
    exec (.slowNotice p c) s = .next (t.modPart p fun P => { P with lode := { P.lode with
      patience := if P.lode.state = .collecting then max P.lode.patience P.patience else P.lode.patience } })) ∧
  (∀ (s : State) (p : PartIx) (tj : BitVec 64) (ms : Bool),
    let P := s.part p
    let n := paceOf (s.railsOf P.formBenches) tj
    let far := n + 32 ≤ P.watch.pace ∨ P.watch.pace + 32 ≤ n
    (∀ l, P.watch.lodestar = some l → ms = true → far →
      let s1 := (s.modPart p fun P => { P with watch := { P.watch with pace := n } }).assertAt 3 5
      exec (.paceChange p tj ms) s = .next (s1.sendCtl p l (s1.ownCtl p 10 n 0 0))) ∧
    ((ms = false ∨ ¬far ∨ P.watch.lodestar = none) → exec (.paceChange p tj ms) s = .next s))) ∧
  (∀ (s : State) (p : PartIx),
    let L := (s.part p).lode
    ((s.part p).isLode = true →
      (L.state = .collecting → exec (.patienceExpiry p) s = .next (s.timer.hold p 0 0)) ∧
      (L.state = .holding →
        exec (.answerWindowExpiry p) s = .next ((s.timer.modLode p fun L => { L with windowOver := true }).holdEnd p 0) ∧
        exec (.examinationAllowanceExpiry p) s =
          .next ((s.timer.modLode p fun L => { L with windowOver := true, allowOver := true }).holdEnd p 0)) ∧
      ((L.state = .holding ∨ L.state = .deciding) →
        exec (.beaconTimer p) s = .next (s.cascade p (s.lodeCtl p 5 (1 + L.named * 2 ^ 16) 0))) ∧
      (L.state = .recovering → exec (.beaconTimer p) s = .next (s.cascade p (s.lodeCtl p 5 (2 + L.named * 2 ^ 16) 0))) ∧
      (L.firstStep.isSome = true → exec (.firstStepTimeout p) s =
        .next (((s.timer.haltJob p 1).modLode p fun L => { L with firstStep := none }).stuckStep p))) ∧
    (((s.part p).isLode = false ∨ L.state = .idle ∧ L.firstStep = none) →
      exec (.patienceExpiry p) s = .next s ∧ exec (.answerWindowExpiry p) s = .next s ∧
      exec (.examinationAllowanceExpiry p) s = .next s ∧ exec (.beaconTimer p) s = .next s ∧
      exec (.firstStepTimeout p) s = .next s))

/-- Losing and taking the lodestar's part (R262, R270, R274, R275): a trouble notice makes the collecting lodestar hold
and the recovering one recover, and makes the first successor take over for a lodestar that it names; a claim of a
higher epoch, or of the same epoch by a lower seat, is followed; a watch that runs out, on a member of the succession,
is followed by its claim. A choice of the model in it: log 34. -/
def Obligations.TroubleAndTakeoverComplete : Prop :=  (∀ (s : State) (p : PartIx) (c : Control), s.TakesCtl p 11 c →
    let t := (s.receiveCtl p c false 38).2
    let P := t.part p
    let seat := fldN (arg0 c) 0 12
    let reason := fldN (arg0 c) 16 16
    (P.isLode = true → P.lode.state = .collecting → P.lode.forStep c = true →
      exec (.troubleNotice p c) s = .next (t.hold p 1 seat)) ∧
    (P.isLode = true → P.lode.state = .collecting → P.lode.forStep c = false → exec (.troubleNotice p c) s = .next t) ∧
    (P.isLode = true → P.lode.state = .recovering → reason = 0x7005 → P.lode.phase = .restore →
      exec (.troubleNotice p c) s = .next ((t.haltJob p 2).stuckStep p)) ∧
    (P.isLode = true → P.lode.state = .recovering → reason = 0x7005 → P.lode.phase ≠ .restore →
      let u := t.modLode p fun L => { L with late := L.late.map fun l => if l.seat = seat then { l with lost := true } else l }
      exec (.troubleNotice p c) s = .next (if P.lode.phase = .refill then u.orderRestore p else u)) ∧
    (P.isLode = true → P.lode.state = .recovering → reason ≠ 0x7005 →
      exec (.troubleNotice p c) s = .next (if seat ≠ ctlSeat c ∧ seat ≠ P.seat.toNat ∧ (seatState (P.chart.entry seat) = 1 ∨
        ∃ l ∈ P.lode.late, l.seat = seat ∧ l.reserve.isSome = true) then t.recover p [seat] [] else t)) ∧
    (P.isLode = true → P.lode.state ≠ .collecting → P.lode.state ≠ .recovering → exec (.troubleNotice p c) s = .next t) ∧
    (P.isLode = false → P.watch.lodestar = some seat → P.rank = 1 → exec (.troubleNotice p c) s = .next (t.takeOver p)) ∧
    (P.isLode = false → (P.watch.lodestar ≠ some seat ∨ P.rank ≠ 1) → exec (.troubleNotice p c) s = .next t)) ∧
  (∀ (s : State) (p : PartIx) (c : Control), s.TakesCtl p 12 c →
    let t := (s.receiveCtl p c true 999).2
    let P := t.part p
    let better := P.watch.epoch < ctlEpoch c ∨ P.watch.epoch = ctlEpoch c ∧ (∀ l ∈ P.watch.lodestar, ctlSeat c < l)
    let u := t.modPart p fun P => { P with
      watch := { P.watch with epoch := ctlEpoch c, lodestar := some (ctlSeat c), expired := false }
      lode := { P.lode with state := .idle, phase := .none, late := [] } }
    (better → P.refilling = false → exec (.claim p c) s = .next u) ∧
    (better → P.refilling = true → exec (.claim p c) s =
      .next (u.sendCtl p P.desk (u.ownCtl p 0x16 P.seat.toNat (P.period.step - 1).toNat 0))) ∧
    (¬better → exec (.claim p c) s = .next t)) ∧
  (∀ (s : State) (p : PartIx),
    ((s.part p).watch.running = true → exec (.watchExpiry p) s =
      .next (s.timer.modPart p fun P => { P with watch := { P.watch with expired := true } })) ∧
    ((s.part p).watch.running = false → exec (.watchExpiry p) s = .next s) ∧
    ((s.part p).watch.expired = true → 1 ≤ (s.part p).rank → (s.part p).image.single = false →
      exec (.takeover p) s = .next (s.timer.takeOver p)) ∧
    (((s.part p).watch.expired = false ∨ (s.part p).rank = 0 ∨ (s.part p).image.single = true) →
      exec (.takeover p) s = .next s))

/-! ## Deskmates, recovery, waypoints -/

/-- The mirror (R287-R292, R295): a part of an update is logged, and its commit packet noted (clerk 2's source 1), while
a log may be written; the body is written when all has come, and only then; a stale one is discarded and counted. The
deskmate's acknowledgement of the update sent lets the period close. A report of an invalid body makes the next update a
full one. A scrub still under way when its next period begins is late, and its position stays; a bad block that it finds
makes the body invalid, and the mirrored seat is told. Refilling a seat (R291, R293, R298-R303): the deskmate streams
its body, at once or once it is applied; a packet of it is written where its entry says, after the host's answer for a
line that it records, or joins the journal; the seat that has it all adopts the journal and says that it is done.
Choices of the model in it: logs 14, 36, 93, 144. -/
def Obligations.DeskmatesComplete : Prop :=
  ((∀ (s : State) (p : PartIx) (pkt : Packet), s.NoSwitch → pktKind pkt.hdr = 4 →
    let h := mirrorHdrOf pkt
    let m := (s.part p).mirror
    let t := s.takePkt p pkt
    (mhCommit h = false → m.stale h = false → m.accepts = true → exec (.mirrorPacket p pkt) s =
      .next ((t.modMirror p (Mirror.logPacket h (pkt.payload.drop 16))).tryCommit p (pktLsrc pkt.hdr))) ∧
    (mhCommit h = true → m.stale h = false → m.accepts = true → exec (.mirrorCommit p pkt) s =
      .next (((t.assertAt 2 1).modMirror p fun m => { m.logPacket h [] with commit := some (mhOff h) }).tryCommit p
        (pktLsrc pkt.hdr))) ∧
    (m.stale h = true → exec (if mhCommit h then .mirrorCommit p pkt else .mirrorPacket p pkt) s = .next (t.dropCtl p)) ∧
    (m.stale h = false → m.accepts = false →
      exec (.mirrorPacket p pkt) s = .next s ∧ exec (.mirrorCommit p pkt) s = .next s)) ∧
  (∀ (s : State) (p : PartIx),
    let P := s.part p
    let t := s.modMirror p fun m => { m.applyLog with copying := P.waypointStep (m.committed.getD 0) }
    (P.mirror.applying = true → P.mirror.refillTo = none → exec (.mirrorApplyComplete p) s = .next t) ∧
    (P.mirror.applying = true → ∀ r, P.mirror.refillTo = some r →
      exec (.mirrorApplyComplete p) s = .next (t.streamBody p r.1 r.2)) ∧
    (P.mirror.applying = false → exec (.mirrorApplyComplete p) s = .next s)) ∧
  (∀ (s : State) (p : PartIx) (c : Control), s.TakesCtl p 0x10 c →
    let t := (s.receiveCtl p c false 69).2
    let P := t.part p
    let mine := ctlSeat c = P.desk ∧ P.mirror.sent = some (ctlStep c) ∧ ctlAttempt c = P.period.attempt ∧
      fldN (arg0 c) 0 32 = P.mirror.sentBytes % 2 ^ 32
    (mine → exec (.mirrorAcknowledge p c) s = .next (t.modMirror p fun m => { m with
      acked := some (ctlStep c), unacked := []
      fullDue := m.fullDue && !m.sentFull, exposed := m.exposed && !m.sentFull })) ∧
    (¬mine → exec (.mirrorAcknowledge p c) s = .next t)) ∧
  (∀ (s : State) (p : PartIx),
    exec (.bodyInvalidReport p) s = .next (s.modMirror p fun m => { m with fullDue := true, exposed := true }) ∧
    ((s.part p).mirror.copying = true → exec (.waypointCopyComplete p) s = .next (s.modMirror p fun m => { m with
      copying := false, staged := some (m.committed.getD 0, (s.part p).waypointBytes), streaming := false })) ∧
    ((s.part p).mirror.copying = false → exec (.waypointCopyComplete p) s = .next s)) ∧
  (∀ (s : State) (bad : Option BadBlock) (finishes : Bool),
    let t := ((if s.hub.services.scrubOpen then s.countLate 4 else s).servicePeriod 4 73).modServices fun v =>
      { v with scrubOpen := !finishes, scrubPos := if finishes then v.scrubPos + 1 else v.scrubPos }
    (bad = none → exec (.scrubTimer ⟨bad, finishes⟩) s = .next t) ∧
    (∀ b, bad = some b →
      let u := (t.modMirror b.part fun m => { m with bodyValid := false }).notice
        { reason := 0x2005, unit := dieUnit (t.part b.part).lowDie, part := b.part, loc := b.loc, detail := b.detail }
      ((u.part b.part).mirroredSeat = none → exec (.scrubTimer ⟨bad, finishes⟩) s = .next u) ∧
      (∀ q, (u.part b.part).mirroredSeat = some q →
        exec (.scrubTimer ⟨bad, finishes⟩) s = .next (u.emit (.bodyInvalid b.part q)))))) ∧
  ((∀ (s : State) (p : PartIx) (c : Control), s.TakesCtl p 0x16 c →
    let t := (s.receiveCtl p c false 39).2.assertAt 2 6
    let seat := fldN (arg0 c) 0 12
    ((t.part p).mirror.applying = true → exec (.refillRequest p c) s =
      .next (t.modMirror p fun m => { m with refillTo := some (seat, arg1 c) })) ∧
    ((t.part p).mirror.applying = false → exec (.refillRequest p c) s = .next (t.streamBody p seat (arg1 c)))) ∧
  (∀ (s : State) (p : PartIx) (pkt : Packet), s.NoSwitch →
    let h := mirrorHdrOf pkt
    let P := s.part p
    let bs := pkt.payload.drop 16
    let t := (s.takePkt p pkt).modMirror p fun m => { m with refilled := m.refilled + bs.length }
    (pktKind pkt.hdr = 5 → P.refilling = true → mhEntry h = journalEntry → exec (.snapshotPacket p pkt) s =
      .next (t.modMirror p fun m => { m with
        inbox := writeBytes m.inbox (mhOff h) bs, inboxLen := max m.inboxLen (mhOff h + bs.length) })) ∧
    (pktKind pkt.hdr = 5 → P.refilling = true → mhEntry h ≠ journalEntry → ∀ d a n,
      mirrorEntry (P.image.mirror.getD (mhEntry h) 0) = some (d, a, n) →
      (s.Unrecorded [(d, a + mhOff h, bs.length, true)] →
        exec (.snapshotPacket p pkt) s = .next (t.writeHbm d (a + mhOff h) bs)) ∧
      (¬s.Unrecorded [(d, a + mhOff h, bs.length, true)] →
        exec (.snapshotPacket p pkt) s = .next (s.snooped [(d, a + mhOff h, bs.length, true)]))) ∧
    (pktKind pkt.hdr = 5 → P.refilling = true → mhEntry h ≠ journalEntry →
      mirrorEntry (P.image.mirror.getD (mhEntry h) 0) = none → exec (.snapshotPacket p pkt) s = .next t) ∧
    ((pktKind pkt.hdr ≠ 5 ∨ P.refilling = false) → exec (.snapshotPacket p pkt) s = .next s)) ∧
  (∀ (s : State) (p : PartIx),
    let P := s.part p
    let ready := P.period.svc.any fun j => decide (j.step = P.period.step) && j.digest.isSome
    let s1 := s.assertAt 2 7
    let done (u : State) (step : BitVec 64) : State :=
      let v := u.modPart p fun P => { P with
        refilling := false, mirror := { P.mirror with inbox := [], inboxLen := 0, refilled := 0 } }
      v.sendCtl p (P.watch.lodestar.getD 0) (v.ownCtl p 0x17 P.seat.toNat P.mirror.refilled step.toNat)
    let bytes := readBytes P.mirror.inbox 0 P.mirror.inboxLen
    (P.refilling = true → ready = true → 4096 ≤ P.mirror.inboxLen → ∀ e, jEntryOf (bytes.take 4096) = some e →
      exec (.snapshotStreamComplete p) s = .next (done (s1.adoptJournal p e (eventsOf (bytes.drop 4096))) e.step)) ∧
    (P.refilling = true → ready = true → 4096 ≤ P.mirror.inboxLen → jEntryOf (bytes.take 4096) = none →
      exec (.snapshotStreamComplete p) s = .next (done s1 (P.period.step - 1))) ∧
    ((P.refilling = false ∨ ready = false) → exec (.snapshotStreamComplete p) s = .next s)) ∧
  (∀ (s : State) (p : PartIx) (c : Control), s.TakesCtl p 0x17 c →
    let t := (s.receiveCtl p c false 39).2
    ((t.part p).isLode = true → (t.part p).lode.state = .recovering → exec (.refillDone p c) s =
      .next ((t.markLate p (fldN (arg0 c) 0 12) fun l => { l with refilled := true }).refillEnd p)) ∧
    (((t.part p).isLode = false ∨ (t.part p).lode.state ≠ .recovering) → exec (.refillDone p c) s = .next t)))

/-- Chart changes and seats (R239, R296-R300): a chart update joins those that wait, and a commit of a newer generation
installs them once all have come; an acknowledgement takes the recovering lodestar on; a primed reserve that is asked
takes its seat, waking first where its partition sleeps; the lodestar counts the seat ready, and notes a fenced seat.
Waypoints (R295, R302-R305, R328): the lodestar that has every member's seal of a waypoint tells all that it is whole;
each notes it; an order to restore stops a member's period, and the member restores what it reads, ending a START that
waits; a waypoint that cannot be read ends the START with WAYPOINT_BAD, or is a detected error whose reason the manual
leaves open (log 6); a restore done is counted, and may ring the first bell. The waypoint timer begins each partition's
period. Choices of the model in it: logs 35, 37, 91, 94, 137. -/
def Obligations.RecoveryCompletes : Prop :=
  ((∀ (s : State) (p : PartIx) (c : Control), s.TakesCtl p 0x11 c →
    let t := (s.receiveCtl p c true 39).2
    let u : ChartUpdate := { gen := fld (arg0 c) 0 32, seat := fldN (arg0 c) 32 12
                             entry := at' 128 0 64 (arg1 c).toNat ||| at' 128 64 64 (arg2 c).toNat }
    ((t.part p).chart.held = true → exec (.chartUpdate p c) s = .next ((t.modPart p fun P => { P with
      watch := P.watch.heard false c
      chart := { P.chart with updates := P.chart.updates ++ [u] } }).tryInstall p (ctlSeat c))) ∧
    ((t.part p).chart.held = false → exec (.chartUpdate p c) s = .next t)) ∧
  (∀ (s : State) (p : PartIx) (c : Control), s.TakesCtl p 0x12 c →
    let t := (s.receiveCtl p c true 39).2
    let g : BitVec 32 := fld (arg0 c) 0 32
    ((t.part p).chart.held = true → (t.part p).chart.gen < g → exec (.chartCommit p c) s = .next ((t.modPart p fun P => { P with
      watch := P.watch.heard false c
      chart := { P.chart with commit := some (g, fldN (arg0 c) 32 12) } }).tryInstall p (ctlSeat c))) ∧
    (((t.part p).chart.held = false ∨ g ≤ (t.part p).chart.gen) → exec (.chartCommit p c) s = .next t)) ∧
  (∀ (s : State) (p : PartIx) (c : Control), s.TakesCtl p 0x13 c →
    let t := (s.receiveCtl p c false 39).2
    let mine := (t.part p).isLode = true ∧ fld (arg0 c) 0 32 = (t.part p).lode.gen ∧ (t.part p).lode.state = .recovering
    (mine → ctlSeat c = 0xFFF → exec (.chartAcknowledge p c) s =
      .next ((t.modLode p fun L => { L with ackReserves := L.ackReserves + 1 }).advance p)) ∧
    (mine → ctlSeat c ≠ 0xFFF → exec (.chartAcknowledge p c) s =
      .next ((t.modLode p fun L => { L with acks := insNat (ctlSeat c) L.acks }).advance p)) ∧
    (¬mine → exec (.chartAcknowledge p c) s = .next t)) ∧
  (∀ (s : State) (p : PartIx) (c : Control), s.TakesCtl p 0x14 c →
    let t := (s.receiveCtl p c false 39).2
    let seat := fldN (arg0 c) 0 12
    ((s.part p).state = .primed → (s.part p).chart.held = true → s.partUp p = false →
      exec (.seatRequest p c) s = .next (s.wakePart p)) ∧
    (((s.part p).state ≠ .primed ∨ (s.part p).chart.held = false ∨ s.partUp p = true) →
      ((t.part p).state = .primed → (t.part p).chart.held = true →
        let u := t.modPart p fun P => { P with
          chart := { P.chart with asked := some seat }
          watch := P.watch.heard true c
          period := { P.period with step := ctlStep c, attempt := ctlAttempt c, begun := false, svc := [] } }
        exec (.seatRequest p c) s = .next ((u.sendCtl p (ctlSeat c) (u.ownCtl p 0x15 seat 0 0)).setPartState p .running)) ∧
      (((t.part p).state ≠ .primed ∨ (t.part p).chart.held = false) → exec (.seatRequest p c) s = .next t))) ∧
  (∀ (s : State) (p : PartIx) (c : Control), s.TakesCtl p 0x15 c →
    let t := (s.receiveCtl p c false 39).2
    ((t.part p).isLode = true → (t.part p).lode.state = .recovering → exec (.seatReady p c) s =
      .next ((t.markLate p (fldN (arg0 c) 0 12) fun l => { l with ready := true }).seatAll p)) ∧
    (((t.part p).isLode = false ∨ (t.part p).lode.state ≠ .recovering) → exec (.seatReady p c) s = .next t)) ∧
  (∀ (s : State) (p : PartIx) (c : Control), s.TakesCtl p 0x1C c →
    exec (.fenceNotice p c) s = .next ((s.receiveCtl p c false 39).2.modLode p fun L =>
      { L with fenced := insNat (fldN (arg0 c) 0 12) L.fenced }))) ∧
  ((∀ (s : State) (p : PartIx) (c : Control), s.TakesCtl p 0x18 c →
    let t := (s.receiveCtl p c false 39).2
    let P := t.part p
    let w := arg1 c
    let e := (w, fldN (arg0 c) 0 12)
    let l := if P.lode.sealed.contains e then P.lode.sealed else P.lode.sealed ++ [e]
    ((P.isLode = false ∨ P.lode.state = .halted) → exec (.waypointSealed p c) s = .next t) ∧
    (P.isLode = true → P.lode.state ≠ .halted → (∀ m ∈ P.members, (w, m) ∈ l) →
      let u := t.modLode p fun L => { L with sealed := l.filter fun x => decide (w < x.1) }
      exec (.waypointSealed p c) s = .next (u.cascadeAll p (u.lodeCtl p 0x19 0 w.toNat))) ∧
    (P.isLode = true → P.lode.state ≠ .halted → (∃ m ∈ P.members, (w, m) ∉ l) →
      exec (.waypointSealed p c) s = .next (t.modLode p fun L => { L with sealed := l }))) ∧
  (∀ (s : State) (p : PartIx) (c : Control), s.TakesCtl p 0x19 c → exec (.waypointWhole p c) s =
    .next ((s.receiveCtl p c true 39).2.modPart p fun P => { P with watch := P.watch.heard false c, waypoint := some (arg1 c) })) ∧
  (∀ (s : State) (p : PartIx) (c : Control), s.TakesCtl p 0x1A c →
    let t := ((s.receiveCtl p c true 39).2.assertAt 2 11).modPart p fun P => { P with
      watch := P.watch.heard false c
      chart := { P.chart with gen := if P.chart.gen < fld (arg0 c) 0 32 then fld (arg0 c) 0 32 else P.chart.gen } }
    let mine := (t.part p).state = .running ∧ (t.part p).chart.own ≠ 0xFFF
    (mine → exec (.restoreOrder p c) s = .next (((t.resetForms p).modPart p fun P => { P with
      restoring := some (arg1 c), refilling := false
      period := { P.period with waiting := none, isOpen := false, begun := false } }).askWaypoint p)) ∧
    (¬mine → exec (.restoreOrder p c) s = .next t)) ∧
  (∀ (s : State) (p : PartIx) (wp : HostData) (w : BitVec 64),
    let P := s.part p
    let bad := if wp.failAt.isSome then some 1 else waypointFault w wp.bytes
    let acc := P.image.mirrorList.map fun e => (e.2.1, e.2.2.1, e.2.2.2, true)
    (P.restoring = some w → bad = none → ¬s.Unrecorded acc →
      exec (.waypointRestoreComplete p wp) s = .next (s.snooped acc)) ∧
    (P.restoring = some w → bad = none → s.Unrecorded acc →
      let u := if P.state = .running then s else s.resetForms p
      let t := (u.restoreFrom p w ((wp.bytes.drop 64).take (natOfBytes ((wp.bytes.drop 16).take 8)))).sendRestoreDone p w
      exec (.waypointRestoreComplete p wp) s = .next (t.finish (isStart p) 0 0 [])) ∧
    (∀ k, P.restoring = some w → bad = some k → P.state ≠ .running →
      let t := (s.finish (isStart p) 0x0303 k []).modPart p Partition.startFailed
      exec (.waypointRestoreComplete p wp) s =
        .next (t.setPartState p (if P.state = .starting then P.before.state else P.state))) ∧
    (∀ k, P.restoring = some w → bad = some k → P.state = .running →
      let t := s.fresh.2.detect (s.fresh.1.setWidth 16) (dieUnit P.lowDie) p p w.toNat
      exec (.waypointRestoreComplete p wp) s =
        .next ((t.sendTrouble p P.seat.toNat 0x7005).modPart p fun P => { P with restoring := none })) ∧
    (P.restoring = none → exec (.waypointRestoreComplete p wp) s = .next s)) ∧
  (∀ (s : State) (p : PartIx) (c : Control), s.TakesCtl p 0x1B c →
    let e := (ctlSeat c, arg1 c)
    exec (.restoreDone p c) s = .next (((s.receiveCtl p c false 39).2.modLode p fun L =>
      { L with restores := if L.restores.contains e then L.restores else L.restores ++ [e] }).tryFirst p)) ∧
  (∀ (s : State) (finishes : Bool), exec (.waypointTimer finishes) s =
    .next ((List.range 4).foldl (fun t p => t.waypointPeriod finishes p) (s.servicePeriod 3 72))))

/-! ## Errors, services, the host port -/

/-- An error reported (R27, R262, R277, R281-R286, R346): its report leaves those that wait. A notice makes its record
and drops nothing. A detected error is admitted, makes its record, raises the in-band interrupt where one is due and an address assigned, drops
the work of the partitions it touches, and has its unit examined again; a re-examination that no slice holds any more
and that nothing failed ends it, and puts back what it had taken. The error record (R282, R283, R339): every detected
error and notice adds one record to the store, which keeps the latest 256, and the record sequence number counts it.
Choices of the model in it: logs 70, 95, 113. -/
def Obligations.ErrorsComplete : Prop :=
  ((∀ (s : State) (e : ErrEvent), isNotice e.reason = true → exec (.errorReport e) s = .next ((s.takeReport e).notice e)) ∧
  (∀ (s : State) (e : ErrEvent), isNotice e.reason = false →
    let a := (s.takeReport e).intake .error (if e.unit.val < 4 then 33 + e.unit.val else 37)
    let t := a.2.makeRecord e a.1
    let u := if e.newIbi = true ∧ t.mgmt.ibiOff = false ∧ t.mgmt.dynAddr.isSome = true then t.emit .ibi else t
    exec (.errorReport e) s = .next (((errParts e).foldl (fun t p => t.dropPeriod e.reason.toNat p) u).reexamine e.unit)) ∧
  (∀ (s : State) (unit : Fin 5) (passed : Bool),
    let v := s.hub.services
    let ends := unit.val ∈ v.reexam ∧ ∀ x ∈ v.slices, x.reexam = true → targetUnit x.target ≠ unit.val
    (ends → passed = true → unit.val ∉ v.reexamBad →
      let t := s.modServices fun v => { v with reexam := v.reexam.filter fun u => decide (u ≠ unit.val) }
      exec (.reexaminationComplete unit passed) s =
        .next (((s.examParts unit).foldl (fun t p => t.examPassed p) t).reenable unit)) ∧
    (¬ends ∨ passed = false ∨ unit.val ∈ v.reexamBad → exec (.reexaminationComplete unit passed) s = .next s))) ∧
  (∀ (s : State) (e : ErrEvent), ∃ r, (s.notice e).hub.records =
      (s.hub.records ++ [r]).drop ((s.hub.records ++ [r]).length - 256) ∧
    (s.notice e).hub.rseq = s.hub.rseq + 1 ∧ fld r 0 16 = e.reason)

/-- The hub's periodic services (R272, R279, R280, R340, R401, R409-R421): the quiz timer gives up a quiz that has not
ended and takes the next pair whose dies are up; a quiz leaves its results in the check accumulators, its digests are
compared, and a cell that differs is a detected error; the telemetry timer counts a record not yet sent as late and
sends the summary while the link is up; the exam timer adds the slices of its period; a slice is granted when its
target is free and the governor has its power, takes the target and saves what it tests of a bench in a form, and gives
it back when it completes or its budget runs out. Choices of the model in it: logs 19, 93, 107, 108, 109, 146, 148, 150.
-/
def Obligations.ServicesComplete : Prop :=  (∀ (s : State),
    let t0 := s.servicePeriod 1 40
    let t1 := match t0.hub.services.quizPair with
      | some (d, b) =>
        ((pairCells d b).foldl (fun (t : State) c => t.modCell c fun x => { x with quiz := false }) (t0.countLate 1)).modServices
          fun v => { v with quizPair := none }
      | none => t0
    let n := t1.hub.services.quizPos % 48
    let t2 := t1.modServices fun v => { v with quizPos := (n + 1) % 48 }
    ((t2.die (n % 2)).mode = .up → (t2.die (n % 2 + 2)).mode = .up → exec .quizTimer s =
      .next (((pairCells (n % 2) (n / 2)).foldl (fun (t : State) c => t.modCell c fun x => { x with quiz := x.quizFree })
        t2).modServices fun v => { v with quizPair := some (n % 2, n / 2) })) ∧
    (((t2.die (n % 2)).mode ≠ .up ∨ (t2.die (n % 2 + 2)).mode ≠ .up) → exec .quizTimer s = .next t2)) ∧
  (∀ (s : State) (faulty : List (Fin 32 × BitVec 64)),
    (s.hub.services.quizPair = none → exec (.quizDigestsComplete faulty) s = .next s) ∧
    (∀ d b, s.hub.services.quizPair = some (d, b) →
      let cs := pairCells d b
      let quiz := look 0 s.hub.services.numbers 1
      let ds := quizDigests quiz faulty
      let ran := ∀ c ∈ cs, (s.cell c).quiz = true ∨ (s.cell c).quizFree = true
      (ran → exec (.quizDigestsComplete faulty) s = .next ((quizFails ds).foldl
        (fun t i => t.detectCell (cs.getD i 0) 0x5001 (cs.getD i 0) (quizDetail ds i))
        ((cs.foldl (fun (t : State) c => t.modCell c fun x => { x with quiz := false, check := quizResults quiz })
          (s.assertAt 1 9)).modServices fun v => { v with quizPair := none }))) ∧
      (¬ran → exec (.quizDigestsComplete faulty) s = .next s))) ∧
  (∀ (quiz : Nat), quizFails (quizDigests quiz []) = []) ∧
  (∀ (s : State) (smp : TeleSample) (finishes : Bool),
    let t := ((if s.hub.services.teleOpen then s.countLate 0 else s).servicePeriod 0 102).modServices fun v => { v with
      limited := if v.limitedNow then satAdd v.limited 1 else v.limited, limitedNow := false, teleOpen := !finishes }
    (t.mgmt.linkUp = true → finishes = true →
      exec (.telemetryTimer ⟨smp, finishes⟩) s = .next (t.sendKmp 2 false (t.summary smp))) ∧
    ((t.mgmt.linkUp = false ∨ finishes = false) → exec (.telemetryTimer ⟨smp, finishes⟩) s = .next t)) ∧
  (∀ (s : State),
    let k := look 0 s.hub.services.numbers 2
    let t := (s.servicePeriod 2 103).lateSlices
    let ts := ((List.range 4).filter fun d => decide ((t.die d).mode = .up)).flatMap (dieSlices · k) ++ [hubSlice k]
    (s.power.state ≠ .recovery → exec .examTimer s = .next (t.modServices fun v => { v with
      slices := v.slices ++ (ts.filter fun x => bit t.hub.services.policy (targetType x)).map fun x => { target := x } })) ∧
    (s.power.state = .recovery → exec .examTimer s = .next s)) ∧
  (∀ (s : State) (t : Word) (bad : List (Fin 16 × Nat)),
    let waits (x : Slice) : Bool := decide (x.target = t) && !x.granted
    let may := s.hub.services.slices.any waits && s.sliceFree t && s.power.headroom t
    let woke := decide (targetType t = 0) && decide ((s.bench (targetBench t)).mode = .recess)
    let base := if targetType t = 0 then (s.benchForm (targetBench t)).map (s.saveBase (targetUnit t)) else none
    let empty := (benchCells (targetBench t)).all fun c => (s.cell c).storageEmpty
    let given (u : State) : State :=
      let v := u.modServices fun v => { v with
        slices := modSlice waits (fun x => { x with granted := true, woke := woke, saved := base, empty := empty }) v.slices }
      { v with power := { v.power with grantedMw := v.power.grantedMw + sliceMw t, newMw := v.power.newMw + sliceMw t } }
    (may = true → base = none → exec (.sliceGrant ⟨t, bad⟩) s = .next (given (s.takeTarget t))) ∧
    (∀ a, may = true → base = some a → exec (.sliceGrant ⟨t, bad⟩) s = .next (given ((s.takeTarget t).save t a bad))) ∧
    (may = false → exec (.sliceGrant ⟨t, bad⟩) s = .next s)) ∧
  (∀ (w : Power) (t : Word), w.headroom t = true ↔ w.inputMw + w.newMw + sliceMw t ≤ 1000 * w.ceiling) ∧
  (∀ (s : State) (t : Word) (rs : List ExamOutcome),
    (s.examHolds t = true → exec (.examSliceComplete t rs) s = .next ((s.assertAt 3 8).endSlice t fun x u =>
      let v := u.examOutcomes t x.empty rs
      if x.reexam && (examFound t x.empty rs).any fun o => !o.ok then
        v.modServices fun w => { w with reexamBad := insNat (targetUnit t) w.reexamBad }
      else v)) ∧
    (s.examHolds t = false → exec (.examSliceComplete t rs) s = .next s ∧ exec (.sliceBudgetExpiry t) s = .next s) ∧
    (s.examHolds t = true → 2 ≤ targetType t → targetType t ≤ 4 → exec (.sliceBudgetExpiry t) s =
      .next (s.endSlice t fun _ u => (u.countLate 2).modRec t fun y => { y with result := 3 })) ∧
    (targetType t < 2 ∨ 4 < targetType t → exec (.sliceBudgetExpiry t) s = .next s))

/-- CXL.mem (R312-R315): a read of a mapped line is answered with its bytes, and the line recorded as the host's; a
write stores the enabled bytes where the region lets the host write, and nothing elsewhere; an unmapped line reads as
poison and takes no write, and so does every line until the HDM decoder is committed and Mem_Enable set. A request
waits while its aperture is remapped or its die is not up; while the link does not
carry it, nothing happens. The CXL link and the data service (R309-R311, R316-R318): the link comes up with a 256-byte
flit mode, fails without one, and is reset three ways, of which the function-level reset keeps it up; viral and an
integrity failure end what they must; a host snoop is answered. A line of the data service goes to its entry's
destination, in the step's job that wants it, after the host's answer for a line that it records; a poisoned one is
asked for again from its host address, eight times at most. Choices of the model in it: logs 102, 103, 104, 105, 147. -/
def Obligations.HostPortCompletes : Prop :=
  ((∀ (s : State) (line : BitVec 30) (data : BitVec 512) (be : BitVec 64), s.memLink = true → s.lineWaits line = false →
    let home := if s.power.memAct && s.cxl.memEn && s.cxl.hdmCommit then s.lineHome line else none
    (home = none → exec (.hostMemRead line) s = .next (s.emit (.memData line 0 true)) ∧
      exec (.hostMemWrite line data be) s = .next (s.emit (.memDone line))) ∧
    (∀ d a, home = some (d, a) →
      exec (.hostMemRead line) s = .next ((s.recordLine d a).emit (.memData line (bvOfBytes 512 (s.hbmView d a 64)) false)) ∧
      (s.hostMay d a = true → be ≠ 0 → exec (.hostMemWrite line data be) s =
        .next ((s.storeHbm d a (mergeBytes be (s.readHbm d a 64) (bytesOfBv 64 data))).emit (.memDone line))) ∧
      ((s.hostMay d a = false ∨ be = 0) → exec (.hostMemWrite line data be) s = .next (s.emit (.memDone line))))) ∧
  (∀ (s : State) (line : BitVec 30) (data : BitVec 512) (be : BitVec 64), (s.memLink = false ∨ s.lineWaits line = true) →
    exec (.hostMemRead line) s = .next s ∧ exec (.hostMemWrite line data be) s = .next s) ∧
  (∀ (s : State) (d : DieIx) (line : Nat) (inv : Bool),
    s.cxl.bisnp.find? (fun e => decide (e.1 = d.val ∧ e.2.1 = line)) = some (d.val, line, inv) →
    let left := s.cxl.bisnp.erase (d.val, line, inv)
    (inv = true → exec (.bisnpResponse d line) s = .next (State.finishRemaps { s with cxl := { s.cxl with
      bisnp := left, snoop := s.cxl.snoop.erase (d.val, line), shared := s.cxl.shared.erase (d.val, line) } })) ∧
    (inv = false → (d.val, line) ∈ s.cxl.snoop → exec (.bisnpResponse d line) s = .next (State.finishRemaps
      { s with cxl := { s.cxl with bisnp := left, shared := s.cxl.shared ++ [(d.val, line)] } })) ∧
    (inv = false → (d.val, line) ∉ s.cxl.snoop → exec (.bisnpResponse d line) s = .next (State.finishRemaps
      { s with cxl := { s.cxl with bisnp := left } })))) ∧
  ((∀ (s : State) (w r : Fin 8),
    let free := s.cxl.width = 0 ∧ s.power.on = true ∧ s.power.perstN = true ∧ 4 ≤ s.power.order ∧ s.sec.tap ≠ .extest
    let named := (w.val = 1 ∨ w.val = 2 ∨ w.val = 4) ∧ 1 ≤ r.val ∧ r.val ≤ 3
    (free → exec (.cxlLinkUp w r false) s = .next { s with cxl := { s.cxl with failed := true } }) ∧
    (free → named → exec (.cxlLinkUp w r true) s =
      .next (State.assertShared { s with cxl := { s.cxl with width := w, rate := r, failed := false } } 40)) ∧
    (free → ¬named → exec (.cxlLinkUp w r true) s = .next s) ∧
    (¬free → ∀ b, exec (.cxlLinkUp w r b) s = .next s)) ∧
  (∀ (s : State), s.cxl.width ≠ 0 →
    exec (.cxlLinkReset .functionLevel) s =
      .next (State.resetRings { s with cxl := { s.cxl with cacheEn := false, msixEn := false, bars := [] } }) ∧
    exec (.cxlLinkReset .hot) s = .next s.linkDown ∧ exec (.cxlLinkReset .linkLoss) s = .next s.linkDown ∧
    exec .viralReceived s = .next { s with cxl := { s.cxl with viral := true } } ∧
    (s.cxl.ideKeys ≠ [] → exec .ideIntegrityFailure s = .next s.linkDown) ∧
    (s.cxl.ideKeys = [] → exec .ideIntegrityFailure s = .next s) ∧
    (s.cxl.viral = false → s.sec.unlocked = false → ∀ a, exec (.h2dSnoop a) s = .next (s.emit (.rspIHitI a)))) ∧
  (∀ (s : State), s.cxl.width = 0 → (∀ k, exec (.cxlLinkReset k) s = .next s) ∧ exec .viralReceived s = .next s ∧
    exec .ideIntegrityFailure s = .next s ∧ ∀ a, exec (.h2dSnoop a) s = .next s) ∧
  (∀ (s : State) (p : PartIx) (i : Fin 256) (off : Nat) (data : BitVec 512),
    let P := s.part p
    let e := P.image.inputs.getD i 0
    let wants := SvcJob.wants i (off / 64)
    let key := svcKey i off
    let set (t : State) (g : SvcJob → SvcJob) : State :=
      t.modPart p fun P => { P with period := { P.period with svc := updFirst wants g P.period.svc } }
    let may := s.cacheOk = true ∧ bit e 2 = true ∧ off % 64 = 0 ∧ off < inputLen e
    (∀ j, may → P.period.svc.find? wants = some j →
      let n := look 0 j.retries key
      let t := set s fun j => { j with retries := put 0 j.retries key (n + 1), stopped := decide (8 ≤ n) }
      (8 ≤ n → exec (.dataServiceLine p i off data true) s = .next t) ∧
      (n < 8 → exec (.dataServiceLine p i off data true) s =
        .next (t.emit (.rdCurr (fld e 64 64 + j.step * fld e 128 64 + BitVec.ofNat 64 off) 64 [])))) ∧
    (∀ j, may → P.period.svc.find? wants = some j →
      let bs := bytesOfBv 64 data
      let got := insNat (off / 64) (look [] j.got i)
      let j1 := { j with got := put [] j.got i got, data := writeBytes j.data key bs }
      let j2 := P.seal j1
      let acc := [(fldN e 0 2, inputDest e j.step + off, 64, true)]
      let s1 := set (s.writeHbm (fldN e 0 2) (inputDest e j.step + off) bs) fun _ => j2
      let s2 := if j1.entryDone e i = true ∧ P.period.isOpen = true ∧ P.period.step = j.step then s1.signalInputs p [i] else s1
      (¬s.Unrecorded acc → exec (.dataServiceLine p i off data false) s = .next (s.snooped acc)) ∧
      (s.Unrecorded acc → exec (.dataServiceLine p i off data false) s =
        .next (if j2.digest.isSome then (s2.assertAt 2 10).compareManifest p j2 else s2))) ∧
    ((¬may ∨ P.period.svc.find? wants = none) → ∀ b, exec (.dataServiceLine p i off data b) s = .next s)))

/-! ## Management and attestation -/

/-- KMP requests (R337, R338, R342-R344): a request that passes every check takes its slot's sequence number and its
effect — a command joins the fifth ring or is answered there at once where its header is bad, a network configuration is
stored, a key changed — and one that does not is rejected with its reason. A firmware piece that fits the session is
staged; any other is counted as refused. A message that is not kept changes nothing; one that comes during a firmware
switch is admitted then and waits for its end (R369, R384). The management network and the
board bus (R336, R346, R347, R378): the announcement timer announces the device while the link is up, and brings a
trained link up first, with the records kept for it; address requests and echoes are answered for the device's own
addresses; a lost link asserts shared source 41; MCTP control commands and I3C common commands are answered as their
codes say. Where nothing is to be answered, nothing is sent. Choices of the model in it: logs 44, 47, 48, 49. -/
def Obligations.ManagementCompletes : Prop :=
  ((∀ (s : State) (m : Kmp), s.TakesKmp m 3 →
    let a := s.kmpIn m
    let c := (requestCmd m a.1).seen a.2.teleView
    let perm := opPermission c.opcode
    let why := a.2.kmpReason m (requestParses m) perm.isSome (perm.getD 0)
    (∀ n, why = some n → exec (.controlRequest m) s = .next (a.2.reject m n)) ∧
    (why = none → c.header 4 = none → exec (.controlRequest m) s =
      .next ((a.2.acceptSeq m).modRing 4 fun R => { R with pend := R.pend ++ [c] })) ∧
    (∀ e, why = none → c.header 4 = some e → exec (.controlRequest m) s = .next ((a.2.acceptSeq m).modRing 4 fun R =>
      { R with done := R.done ++ [{ cmd := c, status := BitVec.ofNat 16 e.1, detail := BitVec.ofNat 32 e.2 }] }))) ∧
  (∀ (s : State) (m : Kmp), s.TakesKmp m 5 →
    let t := (s.kmpIn m).2
    let fits := kmpSigned m = false ∧ kmpLen m = m.payload.length ∧ t.fw.takesPiece m.payload = true
    (fits → exec (.firmwarePiece m) s =
      .next (t.stage 1 (1024 * fldN (bvOfBytes 256 (m.payload.take 32)) 96 14) (m.payload.drop 32))) ∧
    (¬fits → exec (.firmwarePiece m) s = .next t.refusedPiece)) ∧
  (∀ (s : State) (m : Kmp), s.TakesKmp m 7 →
    let t := (s.kmpIn m).2
    (∀ n, Config.parseNetwork m.payload = some n → t.kmpReason m true true 5 = none →
      let u := t.acceptSeq m
      exec (.networkConfiguration m) s = .next { u with mgmt := { u.mgmt with
        ipv4 := n.ipv4, ipv6 := n.ipv6, vlan := n.vlan, collector := n.collector } }) ∧
    (∀ e, t.kmpReason m (Config.parseNetwork m.payload).isSome true 5 = some e →
      exec (.networkConfiguration m) s = .next (t.reject m e))) ∧
  (∀ (s : State) (m : Kmp), s.TakesKmp m 8 →
    let t := (s.kmpIn m).2
    (∀ e, Config.parseKeyChange m.payload = some e → t.kmpReason m true true 6 = none →
      let keys := changeKey e (t.acceptSeq m).mgmt.keys
      let bars := (m.viaI3c && !noKeys t.mgmt.keys) || !keysHeld keys
      (bars = true → exec (.keyManagement m) s = .next (t.reject m 3)) ∧
      (bars = false → exec (.keyManagement m) s =
        .next { t.acceptSeq m with mgmt := { (t.acceptSeq m).mgmt with keys := keys } })) ∧
    (∀ e, t.kmpReason m (Config.parseKeyChange m.payload).isSome true 6 = some e →
      exec (.keyManagement m) s = .next (t.reject m e))) ∧
  (∀ (s : State) (m : Kmp), ∀ e ∈ [(3, Instr.controlRequest m), (5, .firmwarePiece m), (7, .networkConfiguration m), (8, .keyManagement m)],
    ((s.mgmtOpen m = false ∨ kmpKept m = false ∨ kmpType m ≠ e.1) → exec e.2 s = .next s) ∧
    (s.fw.stage = .starting → s.mgmtOpen m = true → kmpKept m = true → kmpType m = e.1 → exec e.2 s =
      .next (s.holdOver e.2 (if m.viaI3c then .i3c else .kmp) (if m.viaI3c then 7 else 5))))) ∧
  ((∀ (s : State),
    let up := State.assertShared { s with mgmt := { s.mgmt with linkUp := true, kept := [] } } 41
    (s.mgmt.linkUp = true → exec .announcementTimer s = .next s.announce ∧
      exec .managementLinkLoss s = .next (State.assertShared { s with mgmt := { s.mgmt with linkUp := false } } 41)) ∧
    (s.mgmt.linkUp = false → s.mgmt.trained = true → s.connected = true → exec .announcementTimer s =
      .next (s.mgmt.kept.foldl State.sendKept up).announce) ∧
    (s.mgmt.linkUp = false → exec .managementLinkLoss s = .next s ∧
      ((s.mgmt.trained = false ∨ s.connected = false) → exec .announcementTimer s = .next s))) ∧
  (∀ (s : State) (ip4 : BitVec 32) (ip6 : BitVec 128) (m : Echo), s.mgmt.linkUp = true →
    (s.mgmt.ipv4 = some ip4 → exec (.arpRequest ip4) s = .next (s.emit (.arp macAddr ip4))) ∧
    (s.mgmt.ipv4 ≠ some ip4 → exec (.arpRequest ip4) s = .next s) ∧
    (ip6 = linkLocal ∨ s.mgmt.ipv6 = some ip6 → exec (.neighborSolicitation ip6) s = .next (s.emit (.advert macAddr ip6))) ∧
    (ip6 ≠ linkLocal → s.mgmt.ipv6 ≠ some ip6 → exec (.neighborSolicitation ip6) s = .next s) ∧
    (m.v6 = true ∨ s.mgmt.ipv4 ≠ none → exec (.echoRequest m) s = .next (s.emit (.echo m))) ∧
    (m.v6 = false → s.mgmt.ipv4 = none → exec (.echoRequest m) s = .next s)) ∧
  (∀ (s : State) (eid : Byte), s.power.on = true → 4 ≤ s.power.order →
    let t := s.admitted .i3c 7
    (eid ≠ 0 → eid ≠ 0xFF → exec (.mctpControl (.setEndpointId eid)) s =
      .next (State.emit { t with mgmt := { t.mgmt with eid := eid } } (.mctp 1 [0, 0, eid, 0]))) ∧
    (eid = 0 ∨ eid = 0xFF → exec (.mctpControl (.setEndpointId eid)) s = .next (t.emit (.mctp 1 [2, 0, t.mgmt.eid, 0]))) ∧
    exec (.mctpControl .getEndpointId) s = .next (t.emit (.mctp 2 [0, t.mgmt.eid, 0, 0])) ∧
    (∃ v, exec (.mctpControl .getVersionSupport) s = .next (t.emit (.mctp 4 ([0, 1] ++ v)))) ∧
    exec (.mctpControl .getMessageTypeSupport) s = .next (t.emit (.mctp 5 [0, 4, 0x00, 0x05, 0x06, 0x7F]))) ∧
  (∀ (s : State) (m : MctpControl), (s.power.on = false ∨ s.power.order < 4) → exec (.mctpControl m) s = .next s) ∧
  (∀ (s : State) (a : BitVec 7) (n : BitVec 16) (b : Byte), s.power.on = true → 4 ≤ s.power.order →
    let t := s.admitted .i3c 7
    let m := t.mgmt
    let set (x : Mgmt) : State := { t with mgmt := x }
    (m.dynAddr = none → ∃ bs, bs.length = 8 ∧ exec (.i3cCommonCommand (.entdaa a)) s =
      .next ((set { m with dynAddr := some a }).emit (.i3c bs))) ∧
    (m.dynAddr ≠ none → exec (.i3cCommonCommand (.entdaa a)) s = .next t ∧
      exec (.i3cCommonCommand (.setnewda a)) s = .next (set { m with dynAddr := some a })) ∧
    (m.dynAddr = none → exec (.i3cCommonCommand (.setnewda a)) s = .next t) ∧
    exec (.i3cCommonCommand .rstdaa) s = .next (set { m with dynAddr := none }) ∧
    exec (.i3cCommonCommand .enec) s = .next (set { m with ibiOff := false }) ∧
    exec (.i3cCommonCommand .disec) s = .next (set { m with ibiOff := true }) ∧
    exec (.i3cCommonCommand (.setmwl n)) s = .next (set { m with mwl := n }) ∧
    exec (.i3cCommonCommand (.setmrl n)) s = .next (set { m with mrl := n }) ∧
    exec (.i3cCommonCommand (.rstact b)) s = .next (set { m with rstAct := b }) ∧
    (m.dynAddr ≠ none →
      (∃ bs, bs.length = 6 ∧ exec (.i3cCommonCommand .getpid) s = .next (t.emit (.i3c bs))) ∧
      (∀ cc, cc = .getbcr ∨ cc = .getdcr → ∃ v, exec (.i3cCommonCommand cc) s = .next (t.emit (.i3c [v]))) ∧
      (∃ bs, bs.length = 2 ∧ exec (.i3cCommonCommand .getstatus) s = .next (t.fresh.2.emit (.i3c bs))) ∧
      (∃ bs, bs.length = 4 ∧ exec (.i3cCommonCommand .getcaps) s = .next (t.emit (.i3c bs))) ∧
      exec (.i3cCommonCommand .getmwl) s = .next (t.emit (.i3c [fld m.mwl 8 8, fld m.mwl 0 8])) ∧
      exec (.i3cCommonCommand .getmrl) s = .next (t.emit (.i3c [fld m.mrl 8 8, fld m.mrl 0 8]))) ∧
    (m.dynAddr = none → ∀ cc ∈ [I3cCommand.getpid, .getbcr, .getdcr, .getstatus, .getcaps, .getmwl, .getmrl],
      exec (.i3cCommonCommand cc) s = .next t)) ∧
  (∀ (s : State) (cc : I3cCommand), (s.power.on = false ∨ s.power.order < 4) → exec (.i3cCommonCommand cc) s = .next s))

/-- SPDM requests (R351-R354): before the connection has come as far as a request needs, and for a value that the device
does not accept, the answer is an error; else the responder answers, and signs where it holds the attestation key. A
session is opened by KEY_EXCHANGE and ready after FINISH; the requests of a ready session act on it alone. Requests
within an SPDM session (R351, R353, R354): FINISH of an open session makes it ready, or ends it where its code does not
verify; a heartbeat is answered; a key update takes the next keys; END_SESSION ends it; an IDE_KM request on DOE
programs its stream's key, and is unsupported on I3C. A request that names no such session is an error, and no other
session changes. Choices of the model in it: logs 21, 129. -/
def Obligations.AttestationCompletes : Prop :=
  ((∀ (s : State) (t : Transport), s.Answers t →
    let u := s.spdmIn t
    let conn := u.spdm.conn t
    let fresh : State := { u with spdm := { u.spdm with sessions := u.spdm.sessions.filter fun x => decide (x.transport ≠ t) } }
    exec (.getVersion t) s = .next ((fresh.connTo t 1).respond t 0x04 [0x12] false) ∧
    (conn = 1 → exec (.getCapabilities t) s =
      .next ((u.connTo t 2).respond t 0x61 (bytesOfNat 4 4096 ++ bytesOfNat 4 4096) false)) ∧
    (conn ≠ 1 → exec (.getCapabilities t) s = .next (u.spdmError t 4)) ∧
    (∀ a, conn = 2 → acceptsAll a = true → exec (.negotiateAlgorithms t a) s = .next ((u.connTo t 3).respond t 0x63 [] false)) ∧
    (∀ a, conn = 2 → acceptsAll a = false → exec (.negotiateAlgorithms t a) s = .next (u.spdmError t 1)) ∧
    (∀ a, conn ≠ 2 → exec (.negotiateAlgorithms t a) s = .next (u.spdmError t 4))) ∧
  (∀ (s : State) (t : Transport), s.Answers t → agreed ((s.spdmIn t).spdm.conn t) = true →
    let u := s.spdmIn t
    exec (.getDigests t) s = .next (u.respond t 0x01 (sha3x512 u.chain) false) ∧
    (∀ slot off len, slot = 0 → off < u.chain.length → exec (.getCertificate t slot off len) s =
      .next (u.respond t 0x02 ((u.chain.drop off).take (min len 4088)) false)) ∧
    (∀ slot off len, (slot ≠ 0 ∨ u.chain.length ≤ off) → exec (.getCertificate t slot off len) s = .next (u.spdmError t 1)) ∧
    (∀ n, u.signs = true → exec (.challenge t n) s =
      .next (u.nonce.2.respond t 0x03 (sha3x512 u.chain ++ u.nonce.1) true)) ∧
    (∀ n, u.signs = false → exec (.challenge t n) s = .next (u.spdmError t 5)) ∧
    (∀ n ix sign, (sign = true → u.signs = true) →
      (ix = 0 → exec (.getMeasurements t ix n sign) s = .next (u.respond t 0x60 [9] sign)) ∧
      (ix = 0xFF → exec (.getMeasurements t ix n sign) s =
        .next (u.respond t 0x60 ((List.range 9).flatMap fun i => u.block (i + 1)) sign)) ∧
      (ix ≠ 0 → ix.toNat ≤ 9 → exec (.getMeasurements t ix n sign) s = .next (u.respond t 0x60 (u.block ix.toNat) sign)) ∧
      (ix ≠ 0xFF → 9 < ix.toNat → exec (.getMeasurements t ix n sign) s = .next (u.spdmError t 1))) ∧
    (∀ n ix, u.signs = false → exec (.getMeasurements t ix n true) s = .next (u.spdmError t 5)) ∧
    (∀ pub, (u.spdm.sessions.length < 4 → pub.length = 96 → u.signs = true →
        let random := u.nonce
        let v : State := { random.2 with spdm := { u.spdm with
          sessions := u.spdm.sessions ++ [{ num := u.spdm.next, transport := t, keys := Config.sessionKeys random.1 pub }]
          next := u.spdm.next + 1 } }
        exec (.keyExchange t pub) s = .next (v.nonce.2.respond t 0x64 (bytesOfNat 2 u.spdm.next ++ v.nonce.1) true)) ∧
      (4 ≤ u.spdm.sessions.length → exec (.keyExchange t pub) s = .next (u.spdmError t 0x0A)) ∧
      (u.spdm.sessions.length < 4 → pub.length ≠ 96 → exec (.keyExchange t pub) s = .next (u.spdmError t 1)) ∧
      (u.spdm.sessions.length < 4 → pub.length = 96 → u.signs = false →
        exec (.keyExchange t pub) s = .next (u.spdmError t 5)))) ∧
  (∀ (s : State) (t : Transport), s.Answers t → agreed ((s.spdmIn t).spdm.conn t) = false →
    ∀ (slot : Byte) (off len n : Nat) (nonce : BitVec 256) (sign : Bool) (pub : List Byte) (km : IdeKm),
    ∀ c ∈ [Instr.getDigests t, .getCertificate t slot off len, .challenge t nonce, .getMeasurements t slot nonce sign,
        .keyExchange t pub, .finish t n sign, .heartbeat t n, .keyUpdate t n, .endSession t n, .vendorDefinedRequest t n km],
      exec c s = .next ((s.spdmIn t).spdmError t 4)) ∧
  (∀ (s : State) (t : Transport), s.spdmRuns t = false → ∀ (a : AlgorithmOffer) (slot : Byte) (off len n : Nat)
      (nonce : BitVec 256) (sign : Bool) (pub : List Byte) (km : IdeKm),
    ∀ c ∈ [Instr.getVersion t, .getCapabilities t, .negotiateAlgorithms t a, .getDigests t, .getCertificate t slot off len,
        .challenge t nonce, .getMeasurements t slot nonce sign, .keyExchange t pub, .finish t n sign, .heartbeat t n,
        .keyUpdate t n, .endSession t n, .vendorDefinedRequest t n km], exec c s = .next s)) ∧
  (∀ (s : State) (t : Transport) (n : Nat), s.Answers t → agreed ((s.spdmIn t).spdm.conn t) = true →
    let u := s.spdmIn t
    let opened := u.spdm.sessions.any (Session.isSess t n false)
    let ready := u.spdm.sessions.any (Session.isSess t n true)
    (opened = true →
      exec (.finish t n true) s = .next (State.respond (u.modSessions fun l =>
        l.map fun x => if Session.isSess t n false x then { x with ready := true } else x) t 0x65 [] false) ∧
      exec (.finish t n false) s =
        .next ((u.modSessions fun l => l.filter fun x => !Session.isSess t n false x).spdmError t 6)) ∧
    (opened = false → ∀ b, exec (.finish t n b) s = .next (u.spdmError t 2)) ∧
    (ready = true →
      exec (.heartbeat t n) s = .next (u.respond t 0x68 [] false) ∧
      exec (.keyUpdate t n) s = .next (State.respond (u.modSessions fun l =>
        l.map fun x => if Session.isSess t n true x then { x with keys := Config.nextSessionKeys x.keys } else x) t 0x69 [] false) ∧
      exec (.endSession t n) s = .next (State.respond (u.modSessions fun l =>
        l.filter fun x => !Session.isSess t n true x) t 0x6C [] false) ∧
      (∀ km, t = .doe → exec (.vendorDefinedRequest t n km) s = .next (State.respond { u with cxl := { u.cxl with
        ideKeys := put [] u.cxl.ideKeys km.stream km.key } } t 0x7E [] false)) ∧
      (∀ km, t = .i3c → exec (.vendorDefinedRequest t n km) s = .next (u.spdmError t 7))) ∧
    (ready = false → exec (.heartbeat t n) s = .next (u.spdmError t 2) ∧ exec (.keyUpdate t n) s = .next (u.spdmError t 2) ∧
      exec (.endSession t n) s = .next (u.spdmError t 2) ∧
      ∀ km, exec (.vendorDefinedRequest t n km) s = .next (u.spdmError t 2)))

/-! ## Firmware, power, start-up, test access -/

/-- Replacing firmware (R366-R370, R384): an image whose verification ends is staged, or fails the session with its
reason; at a boundary its slot is written and the new firmware starts, with the clerks held, or the start fails after
two bad writes; where no boundary comes the activation fails and the image stays staged; firmware that reports ready
ends the session, issues the attestation key again and answers FW_ACTIVATE; firmware that does not leaves the device in
recovery mode. A failed start (R370, R371): the device is in recovery mode with the start-failed mark, LAST START_FAILED
and no session. Choices of the model in it: logs 114, 116, 117. -/
def Obligations.FirmwareEventsComplete : Prop :=
  (∀ s : State,
    (s.fw.state = 2 → s.verifyFails = none → exec .fwVerificationDone s = .next { s with fw := { s.fw with state := 3 } }) ∧
    (∀ e, s.fw.state = 2 → s.verifyFails = some e → exec .fwVerificationDone s = .next { s with fw := { s.fw with
      staging := [], pieces := [], state := 5, lastFail := BitVec.ofNat 16 e } }) ∧
    (s.fw.state ≠ 2 → exec .fwVerificationDone s = .next s) ∧
    (s.fw.stage = .waitingBoundary → s.notAtBoundary = 0 →
      let t := s.dropServices.holdClerks
      (∀ n : Fin 3, n ≠ 2 → exec (.switchBoundary n) s =
        .next { t with fw := { t.fw.writeSlot t.fw.stagedBytes with stage := .starting, switchFlag := true } }) ∧
      exec (.switchBoundary 2) s = .next (State.startFailure { t with
        free := t.free + t.fw.length, fw := t.fw.writeSlot (freeBytes t.free t.fw.length) })) ∧
    (s.fw.stage ≠ .waitingBoundary ∨ s.notAtBoundary ≠ 0 → ∀ n, exec (.switchBoundary n) s = .next s) ∧
    (s.fw.stage = .waitingBoundary → let t := s.admitted .timer 999
      exec .activateWindowExpiry s = .next (State.finish { t with fw := { t.fw with state := 3, stage := .idle } }
        (fun c => decide (c.opcode = 0x0504)) 0x050A s.notAtBoundary [])) ∧
    (s.fw.stage ≠ .waitingBoundary → exec .activateWindowExpiry s = .next s) ∧
    (s.fw.stage = .starting →
      let t : State := { s.restartClerks with
        fw := { s.fw.endSession with stage := .idle, switchFlag := false }
        spdm := { s.spdm with doe := 0, i3c := 0, sessions := [] } }
      exec .firmwareReady s = .next (t.issueKey.finish (fun c => decide (c.opcode = 0x0504)) 0 0 []).announce ∧
      exec .firmwareReadyTimeout s = .next s.startFailure) ∧
    (s.fw.stage ≠ .starting → exec .firmwareReady s = .next s ∧ exec .firmwareReadyTimeout s = .next s)) ∧
  (∀ s : State, let t := s.startFailure
    t.power.state = .recovery ∧ t.power.ready = false ∧ t.power.memAct = false ∧ t.fw.startFailed = true ∧
    t.fw.lastFail = 0x050D ∧ t.fw.state = 0 ∧ t.fw.staging = [] ∧ t.hub.records = s.hub.records ∧ t.fw.svnFloor = s.fw.svnFloor)

/-- The governor (R398-R403): a sample near a limit records it and lowers one rail, noting a pace loss by power and
asserting clerk 3's thermal source; one with room for a millisecond raises one; sprint ends after 200 ms of the window,
and while the 24 hours' wear sum is at its allowance. Faults of the supplies (R404): a conversion stage that stops
lowers the ceiling to what the others carry, with notice 0xA001; the last one's, an input undervoltage and an over-
temperature stop leave the device Off, and only what MRAM and fuses hold stands. Choices of the model in it: logs 112,
119, 120. -/
def Obligations.GovernorAndSuppliesComplete : Prop :=
  ((∀ (s : State) (g : GovSample),
    let s0 : State := if g.newMs then State.endRateMs { s with power := s.power.endMs s.sprinting } else s
    let act := nearLimits s0.power.ceiling g
    let s1 : State := { s0 with power := { s0.power with
      inputMw := g.powerMw, newMw := 0, msHot := s0.power.msHot || decide (16 * 75 < g.tj16), limits := s0.power.limits ||| BitVec.ofNat 8 act } }
    let s2 := if 8 ≤ act then s1.assertAt 3 9 else s1
    let lowered := (List.range 96).any fun k => decide ((s2.governDown.bench k).mv < (s2.bench k).mv)
    (s.power.state = .ready → act ≠ 0 → act % 2 = 1 → lowered = true → exec (.governorSample g) s =
      .next ((s2.governDown.assertAt 3 1).modServices fun v => { v with limitedNow := true })) ∧
    (s.power.state = .ready → act ≠ 0 → (act % 2 = 0 ∨ lowered = false) → exec (.governorSample g) s = .next s2.governDown) ∧
    (s.power.state = .ready → act = 0 → g.room1ms = true → g.newMs = true →
      exec (.governorSample g) s = .next (s2.governUp g).markSprint) ∧
    (s.power.state = .ready → act = 0 → (g.room1ms = false ∨ g.newMs = false) → exec (.governorSample g) s = .next s2) ∧
    (s.power.state ≠ .ready → exec (.governorSample g) s = .next s)) ∧
  (∀ s : State,
    (200 ≤ s.power.sprintTime → let t := s.endSprints
      exec .sprintLimit s = .next { t with power := { t.power with sprintOff := true, limits := t.power.limits ||| 32 } }) ∧
    (s.power.sprintTime < 200 → exec .sprintLimit s = .next s)) ∧
  (∀ s : State,
    let l := s.power.wearHours ++ [s.power.wearNow]
    let t : State := { s with power := { s.power with wearHours := l.drop (l.length - 24), wearNow := 0 } }
    (s.power.on = true → t.power.wearSum < wearAllowance → exec .wearHour s = .next t) ∧
    (s.power.on = true → wearAllowance ≤ t.power.wearSum → let u := t.endSprints
      exec .wearHour s = .next { u with power := { u.power with limits := u.power.limits ||| 64 } }) ∧
    (s.power.on = false → exec .wearHour s = .next s))) ∧
  ((∀ (s : State) (k : Fin 4) (code : BitVec 64), s.power.on = true → bit s.power.stages k = true →
    let left := s.power.stages &&& ~~~(1#4 <<< k.val)
    let w := { s.power with stages := left }
    (left ≠ 0 → exec (.stageFault k code) s = .next (State.notice { s with power :=
      { w with ceiling := min w.cap w.stageCeiling } }
      { reason := 0xA001, unit := 4, part := 0, loc := BitVec.ofNat 32 k, detail := code })) ∧
    (left = 0 → exec (.stageFault k code) s = .next s.powerOff)) ∧
  (∀ (s : State) (k : Fin 4) (code : BitVec 64), (s.power.on = false ∨ bit s.power.stages k = false) →
    exec (.stageFault k code) s = .next s) ∧
  (∀ s : State, let t := s.powerOff
    exec .inputUndervoltage s = .next { t with power := { t.power with vinHigh := false } } ∧
    exec .coldNAssert s = .next { t with power := { t.power with coldN := false } } ∧
    (s.power.on = true →
      exec .overTemperatureStop s = .next { t with power := { t.power with thermtripN := false } }) ∧
    (s.power.on = false → exec .overTemperatureStop s = .next s)) ∧
  (∀ s : State, let t := s.powerOff
    t.power.on = false ∧ t.power.ready = false ∧ t.power.wearHours = s.power.wearHours ∧ t.cells = [] ∧ t.dies = [] ∧
    t.fw.svnFloor = s.fw.svnFloor ∧ t.fw.debugFuse = s.fw.debugFuse ∧ t.mgmt.keys = s.mgmt.keys ∧ t.rings = State.reset.rings))

/-- Dies that shut down and wake (R395, R396): each event of the shut-down is followed by the next, the first once the
die is quiet; a die asked to come up meanwhile turns to waking at the end; each step of a wake is followed by the next.
Start-up and the reset pins (R371, R422, R432-R438): the sequence goes on by one event, up to the full exam; after it
the device is ready, with Memory_Active and every bench in Recess, and announces itself; a failed training or an overdue
step holds the start. A rise of the input, a release of COLD_N after its pulse begin a cold start; a PERST# pulse resets
the device; a release of PERST# only moves the pin. Choices of the model in it: logs 111, 123, 126, 127. -/
def Obligations.StartUpCompletes : Prop :=
  ((∀ (s : State) (d : DieIx), ((s.die d).mode = .shuttingDown ∨ (s.die d).mode = .pendingUp) →
    let up := decide ((s.die d).mode = .pendingUp)
    ((s.die d).event = 1 → s.quiet d = true →
      exec (.shutdownEventComplete d) s = .next (s.modDie d fun D => { D with event := 2 })) ∧
    ((s.die d).event = 1 → s.quiet d = false → exec (.shutdownEventComplete d) s = .next s) ∧
    ((s.die d).event = 2 → exec (.shutdownEventComplete d) s = .next (s.modDie d fun D => { D with event := 3, clamped := true })) ∧
    ((s.die d).event = 3 → up = false →
      exec (.shutdownEventComplete d) s = .next (s.modDie d fun D => { D with retained := true, event := 4 })) ∧
    ((s.die d).event = 3 → up = true →
      exec (.shutdownEventComplete d) s = .next (s.modDie d fun D => { D with retained := true, mode := .waking, event := 1 })) ∧
    ((s.die d).event = 4 → SMap.wf {} s.dies = true →
      exec (.shutdownEventComplete d) s = .next (((s.loseLogic d).modDie d fun D => { D with
        railsOff := true, refsStopped := true, mode := if up then .waking else .dormant, event := if up then 1 else 0 }).finishPower))) ∧
  (∀ (s : State) (d : DieIx), (s.die d).mode ≠ .shuttingDown → (s.die d).mode ≠ .pendingUp →
    exec (.shutdownEventComplete d) s = .next s) ∧
  (∀ (s : State) (d : DieIx),
    ((s.die d).mode = .waking → s.power.state = .ready → exec (.wakeStepComplete d) s = .next (s.wakeStep d).finishPower) ∧
    (((s.die d).mode ≠ .waking ∨ s.power.state ≠ .ready) → exec (.wakeStepComplete d) s = .next s))) ∧
  ((∀ (s : State) (b : BootSample), s.power.on = true → s.power.vinHigh = true → s.power.coldN = true →
    s.power.state = .starting →
    let next (t : State) : State := { t with power := { t.power with order := s.power.order + 1 } }
    let wake := (List.range 4).foldl State.wakeStep s
    (s.power.order < 4 → exec (.coldStart b) s = .next (next s)) ∧
    (s.power.order = 4 → exec (.coldStart b) s = .next (s.bootLoader b.loaderOk)) ∧
    (s.power.order = 5 → exec (.coldStart b) s = .next (s.bootRunning b.runningOk)) ∧
    (s.power.order = 6 → exec (.coldStart b) s = .next s.bootFirmware) ∧
    (s.power.order = 7 ∨ s.power.order = 8 ∨ s.power.order = 10 → exec (.coldStart b) s = .next (next wake)) ∧
    (s.power.order = 9 → b.badStacks = 0 → exec (.coldStart b) s = .next (next wake)) ∧
    (s.power.order = 9 → b.badStacks ≠ 0 → exec (.coldStart b) s = .next (s.startHold 10 b.badStacks 0)) ∧
    (s.power.order = 11 → exec (.coldStart b) s = .next (next (s.examAll b.exams))) ∧
    (12 ≤ s.power.order → exec (.coldStart b) s = .next s)) ∧
  (∀ (s : State) (b : BootSample), (s.power.on = false ∨ s.power.vinHigh = false ∨ s.power.coldN = false ∨
    s.power.state ≠ .starting) → exec (.coldStart b) s = .next s) ∧
  (∀ (s : State) (ms : Word),
    let t := s.mapBenches fun _ b => b.toRecess
    (s.power.state = .starting → s.power.order = 12 → exec (.startupReady ms) s = .next (State.announce { t with power :=
      { t.power with order := 13, state := .ready, ready := true, memAct := true, startMs := ms } })) ∧
    (s.power.state ≠ .starting ∨ s.power.order ≠ 12 → exec (.startupReady ms) s = .next s)) ∧
  (∀ (s : State) (order : Fin 16) (failed : BitVec 12) (dies : BitVec 4),
    let starting := s.power.state = .starting ∧ order.val = s.power.order + 1
    let leaving := s.power.state = .ready ∧ (∀ d < 4, (s.die d).mode = .waking) ∧ ∃ d < 4, 7 + (s.die d).event = order.val
    let due := 8 ≤ order.val ∧ order.val ≤ 11 ∧ (starting ∨ leaving)
    (due → exec (.startHold order failed dies) s = .next (s.startHold order failed dies)) ∧
    (¬due → exec (.startHold order failed dies) s = .next s) ∧
    (s.startHold order failed dies).power.state = .startHold ∧ (s.startHold order failed dies).power.ready = false ∧
    (s.startHold order failed dies).power.failStack = failed) ∧
  (∀ s : State,
    let v : State := { s with power := { s.power with vinHigh := true } }
    let c : State := { s with power := { s.power with coldN := true } }
    let p : State := { s with power := { s.power with perstN := false } }
    (s.power.on = false → s.power.coldN = true → exec .vinRise s = .next v.coldReset) ∧
    (s.power.on = true ∨ s.power.coldN = false → exec .vinRise s = .next v) ∧
    (s.power.coldN = false → s.power.vinHigh = true → exec (.coldNRelease true) s = .next c.coldReset) ∧
    (s.power.coldN = false → s.power.vinHigh = false → exec (.coldNRelease true) s = .next c) ∧
    (s.power.coldN = false → exec (.coldNRelease false) s = .next c) ∧
    (s.power.coldN = true → ∀ b, exec (.coldNRelease b) s = .next s) ∧
    (s.power.perstN = true → s.power.on = true → 3 ≤ s.power.order → exec (.perstAssert true) s = .next p.deviceReset) ∧
    (s.power.perstN = true → s.power.on = false ∨ s.power.order < 3 → exec (.perstAssert true) s = .next p) ∧
    (s.power.perstN = true → exec (.perstAssert false) s = .next p) ∧
    (s.power.perstN = false → ∀ b, exec (.perstAssert b) s = .next s) ∧
    exec .perstRelease s = .next { s with power := { s.power with perstN := true } }))

/-- The test access port (R355-R357, R432): its instructions shift out what they select; EXTEST takes the links down;
TRST_N resets the port alone. The unlock instruction gives the serial number and a challenge unless debug is fused off
or the hub is not running; a response that the authority's key signed opens debug access and destroys keys and memories;
any other only ends the sequence. Choices of the model in it: logs 22, 50, 128. -/
def Obligations.TestAccessCompletes : Prop :=  (∀ s : State,
    exec .trstNAssert s = .next { s with sec := { s.sec with tap := .idcode, challenge := none } } ∧
    exec .bypass s = .next ((s.tapTo .bypass).emit (.tdo [0])) ∧
    exec .idcode s = .next ((s.tapTo .idcode).emit (.tdo (bytesOfBv 4 Config.idcode))) ∧
    exec .samplePreload s = .next (s.tapTo .samplePreload) ∧ exec .clamp s = .next (s.tapTo .clamp) ∧
    (let t := (s.tapTo .extest).mgmtDown
     let u := if t.cxl.width = 0 then t else t.linkDown
     let live : PortState → Bool := fun x => x == .train || x == .verify || x == .up
     exec .extest s =
       .next ((List.range 4).foldl (fun v i => if live (v.port i).state then v.portDown i else v) u))) ∧
  (∀ s : State, let t := s.tapTo .unlock
    ((s.fw.debugFuse = true ∨ s.power.on = false ∨ s.power.order < 3) → exec .debugUnlock s = .next t) ∧
    (s.fw.debugFuse = false → s.power.on = true → 3 ≤ s.power.order →
      ∃ ch, ch.length = 32 ∧ exec .debugUnlock s = .next ((State.assertShared { t with
        free := t.free + 4, sec := { t.sec with challenge := some ch } } 47).emit (.tdo (bytesOfBv 8 Config.serial ++ ch))))) ∧
  (∀ (s : State) (key sig ch : List Byte), s.sec.challenge = some ch →
    let ok := shake256 key 64 = Config.debugKeyDigest ∧ ed448Verify key (bytesOfBv 8 Config.serial ++ ch) sig [] = true
    (ok → exec (.unlockResponse key sig) s = .next s.unlock) ∧
    (¬ok → exec (.unlockResponse key sig) s = .next { s with sec := { s.sec with challenge := none } })) ∧
  (∀ (s : State) (key sig : List Byte), s.sec.challenge = none → exec (.unlockResponse key sig) s = .next s) ∧
  (∀ s : State, let t := s.unlock
    t.sec.unlocked = true ∧ t.sec.access = true ∧ t.sec.attKey = none ∧ t.spdm.sessions = [] ∧ t.cxl.ideKeys = [] ∧
    t.power.memAct = false ∧ t.sec.challenge = none)
end

