-- ==== Sys2Proof/Laws/Links.lean ====
section
/-! SUPPORT. What sealing a flit leaves: its fields below the CRC, and a CRC that checks. -/

namespace Sys2Proof.Machine

theorem at_low (w lo len n i : Nat) (h : i < lo) : (at' w lo len n).getLsbD i = false := by
  rw [at', BitVec.getLsbD_ofNat, Nat.mul_comm, Nat.testBit_two_pow_mul]
  simp; omega

theorem flitBody_toNat : (1#2048 <<< 2016).toNat = 2 ^ 2016 := by decide +kernel

theorem sealFlit_bit (f : Flit) (i : Nat) (h : i < 2016) : (sealFlit f).getLsbD i = f.getLsbD i := by
  rw [sealFlit, BitVec.getLsbD_or, at_low _ _ _ _ _ h, Bool.or_false, BitVec.getLsbD, BitVec.toNat_umod, flitBody_toNat,
    Nat.testBit_mod_two_pow]
  simp [h, BitVec.getLsbD]

theorem sealFlit_fld (f : Flit) (lo len : Nat) (h : lo + len ≤ 2016) : fld (sealFlit f) lo len = fld f lo len := by
  apply BitVec.eq_of_getLsbD_eq
  intro i hi
  simp only [BitVec.getLsbD_extractLsb', hi, decide_true, Bool.true_and]
  exact sealFlit_bit f _ (by omega)

theorem sealFlit_fldN (f : Flit) (lo len : Nat) (h : lo + len ≤ 2016) : fldN (sealFlit f) lo len = fldN f lo len :=
  congrArg BitVec.toNat (sealFlit_fld f lo len h)

@[simp] theorem sealFlit_type (f : Flit) : flitType (sealFlit f) = flitType f := sealFlit_fldN f 12 2 (by omega)
@[simp] theorem sealFlit_seq (f : Flit) : flitSeq (sealFlit f) = flitSeq f := sealFlit_fld f 0 12 (by omega)

/-- A sealed flit's CRC checks (R233). -/
@[simp] theorem sealFlit_crcOk (f : Flit) : flitCrcOk (sealFlit f) = true := by
  have : sealFlit f % (1#2048 <<< 2016) = f % (1#2048 <<< 2016) := by
    apply BitVec.eq_of_getLsbD_eq
    intro i hi
    rw [BitVec.getLsbD, BitVec.getLsbD, BitVec.toNat_umod, BitVec.toNat_umod, flitBody_toNat, Nat.testBit_mod_two_pow,
      Nat.testBit_mod_two_pow]
    by_cases h : i < 2016
    · have := sealFlit_bit f i h
      simp only [BitVec.getLsbD] at this
      simp [h, this]
    · simp [h]
  rw [flitCrcOk, decide_eq_true_eq, sealFlit, this]
  rfl

/-- Sealing changes nothing of a flit's form. -/
@[simp] theorem sealFlit_formOk (u : Nat) (f : Flit) : flitFormOk u (sealFlit f) = flitFormOk u f := by
  simp only [flitFormOk, sealFlit_type, flitVc, flitClass, bit, sealFlit_fldN f 20 12 (by omega), sealFlit_fldN f 14 3 (by omega),
    sealFlit_fldN f 45 3 (by omega), sealFlit_fldN f 80 1936 (by omega),
    sealFlit_fldN f 160 1856 (by omega), sealFlit_bit f 19 (by omega)]
  rfl

end Sys2Proof.Machine
end

