-- ==== Sys2Proof/WellFormed.lean ====
section
/-! DEFINITION. What the outside guarantees of a command's operands by the form in which they arrive. The meanings do not rest on it: they are total. -/

namespace Sys2Proof

/-- A packet carries at most 4,096 bytes, as many as LEN says (R236). -/
def Packet.wf (p : Packet) : Bool :=
  decide (p.payload.length ≤ 4096) && decide ((p.hdr.extractLsb' 64 13).toNat = p.payload.length)

/-- A KMP message's payload is as long as its header's LENGTH says, and a signature has 114 bytes, or
none when it is not signed (R337). -/
def Kmp.wf (m : Kmp) : Bool :=
  decide ((m.hdr.extractLsb' 48 16).toNat = m.payload.length) && (m.sig.isEmpty || decide (m.sig.length = 114))

/-- A failing read fails inside or at the end of what came (R326). -/
def HostData.wf (d : HostData) : Bool :=
  match d.failAt with
  | none => true
  | some n => decide (n ≤ d.bytes.length)

/-- The check on a command's operands. -/
def Instr.wf : Instr → Bool
  | .loadImage _ d | .loaderReadComplete _ d | .writeHbm _ d | .fwBlock _ d
  | .waypointRestoreComplete _ d => d.wf
  | .doorbell _ _ subs => decide (subs.length ≤ 255) && subs.all fun e => e.ext.wf
  | .queuePush _ q _ => decide (q.val < 20)
  | .remoteWritePacket _ p | .readRequest _ p _ | .readResponse _ p | .reductionOpen _ p
  | .reductionPartial _ p _ | .reductionFinal _ p | .mirrorPacket _ p | .mirrorCommit _ p
  | .snapshotPacket _ p => p.wf
  | .controlRequest m | .firmwarePiece m | .networkConfiguration m | .keyManagement m => m.wf
  | .quizDigestsComplete faulty => decide (faulty.length ≤ 32)
  | .ringEnableWrite _ on => (on.getD []).length ≤ 255 && (on.getD []).all fun e => e.ext.wf
  | .dataServiceLine _ _ off _ _ => decide (off % 64 = 0)
  | .weightCacheFill _ x => decide (x.line % 256 = 0)
  | .bisnpResponse _ line => decide (line % 64 = 0)
  | .vendorDefinedRequest _ _ km => decide (km.key.length = 32)
  | .unlockResponse key sig => decide (key.length = 57) && decide (sig.length = 114)
  | _ => true

end Sys2Proof
end

