-- ==== Sys2Proof/Laws/PerInstr.lean ====
section
/-! SUPPORT. Statements made for each command as syntax: no word of the opcode table spells it. -/

namespace Sys2Proof.Laws.Words

/-- The table gives no row bits, so no word of it spells the command. -/
def Statement (i : Instr) : Prop := ∀ nbits w : Nat, decodeTableWord nbits w ≠ some i

theorem identify (r : RingIx) : Statement (.identify r) := fun _ _ h => nomatch h
theorem featureRead (r : RingIx) : Statement (.featureRead r) := fun _ _ h => nomatch h
theorem partitionSet (r : RingIx) : Statement (.partitionSet r) := fun _ _ h => nomatch h
theorem fabricConfig (r : RingIx) : Statement (.fabricConfig r) := fun _ _ h => nomatch h
theorem portEnable (r : RingIx) : Statement (.portEnable r) := fun _ _ h => nomatch h
theorem deviceReset (r : RingIx) : Statement (.deviceReset r) := fun _ _ h => nomatch h
theorem loadImage (r : RingIx) (img : HostData) : Statement (.loadImage r img) := fun _ _ h => nomatch h
theorem loaderReadComplete (r : RingIx) (img : HostData) : Statement (.loaderReadComplete r img) := fun _ _ h => nomatch h
theorem startJob (r : RingIx) : Statement (.startJob r) := fun _ _ h => nomatch h
theorem stopJob (r : RingIx) : Statement (.stopJob r) := fun _ _ h => nomatch h
theorem unload (r : RingIx) : Statement (.unload r) := fun _ _ h => nomatch h
theorem status (r : RingIx) : Statement (.status r) := fun _ _ h => nomatch h
theorem writeHbm (r : RingIx) (data : HostData) : Statement (.writeHbm r data) := fun _ _ h => nomatch h
theorem readHbm (r : RingIx) : Statement (.readHbm r) := fun _ _ h => nomatch h
theorem apertureMap (r : RingIx) : Statement (.apertureMap r) := fun _ _ h => nomatch h
theorem journalRead (r : RingIx) : Statement (.journalRead r) := fun _ _ h => nomatch h
theorem chartLoad (r : RingIx) : Statement (.chartLoad r) := fun _ _ h => nomatch h
theorem chartRead (r : RingIx) : Statement (.chartRead r) := fun _ _ h => nomatch h
theorem fwBegin (r : RingIx) : Statement (.fwBegin r) := fun _ _ h => nomatch h
theorem fwBlock (r : RingIx) (data : HostData) : Statement (.fwBlock r data) := fun _ _ h => nomatch h
theorem fwStatus (r : RingIx) : Statement (.fwStatus r) := fun _ _ h => nomatch h
theorem fwActivate (r : RingIx) : Statement (.fwActivate r) := fun _ _ h => nomatch h
theorem fwDiscard (r : RingIx) : Statement (.fwDiscard r) := fun _ _ h => nomatch h
theorem fwFuse (r : RingIx) : Statement (.fwFuse r) := fun _ _ h => nomatch h
theorem powerStatus (r : RingIx) : Statement (.powerStatus r) := fun _ _ h => nomatch h
theorem powerPolicy (r : RingIx) : Statement (.powerPolicy r) := fun _ _ h => nomatch h
theorem benchState (r : RingIx) : Statement (.benchState r) := fun _ _ h => nomatch h
theorem dieState (r : RingIx) : Statement (.dieState r) := fun _ _ h => nomatch h
theorem deviceStandby (r : RingIx) : Statement (.deviceStandby r) := fun _ _ h => nomatch h
theorem powerCap (r : RingIx) : Statement (.powerCap r) := fun _ _ h => nomatch h
theorem examResults (r : RingIx) : Statement (.examResults r) := fun _ _ h => nomatch h
theorem examRun (r : RingIx) : Statement (.examRun r) := fun _ _ h => nomatch h
theorem examPolicy (r : RingIx) : Statement (.examPolicy r) := fun _ _ h => nomatch h
theorem telemetryRead (r : RingIx) (smp : TeleSample) : Statement (.telemetryRead r smp) := fun _ _ h => nomatch h
theorem telemetryClear (r : RingIx) : Statement (.telemetryClear r) := fun _ _ h => nomatch h
theorem recordRead (r : RingIx) : Statement (.recordRead r) := fun _ _ h => nomatch h
theorem serviceSet (r : RingIx) : Statement (.serviceSet r) := fun _ _ h => nomatch h
theorem doorbell (r : HostRing) (tail : Byte) (subs : (List Submit)) : Statement (.doorbell r tail subs) := fun _ _ h => nomatch h
theorem repHeadWrite (r : HostRing) (head : Byte) : Statement (.repHeadWrite r head) := fun _ _ h => nomatch h
theorem ringEnableWrite (r : HostRing) (on : Option (List Submit)) : Statement (.ringEnableWrite r on) := fun _ _ h => nomatch h
theorem registerWrite (reg : Reg) (v : (BitVec 64)) : Statement (.registerWrite reg v) := fun _ _ h => nomatch h
theorem commandReply (r : RingIx) : Statement (.commandReply r) := fun _ _ h => nomatch h
theorem completeWrite (k : ClerkIx) (v : Byte) : Statement (.completeWrite k v) := fun _ _ h => nomatch h
theorem gieWrite (k : ClerkIx) (on : Bool) : Statement (.gieWrite k on) := fun _ _ h => nomatch h
theorem routeWrite (src : (Fin 32)) (k : ClerkIx) : Statement (.routeWrite src k) := fun _ _ h => nomatch h
theorem interruptDelivery (k : ClerkIx) (posts : (List ClerkIx)) : Statement (.interruptDelivery k posts) := fun _ _ h => nomatch h
theorem handlerOverdue (k : ClerkIx) : Statement (.handlerOverdue k) := fun _ _ h => nomatch h
theorem periodStart (p : PartIx) : Statement (.periodStart p) := fun _ _ h => nomatch h
theorem descriptorLoad (c : CellIx) (ecc : Ecc) : Statement (.descriptorLoad c ecc) := fun _ _ h => nomatch h
theorem descriptorIssue (c : CellIx) : Statement (.descriptorIssue c) := fun _ _ h => nomatch h
theorem descriptorComplete (c : CellIx) (k : (Fin 4)) : Statement (.descriptorComplete c k) := fun _ _ h => nomatch h
theorem tallySignal (p : PartIx) : Statement (.tallySignal p) := fun _ _ h => nomatch h
theorem nop (c : CellIx) : Statement (.nop c) := fun _ _ h => nomatch h
theorem engine (c : CellIx) : Statement (.engine c) := fun _ _ h => nomatch h
theorem multiplyAdd (c : CellIx) (fault : (Option SiteFault)) : Statement (.multiplyAdd c fault) := fun _ _ h => nomatch h
theorem absoluteDifference (c : CellIx) (fault : (Option SiteFault)) : Statement (.absoluteDifference c fault) := fun _ _ h => nomatch h
theorem squaredDifference (c : CellIx) (fault : (Option SiteFault)) : Statement (.squaredDifference c fault) := fun _ _ h => nomatch h
theorem minPlus (c : CellIx) (fault : (Option SiteFault)) : Statement (.minPlus c fault) := fun _ _ h => nomatch h
theorem maxPlus (c : CellIx) (fault : (Option SiteFault)) : Statement (.maxPlus c fault) := fun _ _ h => nomatch h
theorem compareAndCount (c : CellIx) (fault : (Option SiteFault)) : Statement (.compareAndCount c fault) := fun _ _ h => nomatch h
theorem drain (c : CellIx) : Statement (.drain c) := fun _ _ h => nomatch h
theorem vector (c : CellIx) : Statement (.vector c) := fun _ _ h => nomatch h
theorem vecAdd (c : CellIx) : Statement (.vecAdd c) := fun _ _ h => nomatch h
theorem dequant (c : CellIx) : Statement (.dequant c) := fun _ _ h => nomatch h
theorem splitFp32 (c : CellIx) : Statement (.splitFp32 c) := fun _ _ h => nomatch h
theorem splitBf16 (c : CellIx) : Statement (.splitBf16 c) := fun _ _ h => nomatch h
theorem vecFma (c : CellIx) : Statement (.vecFma c) := fun _ _ h => nomatch h
theorem convert (c : CellIx) : Statement (.convert c) := fun _ _ h => nomatch h
theorem optim (c : CellIx) : Statement (.optim c) := fun _ _ h => nomatch h
theorem row (c : CellIx) : Statement (.row c) := fun _ _ h => nomatch h
theorem softmaxForward (c : CellIx) : Statement (.softmaxForward c) := fun _ _ h => nomatch h
theorem softmaxBackward (c : CellIx) : Statement (.softmaxBackward c) := fun _ _ h => nomatch h
theorem normalisationForward (c : CellIx) : Statement (.normalisationForward c) := fun _ _ h => nomatch h
theorem normalisationBackward (c : CellIx) : Statement (.normalisationBackward c) := fun _ _ h => nomatch h
theorem orthonormalisation (c : CellIx) : Statement (.orthonormalisation c) := fun _ _ h => nomatch h
theorem scalar (c : CellIx) : Statement (.scalar c) := fun _ _ h => nomatch h
theorem scalarSum (c : CellIx) : Statement (.scalarSum c) := fun _ _ h => nomatch h
theorem scalarSumOfSquares (c : CellIx) : Statement (.scalarSumOfSquares c) := fun _ _ h => nomatch h
theorem scalarMaximum (c : CellIx) : Statement (.scalarMaximum c) := fun _ _ h => nomatch h
theorem scalarMinimum (c : CellIx) : Statement (.scalarMinimum c) := fun _ _ h => nomatch h
theorem nanCount (c : CellIx) : Statement (.nanCount c) := fun _ _ h => nomatch h
theorem infinityCount (c : CellIx) : Statement (.infinityCount c) := fun _ _ h => nomatch h
theorem move (c : CellIx) : Statement (.move c) := fun _ _ h => nomatch h
theorem endWalk (c : CellIx) : Statement (.endWalk c) := fun _ _ h => nomatch h
theorem loop (c : CellIx) : Statement (.loop c) := fun _ _ h => nomatch h
theorem loopExitSignal (c : CellIx) : Statement (.loopExitSignal c) := fun _ _ h => nomatch h
theorem branch (c : CellIx) : Statement (.branch c) := fun _ _ h => nomatch h
theorem setCount (c : CellIx) : Statement (.setCount c) := fun _ _ h => nomatch h
theorem join (c : CellIx) : Statement (.join c) := fun _ _ h => nomatch h
theorem joinSignal (f : FormIx) : Statement (.joinSignal f) := fun _ _ h => nomatch h
theorem feature (c : CellIx) : Statement (.feature c) := fun _ _ h => nomatch h
theorem skipPad (c : CellIx) : Statement (.skipPad c) := fun _ _ h => nomatch h
theorem formPeriodEnd (f : FormIx) : Statement (.formPeriodEnd f) := fun _ _ h => nomatch h
theorem slotTokenTake (c : CellIx) (sl : SlotIx) : Statement (.slotTokenTake c sl) := fun _ _ h => nomatch h
theorem engineStep (c : CellIx) (fault : (Option SiteFault)) : Statement (.engineStep c fault) := fun _ _ h => nomatch h
theorem drainStart (c : CellIx) : Statement (.drainStart c) := fun _ _ h => nomatch h
theorem slotBufferPush (c : CellIx) (sl : SlotIx) : Statement (.slotBufferPush c sl) := fun _ _ h => nomatch h
theorem queuePush (c : CellIx) (q : QueueIx) (e : Entry) : Statement (.queuePush c q e) := fun _ _ h => nomatch h
theorem queuePop (c : CellIx) (q : QueueIx) (out : (Option (Fin 4))) : Statement (.queuePop c q out) := fun _ _ h => nomatch h
theorem streamEntryStart (c : CellIx) (st : StreamIx) (errs : WordErrs) : Statement (.streamEntryStart c st errs) := fun _ _ h => nomatch h
theorem memoryReturn (c : CellIx) (st : StreamIx) (errs : WordErrs) (k : Nat) : Statement (.memoryReturn c st errs k) := fun _ _ h => nomatch h
theorem writeStreamEntry (c : CellIx) (st : StreamIx) : Statement (.writeStreamEntry c st) := fun _ _ h => nomatch h
theorem writeAccepted (c : CellIx) (w : WriteAt) : Statement (.writeAccepted c w) := fun _ _ h => nomatch h
theorem weightCacheFill (d : DieIx) (x : LineRead) : Statement (.weightCacheFill d x) := fun _ _ h => nomatch h
theorem hbmTurn (d : DieIx) (pc : (Fin 96)) : Statement (.hbmTurn d pc) := fun _ _ h => nomatch h
theorem remoteWritePacket (p : PartIx) (pkt : Packet) : Statement (.remoteWritePacket p pkt) := fun _ _ h => nomatch h
theorem readRequest (p : PartIx) (pkt : Packet) (ecc : Ecc) : Statement (.readRequest p pkt ecc) := fun _ _ h => nomatch h
theorem readResponse (p : PartIx) (pkt : Packet) : Statement (.readResponse p pkt) := fun _ _ h => nomatch h
theorem runStart (d : DieIx) (kind : (Fin 4)) (bad : Option (Nat × Ecc)) : Statement (.runStart d kind bad) := fun _ _ h => nomatch h
theorem reductionOpen (p : PartIx) (pkt : Packet) : Statement (.reductionOpen p pkt) := fun _ _ h => nomatch h
theorem reductionPartial (p : PartIx) (pkt : Packet) (bad : Option (Nat × Ecc)) : Statement (.reductionPartial p pkt bad) := fun _ _ h => nomatch h
theorem reductionFinal (p : PartIx) (pkt : Packet) : Statement (.reductionFinal p pkt) := fun _ _ h => nomatch h
theorem runComplete (d : DieIx) (x : RunEnd) : Statement (.runComplete d x) := fun _ _ h => nomatch h
theorem dataFlit (port : PortIx) (u : UnitIx) (rx : RxFlit) : Statement (.dataFlit port u rx) := fun _ _ h => nomatch h
theorem idleFlit (port : PortIx) (u : UnitIx) (rx : RxFlit) : Statement (.idleFlit port u rx) := fun _ _ h => nomatch h
theorem controlFlit (port : PortIx) (u : UnitIx) (rx : RxFlit) : Statement (.controlFlit port u rx) := fun _ _ h => nomatch h
theorem flitSlot (port : PortIx) (x : UnitSlot) : Statement (.flitSlot port x) := fun _ _ h => nomatch h
theorem replayLimit (port : PortIx) (u : UnitIx) (fec : Bool) : Statement (.replayLimit port u fec) := fun _ _ h => nomatch h
theorem laneSignalLoss (port : PortIx) (lane : (Fin 36)) : Statement (.laneSignalLoss port lane) := fun _ _ h => nomatch h
theorem retrainComplete (port : PortIx) (u : UnitIx) (ok : Bool) : Statement (.retrainComplete port u ok) := fun _ _ h => nomatch h
theorem packetRoute (src : Input) : Statement (.packetRoute src) := fun _ _ h => nomatch h
theorem packetSend (port : PortIx) (u : UnitIx) (vc : (Fin 8)) : Statement (.packetSend port u vc) := fun _ _ h => nomatch h
theorem packetEscape (src : Input) : Statement (.packetEscape src) := fun _ _ h => nomatch h
theorem multicastRelay : Statement (.multicastRelay) := fun _ _ h => nomatch h
theorem detectSignal (port : PortIx) (quads : (BitVec 8)) : Statement (.detectSignal port quads) := fun _ _ h => nomatch h
theorem detectTimeout (port : PortIx) : Statement (.detectTimeout port) := fun _ _ h => nomatch h
theorem trainComplete (port : PortIx) (nb : Neighbour) : Statement (.trainComplete port nb) := fun _ _ h => nomatch h
theorem trainTimeout (port : PortIx) : Statement (.trainTimeout port) := fun _ _ h => nomatch h
theorem verifyComplete (port : PortIx) (pass : (BitVec 9)) : Statement (.verifyComplete port pass) := fun _ _ h => nomatch h
theorem mirrorBridgeWait (port : PortIx) (u : UnitIx) : Statement (.mirrorBridgeWait port u) := fun _ _ h => nomatch h
theorem stepBell (p : PartIx) (ctl : Control) : Statement (.stepBell p ctl) := fun _ _ h => nomatch h
theorem restartBell (p : PartIx) (ctl : Control) : Statement (.restartBell p ctl) := fun _ _ h => nomatch h
theorem holdBell (p : PartIx) (ctl : Control) : Statement (.holdBell p ctl) := fun _ _ h => nomatch h
theorem haltBell (p : PartIx) (ctl : Control) : Statement (.haltBell p ctl) := fun _ _ h => nomatch h
theorem beacon (p : PartIx) (ctl : Control) : Statement (.beacon p ctl) := fun _ _ h => nomatch h
theorem memberToken (p : PartIx) (ctl : Control) : Statement (.memberToken p ctl) := fun _ _ h => nomatch h
theorem rowToken (p : PartIx) (ctl : Control) (us : Nat) : Statement (.rowToken p ctl us) := fun _ _ h => nomatch h
theorem holdAnswer (p : PartIx) (ctl : Control) (us : Nat) : Statement (.holdAnswer p ctl us) := fun _ _ h => nomatch h
theorem slowNotice (p : PartIx) (ctl : Control) : Statement (.slowNotice p ctl) := fun _ _ h => nomatch h
theorem troubleNotice (p : PartIx) (ctl : Control) : Statement (.troubleNotice p ctl) := fun _ _ h => nomatch h
theorem claim (p : PartIx) (ctl : Control) : Statement (.claim p ctl) := fun _ _ h => nomatch h
theorem paceChange (p : PartIx) (tj : BitVec 64) (msPassed : Bool) : Statement (.paceChange p tj msPassed) := fun _ _ h => nomatch h
theorem patienceExpiry (p : PartIx) : Statement (.patienceExpiry p) := fun _ _ h => nomatch h
theorem answerWindowExpiry (p : PartIx) : Statement (.answerWindowExpiry p) := fun _ _ h => nomatch h
theorem examinationAllowanceExpiry (p : PartIx) : Statement (.examinationAllowanceExpiry p) := fun _ _ h => nomatch h
theorem beaconTimer (p : PartIx) : Statement (.beaconTimer p) := fun _ _ h => nomatch h
theorem watchExpiry (p : PartIx) : Statement (.watchExpiry p) := fun _ _ h => nomatch h
theorem takeover (p : PartIx) : Statement (.takeover p) := fun _ _ h => nomatch h
theorem firstStepTimeout (p : PartIx) : Statement (.firstStepTimeout p) := fun _ _ h => nomatch h
theorem periodClose (p : PartIx) : Statement (.periodClose p) := fun _ _ h => nomatch h
theorem mirrorPacket (p : PartIx) (pkt : Packet) : Statement (.mirrorPacket p pkt) := fun _ _ h => nomatch h
theorem mirrorCommit (p : PartIx) (pkt : Packet) : Statement (.mirrorCommit p pkt) := fun _ _ h => nomatch h
theorem mirrorApplyComplete (p : PartIx) : Statement (.mirrorApplyComplete p) := fun _ _ h => nomatch h
theorem mirrorAcknowledge (p : PartIx) (ctl : Control) : Statement (.mirrorAcknowledge p ctl) := fun _ _ h => nomatch h
theorem snapshotPacket (p : PartIx) (pkt : Packet) : Statement (.snapshotPacket p pkt) := fun _ _ h => nomatch h
theorem snapshotStreamComplete (p : PartIx) : Statement (.snapshotStreamComplete p) := fun _ _ h => nomatch h
theorem chartUpdate (p : PartIx) (ctl : Control) : Statement (.chartUpdate p ctl) := fun _ _ h => nomatch h
theorem chartCommit (p : PartIx) (ctl : Control) : Statement (.chartCommit p ctl) := fun _ _ h => nomatch h
theorem chartAcknowledge (p : PartIx) (ctl : Control) : Statement (.chartAcknowledge p ctl) := fun _ _ h => nomatch h
theorem seatRequest (p : PartIx) (ctl : Control) : Statement (.seatRequest p ctl) := fun _ _ h => nomatch h
theorem seatReady (p : PartIx) (ctl : Control) : Statement (.seatReady p ctl) := fun _ _ h => nomatch h
theorem refillRequest (p : PartIx) (ctl : Control) : Statement (.refillRequest p ctl) := fun _ _ h => nomatch h
theorem refillDone (p : PartIx) (ctl : Control) : Statement (.refillDone p ctl) := fun _ _ h => nomatch h
theorem waypointSealed (p : PartIx) (ctl : Control) : Statement (.waypointSealed p ctl) := fun _ _ h => nomatch h
theorem waypointWhole (p : PartIx) (ctl : Control) : Statement (.waypointWhole p ctl) := fun _ _ h => nomatch h
theorem restoreOrder (p : PartIx) (ctl : Control) : Statement (.restoreOrder p ctl) := fun _ _ h => nomatch h
theorem waypointRestoreComplete (p : PartIx) (wp : HostData) : Statement (.waypointRestoreComplete p wp) := fun _ _ h => nomatch h
theorem restoreDone (p : PartIx) (ctl : Control) : Statement (.restoreDone p ctl) := fun _ _ h => nomatch h
theorem fenceNotice (p : PartIx) (ctl : Control) : Statement (.fenceNotice p ctl) := fun _ _ h => nomatch h
theorem errorReport (e : ErrEvent) : Statement (.errorReport e) := fun _ _ h => nomatch h
theorem reexaminationComplete (unit : (Fin 5)) (passed : Bool) : Statement (.reexaminationComplete unit passed) := fun _ _ h => nomatch h
theorem quizTimer : Statement (.quizTimer) := fun _ _ h => nomatch h
theorem quizDigestsComplete (faulty : (List (Fin 32 × BitVec 64))) : Statement (.quizDigestsComplete faulty) := fun _ _ h => nomatch h
theorem telemetryTimer (x : TelePeriod) : Statement (.telemetryTimer x) := fun _ _ h => nomatch h
theorem examTimer : Statement (.examTimer) := fun _ _ h => nomatch h
theorem waypointTimer (finishes : Bool) : Statement (.waypointTimer finishes) := fun _ _ h => nomatch h
theorem scrubTimer (x : ScrubPeriod) : Statement (.scrubTimer x) := fun _ _ h => nomatch h
theorem sliceGrant (x : SliceStart) : Statement (.sliceGrant x) := fun _ _ h => nomatch h
theorem examSliceComplete (t : Word) (rs : (List ExamOutcome)) : Statement (.examSliceComplete t rs) := fun _ _ h => nomatch h
theorem sliceBudgetExpiry (t : Word) : Statement (.sliceBudgetExpiry t) := fun _ _ h => nomatch h
theorem hostMemRead (line : (BitVec 30)) : Statement (.hostMemRead line) := fun _ _ h => nomatch h
theorem hostMemWrite (line : (BitVec 30)) (data : (BitVec 512)) (be : (BitVec 64)) : Statement (.hostMemWrite line data be) := fun _ _ h => nomatch h
theorem bisnpResponse (d : DieIx) (line : Nat) : Statement (.bisnpResponse d line) := fun _ _ h => nomatch h
theorem h2dSnoop (addr : (BitVec 64)) : Statement (.h2dSnoop addr) := fun _ _ h => nomatch h
theorem dataServiceLine (p : PartIx) (i : (Fin 256)) (off : Nat) (data : (BitVec 512)) (poison : Bool) : Statement (.dataServiceLine p i off data poison) := fun _ _ h => nomatch h
theorem cxlLinkUp (width : (Fin 8)) (rate : (Fin 8)) (flit256 : Bool) : Statement (.cxlLinkUp width rate flit256) := fun _ _ h => nomatch h
theorem cxlLinkReset (kind : LinkReset) : Statement (.cxlLinkReset kind) := fun _ _ h => nomatch h
theorem viralReceived : Statement (.viralReceived) := fun _ _ h => nomatch h
theorem ideIntegrityFailure : Statement (.ideIntegrityFailure) := fun _ _ h => nomatch h
theorem controlRequest (m : Kmp) : Statement (.controlRequest m) := fun _ _ h => nomatch h
theorem firmwarePiece (m : Kmp) : Statement (.firmwarePiece m) := fun _ _ h => nomatch h
theorem networkConfiguration (m : Kmp) : Statement (.networkConfiguration m) := fun _ _ h => nomatch h
theorem keyManagement (m : Kmp) : Statement (.keyManagement m) := fun _ _ h => nomatch h
theorem announcementTimer : Statement (.announcementTimer) := fun _ _ h => nomatch h
theorem arpRequest (ip : (BitVec 32)) : Statement (.arpRequest ip) := fun _ _ h => nomatch h
theorem neighborSolicitation (ip : (BitVec 128)) : Statement (.neighborSolicitation ip) := fun _ _ h => nomatch h
theorem echoRequest (m : Echo) : Statement (.echoRequest m) := fun _ _ h => nomatch h
theorem mctpControl (m : MctpControl) : Statement (.mctpControl m) := fun _ _ h => nomatch h
theorem getVersion (t : Transport) : Statement (.getVersion t) := fun _ _ h => nomatch h
theorem getCapabilities (t : Transport) : Statement (.getCapabilities t) := fun _ _ h => nomatch h
theorem negotiateAlgorithms (t : Transport) (a : AlgorithmOffer) : Statement (.negotiateAlgorithms t a) := fun _ _ h => nomatch h
theorem getDigests (t : Transport) : Statement (.getDigests t) := fun _ _ h => nomatch h
theorem getCertificate (t : Transport) (slot : Byte) (off : Nat) (len : Nat) : Statement (.getCertificate t slot off len) := fun _ _ h => nomatch h
theorem challenge (t : Transport) (nonce : (BitVec 256)) : Statement (.challenge t nonce) := fun _ _ h => nomatch h
theorem getMeasurements (t : Transport) (ix : Byte) (nonce : (BitVec 256)) (sign : Bool) : Statement (.getMeasurements t ix nonce sign) := fun _ _ h => nomatch h
theorem keyExchange (t : Transport) (pub : (List Byte)) : Statement (.keyExchange t pub) := fun _ _ h => nomatch h
theorem finish (t : Transport) (sess : Nat) (macOk : Bool) : Statement (.finish t sess macOk) := fun _ _ h => nomatch h
theorem heartbeat (t : Transport) (sess : Nat) : Statement (.heartbeat t sess) := fun _ _ h => nomatch h
theorem keyUpdate (t : Transport) (sess : Nat) : Statement (.keyUpdate t sess) := fun _ _ h => nomatch h
theorem endSession (t : Transport) (sess : Nat) : Statement (.endSession t sess) := fun _ _ h => nomatch h
theorem vendorDefinedRequest (t : Transport) (sess : Nat) (km : IdeKm) : Statement (.vendorDefinedRequest t sess km) := fun _ _ h => nomatch h
theorem fwVerificationDone : Statement (.fwVerificationDone) := fun _ _ h => nomatch h
theorem switchBoundary (badWrites : (Fin 3)) : Statement (.switchBoundary badWrites) := fun _ _ h => nomatch h
theorem activateWindowExpiry : Statement (.activateWindowExpiry) := fun _ _ h => nomatch h
theorem firmwareReady : Statement (.firmwareReady) := fun _ _ h => nomatch h
theorem firmwareReadyTimeout : Statement (.firmwareReadyTimeout) := fun _ _ h => nomatch h
theorem governorSample (smp : GovSample) : Statement (.governorSample smp) := fun _ _ h => nomatch h
theorem sprintLimit : Statement (.sprintLimit) := fun _ _ h => nomatch h
theorem wearHour : Statement (.wearHour) := fun _ _ h => nomatch h
theorem shutdownEventComplete (d : DieIx) : Statement (.shutdownEventComplete d) := fun _ _ h => nomatch h
theorem wakeStepComplete (d : DieIx) : Statement (.wakeStepComplete d) := fun _ _ h => nomatch h
theorem stageFault (k : (Fin 4)) (code : (BitVec 64)) : Statement (.stageFault k code) := fun _ _ h => nomatch h
theorem inputUndervoltage : Statement (.inputUndervoltage) := fun _ _ h => nomatch h
theorem overTemperatureStop : Statement (.overTemperatureStop) := fun _ _ h => nomatch h
theorem vinRise : Statement (.vinRise) := fun _ _ h => nomatch h
theorem coldNAssert : Statement (.coldNAssert) := fun _ _ h => nomatch h
theorem coldNRelease (held10us : Bool) : Statement (.coldNRelease held10us) := fun _ _ h => nomatch h
theorem coldStart (st : BootSample) : Statement (.coldStart st) := fun _ _ h => nomatch h
theorem perstAssert (held1us : Bool) : Statement (.perstAssert held1us) := fun _ _ h => nomatch h
theorem perstRelease : Statement (.perstRelease) := fun _ _ h => nomatch h
theorem startupReady (ms : Word) : Statement (.startupReady ms) := fun _ _ h => nomatch h
theorem startHold (order : (Fin 16)) (failed : (BitVec 12)) (dies : (BitVec 4)) : Statement (.startHold order failed dies) := fun _ _ h => nomatch h
theorem trstNAssert : Statement (.trstNAssert) := fun _ _ h => nomatch h
theorem bypass : Statement (.bypass) := fun _ _ h => nomatch h
theorem idcode : Statement (.idcode) := fun _ _ h => nomatch h
theorem samplePreload : Statement (.samplePreload) := fun _ _ h => nomatch h
theorem extest : Statement (.extest) := fun _ _ h => nomatch h
theorem clamp : Statement (.clamp) := fun _ _ h => nomatch h
theorem debugUnlock : Statement (.debugUnlock) := fun _ _ h => nomatch h
theorem unlockResponse (key : (List Byte)) (sig : (List Byte)) : Statement (.unlockResponse key sig) := fun _ _ h => nomatch h
theorem waypointCopyComplete (p : PartIx) : Statement (.waypointCopyComplete p) := fun _ _ h => nomatch h
theorem bodyInvalidReport (p : PartIx) : Statement (.bodyInvalidReport p) := fun _ _ h => nomatch h
theorem managementLinkLoss : Statement (.managementLinkLoss) := fun _ _ h => nomatch h
theorem i3cCommonCommand (cc : I3cCommand) : Statement (.i3cCommonCommand cc) := fun _ _ h => nomatch h

end Sys2Proof.Laws.Words
end

