-- ==== Sys2Proof/Tests/Slice0.lean ====
section
/-! SUPPORT. Tests: ill-formed operands, worked values of the manual, and for every obligation a state and operands that meet its hypotheses. -/

namespace Sys2Proof.Tests

set_option Elab.async false

open Sys2Proof.Machine

/-! ## Helpers -/

/-- A die that is up. -/
def upDie : Die := { mode := .up, railsOff := false, refsStopped := false, clamped := false }

/-- A ready device whose dies are all up, with partition 0 as given. -/
def awake (P : Partition) : State :=
  { dies := [(0, upDie), (1, upDie), (2, upDie), (3, upDie)], parts := [(0, P)]
    mgmt := { linkUp := true, trained := true }
    sec := { attKey := some [0] }
    power := { order := 13, ready := true, memAct := true, state := .ready } }

/-- A partition with all four dies in a state. -/
def part (x : PartState) : Partition := { dies := 0xF, state := x }

/-- A command as ring 0 reads it, its parameters given as one number of `n` bytes. -/
def cmdOf (op n par : Nat) : PendCmd :=
  { index := 0
    entry := at' 512 0 16 op ||| bitAt 512 20 true ||| at' 512 28 4 1 ||| at' 512 64 32 n ||| at' 512 192 32 4096 |||
      at' 512 256 256 par
    ext := ⟨[], none⟩ }

/-- As `cmdOf`, with the parameters at PARAM_ADDR. -/
def cmdExt (op : Nat) (bs : List Byte) : PendCmd :=
  { index := 0, entry := at' 512 0 16 op ||| at' 512 28 4 1 ||| at' 512 64 32 bs.length, ext := ⟨bs, none⟩ }

/-- A command waits at the front of ring 0. -/
def onRing (s : State) (c : PendCmd) : State :=
  { s with rings := [(0, { enable := true, pend := [c] }), (1, { msix := 1 }), (2, { msix := 2 }), (3, { msix := 3 })] }

/-- The command may start on ring 0 in the state. -/
def starts (s : State) (op : Nat) (states : List PartState) (bad : State → PendCmd → Option Nat) (c : PendCmd) : Bool :=
  decide ((onRing s c).Starts 0 op states (bad (onRing s c)) c)

/-- All of these hold. -/
def all (l : List Bool) : Bool := l.all fun b => b

/-! ## Ill-formed operands are refused -/

theorem test_wf_good : (Instr.quizDigestsComplete (List.replicate 32 (0, 0))).wf = true ∧
    (Instr.remoteWritePacket 0 ⟨at' 256 64 13 2, [1, 2]⟩).wf = true ∧ (Instr.queuePush 0 19 { data := 0 }).wf = true := by
  decide +kernel
theorem test_wf_host_data : (Instr.loadImage 0 ⟨[1], some 2⟩).wf = false := by decide
theorem test_wf_doorbell : (Instr.doorbell 0 1 (List.replicate 256 ⟨0, ⟨[], none⟩⟩)).wf = false := by decide +kernel
theorem test_wf_queue : (Instr.queuePush 0 20 { data := 0 }).wf = false := by decide
theorem test_wf_packet_length : (Instr.readResponse 0 ⟨at' 256 64 13 2, [1]⟩).wf = false := by decide +kernel
theorem test_wf_kmp_length : (Instr.controlRequest { viaI3c := false, hdr := at' 256 48 16 2, payload := [1], sig := [], newSecond := false }).wf = false := by
  decide +kernel
theorem test_wf_quiz : (Instr.quizDigestsComplete (List.replicate 33 (0, 0))).wf = false := by decide
theorem test_wf_data_line : (Instr.dataServiceLine 0 0 32 0 false).wf = false := by decide
theorem test_wf_fill : (Instr.weightCacheFill 0 ⟨64, []⟩).wf = false := by decide
theorem test_wf_snoop : (Instr.bisnpResponse 0 32).wf = false := by decide
theorem test_wf_ide_key : (Instr.vendorDefinedRequest .doe 0 ⟨0, []⟩).wf = false := by decide
theorem test_wf_unlock : (Instr.unlockResponse [] []).wf = false := by decide

/-! ## The step, the queue, reset -/

theorem witness_StepRunsFrontCommand : ({ State.reset with pending := [.trstNAssert] } : State).pending = [.trstNAssert] := rfl
theorem witness_EmptyQueueSteps :
    (let s : State := { State.reset with deferred := [(.trstNAssert, some 7)] }
     s.pending = [] ∧ s.deferred = [(.trstNAssert, some 7)] ∧ s.fw.stage = .idle ∧
       ∃ t, exec .trstNAssert { s with deferred := [], hub := { s.hub with given := some 7 } } = .next t) ∧
    (State.reset.pending = [] ∧ State.reset.deferred = []) ∧
    (let s : State := { State.reset with fw := { stage := .starting } }; s.pending = [] ∧ s.fw.stage ≠ .idle) := by
  refine ⟨⟨rfl, rfl, rfl, _, rfl⟩, ⟨rfl, rfl⟩, rfl, by decide⟩

/-- A step from a state in canonical form that goes on. -/
theorem witness_StepKeepsCanonical :
    let s : State := { State.reset with pending := [.hostMemRead 0] }
    s.Canon ∧ Sys2Proof.Machine.step s = .next { s with pending := [] } := ⟨by decide +kernel, rfl⟩

/-- The fuse is blown, and a step goes on. -/
theorem witness_FusesOnlyBlow :
    let s : State := { State.reset with pending := [.deviceReset 0], fw := { debugFuse := true } }
    Sys2Proof.Machine.step s = .next { s with pending := [] } := rfl

/-! ## Commands from the rings -/

theorem witness_PausedCellWaits :
    let s : State := { State.reset with cells := [(5, { paused := true })] }
    (s.cell 5).paused = true := by decide

theorem witness_RefusedCommandsChangeNothing :
    let c := cmdOf 0x0202 16 0
    (onRing (awake (part .empty)) c).Refused 0 0x0202 [.loaded, .halted] (badStart (onRing (awake (part .empty)) c)) c (0x0201, 0) ∧
    (let d := cmdOf 0x0105 4 0x100
     (onRing (awake (part .empty)) d).Refused 0 0x0105 anyState (fun c => c.rsv 8 24) d (0x0106, 8)) ∧
    (let d := cmdOf 0x0401 0 0
     let s := onRing { awake (part .loaded) with power := { state := .recovery } } d
     s.Refused 0 0x0401 [.loaded, .halted, .primed] badChart d (0x050C, 0)) := by decide +kernel

theorem witness_ReplyChangesItsRingAlone :
    let c := cmdOf 0x0101 0 0
    let s : State := { State.reset with rings := [(0, { running := [c] })] }
    SMap.wf {} s.rings = true ∧ c ∈ (s.ring 0).running ∧ c ∉ (s.ring 1).running := by decide +kernel

/-- R324: of two rings' first commands, the one whose doorbell came first is taken first. -/
theorem test_ring_order :
    let c : PendCmd := { cmdOf 0x0101 0 0 with num := 5 }
    let e : PendCmd := { c with num := 3 }
    let s : State := { awake (part .empty) with rings := [(0, { enable := true, pend := [c] }), (1, { enable := true, pend := [e], msix := 1 })] }
    s.isNext 0 c = false ∧ s.isNext 1 e = true := by decide +kernel

/-- IDENTIFY, FEATURE_READ, STATUS; PARTITION_SET where all is Empty and where partition 0 is not; FABRIC_CONFIG of one device
with every port Off and with one that is not; PORT_ENABLE; DEVICE_RESET. -/
theorem witness_HostSetupCommandsComplete :
    let e := awake (part .empty)
    let up : State := { e with fabric := { ports := [(0, { state := .up })] } }
    let maps : Nat := 0xE400 * 2 ^ 32 + 0xE155 * 2 ^ 48 + 0xD2AA * 2 ^ 64 + 0x93FF * 2 ^ 80
    starts e 0x0101 anyState (fun _ => noParams) (cmdOf 0x0101 0 0) ∧ starts e 0x0102 anyState (fun _ => noParams) (cmdOf 0x0102 0 0) ∧
    starts e 0x0205 anyState (fun _ => noParams) (cmdOf 0x0205 0 0) ∧
    (starts e 0x0103 anyState (fun _ c => lowest [badMasks c.masks, c.rsv 16 16]) (cmdOf 0x0103 4 0x000F) ∧
      ∀ p < 4, (e.part p).state = .empty) ∧
    (starts (awake (part .loaded)) 0x0103 anyState (fun _ c => lowest [badMasks c.masks, c.rsv 16 16]) (cmdOf 0x0103 4 0x000F) ∧
      ((awake (part .loaded)).part 0).state ≠ .empty) ∧
    (starts e 0x0104 anyState badFabric (cmdOf 0x0104 12 (0x0101 + maps)) ∧ ∀ i < 4, (e.port i).state = .off) ∧
    (starts up 0x0104 anyState badFabric (cmdOf 0x0104 12 (0x0101 + maps)) ∧ (up.port 0).state ≠ .off) ∧
    starts e 0x0105 anyState (fun _ c => c.rsv 8 24) (cmdOf 0x0105 4 0xFF) ∧
    starts e 0x0106 anyState (fun _ => noParams) (cmdOf 0x0106 0 0) := by decide +kernel

/-- The shortest image that Proctor accepts: the header and its two section entries, with no record in either. -/
def smallImage (digest : List Byte) : List Byte :=
  bytesOfNat 4 0x31495753 ++ bytesOfNat 2 1 ++ bytesOfNat 2 2 ++ bytesOfNat 8 192 ++ bytesOfNat 16 0 ++ digest ++
    List.replicate 64 0 ++ bytesOfNat 32 1 ++ bytesOfNat 32 3

def smallDigest : List Byte := bytesOfNat 32 59512610506194786588036761725795450269286629396338171343243868522189256273794

/-- LOAD of 192 bytes, with RESERVE, region sizes that sum to 36 GiB, shares that sum to 16. -/
def loadCmd : PendCmd :=
  cmdExt 0x0201 (bytesOfNat 64 (192 * 2 ^ 64 + 2 ^ 96 + (0x0202 * 256 + 140) * 2 ^ 192 + (8 + 4 * 32 + 4 * 1024) * 2 ^ 232 + 4 * 2 ^ 248))

/-- LOAD of an image that Proctor accepts (from Loaded, and Fenced at the end of the states), one that it rejects, one that the
host does not give. -/
theorem witness_LoadCompletes_start :
    all [starts (awake (part .loaded)) 0x0201 [.empty, .loaded, .halted, .fenced] (fun _ => badLoad) loadCmd,
      starts (awake (part .fenced)) 0x0201 [.empty, .loaded, .halted, .fenced] (fun _ => badLoad) loadCmd,
      decide ((⟨[], some 0⟩ : HostData).failAt = some 0)] = true := by decide +kernel

/-- What Proctor answers to a LOAD's image on the awake device. -/
def verdict (bytes : List Byte) : Nat :=
  let s := awake (part .loaded)
  (proctor loadCmd.part (s.part loadCmd.part).dies s.fabric.maps (loadCmd.readImage bytes) bytes).reason

theorem witness_LoadCompletes_accepted : verdict (loadCmd.imageBytes ⟨smallImage smallDigest, none⟩) = 0 := by decide +kernel
theorem witness_LoadCompletes_rejected : verdict (loadCmd.imageBytes ⟨smallImage (List.replicate 32 0), none⟩) ≠ 0 := by
  decide +kernel

/-- The second reading: a LOAD runs whose bytes have the digest of the header, and one whose bytes have not. -/
theorem witness_LoadCompletes_read :
    let l (d : List Byte) : Loading := ⟨{}, [], d, []⟩
    let s (d : List Byte) : State := { awake { part .loaded with loading := some (l d) } with rings := [(0, { running := [loadCmd] })] }
    let img : HostData := ⟨smallImage smallDigest, none⟩
    all ([smallDigest, []].map fun d =>
        decide (((s d).ring 0).running.find? (fun c => decide (c.opcode = 0x0201)) = some loadCmd) &&
        decide (((s d).part loadCmd.part).loading = some (l d))) = true ∧
      imageDigest (loadCmd.imageBytes img) = (l smallDigest).digest ∧ imageDigest (loadCmd.imageBytes img) ≠ (l []).digest := by
  decide +kernel

/-- A partition that holds a chart; one in single-device operation. -/
def charted (x : PartState) : Partition := { part x with chart := { held := true } }
def single (x : PartState) : Partition := { part x with image := { single := true } }

/-- START without a chart, single with FROM_WAYPOINT, with a chart with and without it, single without it. -/
theorem witness_JobCommandsComplete :
    let go (P : Partition) (flags : Nat) : Bool := starts (awake P) 0x0202 [.loaded, .halted] badStart (cmdOf 0x0202 16 (1 + flags * 2 ^ 64))
    all [go (part .loaded) 0, go (single .loaded) 3, go (charted .halted) 2, go (charted .loaded) 0, go (single .halted) 1,
      starts (awake (single .running)) 0x0203 [.running, .starting] (fun _ => noParams) (cmdOf 0x0203 0 0),
      decide (((awake (single .running)).part 0).isLode = false),
      starts (awake { single .running with watch := { lodestar := some 0 } }) 0x0203 [.running, .starting] (fun _ => noParams)
        (cmdOf 0x0203 0 0),
      decide (((awake { single .running with watch := { lodestar := some 0 } }).part 0).isLode = true),
      starts (awake (part .empty)) 0x0204 [.empty, .loaded, .primed, .halted, .fenced] (fun _ => noParams) (cmdOf 0x0204 0 0),
      SMap.wf {} (awake (part .empty)).parts] = true := by decide +kernel

/-- CHART_READ with and without a chart; WRITE and READ on a die of the partition and on another's, APERTURE_MAP (map and unmap,
the aperture unused), JOURNAL_READ at both ends of COUNT. CHART_LOAD: `witness_ChartLoad`. -/
theorem witness_ChartAndMemoryCommandsComplete :
    let one (x : PartState) : Partition := { part x with dies := 1 }
    let span (d : Nat) : Nat := d * 2 ^ 64 + 64 * 2 ^ 160
    let write (P : Partition) (d : Nat) : Bool := starts (awake P) 0x0301 [.loaded, .halted, .running] (fun _ => badSpan true) (cmdOf 0x0301 24 (span d))
    let rd (P : Partition) (d : Nat) : Bool := starts (awake P) 0x0302 [.loaded, .primed, .starting, .running, .halted, .fenced]
      (fun _ => badSpan false) (cmdOf 0x0302 24 (span d))
    let journal (n : Nat) : Bool := starts (awake (part .fenced)) 0x0304 [.loaded, .primed, .starting, .running, .halted, .fenced]
      (fun _ => badJournalRead) (cmdOf 0x0304 16 (n * 2 ^ 64))
    all [starts (awake (charted .loaded)) 0x0402 anyState (fun _ => noParams) (cmdOf 0x0402 0 0),
      starts (awake (part .loaded)) 0x0402 anyState (fun _ => noParams) (cmdOf 0x0402 0 0),
      write (part .loaded) 3, write (one .loaded) 1, decide (bit (one .loaded).dies 1 = false), rd (part .primed) 0, rd (one .fenced) 3,
      starts (awake (part .empty)) 0x0303 anyState (fun _ => badAperture) (cmdOf 0x0303 4 (15 + 3 * 2 ^ 4 + 26 * 2 ^ 8)),
      starts (awake (part .empty)) 0x0303 anyState (fun _ => badAperture) (cmdOf 0x0303 4 (2 ^ 31)),
      decide (look none (awake (part .empty)).cxl.apertures 15 = none), decide ((awake (part .empty)).cxl.remap = []),
      journal 1, journal 64] = true := by decide +kernel

/-- The firmware commands in every STATE of the session, and FW_FUSE with each outcome. -/
theorem witness_FirmwareCommandsComplete :
    let st (n : Nat) : State := { awake (part .empty) with fw := { state := n, length := 0x400000, imageId := 7 } }
    let rec' : State := { st 3 with power := { state := .recovery, order := 6 } }
    let begin' (s : State) : Bool := starts s 0x0501 anyState (fun _ => badFwBegin) (cmdOf 0x0501 16 (1 + 0x400000 * 2 ^ 32 + 7 * 2 ^ 64))
    let act (s : State) : Bool := starts s 0x0504 anyState (fun _ => badFwActivate) (cmdOf 0x0504 4 600)
    let fuse (s : State) (n key : Nat) : Bool := starts s 0x0506 anyState (fun _ => badFwFuse) (cmdOf 0x0506 8 (n + key * 2 ^ 32))
    let key := 0x45535546

    all [begin' (st 4), begin' (st 1), begin' (st 3), begin' (st 0), begin' (st 5),
      starts (st 0) 0x0503 anyState (fun _ => noParams) (cmdOf 0x0503 0 0),
      starts (st 4) 0x0505 anyState (fun _ => noParams) (cmdOf 0x0505 0 0), starts (st 3) 0x0505 anyState (fun _ => noParams) (cmdOf 0x0505 0 0),
      act (st 0), act (st 2), act rec', act (st 3), fuse (st 0) 1 0, fuse (st 0) 2 key, decide ((st 0).fw.debugFuse = false),
      fuse { st 0 with fw := { debugFuse := true } } 2 key] = true := by decide +kernel

/-- The SVN floor: a running image above it, on a locked and an unlocked device, and one at it. -/
theorem witness_FirmwareCommandsComplete_svn :
    let s (fl : BitVec 6) (open' : Bool) : State := { awake (part .empty) with
      fw := { running := some (List.replicate 64 1), svnFloor := fl }, sec := { unlocked := open' } }
    all ([(0, false), (0, true), (63, false)].map fun e =>
        starts (s e.1 e.2) 0x0506 anyState (fun _ => badFwFuse) (cmdOf 0x0506 8 (1 + 0x45535546 * 2 ^ 32))) = true ∧
      (s 0 false).fw.svnFloor < (s 0 false).runningSvn ∧ (s 63 false).runningSvn ≤ (s 63 false).fw.svnFloor := by decide +kernel

/-- FW_BLOCK: no session, one in another STATE, another image, an offset out of place, a size that fits nothing, one whole block. -/
theorem witness_FirmwareBlocksComplete :
    let st (n : Nat) : State := { awake (part .empty) with fw := { state := n, length := 2048, imageId := 7 } }
    let blk (s : State) (off n id : Nat) : Bool := starts s 0x0502 anyState (fun _ => noParams) (cmdOf 0x0502 24 (off * 2 ^ 64 + n * 2 ^ 96 + id * 2 ^ 128))
    let c := cmdOf 0x0502 24 (1024 * 2 ^ 64 + 1024 * 2 ^ 96 + 7 * 2 ^ 128)
    all [blk (st 0) 0 0 0, blk (st 2) 0 0 0, blk (st 1) 0 1024 8, blk (st 1) 1 1024 7, blk (st 1) 2048 1024 7, blk (st 1) 0 1023 7,
      blk (st 1) 1024 1024 7, decide (c.par 64 32 = 1024 ∧ c.par 96 32 = 1024 ∧ c.par 128 64 = 7), Memory.wf (st 1).fw.staging] = true := by
  decide +kernel

/-- The power commands: both ways of each, in every state that refuses or takes them. -/
theorem witness_PowerCommandsComplete :
    let e := awake (part .empty)
    let r := awake (part .running)
    let one := awake { part .empty with dies := 1 }
    let sb (s : State) : State := { s with power := { s.power with standby := true } }
    let go (s : State) (op n par : Nat) (bad : PendCmd → Option Nat) : Bool := starts s op anyState (fun _ => bad) (cmdOf op n par)
    let b3 (c : PendCmd) : Option Nat := lowest [c.rsv 3 29, c.rsv 56 8]
    let b1 (c : PendCmd) : Option Nat := c.rsv 1 31
    all [go e 0x0601 0 0 (fun _ => none), go e 0x0602 4 750 badPolicy, go e 0x0602 4 550 badPolicy,
      go one 0x0603 8 1 b3, decide (bit (one.part 0).dies 1 = false), go r 0x0603 8 4 b3, go e 0x0603 8 4 b3, go (sb e) 0x0605 4 0 b1,
      go (sb e) 0x0603 8 0 b3, go (sb e) 0x0604 4 0 b1, go (sb e) 0x0604 4 1 b1,
      go e 0x0603 8 0 b3, go r 0x0604 4 1 b1, go e 0x0604 4 1 b1, go e 0x0604 4 0 b1, go (sb e) 0x0605 4 1 b1, go e 0x0605 4 1 b1,
      go r 0x0605 4 1 b1, go e 0x0605 4 0 b1, (List.range 4).all fun p => decide ((e.part p).state = .empty ∧ (e.port p).state = .off),
      go e 0x0606 4 2500 badCap, go { e with power := { e.power with stages := 1 } } 0x0606 4 2500 badCap,
      decide (({ e with power := { e.power with stages := 1 } } : State).power.stageCeiling < 2500)] = true := by decide +kernel

/-- Each ring command whose clause has conditions of its own, in a state that meets them with `State.Starts`. LOAD's image:
`witness_LoadCompletes_accepted`; CHART_LOAD: `witness_ChartLoad`; FW_FUSE's SVN floor: `witness_FirmwareCommandsComplete_svn`;
the commands without a condition of their own: the witnesses of their groups. -/
theorem witness_RingCommandsComplete :
    let e := awake (part .empty)
    let st (n : Nat) : State := { e with fw := { state := n, length := 2048, imageId := 7 } }
    let go (s : State) (op n par : Nat) (states : List PartState) (bad : PendCmd → Option Nat) : Bool :=
      starts s op states (fun _ => bad) (cmdOf op n par)
    let span : Nat := 64 * 2 ^ 160
    let blk := cmdOf 0x0502 24 (1024 * 2 ^ 64 + 1024 * 2 ^ 96 + 7 * 2 ^ 128)
    all [starts (awake (charted .loaded)) 0x0202 [.loaded, .halted] badStart (cmdOf 0x0202 16 (1 + 2 ^ 65)), (charted .loaded).chart.held,
      decide ((cmdOf 0x0202 16 1).par 65 1 = 0), (single .loaded).image.single,
      go (awake (part .loaded)) 0x0301 24 span [.loaded, .halted, .running] (badSpan true),
      go (awake (part .loaded)) 0x0302 24 span [.loaded, .primed, .starting, .running, .halted, .fenced] (badSpan false),
      bit (part .loaded).dies ((cmdOf 0x0301 24 span).par 64 2),
      decide (e.cxl.mustSnoop 0 0 64 true = [] ∧ e.cxl.mustSnoop 0 0 64 false = []),
      decide ((cmdOf 0x0303 4 (15 + 3 * 2 ^ 4 + 26 * 2 ^ 8)).par 0 4 = 15 ∧ (cmdOf 0x0303 4 (15 + 3 * 2 ^ 4 + 26 * 2 ^ 8)).part = 0),
      starts (st 1) 0x0502 anyState (fun _ => noParams) blk,
      decide ((st 1).fw.imageId.toNat = blk.par 128 64 ∧ blk.par 64 32 % 1024 = 0 ∧ blk.par 64 32 + blk.par 96 32 = (st 1).fw.length),
      go (st 3) 0x0504 4 600 anyState badFwActivate, decide ((st 3).fw.state = 3 ∧ (st 3).power.state ≠ .recovery),
      go (st 0) 0x0506 8 (2 + 0x45535546 * 2 ^ 32) anyState badFwFuse, decide ((st 0).sec.unlocked = false ∧ (st 0).fw.debugFuse = false),
      go e 0x0603 8 4 anyState (fun c => lowest [c.rsv 3 29, c.rsv 56 8]), bit (e.part 0).dies 0, decide (e.power.standby = false),
      go e 0x0604 4 1 anyState (fun c => c.rsv 1 31), go e 0x0605 4 1 anyState (fun c => c.rsv 1 31),
      go e 0x0606 4 1800 anyState badCap, decide ((cmdOf 0x0606 4 1800).par 0 12 ≤ e.power.stageCeiling),
      go e 0x0702 8 0 anyState badExamRun, decide (e.examRefused none 0 = none)] = true := by decide +kernel

/-! ## Services, registers, clerks -/

/-- The exam, telemetry and record commands: one target and FULL, a refused target (a die that is down), both ends of COUNT. -/
theorem witness_ServiceCommandsComplete :
    let e := awake (part .empty)
    let down : State := { e with dies := [] }
    let go (s : State) (op n par : Nat) (bad : PendCmd → Option Nat) : Bool := starts s op anyState (fun _ => bad) (cmdOf op n par)
    all [go e 0x0701 8 (2 ^ 32) badExamResults, go e 0x0702 8 0 badExamRun, go e 0x0702 8 (2 ^ 32) badExamRun, go down 0x0702 8 0 badExamRun,
      decide (e.examRefused none 0 = none), decide (down.examRefused none 0 = some 1), go e 0x0703 4 0x7F (fun c => c.rsv 7 25),
      go e 0x0801 8 (2 ^ 32) (badSelector true), go e 0x0802 4 0 (badSelector false), go e 0x0803 4 (2 ^ 16) badRecordRead,
      go e 0x0803 4 (256 * 2 ^ 16) badRecordRead, go e 0x0804 20 0 badServiceSet] = true := by decide +kernel

/-- Doorbells that shrink, on a ring not enabled, that read an entry; the bounds of OVERDUE; a reply that waits and one that is
written, with free slots up to the last and with none. -/
theorem witness_RegistersComplete :
    let q : Reply := ⟨cmdOf 0x0101 0 0, 0, 0, []⟩
    let R (head tail : Byte) : Ring := { enable := true, done := [q], repTail := tail, repHead := head }
    let s (head tail : Byte) : State := { State.reset with rings := [(0, R head tail)] }
    all [decide (((0 : Byte) - 5).toNat < ((5 : Byte) - 5).toNat) == false, decide (((4 : Byte) - 0).toNat < ((5 : Byte) - 0).toNat),
      decide (((5 : Byte) - 5).toNat ≤ ((6 : Byte) - 5).toNat), (1#64).getLsbD 0, !(0#64).getLsbD 0,
      decide (1 ≤ (1#64).toNat % 1024 ∧ (1000#64).toNat % 1024 ≤ 1000), decide (1000 < (1001#64).toNat % 1024 ∧ (1024#64).toNat % 1024 = 0),
      SMap.wf {} (s 0 0xFF).rings, decide (((s 0 0xFF).ring 0).done = [q] ∧ ((s 0 0xFF).ring 0).enable = true),
      decide (((s 0 0xFF).ring 0).repTail + 1 = ((s 0 0xFF).ring 0).repHead), decide (((s 1 0xFF).ring 0).repTail + 1 ≠ ((s 1 0xFF).ring 0).repHead),
      decide (((s 0 0xFE).ring 0).repTail + 1 ≠ ((s 0 0xFE).ring 0).repHead)] = true := by decide +kernel

/-- A clerk with source 63 in service, with source 0, with none; one that may take its source 63; a source routed elsewhere. -/
theorem witness_ClerksComplete :
    let s (c : Clerk) : State := { State.reset with hub := { clerks := [(0, c)], route := 0x6F1CAAAA } }
    let k (src : Byte) : State := s { isSrc := src, gie := true, pending := 1#64 <<< 63, enable := 1#64 ||| 1#64 <<< 63 }
    all [decide (((k 63).clerk 0).isSrc = 63), decide (((k 0).clerk 0).isSrc = 0), decide (((k 0xFF).clerk 0).isSrc = 0xFF),
      SMap.wf {} (k 0).hub.clerks, decide ((k 0).routeOf 32 ≠ 0), decide ((k 0).routeOf 63 ≠ 1),
      decide (((k 0xFF).clerk 0).gie = true ∧ ((k 0xFF).clerk 0).held = false),
      decide (lowestBit (((k 0xFF).clerk 0).pending &&& ((k 0xFF).clerk 0).enable) 64 = some 63)] = true := by decide +kernel

/-! ## A cell at work -/

/-- The record of form 0: bench 0 of die 0, its chain at address 0. -/
def oneForm : FormRec := bitAt 512 5 true ||| at' 512 16 96 1

/-- Partition 0 runs with form 0, its period open; the chain's bytes, the first line of them cached; the cells. -/
def working (cells : SMap Cell) (chain : Nat) : State :=
  { awake { part .running with image := { forms := [oneForm] }, period := { isOpen := true } } with
    dies := [(0, { upDie with tallies := [(0, 1)], hbm := writeBytes [] 0 (bytesOfNat 256 chain), wc := wcInstall [] 0 }), (1, upDie), (2, upDie), (3, upDie)]
    cells := cells }

/-- As `working`, with cell 0 alone, awake, its sequencer as given. -/
def walkAt (q : Seq) (chain : Nat) : State := working [(0, { seq := { q with running := true } })] chain

/-- The same with no line of the chain cached. -/
def uncached (s : State) : State := s.modDie 0 fun D => { D with wc := [] }

/-- Cell 0 stands at a control descriptor of this code. -/
def stands (s : State) (op : Nat) : Bool := decide (s.Awake 0) && s.atControl 0 op

/-- An issued SCALAR that writes scalar register 0. -/
def scalarSet : RegSet := { num := 0, desc := at' 2048 0 8 5, off := 0, iters := [], issued := some 0 }

/-- LOOP with its line not cached; with its wait met and not, an empty count and an empty body, a body; the exit of a loop that is left. -/
theorem witness_LoopsComplete :
    let loop (count limit bodyEnd wait : Nat) : State :=
      walkAt {} (0x81 + count * 2 ^ 20 + limit * 2 ^ 44 + bodyEnd * 2 ^ 96 + wait * 2 ^ 128)
    let e : LoopExit := ⟨0, 0, 0, 0, 0⟩
    let x := walkAt { exits := [e] } 0
    all [decide ((uncached (loop 1 1 128 0)).Awake 0), !(uncached (loop 1 1 128 0)).chainCached 0 64, (loop 1 1 128 0).chainCached 0 64,
      stands (loop 1 1 128 (2 ^ 14 + 2 * 2 ^ 16)) 0x81, !(loop 1 1 128 (2 ^ 14 + 2 * 2 ^ 16)).waitMet 0 [] (cWait ((loop 1 1 128 (2 ^ 14 + 2 * 2 ^ 16)).control 0)),
      (loop 1 1 128 (2 ^ 14 + 2 ^ 16)).waitMet 0 [] (cWait ((loop 1 1 128 (2 ^ 14 + 2 ^ 16)).control 0)),
      stands (loop 0 0 128 0) 0x81, stands (loop 1 1 64 0) 0x81, stands (loop 5 4 128 0) 0x81,
      decide (loopLimit ((loop 5 4 128 0).control 0) < loopCount ((loop 5 4 128 0).control 0)),
      decide (((x.cell 0).seq.exits.find? fun e => (x.cell 0).seq.openOps.all fun o => decide (o < e.firstOp ∨ e.lastOp ≤ o)) = some e)] = true := by
  decide +kernel

/-- SKIP, END, FEATURE, SETC by value and from a scalar, BRANCH on a value and on a scalar; registers pending and not; JOIN. -/
theorem witness_ControlDescriptorsComplete :
    let setc (q : Seq) : State := walkAt q (0x83 + 2 ^ 19)
    let br (q : Seq) (src : Nat) : State := walkAt q (0x82 + src * 2 ^ 24 + 1 * 2 ^ 28)
    let busy : Seq := { sets := [(0, some scalarSet)] }
    let l (i : Nat) : Loop := ⟨64, 128, 2, i, 0, 0, 0⟩
    let j : JoinAt := ⟨0, 0, 0⟩
    let joined : State := let s := walkAt { join := some j } 0x84
      s.modPart 0 fun P => { P with period := { P.period with counts := [⟨0, .join, 0, 16⟩] } }
    all [!(uncached (walkAt {} 0x86)).chainCached 0 64, (walkAt {} 0x80).chainCached 0 64, !(walkAt {} 0x80).atControl 0 0x86,
      SMap.wf {} (walkAt {} 0x80).dies, stands (walkAt {} 0x86) 0x86, stands (walkAt {} 0x80) 0x80, stands (walkAt {} 0x85) 0x85, stands (walkAt {} 0x83) 0x83,
      stands (setc {}) 0x83, stands (setc busy) 0x83, setcSrc ((setc {}).control 0), ((setc busy).cell 0).seq.pending 0,
      stands (br {} 0) 0x82, stands (br {} 1) 0x82, stands (br busy 0) 0x82, brSrc ((br {} 1).control 0), !((br busy 0).cell 0).seq.pending 1,
      decide (({ loops := [l 0] } : Seq).headSet = none), decide ((l 0).iter + 1 < (l 0).count), decide ((l 1).count ≤ (l 1).iter + 1),
      stands (walkAt {} 0x84) 0x84, decide ((walkAt {} 0x84).formOf 0 = some oneForm), decide (joined.Awake 0 ∧ (joined.cell 0).seq.join = some j),
      (joined.cell 0).seq.running, joined.waitMet 0 [] 0, joined.joinOpen 0 0, !(walkAt { join := some j } 0x84).joinOpen 0 0,
      decide ((joined.formsNumbered 0).find? (fun e => (joined.joinDue e).isSome) = some (0, oneForm)),
      decide ((joined.part 0).period.counts.find? (fun e => decide (e.form = 0 ∧ e.ev = .join ∧ oneForm.cellList.length ≤ e.cells)) =
        some ⟨0, .join, 0, 16⟩), decide ((joined.cell (oneForm.cellList.headD 0)).seq.join = some j)] = true := by decide +kernel

theorem witness_SignalsAndTalliesComplete :
    let s : State := (walkAt {} 0).modPart 0 fun P => { P with period := { P.period with signals := [⟨0, 1, 0⟩] } }
    let full (n : BitVec 20) : State := { State.reset with dies := [(0, { tallies := [(5, n)] })] }
    let none' : State := s.modPart 0 fun P => { P with dies := 2 }
    all [decide ((s.part 0).period.signals = [⟨0, 1, 0⟩]), decide s.Canon, bit (s.part 0).dies 0, decide ((none'.part 0).period.signals = [⟨0, 1, 0⟩]),
      decide none'.Canon, !bit (none'.part 0).dies 0, decide (((full 0xFFFFE).tally 5).toNat + 1 ≤ 0xFFFFF),
      decide (0xFFFFF < ((full 0xFFFFF).tally 5).toNat + 1)] = true ∧ (full 0xFFFFF).Canon := by decide +kernel

/-- A layer descriptor to load, into the last free set; one to issue (MOVE, NOP, frozen NOP); one that waits; one to complete; the
end of a form's period. -/
theorem witness_DescriptorsComplete :
    let r (d : Nat) : RegSet := { num := 0, desc := BitVec.ofNat 2048 d, off := 0, iters := [] }
    let held (d : Nat) : State := walkAt { sets := [(3, some (r d))] } 0
    let full : Seq := { sets := [(0, some { r 0 with issued := some 0 }), (1, some { r 0 with issued := some 1 }), (2, some { r 0 with issued := some 2 })] }
    let waits : State := held (6 + 2 ^ 270 + 2 * 2 ^ 272)
    let done : RegSet := { r 1 with issued := some 0, opDone := true }
    let short := walkAt { pc := 64 } 0
    let atEnd := working (oneForm.cellList.map fun c => (c, { seq := { running := true, ended := true } })) 0
    all [decide ((walkAt full 6).Awake 0), (walkAt full 6).walking 0, decide ((walkAt full 6).formOf 0 = some oneForm),
      !(uncached (walkAt full 6)).chainCached 0 64, (walkAt full 6).chainCached 0 64, (walkAt full 6).chainCached 0 256,
      short.chainCached 0 64, !short.chainCached 0 256, decide (fldN (short.control 0) 0 8 < 0x80), decide (fldN ((walkAt full 6).control 0) 0 8 < 0x80),
      decide ((List.range 4).find? (fun k => (((walkAt full 6).cell 0).seq.set k).isNone) = some 3),
      decide (((held 6).cell 0).seq.headSet = some (3, r 6)), (held 6).walking 0, (held 6).mayIssue 0 (r 6), (held 0).mayIssue 0 (r 0),
      (held (2 ^ 21)).mayIssue 0 (r (2 ^ 21)), decide ((r 0).desc.srefs = []), (r (2 ^ 21)).desc.freeze,
      !waits.mayIssue 0 (r (6 + 2 ^ 270 + 2 * 2 ^ 272)),
      decide (((walkAt { sets := [(0, some done)] } 0).cell 0).seq.set 0 = some done), ((walkAt {} 0).cell 0).streamsDone done 0,
      SMap.wf {} (held 0).cells, SMap.wf none ((held 0).cell 0).seq.sets,
      decide ((atEnd.formsNumbered 0).find? atEnd.formDone = some (0, oneForm)), (atEnd.part 0).period.isOpen, !(atEnd.part 0).period.dropped,
      oneForm.cellList.all fun c => let q := (atEnd.cell c).seq
        q.ended && !q.stopped && decide (q.openOps = []) && decide (q.exits = []) && decide (q.used = [])] = true := by decide +kernel

/-! ## The engines -/

/-- An operation of a descriptor, on slot 0. -/
def opOf (d : Nat) : Op := { id := 0, set := 0, off := 0, desc := BitVec.ofNat 2048 d, slot := 0, s1 := 0, s2 := 0, s3 := 0 }
def setOf (d : Nat) : RegSet := { num := 0, desc := BitVec.ofNat 2048 d, off := 0, iters := [], issued := some 0 }
def busyCell (x : Cell) (d : Nat) : Cell := { x with seq := { running := true, sets := [(0, some (setOf d))], openOps := [0] } }

/-- The engine idle with an operation to take up; a slot whose turn is an ENGINE operation's, a DRAIN's, a frozen one's. -/
theorem witness_EngineComplete_turns :
    let free : SMap Slot := [(0, { waiters := [0] })]
    let e : EngineRun := { op := opOf (1 + 2 ^ 18) }
    let d : DrainRun := { op := opOf 2 }
    let x := busyCell { slots := free, eng := some e } (1 + 2 ^ 18)
    let y := busyCell { slots := free, drains := [d] } 2
    let z := busyCell { slots := free } (1 + 2 ^ 21)
    let s (x : Cell) : State := working [(0, x)] 0
    all [decide (((s { ework := [opOf 1] }).cell 0).eng = none ∧ ((s { ework := [opOf 1] }).cell 0).ework = [opOf 1]),
      decide ((((s x).cell 0).slot 0).phase = .unowned ∧ (((s x).cell 0).slot 0).waiters = [0]),
      decide (((s x).cell 0).seq.setOf 0 = some (0, setOf (1 + 2 ^ 18))), decide ((setOf (1 + 2 ^ 18)).desc.op = 1 ∧ e.op.desc.init ≠ 2),
      decide (((s y).cell 0).seq.setOf 0 = some (0, setOf 2) ∧ ((s y).cell 0).eng = none), decide ((setOf 2).desc.op = 2),
      decide (((s y).cell 0).drains.find? (fun d => decide (d.op.id = 0)) = some d ∧ ((s y).cell 0).drains = [d] ∧ d.ready = false),
      (setOf (1 + 2 ^ 21)).desc.freeze, decide (((s z).cell 0).eng = none), SMap.wf {} (s x).cells,
      decide ((({ slots := [(0, { phase := .held 1 })] } : Cell).slot 0).phase ≠ .unowned)] = true := by decide +kernel

/-- An engine step that may run, in each mode, and one that waits; a drain row that may run and one that waits; a slot buffer
whose queue has one place left and one whose queue is full. -/
theorem witness_EngineComplete_steps :
    let en : Entry := { data := 0 }
    -- BF16 on both sides from queues 0 and 4, no forwarding, one step
    let d (mode : Nat) : Nat := 1 + mode * 2 ^ 8 + 2 ^ 32 + 0 * 2 ^ 96 + 4 * 2 ^ 104 + 0xFF * 2 ^ 136 + 0xFF * 2 ^ 144
    let e (mode : Nat) : EngineRun := { op := opOf (d mode), owned := true, ready := true }
    let x : Cell := { queues := [(0, { entries := [en] }), (4, { entries := [en] })] }
    let dr (ready : Bool) : DrainRun := { op := opOf (2 + 16 * 2 ^ 120 + 5 * 2 ^ 160), ready := ready }
    let b : BufEntry := { op := 0, queue := 16, entry := en }
    let full (n : Nat) : Cell := { slots := [(0, { buf := [b] })], queues := [(16, { entries := List.replicate n en })] }
    all (((List.range 6).map fun m => (x.stepReady (e m)) && decide ((e m).steps < (e m).op.desc.steps) && decide ((e m).op.desc.func = m)) ++
      [!({} : Cell).stepReady (e 0), decide ((e 0).op.desc.steps ≤ { e 0 with steps := 1 }.steps), (({} : Cell)).drainRoom (dr true),
       !(full 16).drainRoom (dr true), decide ((dr false).ready = false), decide ((full 15).room b.queue = 1), (full 15).earlierPassed 0 16,
       decide ((full 16).room b.queue = 0)]) = true := by decide +kernel

/-- An element of every format that is no NaN: zero, and the largest normal one. -/
theorem witness_FormatsHoldTheirValues :
    all ([(fmtE4M3, 0x7E), (fmtE5M2, 0x7B), (fmtE2M1, 7), (fmtBF16, 0x7F7F), (fmtFP32, 0x7F7FFFFF), (fmtW40, 0)].flatMap fun f =>
      [decide (0 < 2 ^ f.1.width), !(decodeBits f.1 0).isNan, decide (f.2 < 2 ^ f.1.width), !(decodeBits f.1 f.2).isNan]) = true ∧
    (0 : Nat) < 2 ^ 10 := by decide +kernel

/-- Operations to take up; one that runs with a vector left, one with none left, one whose output waits. -/
theorem witness_VectorEngineCompletes :
    let s (x : Cell) : State := working [(0, x)] 0
    let en : Entry := { data := 0 }
    let d (f n : Nat) : Nat := 3 + f * 2 ^ 8 + n * 2 ^ 32 + 16 * 2 ^ 120 + 0xFF * 2 ^ 128 + 0xFF * 2 ^ 136
    let v (f n : Nat) : VecRun := { op := opOf (d f n) }
    let full : Cell := { queues := [(16, { entries := List.replicate 16 en, waiting := [en] })] }
    all ([decide (((s { vwork := [opOf 3] }).cell 0).vwork = [opOf 3] ∧ ((s { vwork := [opOf 3] }).cell 0).vec = none), decide ((opOf 5).desc.op = 5),
        decide (((s { vec := some (v 1 1) }).cell 0).vec = some (v 1 1)), decide (((s { rwork := [opOf 4] }).cell 0).rowRun = none)] ++
      ((List.range 7).map fun f => ({} : Cell).vecClear (v (f + 1) 1).op.desc &&
        decide ((v (f + 1) 1).done < vecCount (v (f + 1) 1).op.desc.steps (v (f + 1) 1).op.desc.fmtA) && decide ((v (f + 1) 1).op.desc.func = f + 1)) ++
      [decide (vecCount (v 1 0).op.desc.steps (v 1 0).op.desc.fmtA ≤ (v 1 0).done), !full.vecClear (v 1 1).op.desc]) = true := by decide +kernel

/-- Row functions 1 to 4 with one row of one vector on their inputs, and without input; ORTHO; an output that waits. -/
theorem witness_RowFunctionsComplete :
    let en : Entry := { data := 0 }
    -- IN0 queue 0, IN1 queue 4, IN2 none, OUT0 Y0; two BF16 vectors, rows of two
    let d (f : Nat) : Nat := 4 + f * 2 ^ 8 + 2 * 2 ^ 32 + 4 * 2 ^ 104 + 0xFF * 2 ^ 112 + 16 * 2 ^ 120 + 0xFF * 2 ^ 128 + 0xFF * 2 ^ 136
    let r (f : Nat) : RowRun := { op := { opOf (d f) with s1 := 0x40000000, s3 := 0 } }
    let x : Cell := { queues := [(0, { entries := [en, en] }), (4, { entries := [en, en] })] }
    let s (x : Cell) : State := working [(0, x)] 0
    let ins (f : Nat) := (r f).op.desc.rowIns (r f).op.rowMode
    let pulled (x : Cell) (f : Nat) : Bool :=
      let p0 := (s x).rowPull 0 (r f).op (ins f).1 (r f).op.rowV []
      let p1 := p0.2.1.rowPull 0 (r f).op (ins f).2.1 (r f).op.rowV []
      let p2 := p1.2.1.rowPull 0 (r f).op (ins f).2.2 (r f).op.rowV []
      p0.2.2 && p1.2.2 && p2.2.2
    let full : Cell := { queues := [(16, { entries := List.replicate 16 en, waiting := [en] })] }
    all (([1, 2, 3, 4].map fun f => ({} : Cell).rowClear (r f).op.desc && decide ((r f).row < (r f).op.rows) && pulled x f && decide ((r f).op.rowMode = 0)) ++
      [!pulled {} 1, decide (({ (r 4).op with s3 := 0x40000000 } : Op).rowMode = 2), decide ((r 5).op.desc.func = 5 ∧ (r 5).pushed = false), !full.rowClear (r 1).op.desc]) = true := by decide +kernel

/-- A SCALAR operation with an entry to take, one without; the partial that completes a form of one bench, and one before it. -/
theorem witness_ScalarsComplete :
    let en : Entry := { data := 0 }
    let r (f : Nat) : ScalRun := { op := opOf (5 + f * 2 ^ 8 + 2 ^ 32) }
    let s (n : Nat) : State := (working [(0, { scal := some (r 1), queues := [(0, { entries := [en] })] })] 0).modPart 0 fun P =>
      { P with period := { P.period with scalars := [⟨0, 0, (List.range n).map fun i => ⟨i + 1, 0, false, 0, false⟩⟩] } }
    let order (n : Nat) : List ScalPart :=
      let parts := findJoin oneForm.num 0 ((s n).part 0).period.scalars ++ [⟨0, 0, false, 0, false⟩]
      oneForm.cellList.filterMap fun k => parts.find? fun q => decide (q.cell = k)
    all [decide (((s 0).cell 0).scal = some (r 1)), ((s 0).consume 0 (r 1).op.desc.in0).isSome, decide ((r 6).op.desc.func = 6),
      (State.reset.consume 0 0).isNone, decide ((s 0).formOf 0 = some oneForm), decide ((order 14).length < oneForm.cellList.length),
      decide (oneForm.cellList.length ≤ (order 15).length)] = true := by decide +kernel

/-- Pushes into a queue with one place left and a full one; pops of them; a Y queue whose entry leaves by an X queue with one
place left, and by one with none. -/
theorem witness_QueuesComplete :
    let en : Entry := { data := 1 }
    let q (n : Nat) : Queue := { entries := List.replicate n en, waiting := if n < 8 then [] else [en] }
    let s (n : Nat) : State := working [(0, { queues := [(16, q 1), (20, q n)] }), (16, { queues := [(8, q n)] })] 0
    all [decide ((q 15).entries.length ≤ 16), decide ((q 8).entries = en :: List.replicate 7 en), ((s 7).consume 0 16).isSome, ((s 7).consume 16 8).isSome,
      ((s 7).consume 0 17).isNone, ((s 7).popOut 0 16).isSome, ((s 7).popOut 0 17).isNone, decide (((s 7).cell 0).queue 20 = q 7),
      decide ((q 7).waiting = [] ∧ (q 7).entries.length < 8), decide ((q 8).waiting ≠ [] ∧ 8 ≤ (q 8).entries.length)] = true := by decide +kernel

/-- A mesh link of die 0 that two cells own, with counts 1 and 2, or the first alone. -/
def meshLink (n : Nat) : TtRec := at' 2176 8 8 n ||| at' 2176 144 24 1 ||| at' 2176 192 16 4 ||| at' 2176 208 24 2

/-- Partition 0 with that link, an entry on the route of cell 0's X queue 0 and one at its producer end. -/
def onRoute : State :=
  (working [(0, { queues := [(20, { entries := [{ data := 1 }] })] })] 0).modPart 0 fun P =>
    { P with image := { P.image with timetable := [meshLink 1] }, period := { P.period with hops := [(0, [(1, { data := 2 })])] } }

/-- Whatever the route's far end (a free value): where it is a queue, a state that meets the hypotheses, and one where there is
none; rotas that let an owner cross and one that does not. -/
theorem witness_QueuesComplete_routes :
    (∀ far, Config.routeEnd [meshLink 1] 0 0 = some (far, 0) → far < 384 → onRoute.farEnd 0 0 = some (far, 0)) ∧
    (Config.routeEnd [meshLink 1] 0 0 = none → onRoute.farEnd 0 0 = none) ∧
    onRoute.Canon ∧ SMap.wf [] (onRoute.part 0).period.hops = true ∧
    ((look [] (onRoute.part 0).period.hops 0).map Prod.fst).Pairwise (fun a b => b < a) ∧
    (({} : Rota).cross (meshLink 2) 0).isSome = true ∧ (({} : Rota).cross (meshLink 2) 1).isSome = false ∧
    (({} : Rota).cross (meshLink 1) 0).isSome = true ∧ ttNown (meshLink 1) ≤ 1 ∧ 1 < ttNown (meshLink 2) := by
  refine ⟨fun far h hf => ?_, fun h => ?_, ?_⟩
  · have ht : (onRoute.part (onRoute.cellPart 0)).image.timetable = [meshLink 1] := by decide +kernel
    have hp : onRoute.partOf (dieOf far) = onRoute.partOf (dieOf 0) := by
      rw [show dieOf far = 0 by simp [dieOf]; omega, show dieOf 0 = 0 by decide]
    simp [State.farEnd, ht, h, hp]
  · have ht : (onRoute.part (onRoute.cellPart 0)).image.timetable = [meshLink 1] := by decide +kernel
    simp [State.farEnd, ht, h]
  · decide +kernel

/-! ## Streams, HBM turns, remote packets -/

/-- A read chart for queue 0 (F0) of one entry of 128 bytes of space `sp`, and a write chart for queue 16 (Y0). -/
def readHdr (sp : Nat) : ChartHdr := at' 256 0 2 sp ||| at' 256 96 32 4 ||| at' 256 128 24 1
def writeHdr (sp : Nat) : ChartHdr := at' 256 0 2 sp ||| bitAt 256 2 true ||| at' 256 96 32 4 ||| at' 256 128 24 1
/-- LEVEL 0 of one iteration, EMIT of 128 bytes. -/
def oneEntry : List (BitVec 64) := [at' 64 60 4 1 ||| at' 64 32 24 1, at' 64 60 4 3 ||| at' 64 48 8 128]

/-- Write streams with an entry, without one, with a write to the cell store, one to HBM before and after its turn; requests that are
the oldest of their bank and that are not, of a cached line and of one that is not, spoiled, and waiting; a read stream with an entry to
start. -/
theorem witness_StreamsComplete :
    let w (space : BitVec 2) (g : Option Nat) : PendWrite := { space := space, addr := 0, bytes := [1], granted := g }
    let wr : Stream := { armed := true, hdr := writeHdr 0, instrs := oneEntry }
    let rd : Stream := { armed := true, hdr := readHdr 0, instrs := oneEntry }
    let req (st : ReqState) : Req := { id := 0, space := 2, addr := 0, size := 64, entry := 0, pos := 0, state := st }
    let en : Entry := { data := 1 }
    let s (streams : SMap Stream) : State := working [(0, { streams := streams, queues := [(16, { entries := [en] })] })] 0
    let acc := s [(0, { reqs := [req (.accepted 1)] })]
    let two := s [(0, { reqs := [req (.accepted 1), req (.accepted 0)] })]
    let lines (l : List Nat) : State := { s [(0, { reqs := [req .filling] })] with dies := [(0, { upDie with wc := [(0, l)] })] }
    all [decide (((s [(8, wr)]).cell 0).stream 8 = wr), decide (wr.entries < chEntries wr.hdr), ((s [(8, wr)]).popOut 0 16).isSome,
      decide (({ wr with entries := 1 } : Stream).entries ≥ chEntries wr.hdr), ((s [(9, wr)]).popOut 0 17).isNone,
      decide (((s [(8, { wr with writes := [w 0 none] })]).cell 0).stream 8 = { wr with writes := [w 0 none] }), decide ((w 0 none).space = 0),
      decide ((s []).nextWrite 0 [w 2 none] = none), decide ((s []).nextWrite 0 [w 2 none, w 2 (some 3)] = some (1, w 2 (some 3))),
      decide ((s []).nextWrite 0 [w 0 none] = some (0, w 0 none)), decide (((s []).cell 0).badWords = []),
      decide (((acc.cell 0).stream 0).reqs[0]? = some (req (.accepted 1))), (acc.bankQueue 0 0).all fun m => decide (1 ≤ m),
      (two.bankQueue 0 0).any fun m => decide (m < 1), (look [] ((lines [0]).die 0).wc (wcSet 0)).contains 0,
      !(look [] ((lines []).die 0).wc (wcSet 0)).contains 0, decide ((((s [(0, { reqs := [req .spoiled] })]).cell 0).stream 0).reqs[0]? = some (req .spoiled)),
      decide ((((s [(0, { reqs := [req .waiting] })]).cell 0).stream 0).reqs[0]? = some (req .waiting)), decide (((s [(0, rd)]).cell 0).stream 0 = rd),
      decide (rd.entries < chEntries rd.hdr), decide (0 < ((s [(0, rd)]).cell 0).credits 0), decide ((walkOf rd.instrs).index = none), !rd.onGather,
      decide (((working [(0, { queues := [(0, { entries := List.replicate 16 en })] })] 0).cell 0).credits 0 = 0)] = true := by decide +kernel

/-- Streams on the gather unit: with every context free, and with all 1,024 in use. -/
theorem witness_StreamsComplete_contexts :
    let rd : Stream := { armed := true, hdr := readHdr 3, instrs := oneEntry }
    let req (k : Nat) : Req := { id := k, ctx := k, space := 3, addr := 0, size := 64, entry := 0, pos := 0, state := .remote }
    let busy : Cell := { streams := [(1, { hdr := readHdr 3, reqs := (List.range 1024).map req })] }
    let puts := (fillEntry (walkOf rd.instrs) rd.base (chExtent rd.hdr) (fun _ _ => .inl false) entryFuel rd.pos rd.off 0 []).1
    (rd.onGather = true ∧ chSpace rd.hdr ≠ 0 ∧ newContexts puts = 1 ∧ ({} : Cell).contexts.length + newContexts puts ≤ 1024) ∧
      1024 < busy.contexts.length + newContexts puts := by
  refine ⟨by decide +kernel, ?_⟩
  have h : ∀ rs : List Nat, rs.Nodup → (({ streams := [(1, { hdr := readHdr 3, reqs := rs.map fun k => (
      { id := k, ctx := k, space := 3, addr := 0, size := 64, entry := 0, pos := 0, state := .remote } : Req) })] } : Cell).contexts) = rs := by
    intro rs hn
    have hg : ({ hdr := readHdr 3 } : Stream).onGather = true := by decide +kernel
    have hg' : ∀ l : List Req, ({ hdr := readHdr 3, reqs := l } : Stream).onGather = true := fun _ => hg
    simp [Cell.contexts, hg', Function.comp_def, hn.dedup]
  have n1 : newContexts (fillEntry (walkOf oneEntry) 0 (chExtent (readHdr 3)) (fun _ _ => .inl false) entryFuel 0 0 0 []).1 = 1 := by decide +kernel
  show 1024 < (Cell.contexts _).length + newContexts _
  rw [h _ List.nodup_range, n1]
  simp

/-- A delivered packet of partition 0's member, and its remote header. -/
def remote (step : Nat) (rrec : Nat) : Packet := ⟨at' 256 64 13 16, bytesOfNat 16 (rrec + step * 2 ^ 72)⟩

/-- Turns of each class, of a bench and of the fill engine, while an exam holds the pseudo-channel; fills; remote packets that are live
and not, of a record that takes them and of none, before their period; responses to a request of the cell, and from before its reset. -/
theorem witness_TurnsAndRemotePacketsComplete :
    let x (c r w m : Nat) : State := { working [] 0 with dies := [(0, { upDie with chans := [(0, { cls := c, readUsed := r, writeUsed := w, remUsed := m })] })] }
    let cls (s : State) : Nat := ((look {} (s.die 0).chans 0).nextClass (s.shares 0)).1
    let list (s : State) : List Nat := s.channelList 0 0 true
    let held : State := (x 0 0 0 0).modServices fun v => { v with slices := [{ target := BitVec.ofNat 32 (phyTarget 0 0).toNat, granted := true }] }
    let f : Fill := { line := 0, blocks := 4 }
    let fill : State := { State.reset with dies := [(0, { fills := [f] })] }
    let heldFill : State := fill.modServices fun v => { v with slices := [{ target := BitVec.ofNat 32 (wcTarget 0 0).toNat, granted := true }] }
    let rcd : BitVec 256 := bitAt 256 2 true
    let s : State := (working [] 0).modPart 0 fun P => { P with image := { P.image with remotes := [rcd] }, period := { P.period with step := 5 } }
    let early : State := s.modPart 0 fun P => { P with period := { P.period with waiting := some (6, 0) } }
    let rq : Req := { id := 3, ctx := 9, blk := 1, space := 3, addr := 0, size := 64, entry := 0, pos := 0, state := .remote }
    let asked (n : BitVec 9) := working [(0, { streams := [(0, { reqs := [rq] })], resets := n })] 0
    let tag : Nat := readTag 0 9 1 0
    all [held.examHolds (phyTarget 0 0), !(x 0 0 0 0).examHolds (phyTarget 0 0), decide (cls (x 0 0 0 0) = 0), decide (cls (x 1 0 0 0) = 1), decide (cls (x 2 0 0 0) = 2),
      decide (cls (x 0 8 4 3) = 2), decide (cls (x 2 8 4 4) = 0), decide ((list (x 0 0 0 0)).getD 0 0 < 24 ∧ 24 ≤ (list (x 0 0 0 0)).getD 24 0),
      decide ((fill.die 0).fills.find? (fun f => decide (f.line = 0 ∧ f.blocks = 4)) = some f),
      !fill.examHolds (wcTarget 0 0), heldFill.examHolds (wcTarget 0 0), (State.reset.die 0).fills.isEmpty, decide s.NoSwitch, (s.part 0).period.waiting.isNone,
      (early.part 0).period.waiting.isSome,
      decide (fld (bvOfBytes 128 (remote 5 0).payload) 72 32 = (s.part 0).period.step.setWidth 32 ∧
        fld (bvOfBytes 128 (remote 5 0).payload) 104 8 = (s.part 0).period.attempt ∧ (s.part 0).state = .running),
      decide (fld (bvOfBytes 128 (remote 4 0).payload) 72 32 ≠ (s.part 0).period.step.setWidth 32), bit rcd 2,
      decide (fldN rcd 26 2 = pktDdie (remote 5 0).hdr), !bit ((s.part 0).image.remotes.getD 1 0) 2,
      decide (tag % 2048 = 0 ∧ ((((asked 0).cell 0).streams.findSome? fun e =>
        (e.2.reqs.find? fun r => decide (r.state = .remote ∧ r.ctx = tag / 2048 % 1024 ∧ r.blk % 4 = tag / 2097152 % 4)).map fun r => (e.1, r)) = some (0, rq))),
      decide ((asked 0).partOf 0 = some 0), decide (((asked 0).cell 0).resets.toNat = tag / 8388608), decide (((asked 1).cell 0).resets.toNat ≠ tag / 8388608)] = true := by decide +kernel

/-- The remote gateway: no block for the pseudo-channel; a read and a write of one block and of two, with and without a line that the host
holds; an arming that a packet makes whole and one that it leaves open, of the attempt and of an earlier one. -/
theorem witness_TurnsAndRemotePacketsComplete_gateway :
    let g (write : Bool) (n : Nat) : GatePkt := { part := 0, hdr := 0, write := write, rhdr := bitAt 128 24 true ||| at' 128 52 20 n ||| at' 128 72 32 5
                                                  todo := (List.range n).map fun k => (64 * k, [1]) }
    let s (g : GatePkt) (snoop : List (Nat × Nat)) : State :=
      { (working [] 0).modPart 0 fun P => { P with period := { P.period with step := 5 } } with
        dies := [(0, { upDie with gateway := [g] })], cxl := { snoop := snoop } }
    let at? (g : GatePkt) : Bool := decide (gateNext (chanOf 0) ((s g []).die 0).gateway = some (0, g, 0, 0, (g.todo.headD (0, [])).2))
    let l (n : Nat) : List Arrival := arrive 0 0 0 0 (some n) []
    all [decide (gateNext (chanOf 0) ((working [] 0).die 0).gateway = none), at? (g false 1), at? (g true 1), at? (g true 2),
      decide ((s (g true 1) []).cxl.mustSnoop 0 0 1 true = []), decide ((s (g true 1) [(0, 0)]).cxl.mustSnoop 0 0 1 true ≠ []),
      (l 1).any fun a => decide (a.total = some a.got), (l 2).all fun a => decide (a.total ≠ some a.got),
      decide (fld (g true 1).rhdr 72 32 = ((s (g true 1) []).part 0).period.step.setWidth 32 ∧ fld (g true 1).rhdr 104 8 = ((s (g true 1) []).part 0).period.attempt),
      decide (fld (g true 1).rhdr 72 32 ≠ ((working [] 0).part 0).period.step.setWidth 32)] = true := by decide +kernel

/-- A BF16 bucket of die 0 in group 0, one run of 96 elements. -/
def oneBucket (owner : Bool) : Bucket := bitAt 512 2 true ||| at' 512 5 2 2 ||| bitAt 512 8 owner ||| at' 512 28 4 1 ||| at' 512 128 32 96

/-- A partition whose group 0 has `n` members, this one at position 0, with the bucket. -/
def ringOf (n : Nat) (b : Bucket) (runs : List Run) : State :=
  { awake { part .running with image := { buckets := [b] }, period := { isOpen := true }
                               chart := { held := true, own := 0, groups := [(0, List.range n)] } } with
    dies := [(0, { upDie with runs := runs }), (1, upDie), (2, upDie), (3, upDie)] }

/-- A reduction packet with this header. -/
def redPkt (type chunk hops count : Nat) : Packet := ⟨at' 256 64 13 18, bytesOfBv 16 (redHdr 0 0 type chunk hops 2 0 count 0) ++ [0, 0]⟩
def redTaken (s : State) (pkt : Packet) (type : Nat) : Bool :=
  match s.checkRed 0 0 (bvOfBytes 128 (pkt.payload.take 16)) type with
  | .take _ _ r => !r.stopped
  | _ => false

/-- A run that a poisoned contribution has stopped is still the run of its packets. -/
def redStopped (s : State) (pkt : Packet) (type : Nat) : Bool :=
  match s.checkRed 0 0 (bvOfBytes 128 (pkt.payload.take 16)) type with
  | .take _ _ r => r.stopped
  | _ => false

/-- A run that may start, alone and in a ring of two; one that may not; an open, partials that go on and that complete, with and
without an owner, and finals forwarded and not, and a stale and a wrong packet; a run that is complete. -/
theorem witness_ReductionsComplete :
    let b := oneBucket false
    let run : Run := { bucket := 0, run := 0, kind := 0, started := true }
    let ready (s : State) : Bool := decide (s.partOf 0 = some 0 ∧ s.nextRun 0 0 = some (0, 0) ∧ (s.part 0).state = .running ∧
      (s.part 0).period.isOpen = true ∧ bkDie ((s.part 0).bucket 0) = 0 ∧ bkFill ((s.part 0).bucket 0) 0 ≤ (s.tally 0).toNat ∧
      look 0 (s.die 0).runsDone 0 = 0)
    let hdr (k : Packet) : BitVec 128 := bvOfBytes 128 (k.payload.take 16)
    let s3 := ringOf 3 b [run]
    let o := ringOf 2 (oneBucket true) [run]
    let late := s3.modPart 0 fun P => { P with period := { P.period with step := 1 } }
    let whole := ringOf 1 b [{ run with written := 96 }]
    let recorded (s : State) : State := { s with cxl := { snoop := [(0, 0)] } }
    let acc : List (Nat × Nat × Nat × Bool) := [(0, 0, 192, false)]
    let done (s : State) (acc : Bool) := (s.die 0).runs.find? fun r => decide (r.bucket = 0) && s.runComplete 0 r && (acc || !s.runSent 0 r)
    all [ready (ringOf 1 b []), ready (ringOf 2 b []), decide ((((ringOf 1 b []).part 0).place b).n = 1), decide (s3.NoSwitch),
      redTaken s3 (redPkt 0 0 0 0) 0, redTaken s3 (redPkt 1 2 1 32) 1, redTaken s3 (redPkt 1 1 2 32) 1, redTaken o (redPkt 1 0 1 96) 1,
      bkOwnerMode (oneBucket true), redTaken s3 (redPkt 2 0 0 32) 2, redTaken s3 (redPkt 2 2 0 32) 2,
      redStopped (ringOf 3 b [{ run with stopped := true }]) (redPkt 1 2 1 32) 1,
      decide (s3.checkRed 0 0 (hdr (redPkt 1 9 1 1)) 1 = .mismatch), decide (late.checkRed 0 0 (hdr (redPkt 1 2 1 32)) 1 = .discard),
      decide (s3.checkRed 0 1 (hdr (redPkt 1 2 1 32)) 1 = .discard), decide (s3.Unrecorded acc ∧ ¬(recorded s3).Unrecorded acc),
      (done whole true).isSome, (done whole false).isSome, (done (ringOf 2 b [run]) true).isNone] = true := by decide +kernel

/-! ## The fabric -/

/-- Port 0 with one unit. -/
def onPort (st : PortState) (u : Nat) (x : LinkUnit) : State :=
  { awake (part .running) with fabric := { ports := [(0, { state := st, units := [(u, x)] })] } }

/-- A live unit with sealed flits of each type, in order and out of order, control flits with and without a NAK; flits whose form is
bad. A sealed flit's CRC checks (`sealFlit_crcOk`). -/
theorem witness_FlitsComplete (type : Nat) (seq : BitVec 12) (nak : Bool) (ht : type ∈ [0, 1, 2]) (hs : seq ∈ [0#12, 1]) (hn : type ≠ 2 → nak = false) :
    let s := onPort .up 8 { inService := true }
    let f := sealFlit (plainFlit type seq ||| bitAt 2048 44 nak)
    let bad := plainFlit type seq ||| bitAt 2048 20 true
    s.unitLive 0 8 = true ∧ (flitCrcOk f && flitFormOk 8 f) = true ∧ flitType f = type ∧ flitSeq f = seq ∧ bit f 44 = nak ∧
    (s.unit 0 8).rxSeq = 0 ∧ (flitCrcOk bad && flitFormOk 8 bad) = false ∧
    (onPort .up 8 { inService := true, retrain := true }).unitLive 0 8 = false := by
  have h : ∀ t ∈ [0, 1, 2], ∀ q ∈ [0#12, 1], ∀ k ∈ [false, true], (t = 2 ∨ k = false) →
      (let g := plainFlit t q ||| bitAt 2048 44 k
       flitFormOk 8 g && decide (flitType g = t) && decide (flitSeq g = q) && decide (bit g 44 = k) &&
        !flitFormOk 8 (plainFlit t q ||| bitAt 2048 20 true)) = true := by decide +kernel
  have g := h type ht seq hs nak (by cases nak <;> simp) (by by_cases e : type = 2 <;> simp_all)
  simp only [Bool.and_eq_true, decide_eq_true_eq, Bool.not_eq_true'] at g
  refine ⟨by decide +kernel, ?_, ?_, ?_, ?_, by decide +kernel, by simp [g], by decide +kernel⟩
  · simp [g]
  · simp [g]
  · simp [g]
  · exact (sealFlit_bit _ 44 (by decide)).trans g.1.2

theorem witness_PortsAndUnitsChangeState :
    let at' (st : PortState) : State := onPort st 0 {}
    let s : State := { at' .train with fabric := { (at' .train).fabric with sizeX := 2, sizeY := 2 } }
    let nb (x : BitVec 6) : Neighbour := ⟨x, 0, ⟨2, by decide⟩, 0⟩
    let live (n : Nat) : State := onPort .up 0 { inService := true, replay := [⟨0, n⟩], badWords := 2 * n + 1 }
    let re := onPort .up 0 { inService := true, retrain := true }
    all [decide (((at' .detect).port 0).state = .detect), decide (((at' .off).port 0).state ≠ .detect), decide ((s.port 0).state = .train),
      decide (((nb 1).x.toNat, (nb 1).y.toNat) = s.fabric.neighbour 0 ∧ (nb 1).port.val = facing 0),
      !decide (((nb 0).x.toNat, (nb 0).y.toNat) = s.fabric.neighbour 0), decide (((at' .verify).port 0).state = .verify),
      bit (0x101#9) 8, decide (fldN (0x101#9) 0 8 ≠ 0), decide (fldN (0x100#9) 0 8 = 0), (live 8).unitLive 0 0,
      ((live 8).unit 0 0).replay.any fun e => decide (8 ≤ e.replays), ((live 7).unit 0 0).replay.all fun e => decide (e.replays < 8),
      decide (16 < ((live 8).unit 0 0).badWords ∧ ((live 7).unit 0 0).badWords ≤ 16),
      decide ((re.port 0).state = .up ∧ (re.unit 0 0).retrain = true)] = true := by decide +kernel

/-- A packet at a unit's input, routed and waiting (its only output lies on no live unit), one that waits for its turn at its quad, one
past the hop limit; one to send, with room for exactly it and without; one to escape, ESC set and not; a multicast copy that goes on, one
whose packet is not yet written, and one whose next device is not seated; a mirror packet between dies. -/
theorem witness_PacketsMove :
    let pkt (h : BitVec 256) : Packet := ⟨h, []⟩
    let east : BitVec 256 := at' 256 0 6 1
    let fab (p0 p2 : Port) (turns : SMap Nat) : Fabric := { sizeX := 4, sizeY := 1, ports := [(0, p0), (2, p2)], turns := turns }
    let inq (l : List Packet) : Port :=
      { state := .up, units := (l.zipIdx.map fun p => (p.2, { inService := true, inq := [{ pkt := p.1 }] })) }
    let onWay (l : List Packet) (p2 : Port) (turns : SMap Nat) : State :=
      { awake { part .running with chart := { held := true, own := 0 } } with fabric := fab (inq l) p2 turns }
    let s (p : Packet) (p2 : Port) : State := onWay [p] p2 []
    let quads : Port := { state := .up, units := (List.range 9).map fun u => (u, { inService := true }) }
    let esc : Port := { state := .up, units := [(8, { inService := true })] }
    let src : Source := .transit 0
    let isOut : Route → Bool := fun | .out _ _ _ _ => true | _ => false
    let moves (s : State) (inp : Input) : List Bool := (s.candidates inp).map fun c => decide (s.move inp c ≠ .wait)
    let send (used : Nat) : State := onPort .up 0 { inService := true, outq := [{ pkt := pkt (at' 256 28 3 1) }], used := [(1, used)] }
    let mc : BitVec 256 := at' 256 77 2 1 ||| at' 256 80 6 2
    let relay : State := { awake (charted .running) with fabric := { fab {} quads [] with relays := [⟨0, pkt mc, false⟩] } }
    let seated : State := relay.modPart 0 fun P => { P with chart := { P.chart with seats := [(1, at' 128 0 6 1 ||| at' 128 12 2 1)] } }
    let unwritten : State := { seated with fabric := { seated.fabric with delivered := [(0, pkt mc)] } }
    let m := pkt (east ||| at' 256 56 4 4)
    let two (turn : Nat) : State := onWay [pkt east, pkt east] quads [(21, turn)]
    all [decide (moves (s (pkt east) quads) (.unit 0 0) = [true]), decide (moves (s (pkt east) {}) (.unit 0 0) = [false]),
      decide (moves (awake (part .running)) (.own 0) = []), isOut ((s (pkt east) quads).route src false (pkt east)),
      decide ((s (pkt east) {}).route src false (pkt east) = .wait), decide (pktDx (pkt east).hdr ≠ (s (pkt east) quads).fabric.ownX),
      decide (moves (two 0) (.unit 0 0) = [true] ∧ moves (two 0) (.unit 0 1) = [false] ∧ moves (two 1) (.unit 0 0) = [false]),
      decide ((s m {}).route src false (pkt (setField east 88 8 128)) = .hopLimit), decide ((s m {}).route src false (pkt 0) = .deliver),
      (takeFirst (fun o : OutPacket => decide (pktVc o.pkt.hdr = 1)) ((send 31).unit 0 0).outq).isSome, (send 31).unitLive 0 0,
      decide (look 0 ((send 31).unit 0 0).used 1 + flitCount (pkt 0) ≤ unitBuffer 0), decide (¬look 0 ((send 32).unit 0 0).used 1 + flitCount (pkt 0) ≤ unitBuffer 0),
      decide (((s (pkt east) esc).candidates (.unit 0 0)).map (fun c => ((s (pkt east) esc).escapeOf c).isSome) = [true]),
      decide (((s (pkt east) quads).candidates (.unit 0 0)).map (fun c => ((s (pkt east) quads).escapeOf c).isSome) = [false]),
      decide (seated.dropRelays.fabric.relays = seated.fabric.relays ∧ moves seated .relay = [true] ∧ moves unwritten .relay = []),
      decide (relay.fabric.relays = [⟨0, pkt mc, false⟩] ∧ relay.fabric.delivered = [] ∧ relay.relayCopy ⟨0, pkt mc, false⟩ = none),
      decide (((s m quads).candidates (.unit 0 0)).map (fun c => ((s m quads).bridgeOf 0 c).isSome) = [true]),
      decide (((s (pkt east) quads).candidates (.unit 0 0)).map (fun c => ((s (pkt east) quads).bridgeOf 0 c).isSome) = [false]),
      decide (pktKind m.hdr = 4 ∧ bridgePath 0 2 ≠ [])] = true := by decide +kernel

theorem witness_ProductiveOutputs :
    let f (n x : Nat) : Fabric := { sizeX := n, sizeY := n, ownX := x, ownY := x }
    let d (h : BitVec 256) (n x : Nat) : Nat := (((pktDx h : Int) - (f n x).ownX) % (f n x).sizeX).toNat
    let h : BitVec 256 := at' 256 0 6 1 ||| at' 256 6 6 1
    all [decide (pktDx h < 2 ∧ pktDy h < 2), decide (d h 2 1 = 0), decide (2 * d h 4 0 < 4 ∧ 0 < d h 4 0), decide (4 < 2 * d h 4 2), decide (2 * d h 2 0 = 2)] = true := by
  decide +kernel

/-! ## Periods, bells, the lodestar -/

/-- A control packet of a type, of attempt (5, 1), epoch 1, from seat 3. -/
def ctl (type : Nat) (a0 a1 : Nat) : Control := mkCtl type 1 3 1 5 a0 a1 0

/-- A partition in attempt (5, 1), seat 0, epoch 1, whose chart seats 0, 1 and 3 in row 0; lodestar 3 or itself. -/
def member (x : PartState) (lode : Nat) : Partition :=
  { part x with
    chart := { held := true, own := 0, seats := [(0, at' 128 12 2 1), (1, at' 128 12 2 1), (3, at' 128 12 2 1)] }
    period := { step := 5, attempt := 1, begun := true }
    watch := { lodestar := some lode, epoch := 1, running := true } }

/-- The lodestar itself, in a state of its step. -/
def lodestar (st : LodeState) (ph : RecPhase := .none) : Partition :=
  { member .running 0 with lode := { state := st, step := 5, attempt := 1, phase := ph } }

def takes (P : Partition) (type : Nat) (c : Control) : Bool := decide ((awake P).TakesCtl 0 type c)
/-- The partition once the packet has been received. -/
def got (P : Partition) (c : Control) (casc : Bool := false) (key : Nat := 999) : Partition := ((awake P).receiveCtl 0 c casc key).2.part 0

/-- A reserved type, an older epoch, an earlier step, an earlier attempt; a packet of another type; a switch under way. -/
theorem witness_StaleControlPacketsAreCounted :
    let P := member .running 3
    all [decide ((awake P).NoSwitch), reservedCtype (ctl 6 0 0), P.staleCtl (mkCtl 1 1 3 0 5 0 0 0), P.staleCtl (mkCtl 1 1 3 1 4 0 0 0),
      P.staleCtl (mkCtl 1 0 3 1 5 0 0 0), decide (ctype (ctl 1 0 0) ≠ 2 ∧ reservedCtype (ctl 1 0 0) = false),
      decide (({ awake P with fw := { stage := .starting } } : State).fw.stage = .starting), decide (ctype (ctl 1 0 0) = 1), reservedCtype (ctl 6 0 0)] = true := by decide +kernel

/-- Each bell in a new attempt and in one already begun; a halt of a Running and of a Halted partition; a hold that finds the
partition not Running, Running at its token, WORKING or DONE, blocked by a seat, deadlocked and dropped. -/
theorem witness_BellsComplete :
    let P := member .running 3
    let new (t : Nat) : Control := mkCtl t 1 3 1 6 0 0 0
    let fresh (P : Partition) (c : Control) : Bool := decide (P.state = .starting ∨ P.state = .running) && !P.inAttempt c
    let held (P : Partition) (s : State) : Nat := State.holdStatus { s with parts := [(0, P)] } 0
    let idle : Partition := { P with period := { P.period with isOpen := true, dropped := false } }
    all ([1, 3].flatMap (fun t => [takes P t (new t), fresh (got P (new t) true 128) (new t), takes P t (ctl t 0 0), !fresh (got P (ctl t 0 0) true 128) (ctl t 0 0)]) ++
      [takes P 4 (ctl 4 0 0), decide ((got P (ctl 4 0 0) true 128).state = .running), takes (part .halted) 4 (ctl 4 0 0), takes P 5 (ctl 5 0 0), takes P 2 (ctl 2 0 0),
       takes (part .halted) 2 (ctl 2 0 0), decide (held { P with period := { P.period with token := true } } State.reset = 0),
       decide (held { idle with period := { idle.period with dropped := true, examining := true } } State.reset = 4),
       decide (held { idle with period := { idle.period with dropped := true } } State.reset = 5), decide (held idle State.reset = 3),
       decide (held { idle with image := { forms := [oneForm] } } (working [] 0) = 2),
       decide (held { idle with image := { forms := [oneForm] }, mirror := { sent := some 5 } } (working [] 0) = 1)]) = true := by decide +kernel

/-- A bell that waits and may start, one that may not; the close: single, its update to send (the host records a line of it, and none),
acknowledged, not yet, without the digest of the next step's inputs. -/
theorem witness_PeriodsOpenAndClose :
    let P := member .running 3
    let ready : Partition := { P with period := { P.period with waiting := some (5, 1) } }
    let job : SvcJob := { step := 6, digest := some 0 }
    let done (img : Image) (m : Mirror) : Partition := { P with period := { P.period with isOpen := true, svc := [job] }, image := img, mirror := m }
    let can (img : Image) (m : Mirror) : Bool := let s := awake (done img m)
      decide ((s.part 0).state = .running ∧ (s.part 0).period.isOpen = true ∧ (s.part 0).period.dropped = false) && s.workDone 0 &&
        (State.headEntry ((s.resetVersions 0).modPart 0 fun P => { P with period := { P.period with versions := true } }) 0).isSome
    let noDigest := awake { done {} {} with period := { (done {} {}).period with svc := [] } }
    let me : BitVec 128 := bitAt 128 2 true ||| at' 128 64 32 1
    let full := done { mirror := [me] } { fullDue := true }
    let acc := full.updateEntries.map fun i => (i.2.1, i.2.2.1, i.2.2.2, false)
    all [decide (((awake ready).part 0).period.waiting = some (5, 1)), (awake ready).mayStart ready, !(awake ready).mayStart { ready with refilling := true },
      can { single := true } {}, can {} {}, can {} { sent := some 5 }, can {} { sent := some 5, acked := some 5 }, can { mirror := [me] } { fullDue := true },
      decide ((awake full).Unrecorded acc ∧ ¬({ awake full with cxl := { snoop := [(0, 0)] } } : State).Unrecorded acc),
      noDigest.workDone 0, decide (noDigest.headEntry 0 = none), decide ((part .halted).state ≠ .running)] = true := by
  decide +kernel

/-- Tokens that leave a row open and that complete it, of the attempt and of another; a row's token at the lodestar and elsewhere;
answers, slow notices, a pace that has changed and one that has not; each timer in the state that it serves, in none, and on another member. -/
theorem witness_LodestarCompletes :
    let P := member .running 3
    let P0 : Partition := { P with watch := { P.watch with relayed := 0b0011 } }
    let tok (m : Nat) : Control := ctl 8 m 0
    let whole (P : Partition) (c : Control) : Bool :=
      (P.members.filter fun m => decide (m / 64 = P.seat.toNat / 64)).all fun m => bit (P.watch.relayed ||| arg0 c) (m % 64)
    let L (st : LodeState) : Partition := lodestar st
    let isMine (P : Partition) (c : Control) : Bool := P.isLode && P.lode.forStep c
    -- the form's bench at 550 mV and 70 °C is slower than the pace in force; with no form nothing is
    let far (P : Partition) : Bool :=
      let n := paceOf ((({ awake P with dies := [(0, { upDie with benches := [(0, { mv := 550 })] })] } : State).railsOf P.formBenches)) 1120#64
      decide (n + 32 ≤ P.watch.pace ∨ P.watch.pace + 32 ≤ n)
    let first : Partition := { L .idle with lode := { state := .idle, firstStep := some 1 } }
    all ([takes P0 8 (tok 8), !bit (arg1 (tok 8)) 0, (got P0 (tok 8)).inAttempt (tok 8), whole (got P0 (tok 8)) (tok 8), !whole (got P (tok 8)) (tok 8),
       takes P 8 (mkCtl 8 2 3 1 5 8 0 0), !(got P (mkCtl 8 2 3 1 5 8 0 0)).inAttempt (mkCtl 8 2 3 1 5 8 0 0), takes P 8 (ctl 8 8 1), bit (arg1 (ctl 8 8 1)) 0,
       isMine (got (L .collecting) (ctl 8 8 1)) (ctl 8 8 1), !isMine (got P (ctl 8 8 1)) (ctl 8 8 1), takes (L .holding) 9 (ctl 9 1 0),
       isMine (got (L .holding) (ctl 9 1 0)) (ctl 9 1 0), takes P 10 (ctl 10 512 0), decide (P.watch.lodestar = some 3),
       far { P with image := { forms := [oneForm] } }, !far P, !P.isLode, first.isLode, first.lode.firstStep.isSome] ++
      ([LodeState.collecting, .holding, .deciding, .recovering].map fun x => (L x).isLode && decide ((L x).lode.state = x)) ++
      [decide ((L .idle).lode.state = .idle ∧ (L .idle).lode.firstStep = none)]) = true := by decide +kernel

/-- A trouble notice at the collecting lodestar of its step and of another, at the recovering one (a lost restore, a lost refill, a
member that failed), at an idle one; at the first successor of a lodestar it names, and at another; claims followed, by a member
and by one that is being refilled, and not; a watch that runs and has run out, on a successor, in single-device operation. -/
theorem witness_TroubleAndTakeoverComplete :
    let P := { member .running 3 with chart := { (member .running 3).chart with own := 1 } }
    let succ : Partition := { P with watch := { P.watch with lodestar := some 0 } }
    let t (seat reason : Nat) : Control := ctl 11 (seat + reason * 2 ^ 16) 0
    let g (P : Partition) (c : Control) : Partition := got P c false 38
    let is (P : Partition) (c : Control) (st : LodeState) (ph : RecPhase) : Bool :=
      takes P 11 c && (g P c).isLode && decide ((g P c).lode.state = st ∧ (g P c).lode.phase = ph)
    let claim (e : Nat) : Control := mkCtl 12 1 3 e 5 0 0 0
    let better (P : Partition) (c : Control) : Bool := takes P 12 c && (decide ((got P c true).watch.epoch < ctlEpoch c) ||
      (decide ((got P c true).watch.epoch = ctlEpoch c) && (got P c true).watch.lodestar.all fun l => decide (ctlSeat c < l)))
    all [is (lodestar .collecting) (t 1 0) .collecting .none, (lodestar .collecting).lode.forStep (t 1 0),
      !(lodestar .collecting).lode.forStep (mkCtl 11 1 3 1 6 0 0 0), is (lodestar .collecting) (mkCtl 11 1 3 1 6 0 0 0) .collecting .none,
      is (lodestar .recovering .restore) (t 1 0x7005) .recovering .restore, is (lodestar .recovering .refill) (t 1 0x7005) .recovering .refill,
      is (lodestar .recovering .refill) (t 1 0x7004) .recovering .refill, is (lodestar .idle) (t 1 0) .idle .none,
      takes succ 11 (t 0 0), !(g succ (t 0 0)).isLode, decide ((g succ (t 0 0)).watch.lodestar = some 0 ∧ (g succ (t 0 0)).rank = 1),
      decide ((g succ (t 3 0)).watch.lodestar ≠ some 3), better P (claim 2), better { P with refilling := true } (claim 2), takes P 12 (claim 1), !better P (claim 1),
      decide (((awake succ).part 0).watch.running = true), decide ((part .empty).watch.running = false), decide (1 ≤ succ.rank ∧ succ.image.single = false),
      decide (succ.watch.expired = false)] = true := by decide +kernel

/-! ## Deskmates and recovery -/

/-- A mirror packet, a snapshot packet of an ENTRY; `commit`: its last. -/
def mirrorPkt (kind entry attempt : Nat) (commit : Bool) : Packet :=
  ⟨at' 256 56 4 kind ||| at' 256 64 13 20, bytesOfBv 16 (at' 128 0 32 5 ||| at' 128 32 8 attempt ||| bitAt 128 41 commit ||| at' 128 48 11 entry) ++ [1, 2, 3, 4]⟩

theorem witness_DeskmatesComplete_mirror :
    let m (x : Mirror) : Bool × Bool := (x.stale (mirrorHdrOf (mirrorPkt 4 0 1 false)), x.accepts)
    let P (x : Mirror) : Partition := { member .running 3 with mirror := x }
    let c := ctl 0x10 7 0
    let mine (P : Partition) : Bool := let t := got P c false 69
      takes P 0x10 c && decide (ctlSeat c = t.desk ∧ t.mirror.sent = some (ctlStep c) ∧ ctlAttempt c = t.period.attempt ∧ fldN (arg0 c) 0 32 = t.mirror.sentBytes % 2 ^ 32)
    let seats (P : Partition) : Partition := { P with chart := { P.chart with seats := [(0, at' 128 12 2 1 ||| at' 128 32 12 3)] } }
    all [decide ((awake (P {})).NoSwitch), !mhCommit (mirrorHdrOf (mirrorPkt 4 0 1 false)), mhCommit (mirrorHdrOf (mirrorPkt 4 0 1 true)),
      decide (pktKind (mirrorPkt 4 0 1 false).hdr = 4), decide (m {} = (false, true)), decide (m { logStep := 5, logAttempt := 2 } = (true, true)),
      decide (m { applying := true } = (false, false)), decide ((P { applying := true }).mirror.refillTo = none),
      decide ((P { applying := true, refillTo := some (1, 0) }).mirror.refillTo = some (1, 0)), mine (seats (P { sent := some 5, sentBytes := 7 })),
      takes (P {}) 0x10 c, !mine (P {}), decide ((P {}).mirroredSeat = some 0), decide ((seats (P {})).mirroredSeat = none),
      (P { copying := true }).mirror.copying, !(P {}).mirror.copying] = true := by decide +kernel

/-- The refill: a request while an update is applied and not; snapshot packets of an entry, of the journal, and of another kind; the
end of a stream without a journal entry (with a whole one and without: `witness_DeskmatesComplete_refillEnd`). -/
theorem witness_DeskmatesComplete_refill :
    let P := member .running 3
    let q : Partition := { P with mirror := { applying := true } }
    let me : BitVec 128 := bitAt 128 2 true ||| at' 128 64 32 1
    let r : Partition := { P with refilling := true, image := { mirror := [me] }, period := { P.period with svc := [{ step := 5, digest := some 0 }] } }
    let rec' : Partition := lodestar .recovering .refill
    all [takes q 0x16 (ctl 0x16 0 0), ((((awake q).receiveCtl 0 (ctl 0x16 0 0) false 39).2.assertAt 2 6).part 0).mirror.applying, takes P 0x16 (ctl 0x16 0 0),
      decide (pktKind (mirrorPkt 5 0x7FF 0 false).hdr = 5), decide (mhEntry (mirrorHdrOf (mirrorPkt 5 0x7FF 0 false)) = journalEntry),
      decide (mhEntry (mirrorHdrOf (mirrorPkt 5 0 0 false)) ≠ journalEntry), decide (mirrorEntry (r.image.mirror.getD 0 0) = some (0, 0, 256)),
      decide (mirrorEntry (r.image.mirror.getD 1 0) = none), decide ((awake r).Unrecorded [(0, 0, 4, true)] ∧
        ¬({ awake r with cxl := { snoop := [(0, 0)] } } : State).Unrecorded [(0, 0, 4, true)]), r.refilling, !P.refilling,
      (r.period.svc.any fun j => decide (j.step = r.period.step) && j.digest.isSome), takes rec' 0x17 (ctl 0x17 1 0),
      (got rec' (ctl 0x17 1 0) false 39).isLode, decide ((got rec' (ctl 0x17 1 0) false 39).lode.state = .recovering), takes P 0x17 (ctl 0x17 1 0), !P.isLode] = true := by
  decide +kernel

/-- Chart updates with and without a chart; a commit of a newer generation and of the same; acknowledgements; a seat request at a
primed reserve, asleep and awake, and elsewhere; seat ready; fence notice. -/
theorem witness_RecoveryCompletes_charts :
    let P := member .running 3
    let none' : Partition := { P with chart := {} }
    let rec' : Partition := { lodestar .recovering with lode := { (lodestar .recovering).lode with gen := 2 } }
    let res (c : Control) : Control := c ||| at' 512 16 12 0xFFF
    let primed : Partition := { member .primed 3 with chart := { held := true } }
    let asleep : State := { awake primed with dies := [] }
    let mine (c : Control) : Bool := takes rec' 0x13 c && (got rec' c false 39).isLode && decide (fld (arg0 c) 0 32 = (got rec' c false 39).lode.gen)
    all [takes P 0x11 (ctl 0x11 1 0), (got P (ctl 0x11 1 0) true 39).chart.held, !(got none' (ctl 0x11 1 0) true 39).chart.held, takes P 0x12 (ctl 0x12 1 0),
      decide ((got P (ctl 0x12 1 0) true 39).chart.gen < fld (arg0 (ctl 0x12 1 0)) 0 32), decide (fld (arg0 (ctl 0x12 0 0)) 0 32 ≤ (got P (ctl 0x12 0 0) true 39).chart.gen),
      mine (ctl 0x13 2 0), decide (ctlSeat (ctl 0x13 2 0) ≠ 0xFFF), mine (res (ctl 0x13 2 0)), decide (ctlSeat (res (ctl 0x13 2 0)) = 0xFFF), takes P 0x13 (ctl 0x13 2 0),
      takes primed 0x14 (ctl 0x14 1 0), decide ((asleep.part 0).state = .primed ∧ (asleep.part 0).chart.held = true), !asleep.partUp 0, (awake primed).partUp 0,
      decide ((got primed (ctl 0x14 1 0) false 39).state = .primed), decide ((got P (ctl 0x14 1 0) false 39).state ≠ .primed), takes P 0x14 (ctl 0x14 1 0),
      takes rec' 0x15 (ctl 0x15 1 0), decide ((got rec' (ctl 0x15 1 0) false 39).lode.state = .recovering), takes P 0x15 (ctl 0x15 1 0), takes P 0x1C (ctl 0x1C 1 0)] = true := by
  decide +kernel

/-- Waypoints: a seal at the lodestar that makes a waypoint whole, one that does not, one elsewhere; whole; an order to restore at
a running seat and elsewhere; a restore whose waypoint reads all zero, for a START and for a member, and none under way. -/
theorem witness_RecoveryCompletes_waypoints :
    let P := member .running 3
    let L := lodestar .collecting
    let c := ctl 0x18 3 7
    let all2 : Partition := { L with lode := { L.lode with sealed := [(7, 0), (7, 1)] } }
    let l (P : Partition) : List (BitVec 64 × Nat) := (got P c false 39).lode.sealed ++ [(7, 3)]
    let restore (x : PartState) : Partition := { member x 3 with restoring := some 7 }
    all [takes P 0x18 c, !(got P c false 39).isLode, takes all2 0x18 c, (got all2 c false 39).members.all fun m => (l all2).contains (7, m),
      (got L c false 39).members.any fun m => !(l L).contains (7, m),
      decide ((got all2 c false 39).lode.state ≠ .halted), takes (lodestar .halted) 0x18 c, decide ((got (lodestar .halted) c false 39).lode.state = .halted), takes P 0x19 (ctl 0x19 0 7), takes P 0x1A (ctl 0x1A 0 7),
      decide ((got P (ctl 0x1A 0 7) true 39).state = .running ∧ (got P (ctl 0x1A 0 7) true 39).chart.own ≠ 0xFFF), takes (member .halted 3) 0x1A (ctl 0x1A 0 7),
      decide (waypointFault 7 (List.replicate 64 0) = some 1), decide ((restore .starting).state = .starting ∧ (restore .running).state ≠ .starting),
      decide ((awake (restore .running)).Unrecorded [(0, 0, 256, true)] ∧ ¬({ awake (restore .running) with cxl := { snoop := [(0, 0)] } } : State).Unrecorded [(0, 0, 256, true)]),
      decide (P.restoring = none), takes P 0x1B (ctl 0x1B 0 7)] = true := by decide +kernel

/-- A waypoint that reads back as it was sealed: step 7, no data. -/
theorem witness_RecoveryCompletes_whole : waypointFault 7 (bytesOfNat 16 7 ++ bytesOfNat 16 0 ++ shake256 [] 32) = none := by decide +kernel

/-! ## Errors, services, the host port -/

/-- A notice, a detected error; a re-examination that ends with success, one that still has a slice, one that failed. -/
theorem witness_ErrorsComplete :
    let v : State := (awake (part .running)).modServices fun v => { v with reexam := [0] }
    let busy := v.modServices fun v => { v with slices := [{ target := 0, reexam := true }] }
    let ends (s : State) : Bool := s.hub.services.reexam.contains 0 && s.hub.services.slices.all fun x => !x.reexam || decide (targetUnit x.target ≠ 0)
    all [isNotice 0x4001, !isNotice 0x5001, ends v, !ends busy, !v.hub.services.reexamBad.contains 0,
      (v.modServices fun v => { v with reexamBad := [0] }).hub.services.reexamBad.contains 0] = true := by decide +kernel

/-- Dies up and not; a quiz whose cells are free, one with a cell that is not, and none; the link up and down; slices that may be granted
with a bench to save and without, that the governor has no power for, and that wait; slices that hold their target, of each type. -/
theorem witness_ServicesComplete :
    let e := awake (part .running)
    let n (x : Services) : State := e.modServices fun _ => x
    let sl (t : Word) (g : Bool) : Services := { slices := [{ target := t, granted := g }] }
    let waits (s : State) (t : Word) : Bool := s.hub.services.slices.any fun x => decide (x.target = t) && !x.granted
    let c0 : Word := benchTarget 0 0
    let busy (mw : Nat) : State := { e with power := { e.power with inputMw := mw } }
    let formed : State := (working [] 0).modServices fun _ => sl c0 false
    all [decide ((e.die 0).mode = .up ∧ (e.die 2).mode = .up), decide ((({ e with dies := [] } : State).die 0).mode ≠ .up),
      decide ((n { quizPair := some (0, 23) }).hub.services.quizPair = some (0, 23)),
      (pairCells 0 23).all fun c => ((n { quizPair := some (0, 23) }).cell c).quizFree, decide (e.hub.services.quizPair = none),
      (pairCells 0 0).any fun c => !(({ e with cells := [(0, { slots := [(0, { phase := .held 1 })], eng := some { op := opOf 1 } })] } : State).cell c).quizFree, e.mgmt.linkUp, !State.reset.mgmt.linkUp, decide (e.power.state ≠ .recovery),
      waits (n (sl c0 false)) c0, (n (sl c0 false)).sliceFree c0, (n (sl c0 false)).power.headroom c0, !(busy 2500000).power.headroom c0,
      decide (targetType c0 = 0 ∧ (n (sl c0 false)).benchForm (targetBench c0) = none), decide (targetType (unitTarget 0 0) ≠ 0),
      waits formed c0, formed.sliceFree c0, formed.power.headroom c0, (formed.benchForm (targetBench c0)).isSome, !waits e c0, !({ n (sl c0 false) with dies := [] } : State).sliceFree c0,
      (n (sl c0 true)).examHolds c0, !e.examHolds c0, decide (targetType (unitTarget 0 0) = 2 ∧ targetType (regTarget 107) = 4), (n (sl (regTarget 107) true)).examHolds (regTarget 107),
      decide (targetType c0 < 2), decide (4 < targetType (hubTarget 0))] = true := by decide +kernel

/-- A link that carries memory; lines mapped, unmapped, of a region the host writes and of one it does not; before Memory_Active;
a remap under way; a snoop that waits, of a recorded line and of none; the link down, and pins that let it come up. -/
theorem witness_HostPortCompletes :
    let up : Cxl := { width := 4, apertures := [(0, some ⟨0, 0⟩)], memEn := true, hdmCommit := true }
    let P : Partition := { part .running with image := { regions := 0x0202#40 } }
    let s (x : Cxl) : State := { awake P with cxl := x }
    let off := s {}
    let snooped (l : List (Nat × Nat)) (inv : Bool) : State := s { up with bisnp := [(0, 0, inv)], snoop := l }
    let e : BitVec 256 := bitAt 256 2 true ||| at' 256 192 32 64
    let job (got : SMap (List Nat)) : SvcJob := { step := 1, got := got }
    let svc (got : SMap (List Nat)) : State :=
      { awake { P with image := { P.image with inputs := [e] }, period := { svc := [job got] } } with cxl := { up with cacheEn := true } }
    let acc : List (Nat × Nat × Nat × Bool) := [(0, 0, 64, true)]
    all [(s up).memLink, !(s up).lineWaits 0, (s up).power.memAct, (s up).cxl.memEn, (s up).cxl.hdmCommit, !(s { up with hdmCommit := false }).cxl.hdmCommit,
      decide ((svc []).Unrecorded acc ∧ ¬({ svc [] with cxl := { up with cacheEn := true, snoop := [(0, 0)] } } : State).Unrecorded acc),
      decide (look 0 (job []).retries (svcKey 0 0) < 8 ∧ 8 ≤ look 0 ({ job [] with retries := [(svcKey 0 0, 8)] } : SvcJob).retries (svcKey 0 0)), decide ((s up).lineHome 0 = some (0, 0)), decide ((s up).lineHome 0x4000000 = none),
      (s up).hostMay 0 0, !(s up).hostMay 0 (3 * 0x10000000 * 2), decide ((0xFFFFFFFFFFFFFFFF#64) ≠ 0), !off.memLink, (s { up with remap := [(0, none)] }).lineWaits 0,
      decide ((snooped [(0, 0)] true).cxl.bisnp.find? (fun e => decide (e.1 = 0 ∧ e.2.1 = 0)) = some (0, 0, true)),
      decide ((snooped [(0, 0)] false).cxl.snoop.contains (0, 0)), decide ((snooped [] false).cxl.snoop = []),
      decide (off.cxl.width = 0 ∧ off.power.on = true ∧ off.power.perstN = true ∧ 4 ≤ off.power.order ∧ off.sec.tap ≠ .extest), decide ((s up).cxl.width ≠ 0),
      decide ((s up).cxl.ideKeys = []), decide ((s { up with ideKeys := [(0, [1])] }).cxl.ideKeys ≠ []), decide ((s up).cxl.viral = false ∧ (s up).sec.unlocked = false),
      (svc []).cacheOk, bit e 2, decide (inputLen e = 64), decide (((svc []).part 0).period.svc.length = 1),
      decide (((svc []).part 0).period.svc.find? (SvcJob.wants 0 0) = some (job [])), decide (((svc [(0, [0])]).part 0).period.svc.find? (SvcJob.wants 0 0) = none), !off.cacheOk] = true := by
  decide +kernel

theorem witness_RequestsBeforeMemoryActive :
    let s : State := { awake (part .empty) with cxl := { width := 1 }, power := { order := 7 } }
    s.memLink = true ∧ s.power.memAct = false ∧ s.cxl.remap = [] := by decide +kernel

/-! ## Management and attestation -/

/-- A KMP header of a type and length with the device's own serial number. -/
def kmpFor (type len : Nat) : BitVec 256 := (at' 256 0 32 0x31504D4B ||| at' 256 32 8 type ||| at' 256 48 16 len) ||| (Config.serial.setWidth 256 <<< 64)

/-- Fields below and above the serial number do not depend on it. -/
theorem kmpFor_fld (a : BitVec 256) (x : BitVec 64) (lo len : Nat) (h : lo + len ≤ 64 ∨ 128 ≤ lo) :
    fld (a ||| (x.setWidth 256 <<< 64)) lo len = fld a lo len := by
  apply BitVec.eq_of_getLsbD_eq
  intro i hi
  have : (x.setWidth 256 <<< 64).getLsbD (lo + i) = false := by
    rw [BitVec.getLsbD_shiftLeft, BitVec.getLsbD_setWidth]
    rcases h with h | h
    · simp; omega
    · rw [BitVec.getLsbD_of_ge x _ (by omega)]; simp
  simp [hi, this]

theorem kmpFor_serial (a : BitVec 256) (x : BitVec 64) (h : fld a 64 64 = 0) : fld (a ||| (x.setWidth 256 <<< 64)) 64 64 = x := by
  apply BitVec.eq_of_getLsbD_eq
  intro i hi
  have g : a.getLsbD (64 + i) = false := by
    have g := congrArg (fun v => v.getLsbD i) h
    simpa only [BitVec.getLsbD_extractLsb', hi, decide_true, Bool.true_and, BitVec.ofNat_eq_ofNat, BitVec.getLsbD_zero] using g
  have k : (x.setWidth 256 <<< 64).getLsbD (64 + i) = x.getLsbD i := by
    rw [BitVec.getLsbD_shiftLeft, BitVec.getLsbD_setWidth]
    have e : 64 + i - 64 = i := by omega
    simp only [e, show 64 + i < 256 by omega, show ¬64 + i < 64 by omega, show i < 256 by omega, decide_true, decide_false, Bool.not_false, Bool.true_and]
  simp only [BitVec.getLsbD_extractLsb', hi, decide_true, Bool.true_and, BitVec.getLsbD_or, g, k, Bool.false_or]

/-- Every message of the four types to this device is kept. -/
theorem kmpFor_kept (type len : Nat) (bs sg : List Byte) (i3c sec : Bool) (ht : type ∈ [3, 5, 7, 8]) (hl : len ∈ [0, 1, 64, 1056]) :
    kmpKept ⟨kmpFor type len, bs, sg, i3c, 17510, (0, 0), sec⟩ = true ∧ kmpType ⟨kmpFor type len, bs, sg, i3c, 17510, (0, 0), sec⟩ = type ∧
      kmpLen ⟨kmpFor type len, bs, sg, i3c, 17510, (0, 0), sec⟩ = len ∧ kmpSigned ⟨kmpFor type len, bs, sg, i3c, 17510, (0, 0), sec⟩ = false := by
  have k : ∀ t ∈ [3, 5, 7, 8], ∀ n ∈ [0, 1, 64, 1056], let a : BitVec 256 := at' 256 0 32 0x31504D4B ||| at' 256 32 8 t ||| at' 256 48 16 n
      (decide (fld a 0 32 = 0x31504D4B) && decide ((fld a 32 8).toNat = t) && decide (fld a 41 7 = 0) && decide (fld a 195 5 = 0) &&
        decide (fld a 216 40 = 0) && decide (fld a 64 64 = 0) && decide ((fld a 48 16).toNat = n) && decide (fld a 40 1 = 0)) = true := by decide +kernel
  have g := k type ht len hl
  simp only [Bool.and_eq_true, decide_eq_true_eq] at g
  obtain ⟨⟨⟨⟨⟨⟨⟨g0, g1⟩, g2⟩, g3⟩, g4⟩, g5⟩, g6⟩, g7⟩ := g
  have f (lo n : Nat) (h : lo + n ≤ 64 ∨ 128 ≤ lo) (v : Nat)
      (e : (fld (at' 256 0 32 0x31504D4B ||| at' 256 32 8 type ||| at' 256 48 16 len) lo n).toNat = v) : fldN (kmpFor type len) lo n = v :=
    (congrArg BitVec.toNat (kmpFor_fld _ Config.serial lo n h)).trans e
  have t : kmpType ⟨kmpFor type len, bs, sg, i3c, 17510, (0, 0), sec⟩ = type := f 32 8 (by omega) _ g1
  refine ⟨?_, t, f 48 16 (by omega) _ g6, ?_⟩
  · have hc : [3, 5, 7, 8].contains type = true := by simpa using ht
    have z (lo n : Nat) (h : lo + n ≤ 64 ∨ 128 ≤ lo)
        (e : fld (at' 256 0 32 0x31504D4B ||| at' 256 32 8 type ||| at' 256 48 16 len) lo n = 0) : fldN (kmpFor type len) lo n = 0 :=
      f lo n h 0 (by rw [e]; rfl)
    have s : fld (kmpFor type len) 64 64 = Config.serial := kmpFor_serial _ _ g5
    simp only [kmpKept, t, hc, f 0 32 (by omega) 0x31504D4B (by rw [g0]; rfl), z 41 7 (by omega) g2, z 195 5 (by omega) g3, z 216 40 (by omega) g4, s]
    simp
  · have b := congrArg (fun v => v.getLsbD 0) ((kmpFor_fld _ Config.serial 40 1 (by omega)).trans g7)
    simpa [kmpSigned, bit, kmpFor] using b

/-- IDENTIFY as a management request: its submit entry, and the same with VERSION 2. -/
def identifyEntry (version : Nat) : List Byte := bytesOfNat 64 (0x0101 + 2 ^ 20 + version * 2 ^ 28 + (2 ^ 32 - 0x0101 - 2 ^ 20 - version * 2 ^ 28) * 2 ^ 96)

/-- Requests over I3C that pass, with a good and a bad submit entry, that do not parse, and that R344 does not list (WRITE). -/
theorem witness_ManagementCompletes_requests :
    let m (bs : List Byte) (n : Nat) : Kmp := ⟨kmpFor 3 n, bs, [], true, 17510, (0, 0), false⟩
    let w := bytesOfNat 64 (0x0301 + 2 ^ 20 + 2 ^ 28)
    let hd (v : Nat) : Option (Nat × Nat) := (requestCmd (m (identifyEntry v) 64) 0).header 4
    ((kmpKept (m (identifyEntry 1) 64) = true ∧ kmpType (m (identifyEntry 1) 64) = 3 ∧ kmpLen (m (identifyEntry 1) 64) = 64) ∧
      (kmpKept (m [] 0) = true ∧ kmpType (m [] 0) = 3 ∧ kmpLen (m [] 0) = 0)) ∧
    all [requestParses (m (identifyEntry 1) 64), (opPermission 0x0101).isSome, !requestParses (m [] 0), requestParses (m w 64), (opPermission 0x0301).isNone,
      decide ((requestCmd (m (identifyEntry 1) 64) 0).opcode = 0x0101 ∧ (requestCmd (m w 64) 0).opcode = 0x0301), (hd 1).isNone, (hd 2).isSome,
      ({ awake (part .empty) with mgmt := { trained := true } } : State).mgmtOpen (m [] 0), !State.reset.mgmtOpen (m [] 0)] = true := by
  refine ⟨⟨?_, ?_⟩, by decide +kernel⟩
  · have h := kmpFor_kept 3 64 (identifyEntry 1) [] true false (by decide) (by decide)
    exact ⟨h.1, h.2.1, h.2.2.1⟩
  · have h := kmpFor_kept 3 0 [] [] true false (by decide) (by decide)
    exact ⟨h.1, h.2.1, h.2.2.1⟩

/-- A firmware piece that fits a session of 1,024 bytes; one without a session. -/
theorem witness_ManagementCompletes_pieces :
    let bs := bytesOfNat 32 (7 + 1024 * 2 ^ 64 + 1024 * 2 ^ 112) ++ List.replicate 1024 1
    let m : Kmp := ⟨kmpFor 5 1056, bs, [], true, 17510, (0, 0), false⟩
    let s : State := { awake (part .empty) with mgmt := { trained := true }, fw := { state := 1, length := 1024, imageId := 7 } }
    ((kmpKept m = true ∧ kmpType m = 5) ∧ kmpSigned m = false ∧ kmpLen m = bs.length) ∧ s.NoSwitch ∧ s.mgmtOpen m = true ∧
      s.fw.takesPiece bs = true ∧ State.reset.fw.takesPiece bs = false := by
  have h := kmpFor_kept 5 1056 (bytesOfNat 32 (7 + 1024 * 2 ^ 64 + 1024 * 2 ^ 112) ++ List.replicate 1024 1) [] true false (by decide) (by decide)
  exact ⟨⟨⟨h.1, h.2.1⟩, h.2.2.2, h.2.2.1.trans (by decide +kernel)⟩, by decide +kernel, by decide +kernel, by decide +kernel, by decide +kernel⟩

/-- What a network configuration or a key management payload holds is the configuration's own (log 47): given that it reads one, a
message over I3C that carries it is accepted; one that it does not read is rejected with reason 6. -/
theorem witness_ManagementCompletes_settings (n : Option NetworkConfig) (k : Option KeyChange) (hn : Config.parseNetwork [] = n) (hk : Config.parseKeyChange [] = k) :
    let m (t : Nat) : Kmp := ⟨kmpFor t 0, [], [], true, 17510, (0, 0), false⟩
    let s : State := { awake (part .empty) with mgmt := { trained := true } }
    (s.NoSwitch ∧ s.mgmtOpen (m 7) = true) ∧ (kmpKept (m 7) = true ∧ kmpType (m 7) = 7) ∧ (kmpKept (m 8) = true ∧ kmpType (m 8) = 8) ∧
    ((s.kmpIn (m 7)).2.kmpReason (m 7) (Config.parseNetwork []).isSome true 5 = if n.isSome then none else some 6) ∧
    ((s.kmpIn (m 8)).2.kmpReason (m 8) (Config.parseKeyChange []).isSome true 6 = if k.isSome then none else some 6) := by
  have h7 := kmpFor_kept 7 0 [] [] true false (by decide) (by decide)
  have h8 := kmpFor_kept 8 0 [] [] true false (by decide) (by decide)
  refine ⟨⟨by decide +kernel, by decide +kernel⟩, ⟨h7.1, h7.2.1⟩, ⟨h8.1, h8.2.1⟩, ?_, ?_⟩
  · rw [hn]; simp only [State.kmpReason, h7.2.2.1]; cases n <;> simp
  · rw [hk]; simp only [State.kmpReason, h8.2.2.1]; cases k <;> simp

/-- A discarded message; the link up, trained and lost; addresses held and not; the boot block on I3C. -/
theorem witness_ManagementCompletes_network :
    let sw : State := { awake (part .empty) with fw := { stage := .starting } }
    let s (m : Mgmt) : State := { awake (part .empty) with mgmt := m }
    let on : Mgmt := { linkUp := true, trained := true, ipv4 := some 1, ipv6 := some 2 }
    all [decide (sw.fw.stage = .starting), decide (State.reset.power.order < 4), !kmpKept ⟨0, [], [], false, 17510, (0, 0), false⟩, (s on).mgmt.linkUp, !(s { trained := true }).mgmt.linkUp, (s { trained := true }).connected, !(s {}).mgmt.trained,
      decide ((s on).mgmt.ipv4 = some 1 ∧ (s on).mgmt.ipv4 ≠ some 2 ∧ (s on).mgmt.ipv6 = some 2), decide ((s { linkUp := true }).mgmt.ipv4 = none),
      decide ((1 : Byte) ≠ 0 ∧ (1 : Byte) ≠ 0xFF), decide ((s on).power.on = true ∧ 4 ≤ (s on).power.order), decide ((s on).mgmt.dynAddr = none),
      decide ((s { on with dynAddr := some 9 }).mgmt.dynAddr ≠ none)] = true := by decide +kernel

/-- A responder on either transport, its connection at every stage; offers accepted and not; sessions free and none left; sessions
opened, ready and absent; a device without its key. -/
theorem witness_AttestationCompletes :
    let s (x : Spdm) (key : Bool) : State := { awake (part .empty) with spdm := x, cxl := { width := 4 }, sec := { attKey := if key then some [0] else none } }
    let conn (n : Nat) : Spdm := { doe := n, i3c := n }
    let four : List Session := List.replicate 4 { num := 0, transport := .doe }
    all ([Transport.doe, .i3c].flatMap (fun t =>
        ([0, 1, 2, 3].map fun n => decide ((s (conn n) true).Answers t) && decide (((s (conn n) true).spdmIn t).spdm.conn t = n)) ++
        [agreed (((s (conn 3) true).spdmIn t).spdm.conn t), !agreed (((s (conn 2) true).spdmIn t).spdm.conn t), ((s (conn 3) true).spdmIn t).signs,
         !((s (conn 3) false).spdmIn t).signs, !State.reset.spdmRuns t,
         ((s { conn 3 with sessions := [{ num := 1, transport := t }] } true).spdmIn t).spdm.sessions.any (Session.isSess t 1 false),
         ((s { conn 3 with sessions := [{ num := 1, transport := t, ready := true }] } true).spdmIn t).spdm.sessions.any (Session.isSess t 1 true),
         !(((s (conn 3) true).spdmIn t).spdm.sessions.any (Session.isSess t 1 false)), !(((s (conn 3) true).spdmIn t).spdm.sessions.any (Session.isSess t 1 true))]) ++
      [acceptsAll ⟨true, true, true, true, true, true⟩, !acceptsAll ⟨true, true, true, true, true, false⟩, decide ((s { conn 3 with sessions := four } true).spdm.sessions.length = 4),
       decide ((9 : Byte).toNat ≤ 9 ∧ 9 < (10 : Byte).toNat), decide ((List.replicate 96 (0 : Byte)).length = 96)]) = true := by decide +kernel

/-! ## Firmware, power, start-up, test access -/

/-- A verification of an image that fails; a boundary reached and not; a switch in progress and none. (Whether a staged image's
signature verifies rests on the firmware key, `Config.firmwareKey`.) -/
theorem witness_FirmwareEventsComplete :
    let s (f : Firmware) (P : Partition) : State := { awake P with fw := f }
    let busy : Partition := { part .running with period := { isOpen := true } }
    all [decide ((s { state := 2, imageId := 1, length := 4 } (part .empty)).fw.state = 2), decide ((s { state := 2, imageId := 1, length := 4 } (part .empty)).verifyFails = some 0x0507),
      decide ((s { stage := .waitingBoundary } (part .empty)).notAtBoundary = 0), decide ((s { stage := .waitingBoundary } busy).notAtBoundary = 1),
      decide ((s { stage := .starting } (part .empty)).fw.stage = .starting), decide ((s {} (part .empty)).fw.stage = .idle)] = true := by decide +kernel

/-- Samples near the power limit, near another limit, and with room; rails that can be lowered and none; sprint over its window; wear
at its allowance; stages that are left and the last one. -/
theorem witness_GovernorAndSuppliesComplete :
    let hot : GovSample := { powerMw := 2500000, inputMa := 0, busMa := 0, tj16 := 0, thbm := 0, room1ms := false, newMs := false }
    let warm : GovSample := { hot with powerMw := 0, tj16 := 16 * 84 }
    let cool : GovSample := { hot with powerMw := 0, room1ms := true, newMs := true }
    let e := working [] 0
    let low (s : State) : Bool := (List.range 96).any fun k => decide ((s.governDown.bench k).mv < (s.bench k).mv)
    let high : State := e.modBench 0 fun b => { b with mv := 750 }
    let w (p : Power) : State := { e with power := p }
    all [decide (nearLimits 2500 hot % 2 = 1), decide (nearLimits 2500 warm ≠ 0 ∧ nearLimits 2500 warm % 2 = 0), decide (nearLimits 2500 cool = 0), low high, !low e,
      decide (e.power.state = .ready), decide (State.reset.power.state ≠ .ready), decide (200 ≤ (w { sprintMs := List.replicate 200 true }).power.sprintTime),
      decide ((w { sprintMs := List.replicate 199 true }).power.sprintTime < 200), decide ((w {}).power.on = true ∧ bit (w {}).power.stages 3 = true),
      decide ((w {}).power.stages &&& ~~~(1#4 <<< 3) ≠ 0), decide ((w { stages := 8 }).power.stages &&& ~~~(1#4 <<< 3) = 0),
      decide (wearAllowance ≤ (w { wearHours := [wearAllowance] }).power.wearSum), decide ((w {}).power.wearSum < wearAllowance)] = true := by decide +kernel

/-- Dies at every event of a shut-down, quiet and not, asked to come up and not; dies waking and not; start-up at every order that a
clause names; the pins. -/
theorem witness_StartUpCompletes :
    let d (m : DieMode) (ev : Nat) : State := { awake (part .empty) with dies := [(0, { mode := m, event := ev })] }
    let b (n : Nat) : State := { State.reset with power := { order := n } }
    let leaving : State := { awake (part .empty) with dies := (List.range 4).map fun k => (k, { mode := .waking, event := 2 }) }
    let due (s : State) (order : Nat) : Bool := decide (8 ≤ order ∧ order ≤ 11) &&
      (decide (s.power.state = .starting ∧ order = s.power.order + 1) ||
        decide (s.power.state = .ready) && ((List.range 4).all fun d => decide ((s.die d).mode = .waking)) && (List.range 4).any fun d => decide (7 + (s.die d).event = order))
    let stop : BootSample := { loaderOk := true, runningOk := true, badStacks := 1, exams := [] }
    let pin (on cold perst : Bool) : State := { State.reset with power := { on := on, coldN := cold, perstN := perst, order := 3 } }
    all (([1, 2, 3, 4].flatMap fun ev => [DieMode.shuttingDown, .pendingUp].map fun m => decide (((d m ev).die 0).mode = m ∧ ((d m ev).die 0).event = ev)) ++
      [SMap.wf {} (d .shuttingDown 4).dies, due (b 9) 10, due leaving 9, !due (b 9) 9, !due (d .up 0) 9, decide (stop.badStacks ≠ 0 ∧ { stop with badStacks := 0 }.badStacks = 0),
       decide ((pin false true true).power.on = false ∧ (pin false true true).power.coldN = true), decide ((pin true false true).power.coldN = false),
       decide ((pin true true false).power.perstN = false), decide ((pin true true true).power.perstN = true ∧ 3 ≤ (pin true true true).power.order),
       (d .shuttingDown 1).quiet 0, !({ d .shuttingDown 1 with dies := [(0, { mode := .shuttingDown, event := 1, fills := [{ line := 0 }] })] } : State).quiet 0,
       decide ((((d .shuttingDown 4).loseLogic 0).die 0).mode = .shuttingDown), decide (((d .waking 1).die 0).mode = .waking ∧ (d .waking 1).power.state = .ready),
       decide (((d .up 0).die 0).mode ≠ .shuttingDown ∧ ((d .up 0).die 0).mode ≠ .pendingUp)] ++
      ([0, 3, 4, 5, 6, 7, 8, 9, 10, 11, 12].map fun n => decide ((b n).power.on = true ∧ (b n).power.vinHigh = true ∧ (b n).power.coldN = true ∧
        (b n).power.state = .starting ∧ (b n).power.order = n))) = true := by decide +kernel

/-- Debug locked and fused off; a challenge given and none. (Whether a response's key and signature are the authority's rests on
`Config.debugKeyDigest`; both cases of TestAccessCompletes are of one challenge.) -/
theorem witness_TestAccessCompletes :
    let s (f : Bool) (c : Option (List Byte)) : State := { awake (part .empty) with fw := { debugFuse := f }, sec := { challenge := c } }
    all [decide ((s false none).fw.debugFuse = false ∧ (s false none).power.on = true ∧ 3 ≤ (s false none).power.order), (s true none).fw.debugFuse,
      decide ((s false (some [1])).sec.challenge = some [1]), decide ((s false none).sec.challenge = none)] = true := by decide +kernel

/-! ## Whole-machine statements -/

theorem witness_SwitchDefersMessages :
    let s : State := { awake (part .empty) with fw := { stage := .starting }, mgmt := { linkUp := true } }
    s.fw.stage = .starting ∧ ∀ t ∈ [3, 5, 7, 8], s.mgmtOpen ⟨kmpFor t 0, [], [], false, 17510, (0, 0), false⟩ = true ∧
      kmpKept ⟨kmpFor t 0, [], [], false, 17510, (0, 0), false⟩ = true ∧ kmpType ⟨kmpFor t 0, [], [], false, 17510, (0, 0), false⟩ = t :=
  ⟨rfl, fun t h => have k := kmpFor_kept t 0 [] [] false false h (by decide); ⟨rfl, k.1, k.2.1⟩⟩

/-- An event of a cell that gives a next state. -/
theorem witness_CellWorkStaysInItsCell :
    Instr.nop 0 ∈ [Instr.descriptorIssue 0, .nop 0] ∧ exec (.nop 0) State.reset = .next State.reset := ⟨by simp, rfl⟩

theorem witness_HbmWritesReadBack : State.reset.Canon ∧ (walkAt {} 6).Canon := by decide +kernel

theorem witness_WritesInvalidateCachedLines :
    let D : Die := { wc := [(0, [0])], fills := [{ line := 0, blocks := 1 }] }
    let f (st : Bool) : Fill := { line := 0, blocks := 4, stale := st }
    let s (st : Bool) : State := { State.reset with dies := [(0, { fills := [f st] })] }
    all ([SMap.wf [] D.wc, (linesOf 255 1).contains 0, (linesOf 255 2).contains 256] ++
      [false, true].map fun st => decide (((s st).die 0).fills.find? (fun f => decide (f.line = 0 ∧ f.blocks = 4)) = some (f st)) &&
        !(s st).examHolds (wcTarget 0 (wcSet 0 / 256))) = true := by decide +kernel

theorem witness_VectorLanesStandAlone : 63 < 64 := by decide
/-! ## A seating chart: witnesses by lemmas, since the kernel does not evaluate 102,592 bytes -/

/-- CHART_LOAD with an empty chart of 4,096 seats: OWN as given, lodestar parameters in range, no interval. -/
def chartCmd (own : Nat) : PendCmd :=
  { index := 0, entry := at' 512 0 16 0x0401 ||| at' 512 28 4 1 ||| at' 512 64 32 102592
    ext := ⟨bytesOfNat 64 (own * 2 ^ 32) ++ (List.replicate 98304 0 ++ (bytesOfNat 64 (2 + 2 ^ 8 + 2 ^ 24 + 2 ^ 40 + 2 ^ 56) ++
      List.replicate 4160 0)), none⟩ }

theorem len_bytesOfNat (n v : Nat) : (bytesOfNat n v).length = n := by
  induction n generalizing v with
  | zero => rfl
  | succ n ih => simp [bytesOfNat, ih]

theorem chartCmd_bytes (own : Nat) : (chartCmd own).bytes = bytesOfNat 64 (own * 2 ^ 32) ++ (List.replicate 98304 0 ++
    (bytesOfNat 64 (2 + 2 ^ 8 + 2 ^ 24 + 2 ^ 40 + 2 ^ 56) ++ List.replicate 4160 0)) := by
  have h1 : (chartCmd own).inline = false := by
    show bit (at' 512 0 16 0x0401 ||| at' 512 28 4 1 ||| at' 512 64 32 102592) 20 = false
    decide +kernel
  have h2 : (chartCmd own).plen = 102592 := by
    show fldN (at' 512 0 16 0x0401 ||| at' 512 28 4 1 ||| at' 512 64 32 102592) 64 32 = 102592
    decide +kernel
  rw [PendCmd.bytes, h1, h2]
  simp only [Bool.false_eq_true, if_false, chartCmd]
  exact List.take_of_length_le (by rw [List.length_append, List.length_append, List.length_append, len_bytesOfNat, len_bytesOfNat,
    List.length_replicate, List.length_replicate])

theorem chartCmd_head (own n : Nat) (h : n ≤ 64) : (chartCmd own).slice 0 n = (bytesOfNat 64 (own * 2 ^ 32)).take n := by
  rw [PendCmd.slice, chartCmd_bytes, List.drop_zero, List.take_append_of_le_length (by rw [len_bytesOfNat]; exact h)]

theorem chartCmd_zeros (own off n : Nat) (h1 : 64 ≤ off) (h2 : off + n ≤ 98368) : (chartCmd own).slice off n = List.replicate n 0 := by
  rw [PendCmd.slice, chartCmd_bytes, List.drop_append, len_bytesOfNat, List.drop_of_length_le (by rw [len_bytesOfNat]; exact h1),
    List.nil_append, List.drop_append_of_le_length (by rw [List.length_replicate]; omega), List.drop_replicate,
    List.take_append_of_le_length (by rw [List.length_replicate]; omega), List.take_replicate]
  congr 1; omega

theorem chartCmd_params (own : Nat) : (chartCmd own).slice 98368 64 = bytesOfNat 64 (2 + 2 ^ 8 + 2 ^ 24 + 2 ^ 40 + 2 ^ 56) := by
  rw [PendCmd.slice, chartCmd_bytes, List.drop_append, len_bytesOfNat, List.drop_of_length_le (by rw [len_bytesOfNat]; omega),
    List.nil_append, List.drop_append, List.length_replicate, List.drop_of_length_le (by rw [List.length_replicate]),
    List.nil_append, List.drop_zero, List.take_append_of_le_length (by rw [len_bytesOfNat]), List.take_of_length_le (by rw [len_bytesOfNat])]

theorem chartCmd_tail (own off n : Nat) (h1 : 98432 ≤ off) (h2 : off + n ≤ 102592) : (chartCmd own).slice off n = List.replicate n 0 := by
  rw [PendCmd.slice, chartCmd_bytes, List.drop_append, len_bytesOfNat, List.drop_of_length_le (by rw [len_bytesOfNat]; omega),
    List.nil_append, List.drop_append, List.length_replicate, List.drop_of_length_le (by rw [List.length_replicate]; omega),
    List.nil_append, List.drop_append, len_bytesOfNat, List.drop_of_length_le (by rw [len_bytesOfNat]; omega), List.nil_append,
    List.drop_replicate, List.take_replicate]
  congr 1; omega

theorem natOfBytes_zeros (n : Nat) : natOfBytes (List.replicate n 0) = 0 := by
  induction n with
  | zero => rfl
  | succ n ih => rw [List.replicate_succ, natOfBytes, ih]; rfl

theorem chunks_zeros (n f m : Nat) : ∀ l ∈ chunksOf n f (List.replicate m (0 : Byte)), ∃ j, l = List.replicate j 0 := by
  induction f generalizing m with
  | zero => simp [chunksOf]
  | succ f ih =>
    intro l hl
    rw [chunksOf] at hl
    split at hl
    · simp at hl
    · simp only [List.mem_cons, List.take_replicate, List.drop_replicate] at hl
      rcases hl with rfl | hl
      · exact ⟨_, rfl⟩
      · exact ih _ _ hl

theorem words_zeros (w n f m : Nat) : ∀ e ∈ (chunksOf n f (List.replicate m (0 : Byte))).map (bvOfBytes w), e = 0#w := by
  intro e he
  obtain ⟨l, hl, rfl⟩ := List.mem_map.1 he
  obtain ⟨j, rfl⟩ := chunks_zeros n f m l hl
  rw [bvOfBytes, natOfBytes_zeros]

theorem seats_zero (own : Nat) : ∀ e ∈ (chartCmd own).entries 64 4096, e = 0 := by
  rw [PendCmd.entries, chartCmd_zeros own 64 _ (by omega) (by omega)]; exact words_zeros 128 16 _ _

theorem reserves_zero (own : Nat) : ∀ e ∈ (chartCmd own).entries 98496 256, e = 0 := by
  rw [PendCmd.entries, chartCmd_tail own 98496 _ (by omega) (by omega)]; exact words_zeros 128 16 _ _

theorem groups_zero (own k : Nat) (hk : k < 4) : ∀ e ∈ (chartCmd own).groupWords k, e = 0 := by
  rw [PendCmd.groupWords, chartCmd_zeros own _ _ (by omega) (by omega)]; exact words_zeros 16 2 _ _

theorem badEntries_zero {hi base : Nat} {l : List (BitVec 128)} (hb : badEntry hi 0 = none) (h : ∀ e ∈ l, e = 0) :
    badEntries base hi l = none := by
  rw [badEntries, List.findSome?_eq_none_iff]
  intro e he
  rw [h e.1 (List.fst_mem_of_mem_zipIdx he), hb]; rfl

theorem badGroup_zero {base : Nat} {l : List (BitVec 16)} (h : ∀ e ∈ l, e = 0) : badGroup base l = none := by
  rw [badGroup, List.findSome?_eq_none_iff]
  intro e he
  rw [h e.1 (List.fst_mem_of_mem_zipIdx he)]
  have h1 : decide (fldN (0 : BitVec 16) 12 3 ≠ 0) = false := by decide
  have h2 : bit (0 : BitVec 16) 15 = false := by decide
  rw [h1, h2]; rfl

theorem puts_zero (l : List (BitVec 128 × Nat)) (h : ∀ e ∈ l, e.1 = 0) : l.foldl (fun m e => put 0 m e.2 e.1) ([] : SMap (BitVec 128)) = [] := by
  induction l with
  | nil => rfl
  | cons e l ih => rw [List.foldl_cons, h e (by simp), show put (0 : BitVec 128) [] e.2 0 = [] from by simp [put]]; exact ih fun x hx => h x (by simp [hx])

theorem chartCmd_good (own : Nat) (h : own = 0 ∨ own = 0xFFF) : badChart (chartCmd own) = none := by
  have g (k : Nat) (hk : k < 4) : badGroup (524800 + 65536 * k) ((chartCmd own).groupWords k) = none := badGroup_zero (groups_zero own k hk)
  have hh : firstBad [(44, decide (fldN (bvOfBytes 512 ((chartCmd own).slice 0 64)) 44 468 ≠ 0))] = none := by
    rw [chartCmd_head own 64 (by omega), List.take_of_length_le (by rw [len_bytesOfNat])]
    rcases h with rfl | rfl <;> decide +kernel
  have hp : badParams 786944 (chartCmd own).lodeWord = none := by
    rw [PendCmd.lodeWord, chartCmd_params]; decide +kernel
  have hw : firstBad [(787584, decide (fldN (chartCmd own).wpWord 128 384 ≠ 0))] = none := by
    rw [PendCmd.wpWord, chartCmd_tail own 98432 64 (by omega) (by omega), bvOfBytes, natOfBytes_zeros]; decide +kernel
  unfold badChart
  simp only [hh, hp, hw, badEntries_zero (base := 512) (hi := 20) (by decide) (seats_zero own),
    badEntries_zero (base := 787968) (hi := 32) (by decide) (reserves_zero own)]
  simp [List.range, List.range.loop, g 0, g 1, g 2, g 3, lowest]

theorem chartCmd_seats (own : Nat) : (chartCmd own).chart.seats = [] := by
  show List.foldl _ _ _ = _
  exact puts_zero _ fun e he => seats_zero own e.1 (List.fst_mem_of_mem_zipIdx he)

theorem chartCmd_own (own : Nat) (h : own = 0 ∨ own = 0xFFF) : (chartCmd own).chart.own = BitVec.ofNat 12 own := by
  show fld (bvOfBytes 64 ((chartCmd own).slice 0 8)) 32 12 = _
  rw [chartCmd_head own 8 (by omega)]
  rcases h with rfl | rfl <;> decide +kernel

theorem chartCmd_interval (own : Nat) : (chartCmd own).chart.params.interval = 0 := by
  show (lodeParams (chartCmd own).lodeWord).interval = 0
  rw [PendCmd.lodeWord, chartCmd_params]; decide +kernel

theorem chartRefused_empty {s : State} {P : Partition} {C : Chart} (hs : C.seats = []) (hi : C.params.interval = 0)
    (hc : P.chart.held = false) (hb : P.image.buckets = []) (hr : P.image.remotes = []) :
    s.chartRefused P C = if C.own = 0xFFF ∧ P.image.reserve = true then none else some 4 := by
  have h1 : C.desksOk = true := by simp [Chart.desksOk, Chart.members, hs]
  have h2 : P.stagingOk C = true := by simp [Partition.stagingOk, hi]
  have h3 : s.groupsOk P C = true := by simp [State.groupsOk, hb, hr]
  have h4 : seatState (C.entry C.own.toNat) ≠ 1 := by
    rw [Chart.entry, hs, show look (0 : BitVec 128) [] C.own.toNat = 0 from rfl]; decide
  unfold State.chartRefused
  rw [h1, h2, h3, hc]
  by_cases ho : C.own = 0xFFF <;> cases hv : P.image.reserve <;> simp_all [firstBad]

theorem chartCmd_starts (own : Nat) (P : Partition) (h : own = 0 ∨ own = 0xFFF)
    (h1 : P.dies ≠ 0) (h2 : [.loaded, .halted, .primed].contains P.state = true) :
    (onRing (awake P) (chartCmd own)).Starts 0 0x0401 [.loaded, .halted, .primed] badChart (chartCmd own) := by
  have ho : (chartCmd own).opcode = 0x0401 := by
    show fldN (at' 512 0 16 0x0401 ||| at' 512 28 4 1 ||| at' 512 64 32 102592) 0 16 = _
    decide +kernel
  have hp : (chartCmd own).part = 0 := by
    show fldN (at' 512 0 16 0x0401 ||| at' 512 28 4 1 ||| at' 512 64 32 102592) 16 4 = _
    decide +kernel
  have hf : (chartCmd own).fence = false := by
    show bit (at' 512 0 16 0x0401 ||| at' 512 28 4 1 ||| at' 512 64 32 102592) 21 = _
    decide +kernel
  refine ⟨rfl, ho, fun h => ?_, ?_, rfl, fun h => ?_, ?_, ?_, fun h => ?_, rfl, ?_, ?_⟩
  · rw [hf] at h; cases h
  · rw [State.exclusiveFree, ho]; rfl
  · cases h
  · show SwitchStage.idle ≠ .starting; decide
  · refine ⟨fun g => ?_, fun g => ?_, .inl ?_, chartCmd_good own h, ?_, fun g => ?_⟩
    · cases g
    · cases g
    · rw [hp]; exact h1
    · rw [hp]; exact List.contains_iff_mem.1 h2
    · cases g
  · rw [show wakes 0x0401 = false from by decide] at h; cases h
  · show chartCmd own ∉ ([] : List PendCmd); simp
  · rfl

/-- An empty chart with OWN 0 is refused with DETAIL 4, one of a partition in reserve is held; a Primed partition has a chart. -/
theorem witness_ChartLoad :
    let R : Partition := { part .loaded with image := { reserve := true } }
    ((onRing (awake (part .loaded)) (chartCmd 0)).Starts 0 0x0401 [.loaded, .halted, .primed] badChart (chartCmd 0) ∧
      (awake (part .loaded)).chartRefused (part .loaded) (chartCmd 0).chart = some 4) ∧
    ((onRing (awake R) (chartCmd 0xFFF)).Starts 0 0x0401 [.loaded, .halted, .primed] badChart (chartCmd 0xFFF) ∧
      (awake R).chartRefused R (chartCmd 0xFFF).chart = none) ∧
    ((onRing (awake (charted .primed)) (chartCmd 0)).Starts 0 0x0401 [.loaded, .halted, .primed] badChart (chartCmd 0) ∧
      (charted .primed).state = .primed ∧ (charted .primed).chart.held = true) := by
  refine ⟨⟨chartCmd_starts 0 _ (.inl rfl) (by decide) (by decide), ?_⟩, ⟨chartCmd_starts 0xFFF _ (.inr rfl) (by decide) (by decide), ?_⟩,
    chartCmd_starts 0 _ (.inl rfl) (by decide) (by decide), rfl, rfl⟩
  · rw [chartRefused_empty (chartCmd_seats 0) (chartCmd_interval 0) rfl rfl rfl, chartCmd_own 0 (.inl rfl)]; decide
  · rw [chartRefused_empty (chartCmd_seats _) (chartCmd_interval _) rfl rfl rfl, chartCmd_own _ (.inr rfl)]; decide

/-! ## A journal entry that arrives whole: a witness by lemmas, without evaluating the digest -/

theorem keccakRound_length (a : List (BitVec 64)) (rc : BitVec 64) : (keccakRound a rc).length = 25 := by
  simp [keccakRound, keccakChiIota, byLanes]

theorem keccakF_length (a : List (BitVec 64)) : (keccakF a).length = 25 := by
  have h (l : List (BitVec 64)) (a : List (BitVec 64)) (ha : a.length = 25) : (l.foldl keccakRound a).length = 25 := by
    induction l generalizing a with
    | nil => exact ha
    | cons x l ih => exact ih _ (keccakRound_length a x)
  obtain ⟨c, l, hc⟩ := List.exists_cons_of_ne_nil (show roundConsts ≠ [] by decide +kernel)
  rw [keccakF, hc, List.foldl_cons]
  exact h _ _ (keccakRound_length _ _)

theorem keccakSqueeze_length (n : Nat) (a : List (BitVec 64)) (h : a.length = 25) : (keccakSqueeze n a).length = 136 * n := by
  induction n generalizing a with
  | zero => rfl
  | succ n ih =>
    rw [keccakSqueeze, List.length_append, ih _ (keccakF_length a), List.length_flatMap]
    have e : (a.take 17).map (fun b => (bytesOfBv 8 b).length) = List.replicate 17 8 := by
      rw [List.eq_replicate_iff]
      constructor
      · simp [h]
      · intro b hb
        obtain ⟨x, -, rfl⟩ := List.mem_map.1 hb
        exact len_bytesOfNat 8 _
    rw [e, List.sum_replicate]
    simp only [smul_eq_mul]; omega

theorem shake256_length (m : List Byte) (n : Nat) : (shake256 m n).length = n := by
  have h (l : List (List Byte)) (a : List (BitVec 64)) (ha : a.length = 25) :
      (l.foldl (fun a b => keccakF (keccakXor a b)) a).length = 25 := by
    induction l generalizing a with
    | nil => exact ha
    | cons x l ih => exact ih _ (keccakF_length _)
  unfold shake256
  dsimp only
  rw [List.length_take, keccakSqueeze_length _ _ (h _ _ (by simp))]
  omega

theorem readBytes_writeBytes (bs : List Byte) : readBytes (writeBytes [] 0 bs) 0 bs.length = bs := by
  have h (m : SMap Byte) (a n : Nat) (l : List Byte) (hl : l.length = n) (hk : ∀ k < n, look 0 m (a + k) = l.getD k 0) : readBytes m a n = l := by
    induction n generalizing a l with
    | zero => rw [List.length_eq_zero_iff.1 hl]; rfl
    | succ n ih =>
      cases l with
      | nil => simp at hl
      | cons b l =>
        rw [readBytes, ih (a + 1) l (by simpa using hl) fun k hk' => by
          have := hk (k + 1) (by omega)
          rw [show a + 1 + k = a + (k + 1) by omega, this]; rfl]
        have := hk 0 (by omega)
        rw [Nat.add_zero] at this
        rw [this]; rfl
  exact h _ 0 _ bs rfl fun k hk => look_writeBytes_in rfl k hk

/-- Of 4,096 bytes, an entry is read where the last 8 are the digest of the others, and only there. -/
theorem jEntryOf_isSome (z w : List Byte) (hz : z.length = 4088) (hw : w.length = 8) : (jEntryOf (z ++ w)).isSome = decide (w = shake256 z 8) := by
  have h1 : (z ++ w).take 4088 = z := by
    rw [List.take_append_of_le_length (by rw [hz]), List.take_of_length_le (by rw [hz])]
  have h2 : (fun (i n : Nat) => ((z ++ w).drop i).take n) 4088 8 = w := by
    show ((z ++ w).drop 4088).take 8 = w
    rw [List.drop_append_of_le_length (by rw [hz]), List.drop_of_length_le (by rw [hz]), List.nil_append,
      List.take_of_length_le (by rw [hw])]
  unfold jEntryOf
  by_cases h : w = shake256 z 8
  · rw [if_neg (fun g => g (by rw [h1, h2, h])), decide_eq_true h]; rfl
  · rw [if_pos (fun g => h (by rw [h1, h2] at g; exact g.symm)), decide_eq_false h]; rfl

/-- A member whose area holds these bytes, that refills and whose service job of the step is done. -/
def refilled (bs : List Byte) : Partition :=
  { part .running with
    refilling := true, period := { step := 5, svc := [{ step := 5, digest := some 0 }] }, mirror := { inbox := writeBytes [] 0 bs, inboxLen := bs.length } }

/-- A whole journal entry stands in the area of a member that refills, and its service job of the step is done; or one whose digest is
another. -/
theorem witness_DeskmatesComplete_refillEnd (good : Bool) : ∃ bs, let P := refilled bs
    P.refilling = true ∧ (P.period.svc.any fun j => decide (j.step = P.period.step) && j.digest.isSome) = true ∧ 4096 ≤ P.mirror.inboxLen ∧
      (jEntryOf ((readBytes P.mirror.inbox 0 P.mirror.inboxLen).take 4096)).isSome = good := by
  have hd : (shake256 (List.replicate 4088 0) 8).length = 8 := shake256_length _ _
  have key (w : List Byte) (hw : w.length = 8) (he : decide (w = shake256 (List.replicate 4088 0) 8) = good) : ∃ bs, let P := refilled bs
      P.refilling = true ∧ (P.period.svc.any fun j => decide (j.step = P.period.step) && j.digest.isSome) = true ∧ 4096 ≤ P.mirror.inboxLen ∧
        (jEntryOf ((readBytes P.mirror.inbox 0 P.mirror.inboxLen).take 4096)).isSome = good := by
    have hl : (List.replicate 4088 0 ++ w).length = 4096 := by rw [List.length_append, List.length_replicate, hw]
    refine ⟨List.replicate 4088 0 ++ w, rfl, rfl, ?_, ?_⟩ <;> simp only [refilled]
    · exact hl.ge
    rw [readBytes_writeBytes, List.take_of_length_le hl.le, jEntryOf_isSome _ _ List.length_replicate hw, he]
  cases good with
  | true => exact key _ hd (decide_eq_true rfl)
  | false =>
    refine key ((shake256 (List.replicate 4088 0) 8).map (· + 1)) (by rw [List.length_map, hd]) (decide_eq_false fun h => ?_)
    have e (b : Byte) : b + 1 ≠ b := by intro h; have := congrArg BitVec.toNat h; simp at this; omega
    match hs : shake256 (List.replicate 4088 0) 8, hd with
    | b :: l, _ => rw [hs] at h; exact e b (by simpa using (List.cons.inj h).1)

/-! ## Worked examples of the manual -/

/-- Chapter 4, "An embedding gather that meets a hot bank": address 1,073,747,200 lies in H4 (the second stack of CD1), die pseudo-channel 60, bank 10. -/
theorem test_hbm_map : stackOf 1073747200 = 1 ∧ chanOf 1073747200 = 60 ∧ bankOf 1073747200 = 10 := by decide

/-- The same example: its three instructions and its header bits. -/
theorem test_chart_encoding :
    [0x1000020000000080, 0x2110000000000000, 0x3080000000000000].map (fun n => chartInstr (BitVec.ofNat 64 n)) =
      [.level 0 512 128, .index 0 4 0x100000, .emit 128 0] ∧
    (let h : ChartHdr := 0x2212
     chSpace h = 2 ∧ chPolicy h = 1 ∧ chQueue h = 2 ∧ chNinstr h = 3 ∧ chPersist h = false ∧ chWrite h = false) := by decide +kernel

/-- A step of the site of chapter 3, "A window that cancels": E4M3 codes, scales of 1.0. -/
def windowStep (a b rnd : Nat) (close : Bool) (x : S20 × W40) : S20 × W40 :=
  let l (n : Nat) : OpLane := ([decodeBits fmtE4M3 n, .zero], 127)
  siteStep 0 1 1 close (l a) (l b) rnd x.1 x.2

/-- That example: 200,704, then 200,704.5 with the random bits 612 and 131, then 0.5 and 0.875, and a promotion that adds 0.875. -/
theorem test_window_cancels :
    let s1 := windowStep 0x7E 0x7E 0 false (0, 0)
    let s2 := windowStep 0x34 0x30 612 false s1
    let s3 := windowStep 0x34 0x30 131 false s2
    let s4 := windowStep 0xFE 0x7E 0 false s3
    let s5 := windowStep 0x34 0x30 0 false s4
    let s6 := windowStep 0 0 1023 true s5
    all [(s20Val s1.1).eq (.num false 200704 0), (s20Val s2.1).eq (.num false 401409 (-1)), (s20Val s3.1).eq (.num false 401409 (-1)),
      (s20Val s4.1).eq (.num false 1 (-1)), (s20Val s5.1).eq (.num false 7 (-3)), (w40Val s6.2).eq (.num false 7 (-3)), decide (s6.1 = 0)] = true := by
  decide +kernel

/-- Chapter 8, "A block that escalates": the chunk length, and elements 256 and 257 around the ring. -/
theorem test_block_escalates :
    let v (a b : Val) : List Val := [a, b] ++ List.replicate 30 .zero
    let first := v (.num false 3 0) (.num true 3 (-2))
    let r1 := blockFirst 4 first
    let r2 := blockHop r1 (v (.num false 5 (-1)) (.num false 5 (-4)))
    let r3 := blockHop r2.1 (v (.num false 40 0) (.num false 1 (-3)))
    let last := List.zipWith Val.add (blockVals r3.1).2.2 (v (.num true 1 0) (.num false 1 (-10)))
    let r4 := blockHop r3.1 (v (.num true 1 0) (.num false 1 (-10)))
    all [decide (chunkMax (at' 512 128 32 1024) 4 = 256), decide (agreeScale 4 first = 0x74), decide (r1.take 4 = [0, 0x74, 0x6E, 0xE6]), decide (r1.length = 34),
      decide (r2.1.take 4 = [0, 0x74, 0x72, 0xE3]), !r2.2, decide (r3.1.take 6 = [0x80, 0x74, 0x38, 0x42, 0xA0, 0xBE]), r3.2, decide (r3.1.length = 66),
      decide (r4.1.take 6 = [0x80, 0x74, 0x34, 0x42, 0xA0, 0xBE]), !r4.2,
      decide (((blockVals r4.1).2.2.take 2).map (fun x => encodeVal fmtW40 .nearest x) = [0x4234000000, 0xBEA0000000]), decide (last.length = 32)] = true := by
  decide +kernel

/-- Chapter 9, "A unicast that escapes across a dateline": at (3, 14) of a 16 × 16 torus, West and North are productive towards (12, 2); the
packet is 9 flits; West crosses the dateline at (0, 15) and North at (12, 15). -/
theorem test_torus_route :
    let f (x y : Nat) : Fabric := { sizeX := 16, sizeY := 16, ownX := x, ownY := y }
    let h : BitVec 256 := at' 256 0 6 12 ||| at' 256 6 6 2
    all [decide (pktDx h = 12 ∧ pktDy h = 2), decide ((f 3 14).xOuts h = [0]), decide ((f 3 14).yOuts h = [1]), (f 0 15).crosses 0, !(f 1 15).crosses 0,
      (f 12 15).crosses 1, decide ((f 12 15).xOuts h = []), decide (flitCount ⟨h, List.replicate 2048 0⟩ = 9)] = true := by decide +kernel

/-- Chapter 10, "A slow member, then a lost one": a median of 0.860 s at factor 3, then a pace of 635. -/
theorem test_patience :
    let P (paces : SMap Nat) : Partition := { part .running with
      chart := { held := true, seats := [(1129, at' 128 12 2 1)], params := { factor := 3 } }
      lode := { history := List.replicate 15 860000, paces := paces } }
    (P []).patience = 2580000 ∧ (P [(1129, 635)]).patience = 4160503 := by decide +kernel

/-- Chapter 5, "A latched count and an empty entry": WAIT0 and SIG0. -/
theorem test_wait_encoding :
    let w : BitVec 64 := 0x0000011000015040
    let g : BitVec 64 := 0x0000000000015042
    all [decide (sigTally w = 0x1040), sigEn w, decide ((List.range 4).map (fun i => threshold [i] w) = [1, 2, 3, 4]),
      decide (sigTally g = 0x1042), sigEn g, !sigForm g, decide (sigValue g = 1)] = true := by decide +kernel

/-- Chapter 7, "Two update groups in one period": OPTIM₁'s WAIT0 and the release's SIG0. -/
theorem test_release_encoding :
    let w : BitVec 64 := 0x0000000000084F10
    let g : BitVec 64 := 0x000000000001CF10
    all [decide (sigTally w = 0xF10), sigEn w, decide (threshold [] w = 8), decide (sigTally g = 0xF10), sigEn g, sigForm g, decide (sigValue g = 1)] = true := by
  decide +kernel

/-- Chapter 12, "Starting partition 1 from a waypoint", and chapter 13, "A stop sent twice": the sum of each command with its CHECK is 0. -/
theorem test_checks :
    let start : PendCmd := { index := 17, entry := 0xFA1#512 <<< 256 ||| 2#512 <<< 320 ||| at' 512 0 128 0xEFEEE2210000001000000C2A10110202, ext := ⟨[], none⟩ }
    let stop : PendCmd := { index := 0, entry := at' 512 0 128 0xEFEFFDAC000000000000005110100203, ext := ⟨[], none⟩ }
    all [decide (start.sum = 0), decide (stop.sum = 0), decide (start.header 1 = none), decide (start.par 0 64 = 4001 ∧ start.par 64 2 = 2 ∧ start.part = 1)] = true := by
  decide +kernel

/-- Chapter 15, "Errors queued behind a recovery packet, then a bad completion": source 7's vector, and the fields after the bad completion. -/
theorem test_clerk_vectors :
    let k : Clerk := { vbase := 0x40000, gie := true }
    let bad := ((({ k with isSrc := 3, isCount := 2 } : Clerk).abandon 0 1).pendAgain 3 2 |>.assert 0).deliver 0
    all [decide ((k.deliver 7).vector = some 0x400E0 ∧ (k.deliver 7).isSrc = 7), decide (bad.fault = 1 ∧ bad.faultSrc = 3 ∧ bad.faultWr = 1),
      decide (bad.vector = some 0x40000 ∧ bit bad.pending 3 = true ∧ look 0 bad.counts 3 = 2)] = true := by decide +kernel

/-- Chapter 17, "One exam period on CD2": the targets of bench 20 and of H7 pseudo-channel 16 in period 4,117. -/
theorem test_exam_targets : all [(dieSlices 2 4117).contains 0x544, (dieSlices 2 4117).contains 0x30000107] = true := by decide +kernel

end Sys2Proof.Tests
end

section
/-! The laws of the rings' registers (R14, R319, R320, R323, R385): admission leaves the rings as they are, what is read of
a submit entry, what is written of a reply, and what a field stores. -/

namespace Sys2Proof.Machine

/-! ### Admission leaves the rings as they are -/

@[simp] theorem assertKey_rings (s : State) (key : Nat) : (s.assertKey key).rings = s.rings := by
  unfold State.assertKey
  split
  · exact modClerk_rings ..
  · split
    · exact modClerk_rings ..
    · rfl

/-- Changing partitions one after another leaves the rings as they are. -/
@[simp] theorem foldl_modPart_rings (l : List Nat) (f : Partition → Partition) (s : State) :
    (l.foldl (fun t p => t.modPart p f) s).rings = s.rings := by
  induction l generalizing s with
  | nil => rfl
  | cons p l ih => exact (ih _).trans (modPart_rings ..)

@[simp] theorem intake_rings (s : State) (kind : IngressKind) (key : Nat) : (s.intake kind key).2.rings = s.rings := by
  unfold State.intake
  split
  · exact modHub_rings ..
  · exact ((assertKey_rings ..).trans (foldl_modPart_rings ..)).trans (modHub_rings ..)

@[simp] theorem intake_ring (s : State) (kind : IngressKind) (key r : Nat) :
    (s.intake kind key).2.ring r = s.ring r :=
  congrArg (fun m => look ({} : Ring) m r) (intake_rings s kind key)

/-! ### One ring changes, and something is sent -/

/-- Where one ring changes and something is sent, that ring reads as changed and nothing else of the state is touched. -/
theorem modRing_sends {s t : State} {r : Nat} {f : Ring → Ring} {o : List Out} (h : SMap.wf {} s.rings = true)
    (ht : t = { s.modRing r f with out := s.out ++ o }) :
    t.ring r = f (s.ring r) ∧ t.out = s.out ++ o ∧ t = { s with rings := t.rings, out := t.out } ∧
      ∀ j, j ≠ r → t.ring j = s.ring j := by
  subst ht
  exact ⟨(ring_modRing h r r f).trans (if_pos rfl), rfl, rfl, fun j hj => ring_modRing_ne hj f⟩

/-! ### Reading submit entries -/

/-- An entry read moves SUB_HEAD by one, whether its header lets it wait or fails it at once (R320). -/
@[simp] theorem take_subHead (R : Ring) (r : Nat) (x : Submit) : (R.take r x).subHead = R.subHead + 1 := by
  unfold Ring.take
  simp only
  split <;> rfl

theorem span_eq_zero {R : Ring} {tail : Byte} : R.span tail = 0 ↔ R.subHead = tail := by
  unfold Ring.span
  bv_omega

theorem readEntries_none_waits {s : State} {r : Nat} (subs : List Submit) (h : (s.ring r).subHead = (s.ring r).subTail) :
    s.readEntries r subs = s := by
  rw [State.readEntries, span_eq_zero.2 h]
  rfl

/-- One entry read: the read of host memory at SUB_BASE + 64 × SUB_HEAD, then the entry is taken (R319, R320). -/
theorem readEntries_singleton {s : State} {r : Nat} (x : Submit) (h : (s.ring r).subHead ≠ (s.ring r).subTail) :
    s.readEntries r [x] =
      { s.modRing r (Ring.take r x) with out := s.out ++ [.dmaRead (s.ring r).entryAddr 64] } := by
  rw [State.readEntries, List.take_of_length_le (Nat.one_le_iff_ne_zero.2 (mt span_eq_zero.1 h))]
  rfl

/-! ### The commands on a ring's registers -/

/-- A doorbell whose tail would shrink the span of entries sets RING_ERR alone (R320). -/
theorem execDoorbell_shrinks {s : State} {r : HostRing} {tail : Byte} (subs : List Submit)
    (h : (s.ring r).span tail < (s.ring r).span (s.ring r).subTail) :
    execDoorbell r tail subs s =
      .next ((s.intake .doorbell (1 + r)).2.modRing r fun R => { R with ringErr := true }) := by
  simp only [execDoorbell, intake_ring, if_pos h]

/-- The state once a doorbell is admitted and its tail is stored. -/
def State.rung (s : State) (r : HostRing) (tail : Byte) : State :=
  let a := s.intake .doorbell (1 + r)
  a.2.modRing r fun R => { R with
    subTail := tail, bells := if tail = R.subTail then R.bells else R.bells ++ [⟨tail, a.1, a.2.teleView⟩] }

/-- Any other doorbell stores its tail, and a ring in use then reads entries (R320). -/
theorem execDoorbell_stores {s : State} {r : HostRing} {tail : Byte} (subs : List Submit)
    (h : (s.ring r).span (s.ring r).subTail ≤ (s.ring r).span tail) :
    execDoorbell r tail subs s =
      .next (if (s.ring r).enable then (s.rung r tail).readEntries r subs else s.rung r tail) := by
  simp only [execDoorbell, intake_ring, if_neg h.not_gt]
  rfl

/-! ### What a register's field stores -/

section

variable {s : State} {v : BitVec 64}

theorem modRing_congr {r : Nat} {f g : Ring → Ring} (h : f (s.ring r) = g (s.ring r)) : s.modRing r f = s.modRing r g :=
  congrArg (s.setRing r) h

theorem modClerk_congr {k : Nat} {f g : Clerk → Clerk} (h : f (s.clerk k) = g (s.clerk k)) :
    s.modClerk k f = s.modClerk k g :=
  congrArg (fun c => s.modHub fun h => { h with clerks := put {} h.clerks k c }) h

/-- The low field of a value is the value cut to its width. -/
theorem fld_low {w len : Nat} (x : BitVec w) (h : len ≤ w) : fld x 0 len = x.setWidth len :=
  (BitVec.setWidth_eq_extractLsb' h).symm

theorem fldN_low {w : Nat} (x : BitVec w) (len : Nat) : fldN x 0 len = x.toNat % 2 ^ len := by
  simp [fldN]

/-- VBASE's low 12 bits read 0 (R385). -/
theorem clear_low12 (x : BitVec 32) : (x >>> 12) <<< 12 = x &&& 0xFFFFF000 :=
  BitVec.shiftLeft_ushiftRight

theorem registerWrite_msix (r : HostRing) :
    exec (.registerWrite (.msix r) v) s = .next (s.modRing r fun R => { R with msix := v.setWidth 6 }) := by
  rw [← fld_low v (by decide)]
  rfl

/-- RING_ERR is cleared by a 1 (R14). -/
theorem registerWrite_ringErr_one (r : HostRing) (h : v.getLsbD 0 = true) :
    exec (.registerWrite (.ringErr r) v) s = .next (s.modRing r fun R => { R with ringErr := false }) :=
  congrArg Host.Outcome.next (modRing_congr (by simp only [bit, h, Bool.not_true, Bool.and_false]))

/-- A 0 leaves RING_ERR as it is (R14). -/
theorem registerWrite_ringErr_zero (r : HostRing) (h : v.getLsbD 0 = false) :
    exec (.registerWrite (.ringErr r) v) s = .next (s.modRing r fun R => R) :=
  congrArg Host.Outcome.next (modRing_congr (by simp only [bit, h, Bool.not_false, Bool.and_true]))

/-- OVF is cleared by a 1 (R14, R385). -/
theorem registerWrite_ovf_one (k : ClerkIx) (h : v.getLsbD 0 = true) :
    exec (.registerWrite (.ovf k) v) s = .next (s.modClerk k fun c => { c with ovf := false }) :=
  congrArg Host.Outcome.next (modClerk_congr (by simp only [bit, h, Bool.not_true, Bool.and_false]))

/-- OVERDUE takes the values 1-1,000 (R385). -/
theorem registerWrite_overdue_inside (k : ClerkIx) (h1 : 1 ≤ v.toNat % 1024) (h2 : v.toNat % 1024 ≤ 1000) :
    exec (.registerWrite (.overdue k) v) s =
      .next (s.modClerk k fun c => { c with overdue := BitVec.ofNat 10 v.toNat }) := by
  rw [BitVec.ofNat_toNat, ← fld_low v (by decide)]
  exact congrArg Host.Outcome.next (modClerk_congr (if_pos (by rw [fldN_low]; exact ⟨h1, h2⟩)))

/-- OVERDUE ignores any other value (R385). -/
theorem registerWrite_overdue_outside (k : ClerkIx) (h : v.toNat % 1024 = 0 ∨ 1000 < v.toNat % 1024) :
    exec (.registerWrite (.overdue k) v) s = .next (s.modClerk k fun c => c) :=
  congrArg Host.Outcome.next (modClerk_congr (if_neg (by rw [fldN_low]; omega)))

theorem registerWrite_vbase (k : ClerkIx) :
    exec (.registerWrite (.vbase k) v) s =
      .next (s.modClerk k fun c => { c with vbase := v.setWidth 32 &&& 0xFFFFF000 }) := by
  rw [← clear_low12, ← fld_low v (by decide)]
  rfl

theorem registerWrite_faultBits (k : ClerkIx) :
    exec (.registerWrite (.faultBits k) v) s =
      .next (s.modClerk k fun c => { c with fault := c.fault &&& ~~~(v.setWidth 3) }) := by
  rw [← fld_low v (by decide)]
  rfl

end

/-! ### Replies -/

section

variable {s : State} {r : Nat} {q : Reply} {rest : List Reply}

/-- The ring once its oldest finished command's reply is written: REP_TAIL moves on, and PHASE inverts as it wraps (R323). -/
def Ring.replied (rest : List Reply) (R : Ring) : Ring :=
  { R with
    done := rest, repTail := R.repTail + 1
    phase := if R.repTail = 0xFF then !R.phase else R.phase }

/-- What a reply of host ring `r` sends: its data, the reply in the next slot, the MSI-X message (R320, R323). -/
def Ring.replyOuts (R : Ring) (r : Nat) (q : Reply) : List Out :=
  (if q.data = [] ∨ q.cmd.dataMax r = 0 then [] else [.hostWrite q.cmd.dataAddr (q.data.take (q.cmd.dataMax r))]) ++
    [.hostWrite (R.repBase + BitVec.ofNat 64 (16 * R.repTail.toNat)) (replyBytes q R.phase), .msix R.msix]

/-- Sending on a condition is sending what the condition leaves. -/
theorem emit_unless (p : Prop) [Decidable p] (o : Out) :
    (if p then s else s.emit o) = { s with out := s.out ++ if p then [] else [o] } := by
  split
  · rw [List.append_nil]
  · rfl

/-- No slot of a host ring is free: the reply waits (R320). -/
theorem writeReply_waits (hr : r ≠ 4) (hd : (s.ring r).done = q :: rest)
    (hf : (s.ring r).repTail + 1 = (s.ring r).repHead) : s.writeReply r = s := by
  simp only [State.writeReply, hd, if_neg hr, hf, ne_eq, not_true_eq_false, and_false, if_false]

/-- A slot is free: the reply is written (R320, R323). -/
theorem writeReply_writes (hr : r ≠ 4) (hd : (s.ring r).done = q :: rest) (he : (s.ring r).enable = true)
    (hf : (s.ring r).repTail + 1 ≠ (s.ring r).repHead) :
    s.writeReply r =
      { s.modRing r (Ring.replied rest) with out := s.out ++ (s.ring r).replyOuts r q } := by
  have hb : (s.ring r).enable = true ∧ (s.ring r).repTail + 1 ≠ (s.ring r).repHead := ⟨he, hf⟩
  simp only [State.writeReply, hd, if_neg hr, if_pos hb, emit_unless, List.isEmpty_iff]
  exact congrArg (fun o => ({ s.modRing r (Ring.replied rest) with out := o } : State)) (by simp [Ring.replyOuts])

end

/-! ### The statement -/

/-- Settles O27: each register write by its field's own rule; an entry read and a reply written change one ring and send
something, so that `modRing_sends` gives their frame. -/
theorem registersComplete : Obligations.RegistersComplete := by
  unfold Obligations.RegistersComplete
  refine ⟨⟨fun s r head => rfl, fun s r => rfl, fun s r subs => rfl, fun s r tail subs => ?doorbell,
    fun s r x subs hw => ⟨readEntries_none_waits subs, fun h => ?entry⟩⟩, fun s v => ?registers,
    fun s r q rest hw hr hd he => ⟨fun hf => ?waits, fun hf => ?reply⟩⟩
  case doorbell =>
    refine ⟨execDoorbell_shrinks subs, fun h he => ?_, fun h he => ?_⟩
    · exact (execDoorbell_stores subs h).trans (congrArg Host.Outcome.next (if_neg (by simp [he])))
    · exact (execDoorbell_stores subs h).trans (congrArg Host.Outcome.next (if_pos he))
  case entry =>
    obtain ⟨hring, hout, hstate, hother⟩ := modRing_sends hw (readEntries_singleton x h)
    exact ⟨hring, by rw [hring, take_subHead], hout, hstate, hother⟩
  case registers =>
    exact ⟨fun r => rfl, fun r => rfl, registerWrite_msix, registerWrite_ringErr_one, registerWrite_ringErr_zero,
      registerWrite_ovf_one, registerWrite_overdue_inside, registerWrite_overdue_outside, registerWrite_vbase,
      fun k => rfl, registerWrite_faultBits, rfl, rfl, fun i => rfl, rfl, rfl, rfl, fun r => ⟨rfl, rfl⟩,
      ⟨rfl, fun f => rfl⟩, fun k => rfl⟩
  case waits => exact congrArg Host.Outcome.next (writeReply_waits hr.ne hd hf)
  case reply =>
    obtain ⟨hring, hout, hstate, hother⟩ := modRing_sends hw (writeReply_writes hr.ne hd he hf)
    exact ⟨s.writeReply r, rfl, hring, hout.trans (List.append_assoc ..).symm, hstate, hother⟩

end Sys2Proof.Machine
end

section
/-! The law of the device-wide set-up commands (R34, R166, R238, R241, R252, R432, R442): a command whose effect has
nothing to do with the rings is answered on the state that its effect makes. -/

namespace Sys2Proof.Machine

/-! ### Updates apart from the rings -/

/-- An update neither reads the rings nor writes them. -/
def ApartFromRings (F : State → State) : Prop := ∀ (s : State) (x : SMap Ring), F { s with rings := x } = { F s with rings := x }

theorem ApartFromRings.rings_eq {F : State → State} (h : ApartFromRings F) (s : State) : (F s).rings = s.rings :=
  (congrArg State.rings (h s s.rings) :)

theorem ApartFromRings.id : ApartFromRings fun s => s := fun _ _ => rfl

/-- Updates apart from the rings, one after another. -/
theorem ApartFromRings.foldl {α : Type} {g : State → α → State} (h : ∀ a, ApartFromRings (g · a)) (l : List α) :
    ApartFromRings (l.foldl g ·) :=
  fun _ x => List.foldl_hom (fun t : State => { t with rings := x }) fun t a => h a t x

theorem ApartFromRings.ite {F G : State → State} (p : Prop) [Decidable p] (hF : ApartFromRings F) (hG : ApartFromRings G) :
    ApartFromRings fun s => if p then F s else G s := fun s x => by
  split
  · exact hF s x
  · exact hG s x

theorem modPart_apartFromRings (p : Nat) (f : Partition → Partition) : ApartFromRings (·.modPart p f) := fun _ _ => rfl

/-- Enabling or disabling a port has nothing to do with the rings: each case of R252 changes the
port, asserts source 42 and, at a loss, reports it. -/
theorem setPort_apartFromRings (i : Nat) (on : Bool) : ApartFromRings (·.setPort i on) := fun s x => by
  have hport : State.port { s with rings := x } i = s.port i := rfl
  simp only [State.setPort, hport]
  cases (s.port i).state <;> cases on
  case off.true => exact ApartFromRings.ite (s.sec.unlocked = true) (G := (·.portTo i .detect)) .id (fun _ _ => rfl) s x
  all_goals rfl

/-! ### The answer of a command whose effect is apart from the rings -/

section

variable {s : State} {r : RingIx} {op : Nat} {states : List PartState} {bad : PendCmd → Option Nat} {c : PendCmd}
  {F : State → State} {status detail : Nat} {data : List Byte}

theorem reply_apartFromRings (h : s.Starts r op states bad c) (hF : ApartFromRings F) :
    (F (s.started r c)).reply r c status detail data = (F s).answered r c status detail data := by
  rw [reply_started_of h (hF.rings_eq _), ← hF]
  rfl

/-- A command that starts, and whose meaning is to reply once `F` has changed the state apart from the rings. -/
theorem runCmd_answers {f : PendCmd → State → State} (h : s.Starts r op states bad c) (hF : ApartFromRings F)
    (hf : f c (s.started r c) = (F (s.started r c)).reply r c status detail data) :
    s.runCmd r op states bad f = .next ((F s).answered r c status detail data) := by
  rw [runCmd_starts h (fun _ he => absurd he List.not_mem_nil), hf, reply_apartFromRings h hF]

end

/-! ### PARTITION_SET and FABRIC_CONFIG -/

section

variable {s : State} {r : RingIx} {c : PendCmd}

/-- The partitions take the dies of their masks (R34). -/
def State.takeMasks (c : PendCmd) (s : State) : State :=
  (List.range 4).foldl (fun u p => u.modPart p fun P => { P with dies := BitVec.ofNat 4 (c.par (4 * p) 4) }) s

theorem takeMasks_apartFromRings (c : PendCmd) : ApartFromRings (State.takeMasks c) :=
  .foldl (fun _ => modPart_apartFromRings _ _) _

theorem execPartitionSet_empty (h : s.Starts r 0x0103 anyState (fun c => lowest [badMasks c.masks, c.rsv 16 16]) c)
    (he : ∀ p < 4, (s.part p).state = .empty) :
    execPartitionSet r s = .next ((s.takeMasks c).answered r c 0 0 []) := by
  have hnone : (List.range 4).find? (fun p => decide (((s.started r c).part p).state ≠ .empty)) = none :=
    List.find?_eq_none.2 fun p hp => by simp [he p (List.mem_range.1 hp)]
  exact runCmd_answers h (takeMasks_apartFromRings c) (by simp only [hnone]; rfl)

/-- The first partition that is not Empty refuses PARTITION_SET. -/
theorem execPartitionSet_inUse {p : Nat} (h : s.Starts r 0x0103 anyState (fun c => lowest [badMasks c.masks, c.rsv 16 16]) c)
    (hp : p < 4) (hne : (s.part p).state ≠ .empty) (hlow : ∀ q < p, (s.part q).state = .empty) :
    execPartitionSet r s = .next (s.answered r c 0x0201 (s.part p).state.num []) := by
  have hfirst : (List.range 4).find? (fun p => decide (((s.started r c).part p).state ≠ .empty)) = some p :=
    List.find?_range_eq_some.2 ⟨decide_eq_true hne, by simpa using hp, fun q hq => by simp [hlow q hq]⟩
  exact runCmd_answers h .id (by simp only [hfirst]; rfl)

/-- The ports that are not Off. -/
def State.portsOn (s : State) : List Nat := (List.range 4).filter fun i => decide ((s.port i).state ≠ .off)

theorem portsOn_eq_nil : s.portsOn = [] ↔ ∀ i < 4, (s.port i).state = .off := by
  simp [State.portsOn, List.filter_eq_nil_iff]

/-- The fabric parameters that FABRIC_CONFIG gives (R238, R241, R441). -/
def Fabric.configured (c : PendCmd) (f : Fabric) : Fabric :=
  { f with
    sizeX := c.par 0 7, sizeY := c.par 8 7, ownX := c.par 16 6, ownY := c.par 24 6
    maps := (List.range 4).foldl (fun m i => put 0 m i (BitVec.ofNat 16 (c.par (32 + 16 * i) 16))) f.maps }

theorem execFabricConfig_off (h : s.Starts r 0x0104 anyState (badFabric s) c) (hoff : s.portsOn = []) :
    execFabricConfig r s = .next (State.answered { s with fabric := s.fabric.configured c } r c 0 0 []) :=
  runCmd_answers (F := fun t => { t with fabric := t.fabric.configured c }) h (fun _ _ => rfl)
    (by exact if_neg (not_not.2 hoff))

/-- DETAIL of the refusal is the mask of the ports that are not Off (R326). -/
theorem execFabricConfig_on (h : s.Starts r 0x0104 anyState (badFabric s) c) (hon : s.portsOn ≠ []) :
    execFabricConfig r s = .next (s.answered r c 0x0205 (s.portsOn.map fun i => 2 ^ i).sum []) :=
  runCmd_answers h .id (by exact if_pos hon)

end

/-- DEVICE_RESET is answered before it cuts the other commands off and resets (R325, R432). -/
theorem execDeviceReset_answers {s : State} {r : RingIx} {c : PendCmd} (h : s.Starts r 0x0106 anyState noParams c) :
    execDeviceReset r s = .next ((s.answered r c 0 0 []).endAll 0x0401 1).deviceReset := by
  rw [execDeviceReset, runCmd_starts h (fun _ he => absurd he List.not_mem_nil), State.ok, reply_started h]

/-! ### The statement -/

/-- Settles O20: each command is answered on the state that its effect makes, by `runCmd_answers`. -/
theorem hostSetupCommandsComplete : Obligations.HostSetupCommandsComplete := by
  unfold Obligations.HostSetupCommandsComplete
  refine ⟨⟨?identify, ?featureRead, ?status⟩, ?masks, ?masksRefused, ?fabric, ?fabricRefused, ?ports, ?reset⟩
  case identify => exact fun s r c h => (runCmd_answers h .id (by rfl) : execIdentify r s = _)
  case featureRead => exact fun s r c h => (runCmd_answers h .id (by rfl) : execFeatureRead r s = _)
  case status => exact fun s r c h => (runCmd_answers h .id (by rfl) : execStatus r s = _)
  case masks => exact fun s r c h he => execPartitionSet_empty h he
  case masksRefused => exact fun s r c p h hp hne hlow => execPartitionSet_inUse h hp hne hlow
  case fabric => exact fun s r c h hoff => execFabricConfig_off h (portsOn_eq_nil.2 hoff)
  case fabricRefused =>
    intro s r c h ⟨i, hi, hon⟩
    exact ⟨_, execFabricConfig_on h fun hnil => hon (portsOn_eq_nil.1 hnil i hi)⟩
  case ports =>
    exact fun s r c h =>
      (runCmd_answers h (.foldl (fun i => .ite _ (setPort_apartFromRings _ _) .id) _) (by rfl) : execPortEnable r s = _)
  case reset => exact fun s r c h => execDeviceReset_answers h

end Sys2Proof.Machine
end

section
/-! The laws of the error records and of the re-examination (R27, R262, R277, R281-R286, R339, R346): admission leaves the
record store as it is, storing a record adds it, and a record's REASON reads back. -/

namespace Sys2Proof.Machine

/-! ### What a record's header gives back -/

/-- The low bits of a value that stands in the low bits of a record. -/
theorem fld_at_zero (w len n : Nat) (h : len ≤ w) : fld (at' w 0 len n) 0 len = BitVec.ofNat len n := by
  rw [at', Nat.pow_zero, Nat.mul_one, fld_low _ h, BitVec.setWidth_ofNat_of_le h]
  exact BitVec.eq_of_toNat_eq (by simp)

/-- A value that stands higher in a record leaves its low bits clear. -/
theorem fld_at_above (w lo len n m : Nat) (h : m ≤ lo) : fld (at' w lo len n) 0 m = 0#m := by
  refine BitVec.eq_of_getLsbD_eq fun i hi => ?_
  rw [BitVec.getLsbD_extractLsb', Nat.zero_add, at_low w lo len n i (hi.trans_le h), Bool.and_false, BitVec.getLsbD_zero]

theorem fld_or {w : Nat} (x y : BitVec w) (lo len : Nat) : fld (x ||| y) lo len = fld x lo len ||| fld y lo len :=
  BitVec.extractLsb'_or ..

/-- REASON stands in bits [15:0] of a record (R282), and no other field of the header does. -/
theorem recordHdr_reason (reason : BitVec 16) (unit part lseat rseq ingress : Nat) :
    fld (recordHdr reason.toNat unit part lseat rseq ingress) 0 16 = reason := by
  simp only [recordHdr, fld_or, fld_at_zero 512 16 _ (by decide), fld_at_above 512 _ _ _ 16, Nat.reduceLeDiff,
    BitVec.or_zero, BitVec.ofNat_toNat, BitVec.setWidth_eq]

/-! ### The record store -/

/-- The records that the store holds, and the sequence number of the next (R282, R339). -/
def Hub.store (h : Hub) : List (BitVec 512) × BitVec 16 := (h.records, h.rseq)

/-- The store with one more record: the latest 256 stay (R339). -/
def keepRecord (rcd : BitVec 512) (st : List (BitVec 512) × BitVec 16) : List (BitVec 512) × BitVec 16 :=
  ((st.1 ++ [rcd]).drop ((st.1 ++ [rcd]).length - 256), st.2 + 1)

@[simp] theorem modClerk_store (s : State) (k : Nat) (f : Clerk → Clerk) : (s.modClerk k f).hub.store = s.hub.store := rfl

@[simp] theorem assertKey_store (s : State) (key : Nat) : (s.assertKey key).hub.store = s.hub.store := by
  unfold State.assertKey
  split
  · exact modClerk_store ..
  · split
    · exact modClerk_store ..
    · rfl

/-- Changing partitions one after another leaves the hub as it is. -/
@[simp] theorem foldl_modPart_hub (l : List Nat) (f : Partition → Partition) (s : State) :
    (l.foldl (fun t p => t.modPart p f) s).hub = s.hub := by
  induction l generalizing s with
  | nil => rfl
  | cons p l ih => exact (ih _).trans (modPart_hub ..)

/-- Admission of an event stores no record (R27). -/
@[simp] theorem intake_store (s : State) (kind : IngressKind) (key : Nat) :
    (s.intake kind key).2.hub.store = s.hub.store := by
  unfold State.intake
  split
  · rfl
  · rw [assertKey_store, foldl_modPart_hub]
    rfl

@[simp] theorem sendKmp_hub (s : State) (type : Nat) (signed : Bool) (payload : List Byte) :
    (s.sendKmp type signed payload).hub = s.hub := by
  unfold State.sendKmp
  split <;> rfl

/-- Whether the record is kept for the link's return, sent or withheld, the store holds it. -/
theorem storeRecord_store (s : State) (rcd : BitVec 512) (newSecond : Bool) :
    (s.storeRecord rcd newSecond).hub.store = keepRecord rcd s.hub.store := by
  unfold State.storeRecord
  simp only
  generalize (if newSecond = true then 0 else s.hub.sentNow) = sent
  split
  case isTrue linkDown => simp only [Hub.store, keepRecord, modHub_hub]
  case isFalse linkUp =>
    split
    case isTrue underLimit => simp only [Hub.store, keepRecord, sendKmp_hub, modHub_hub]
    case isFalse withheld => simp only [Hub.store, keepRecord, State.modServices, modHub_hub]

/-- An event's record: one more in the store, with the event's REASON (R282, R283). -/
theorem makeRecord_store (s : State) (e : ErrEvent) (num : BitVec 64) :
    ∃ rcd, (s.makeRecord e num).hub.store = keepRecord rcd s.hub.store ∧ fld rcd 0 16 = e.reason := by
  refine ⟨_, storeRecord_store .., ?_⟩
  simp only [fld_or, recordHdr_reason, fld_at_above 512 _ _ _ 16, Nat.reduceLeDiff, BitVec.or_zero]

theorem notice_store (s : State) (e : ErrEvent) :
    ∃ rcd, (s.notice e).hub.store = keepRecord rcd s.hub.store ∧ fld rcd 0 16 = e.reason := by
  obtain ⟨rcd, hstore, hreason⟩ := makeRecord_store (s.intake .error 999).2 e (s.intake .error 999).1
  exact ⟨rcd, hstore.trans (congrArg _ (intake_store s ..)), hreason⟩

/-! ### A unit's re-examination -/

/-- The unit is under re-examination, and no slice of it is left (R286, R422). -/
def Services.examEnds (v : Services) (unit : Nat) : Prop :=
  unit ∈ v.reexam ∧ ∀ x ∈ v.slices, x.reexam = true → targetUnit x.target ≠ unit

theorem examEnds_iff (v : Services) (unit : Nat) :
    v.examEnds unit ↔ ¬(v.reexam.contains unit = false ∨
      (v.slices.any fun x => x.reexam && decide (targetUnit x.target = unit)) = true) := by
  simp [Services.examEnds]

section

variable {s : State} {unit : Fin 5} {passed : Bool}

theorem execReexaminationComplete_passes (hends : s.hub.services.examEnds unit) (hp : passed = true)
    (hb : unit.val ∉ s.hub.services.reexamBad) :
    let t := s.modServices fun v => { v with reexam := v.reexam.filter fun u => decide (u ≠ unit.val) }
    execReexaminationComplete unit passed s =
      .next (((s.examParts unit).foldl (fun t p => t.examPassed p) t).reenable unit) := by
  have hgood : (passed && !s.hub.services.reexamBad.contains unit.val) = true := by simp [hp, hb]
  simp only [execReexaminationComplete, if_neg ((examEnds_iff ..).1 hends), if_pos hgood]

/-- An examination that has not ended, or not with success, leaves the unit examined. -/
theorem execReexaminationComplete_stays
    (h : ¬s.hub.services.examEnds unit ∨ passed = false ∨ unit.val ∈ s.hub.services.reexamBad) :
    execReexaminationComplete unit passed s = .next s := by
  by_cases hends : s.hub.services.examEnds unit
  case neg => exact if_pos (not_not.1 (mt (examEnds_iff ..).2 hends))
  case pos =>
    have hbad : ¬(passed && !s.hub.services.reexamBad.contains unit.val) = true := by
      rcases h with h | h | h
      · exact absurd hends h
      · simp [h]
      · simp [h]
    simp only [execReexaminationComplete, if_neg ((examEnds_iff ..).1 hends), if_neg hbad]

end

/-! ### The statement -/

/-- Settles O52: a report by its REASON, the end of a re-examination by `examEnds`, the record store by `notice_store`. -/
theorem errorsComplete : Obligations.ErrorsComplete := by
  unfold Obligations.ErrorsComplete
  refine ⟨⟨?notice, ?detected, ?reexamination⟩, ?record⟩
  case notice => exact fun s e hn => (if_pos hn : execErrorReport e s = _)
  case detected => exact fun s e hd => (if_neg (by simp [hd]) : execErrorReport e s = _)
  case reexamination =>
    exact fun s unit passed => ⟨execReexaminationComplete_passes, execReexaminationComplete_stays⟩
  case record =>
    intro s e
    obtain ⟨rcd, hstore, hreason⟩ := notice_store s e
    simp only [Hub.store, keepRecord, Prod.mk.injEq] at hstore
    obtain ⟨hrecords, hseq⟩ := hstore
    exact ⟨rcd, hrecords, hseq, hreason⟩

end Sys2Proof.Machine
end

section
/-! The laws of the outer-product engine (R41, R50, R51, R53, R58, R61, R63, R65, R144, R163, R280): what an update leaves of the engine's operation, who takes a slot's token, and when a step or a drain goes on. -/

namespace Sys2Proof.Machine

/-! ### What an update leaves of the cells -/

@[simp] theorem launch_cells (s : State) (p : Nat) (w : BitVec 64) (off : Nat) : (s.launch p w off).cells = s.cells := rfl

/-- A signal changes its partition alone. -/
@[simp] theorem signal_cells (s : State) (c : Nat) (ev : FormEvent) (num off : Nat) (w : BitVec 64) :
    (s.signal c ev num off w).cells = s.cells := by
  unfold State.signal
  split
  · rfl
  · split
    · rfl
    · split
      · rfl
      · dsimp only
        split <;> rfl

section

variable {s : State} {c : Nat}

theorem cell_of_cells {t : State} (h : t.cells = s.cells) (c : Nat) : t.cell c = s.cell c := by
  rw [State.cell, h, State.cell]

theorem cell_modCell_same (h : SMap.wf {} s.cells = true) (c : Nat) (f : Cell → Cell) : (s.modCell c f).cell c = f (s.cell c) :=
  look_put_same h

theorem modCell_cells_wf (h : SMap.wf {} s.cells = true) (c : Nat) (f : Cell → Cell) : SMap.wf {} (s.modCell c f).cells = true :=
  put_wf h

/-- The engine's operation once it holds its token; with INIT Load it waits for its entries (R53). -/
def EngineRun.taken (e : EngineRun) : EngineRun := { e with owned := true, ready := decide (e.op.desc.init ≠ 2) }

theorem engineTake_eng (h : SMap.wf {} s.cells = true) (e : EngineRun) :
    ((s.engineTake c e).cell c).eng = some e.taken := by
  have h1 : SMap.wf {} (s.seedLanes c 0 e.op.desc.pass).cells = true := modCell_cells_wf h ..
  unfold State.engineTake State.modSlot
  rw [cell_modCell_same (modCell_cells_wf h1 ..)]
  unfold Cell.modSlot
  rw [cell_modCell_same h1]
  rfl

theorem drainTake_eng (h : SMap.wf {} s.cells = true) (op : Op) : ((s.drainTake c op).cell c).eng = (s.cell c).eng := by
  unfold State.drainTake
  rw [cell_modCell_same h]
  rfl

theorem completeSet_eng (h : SMap.wf {} s.cells = true) (k : Nat) (r : RegSet) (o : Nat) :
    ((s.completeSet c k r o).cell c).eng = (s.cell c).eng := by
  unfold State.completeSet State.putSet State.modSeq
  rw [cell_of_cells ((signal_cells ..).trans (signal_cells ..)), cell_modCell_same (modCell_cells_wf h ..),
    cell_modCell_same h]

/-- An operation whose slot needs no Load takes no entry. -/
theorem loadSlot_ready {e : EngineRun} (he : (s.cell c).eng = some e) (hr : e.ready = true) (n : Nat) :
    State.loadSlot c n s = s := by
  cases n with
  | zero => rfl
  | succ n => simp [State.loadSlot, he, hr]

/-! ### Slot tokens -/

theorem execEngine_takes {op : Op} {rest : List Op} {c : CellIx} (ha : s.Awake c) (he : (s.cell c).eng = none)
    (hw : (s.cell c).ework = op :: rest) (hq : (s.cell c).quiz = false) :
    exec (.engine c) s = .next (s.setCell c { s.cell c with
      ework := rest, chained := false
      eng := some { op := op, work := 64 * op.desc.steps, chainIn := op.desc.chain && (s.cell c).chained } }) := by
  show execEngine c s = _
  simp only [execEngine, onCell_awake ha, he, hw, hq, Bool.false_eq_true, if_false]

/-- No engine operation loads: the token's taking is all that happens. -/
theorem execSlotTokenTake_none {c : CellIx} (ha : s.Awake c) (sl : SlotIx) (he : ((s.takeToken c sl).cell c).eng = none) :
    exec (.slotTokenTake c sl) s = .next (s.takeToken c sl) := by
  show execSlotTokenTake c sl s = _
  simp only [execSlotTokenTake, onCell_awake ha, he]

theorem execSlotTokenTake_ready {c : CellIx} (ha : s.Awake c) (sl : SlotIx) {e : EngineRun}
    (he : ((s.takeToken c sl).cell c).eng = some e) (hr : e.ready = true) :
    exec (.slotTokenTake c sl) s = .next (s.takeToken c sl) := by
  show execSlotTokenTake c sl s = _
  simp only [execSlotTokenTake, onCell_awake ha, he, loadSlot_ready he hr, ite_self]

theorem execSlotTokenTake_loads {c : CellIx} (ha : s.Awake c) {sl : SlotIx} {e : EngineRun}
    (he : ((s.takeToken c sl).cell c).eng = some e) (hs : e.op.slot = sl) :
    exec (.slotTokenTake c sl) s = .next (State.loadSlot c 128 (s.takeToken c sl)) := by
  show execSlotTokenTake c sl s = _
  simp only [execSlotTokenTake, onCell_awake ha, he, if_pos hs]

/-- A slot whose token is not free keeps it, and while a quiz runs no operation takes one (R51, R280). -/
theorem takeToken_waits {sl : Nat} (h : ((s.cell c).slot sl).phase ≠ .unowned ∨ (s.cell c).quiz = true) : s.takeToken c sl = s := by
  rw [State.takeToken]
  by_cases hq : (s.cell c).quiz = true
  case pos => exact if_pos hq
  case neg =>
    refine (if_neg hq).trans ?_
    split
    case h_1 hp _ => exact absurd hp (h.resolve_right hq)
    case h_2 => rfl

section

variable {sl o k : Nat} {ws : List Nat} {r : RegSet}

/-- The first to wait for a free slot takes its token. -/
def State.HasTurn (s : State) (c sl o : Nat) (ws : List Nat) (k : Nat) (r : RegSet) : Prop :=
  ((s.cell c).slot sl).phase = .unowned ∧ ((s.cell c).slot sl).waiters = o :: ws ∧ (s.cell c).seq.setOf o = some (k, r) ∧
    (s.cell c).quiz = false

theorem takeToken_engine (h : s.HasTurn c sl o ws k r) {e : EngineRun} (hf : r.desc.freeze = false) (hop : r.desc.op = 1)
    (he : (s.cell c).eng = some e) (hid : e.op.id = o) : s.takeToken c sl = s.engineTake c e := by
  obtain ⟨hp, hw, hs, hq⟩ := h
  simp [State.takeToken, hp, hw, hs, hq, hf, hop, he, hid]

theorem takeToken_drain (h : s.HasTurn c sl o ws k r) {d : DrainRun} (hf : r.desc.freeze = false) (hop : r.desc.op = 2)
    (hd : (s.cell c).drains.find? (fun d => decide (d.op.id = o)) = some d) : s.takeToken c sl = s.drainTake c d.op := by
  obtain ⟨hp, hw, hs, hq⟩ := h
  simp [State.takeToken, hp, hw, hs, hq, hf, hop, hd]

theorem takeToken_frozen (h : s.HasTurn c sl o ws k r) (hf : r.desc.freeze = true) :
    s.takeToken c sl = (s.modSlot c sl fun t => { t with waiters := ws }).completeSet c k r o := by
  obtain ⟨hp, hw, hs, hq⟩ := h
  simp [State.takeToken, hp, hw, hs, hq, hf]

theorem takeToken_frozen_eng (hwf : SMap.wf {} s.cells = true) (h : s.HasTurn c sl o ws k r) (hf : r.desc.freeze = true) :
    ((s.takeToken c sl).cell c).eng = (s.cell c).eng := by
  rw [takeToken_frozen h hf, State.modSlot, completeSet_eng (modCell_cells_wf hwf ..), cell_modCell_same hwf]
  rfl

end

theorem execDrain_takes {c : CellIx} {d : DrainRun} (ha : s.Awake c) (hd : (s.cell c).drains = [d]) (hop : d.op.desc.op = 2)
    (hr : d.ready = false) (hq : (s.cell c).quiz = false) (hp : ((s.cell c).slot d.op.slot).phase = .unowned)
    (hw : ((s.cell c).slot d.op.slot).waiters.head? = some d.op.id) : exec (.drain c) s = .next (s.drainTake c d.op) := by
  show execDrain c s = _
  simp [execDrain, onCell_awake ha, hd, hop, hr, hq, hp, hw]

/-! ### Engine steps -/

/-- The running operation does a step, in the mode asked for (R58, R65). -/
theorem tryStep_steps {e : EngineRun} (he : (s.cell c).eng = some e) (ho : e.owned = true) (hr : e.ready = true)
    (hs : e.steps < e.op.desc.steps) (hq : (s.cell c).stepReady e = true) (mode : Option Nat) (fault : Option SiteFault) :
    s.tryStep c mode fault =
      if mode = none ∨ mode = some e.op.desc.func then s.engineStep c e fault else s := by
  simp [State.tryStep, he, ho, hr, hs, hq]

theorem tryStep_waits {e : EngineRun} (he : (s.cell c).eng = some e)
    (h : e.owned = false ∨ e.ready = false ∨ e.op.desc.steps ≤ e.steps ∨ (s.cell c).stepReady e = false)
    (mode : Option Nat) (fault : Option SiteFault) : s.tryStep c mode fault = s := by
  unfold State.tryStep
  rw [he]
  refine if_neg fun hgo => ?_
  simp only [Bool.and_eq_true, decide_eq_true_eq] at hgo
  obtain ⟨⟨⟨⟨ho, hr⟩, hs⟩, hq⟩, -⟩ := hgo
  rcases h with h | h | h | h
  · simp [h] at ho
  · simp [h] at hr
  · omega
  · simp [h] at hq

theorem execMode {c : CellIx} {e : EngineRun} (ha : s.Awake c) (he : (s.cell c).eng = some e) (ho : e.owned = true)
    (hr : e.ready = true) (hs : e.steps < e.op.desc.steps) (hq : (s.cell c).stepReady e = true) (m : Nat)
    (fault : Option SiteFault) :
    s.onCell c (.next (s.tryStep c (some m) fault)) =
      .next (if e.op.desc.func = m then s.engineStep c e fault else s) := by
  rw [onCell_awake ha, tryStep_steps he ho hr hs hq]
  simp [eq_comm]

/-! ### The drain path -/

theorem execDrainStart_eq {c : CellIx} {d : DrainRun} {rest : List DrainRun} (ha : s.Awake c)
    (hd : (s.cell c).drains = d :: rest) :
    exec (.drainStart c) s =
      if (d.ready && (s.cell c).drainRoom d) = true then .next (s.drainRow c d) else .next s := by
  show execDrainStart c s = _
  simp only [execDrainStart, onCell_awake ha, hd]

theorem execSlotBufferPush_eq {c : CellIx} {sl : SlotIx} {b : BufEntry} {rest : List BufEntry} (ha : s.Awake c)
    (hb : ((s.cell c).slot sl).buf = b :: rest) :
    exec (.slotBufferPush c sl) s =
      if 1 ≤ (s.cell c).room b.queue ∧ (s.cell c).earlierPassed b.op b.queue = true then
        .next (s.setCell c (((s.cell c).modSlot sl fun t => { t with buf := rest }).push b.queue b.entry))
      else .next s := by
  show execSlotBufferPush c sl s = _
  simp only [execSlotBufferPush, onCell_awake ha, hb]

end

/-! ### The statement -/

/-- Settles O32: a token's taking by the case of its first waiter, a step by `tryStep`, the drain path by its two guards. -/
theorem engineComplete : Obligations.EngineComplete := by
  unfold Obligations.EngineComplete
  refine ⟨⟨?engine, ?token, ?keeps, ?drain⟩, ?steps, ?drainStart, ?bufferPush⟩
  case engine =>
    exact fun s c op rest ha he hw => ⟨execEngine_takes ha he hw, fun hq => by
      show execEngine c s = _
      simp only [execEngine, onCell_awake ha, he, hw, hq, if_true]⟩
  case token =>
    intro s c sl o k ws r ha hwf hp hw hs hq
    have hturn : s.HasTurn c sl o ws k r := ⟨hp, hw, hs, hq⟩
    refine ⟨fun e hf hop he hid hi => ?_, fun e hf hop he hid hi hsl => ?_, fun d hf hop he hd => ?_, fun hf he => ?_⟩
    · have ht := takeToken_engine hturn hf hop he hid
      rw [execSlotTokenTake_ready ha sl (ht ▸ engineTake_eng hwf e) (decide_eq_true hi), ht]
    · have ht := takeToken_engine hturn hf hop he hid
      rw [execSlotTokenTake_loads (e := e.taken) ha (ht ▸ engineTake_eng hwf e) hsl, ht]
    · have ht := takeToken_drain hturn hf hop hd
      rw [execSlotTokenTake_none ha sl (by rw [ht, drainTake_eng hwf, he]), ht]
    · rw [execSlotTokenTake_none ha sl (by rw [takeToken_frozen_eng hwf hturn hf, he]), takeToken_frozen hturn hf]
  case keeps =>
    intro s c sl ha h he
    have ht := takeToken_waits h
    rw [execSlotTokenTake_none ha sl (by rw [ht, he]), ht]
  case drain => exact fun s c d ha hd hop hr hq hp hw => execDrain_takes ha hd hop hr hq hp hw
  case steps =>
    intro s c e fault ha he
    refine ⟨fun ho hr hs hq => ?_, fun h => ?_⟩
    · have hmode := fun m => execMode ha he ho hr hs hq m fault
      refine ⟨?_, hmode 0, hmode 1, hmode 2, hmode 3, hmode 4, hmode 5⟩
      exact (onCell_awake ha).trans (by rw [tryStep_steps he ho hr hs hq, if_pos (.inl rfl)])
    · exact (onCell_awake ha).trans (by rw [tryStep_waits he h])
  case drainStart =>
    intro s c d rest ha hd
    refine ⟨fun hr hroom => ?_, fun h => ?_⟩
    · rw [execDrainStart_eq ha hd, if_pos (by rw [hr, hroom]; rfl)]
    · exact (execDrainStart_eq ha hd).trans (if_neg (by simpa [or_iff_not_imp_left] using h))
  case bufferPush =>
    intro s c sl b rest ha hb
    refine ⟨fun hroom hpassed => ?_, fun h => ?_⟩
    · rw [execSlotBufferPush_eq ha hb, if_pos ⟨hroom, hpassed⟩]
    · refine (execSlotBufferPush_eq ha hb).trans (if_neg fun ⟨hroom, hpassed⟩ => ?_)
      rcases h with h | h
      · omega
      · simp [h] at hpassed

end Sys2Proof.Machine
end

section
/-! What keeps the canonical form of the state (R45, R67, R99, R151): its parts, the updates of the state, of a cell and of a die, and outcomes.
Of each operation `foo` of the model, `foo_canon` in the parts that follow says that it keeps the canonical form; of each command, `execFoo_canonAfter`. -/

namespace Sys2Proof.Machine

/-! ### Sparse maps whose values meet a predicate -/

section

variable {α : Type} [DecidableEq α] {d : α} {P : α → Prop} {m : SMap α}

theorem look_of_forall (hd : P d) (h : ∀ e ∈ m, P e.2) (i : Nat) : P (look d m i) := by
  by_cases hi : look d m i = d
  · rwa [hi]
  · exact h _ (mem_of_look rfl hi)

theorem forall_put {v : α} (h : ∀ e ∈ m, P e.2) (hv : P v) (i : Nat) : ∀ e ∈ put d m i v, P e.2 := fun e he => by
  rcases mem_put he with rfl | he
  · exact hv
  · exact h e he

/-- A map built by writing one entry after another is canonical. -/
theorem foldl_put_wf {β : Type} (l : List β) (k : β → Nat) (v : β → α) (h : SMap.wf d m = true) :
    SMap.wf d (l.foldl (fun m e => put d m (k e) (v e)) m) = true := by
  induction l generalizing m with
  | nil => exact h
  | cons e l ih => exact ih (put_wf h)

theorem forall_foldl_put {β : Type} {l : List β} (k : β → Nat) (v : β → α) (h : ∀ e ∈ m, P e.2) (hv : ∀ e ∈ l, P (v e)) :
    ∀ e ∈ l.foldl (fun m e => put d m (k e) (v e)) m, P e.2 := by
  induction l generalizing m with
  | nil => exact h
  | cons e l ih =>
    exact ih (forall_put h (hv e List.mem_cons_self) _) fun x hx => hv x (List.mem_cons_of_mem _ hx)

end

/-! ### The parts of a canonical state -/

section

variable {s : State}

theorem State.Canon.cells (h : s.Canon) : SMap.wf {} s.cells = true := h.1
theorem State.Canon.dies (h : s.Canon) : SMap.wf {} s.dies = true := h.2.1
theorem State.Canon.parts (h : s.Canon) : SMap.wf {} s.parts = true := h.2.2.1
theorem State.Canon.rings (h : s.Canon) : SMap.wf {} s.rings = true := h.2.2.2.1
theorem State.Canon.clerks (h : s.Canon) : SMap.wf {} s.hub.clerks = true := h.2.2.2.2.1
theorem State.Canon.ports (h : s.Canon) : SMap.wf {} s.fabric.ports = true := h.2.2.2.2.2.1
theorem State.Canon.eachCell (h : s.Canon) : ∀ e ∈ s.cells, e.2.Canon := h.2.2.2.2.2.2.1
theorem State.Canon.eachDie (h : s.Canon) : ∀ e ∈ s.dies, e.2.Canon := h.2.2.2.2.2.2.2

theorem Cell.Canon.store {x : Cell} (h : x.Canon) : Memory.wf x.store = true := h.1
theorem Cell.Canon.queues {x : Cell} (h : x.Canon) : SMap.wf {} x.queues = true := h.2.1
theorem Cell.Canon.streams {x : Cell} (h : x.Canon) : SMap.wf {} x.streams = true := h.2.2
theorem Die.Canon.hbm {D : Die} (h : D.Canon) : Memory.wf D.hbm = true := h.1
theorem Die.Canon.tallies {D : Die} (h : D.Canon) : SMap.wf 0 D.tallies = true := h.2

theorem cell_canon (h : s.Canon) (c : Nat) : (s.cell c).Canon := look_of_forall (P := Cell.Canon) (by decide) h.eachCell c

theorem die_canon (h : s.Canon) (d : Nat) : (s.die d).Canon := look_of_forall (P := Die.Canon) (by decide) h.eachDie d

end

/-! ### What keeps the canonical form: the state's own updates -/

section

variable {s : State}

/-- An update that leaves the sparse maps of the canonical form. -/
theorem frame_canon {pending : List Instr} {deferred : List (Instr × Option (BitVec 64))} {fabric : Fabric} {hub : Hub}
    {cxl : Cxl} {mgmt : Mgmt} {spdm : Spdm} {fw : Firmware} {sec : Security} {power : Power} {free : Nat} {out : List Out}
    (h : s.Canon) (hp : fabric.ports = s.fabric.ports := by rfl) (hk : hub.clerks = s.hub.clerks := by rfl) :
    State.Canon { s with
      pending := pending, deferred := deferred, fabric := fabric, hub := hub, cxl := cxl, mgmt := mgmt, spdm := spdm
      fw := fw, sec := sec, power := power, free := free, out := out } :=
  ⟨h.cells, h.dies, h.parts, h.rings, hk ▸ h.clerks, hp ▸ h.ports, h.eachCell, h.eachDie⟩

theorem setFabric_canon {fabric : Fabric} (h : s.Canon) (hp : SMap.wf {} fabric.ports = true) :
    State.Canon { s with fabric := fabric } :=
  ⟨h.cells, h.dies, h.parts, h.rings, h.clerks, hp, h.eachCell, h.eachDie⟩

theorem setCell_canon {c : Nat} {x : Cell} (h : s.Canon) (hx : x.Canon) : (s.setCell c x).Canon :=
  ⟨put_wf h.cells, h.dies, h.parts, h.rings, h.clerks, h.ports, forall_put h.eachCell hx c, h.eachDie⟩

theorem modCell_canon {c : Nat} {f : Cell → Cell} (h : s.Canon) (hf : ∀ x : Cell, x.Canon → (f x).Canon) : (s.modCell c f).Canon :=
  setCell_canon h (hf _ (cell_canon h c))

theorem setDie_canon {d : Nat} {D : Die} (h : s.Canon) (hD : D.Canon) : (s.setDie d D).Canon :=
  ⟨h.cells, put_wf h.dies, h.parts, h.rings, h.clerks, h.ports, h.eachCell, forall_put h.eachDie hD d⟩

theorem modDie_canon {d : Nat} {f : Die → Die} (h : s.Canon) (hf : ∀ D : Die, D.Canon → (f D).Canon) : (s.modDie d f).Canon :=
  setDie_canon h (hf _ (die_canon h d))

theorem setPart_canon {p : Nat} {P : Partition} (h : s.Canon) : (s.setPart p P).Canon :=
  ⟨h.cells, h.dies, put_wf h.parts, h.rings, h.clerks, h.ports, h.eachCell, h.eachDie⟩

theorem modPart_canon {p : Nat} {f : Partition → Partition} (h : s.Canon) : (s.modPart p f).Canon := setPart_canon h

theorem setRing_canon {r : Nat} {R : Ring} (h : s.Canon) : (s.setRing r R).Canon :=
  ⟨h.cells, h.dies, h.parts, put_wf h.rings, h.clerks, h.ports, h.eachCell, h.eachDie⟩

theorem modRing_canon {r : Nat} {f : Ring → Ring} (h : s.Canon) : (s.modRing r f).Canon := setRing_canon h

theorem modHub_canon {f : Hub → Hub} (h : s.Canon) (hf : (f s.hub).clerks = s.hub.clerks := by rfl) : (s.modHub f).Canon :=
  frame_canon h rfl hf

theorem modClerk_canon {k : Nat} {f : Clerk → Clerk} (h : s.Canon) : (s.modClerk k f).Canon :=
  ⟨h.cells, h.dies, h.parts, h.rings, put_wf h.clerks, h.ports, h.eachCell, h.eachDie⟩

theorem modServices_canon {f : Services → Services} (h : s.Canon) : (s.modServices f).Canon := modHub_canon h

theorem modPort_canon {i : Nat} {f : Port → Port} (h : s.Canon) : (s.modPort i f).Canon :=
  ⟨h.cells, h.dies, h.parts, h.rings, h.clerks, put_wf h.ports, h.eachCell, h.eachDie⟩

theorem modUnit_canon {i u : Nat} {f : LinkUnit → LinkUnit} (h : s.Canon) : (s.modUnit i u f).Canon := modPort_canon h

theorem emit_canon {o : Out} (h : s.Canon) : (s.emit o).Canon := frame_canon h

theorem fresh_canon (h : s.Canon) : s.fresh.2.Canon := frame_canon h

theorem ite_canon {p : Prop} [Decidable p] {a b : State} (ha : a.Canon) (hb : b.Canon) : (if p then a else b).Canon := by
  split
  · exact ha
  · exact hb

theorem iteSnd_canon {α : Type} {p : Prop} [Decidable p] {a b : α × State} (ha : a.2.Canon) (hb : b.2.Canon) :
    (if p then a else b).2.Canon := by
  split
  · exact ha
  · exact hb

theorem iteFst_canon {α : Type} {p : Prop} [Decidable p] {a b : State × α} (ha : a.1.Canon) (hb : b.1.Canon) :
    (if p then a else b).1.Canon := by
  split
  · exact ha
  · exact hb

/-- What every step of a fold keeps, the fold keeps. -/
theorem foldl_keeps {α β : Type} {P : β → Prop} {f : β → α → β} {b : β} (l : List α) (h : P b) (hf : ∀ b a, P b → P (f b a)) :
    P (l.foldl f b) := by
  induction l generalizing b with
  | nil => exact h
  | cons a l ih => exact ih (hf b a h)

theorem foldl_canon {α : Type} {f : State → α → State} {l : List α} (h : s.Canon) (hf : ∀ t a, t.Canon → (f t a).Canon) :
    (l.foldl f s).Canon := foldl_keeps l h hf

/-- A cell's update that leaves its store, queues and streams. -/
theorem cellFrame_canon {x : Cell} {slots : SMap Slot} {ework : List Op} {eng : Option EngineRun} {chained : Bool}
    {drains : List DrainRun} {vwork : List Op} {vec : Option VecRun} {scal : Option ScalRun} {rwork : List Op}
    {rowRun : Option RowRun} {seq : Seq} {short : List S20} {check : List W40} {lanes : SMap (BitVec 64)} {badWords : List Nat}
    {side : SMap (BitVec 64)} {bankMap : BitVec 160} {poisoned : Word} {warned : List Nat} {corr bankCorr : SMap Word}
    {ctr : SMap (BitVec 256)} {paused quiz resetDue : Bool} {gatherPos fetchPos nextCtx : Nat} {resets : BitVec 9}
    (h : x.Canon) :
    Cell.Canon { x with
      slots := slots, ework := ework, eng := eng, chained := chained, drains := drains, vwork := vwork, vec := vec, scal := scal
      rwork := rwork, rowRun := rowRun, seq := seq, short := short, check := check, lanes := lanes, badWords := badWords
      side := side, bankMap := bankMap, poisoned := poisoned, warned := warned, corr := corr, bankCorr := bankCorr, ctr := ctr
      paused := paused, quiz := quiz, resetDue := resetDue, gatherPos := gatherPos, fetchPos := fetchPos, nextCtx := nextCtx
      resets := resets } :=
  h

/-- A cell is canonical where its store, its queues and its streams are. -/
theorem cellMk_canon {x : Cell} (hstore : Memory.wf x.store = true) (hqueues : SMap.wf {} x.queues = true)
    (hstreams : SMap.wf {} x.streams = true) : x.Canon :=
  ⟨hstore, hqueues, hstreams⟩

/-- A die is canonical where its HBM and its tallies are. -/
theorem dieMk_canon {D : Die} (hhbm : Memory.wf D.hbm = true) (htallies : SMap.wf 0 D.tallies = true) : D.Canon :=
  ⟨hhbm, htallies⟩

theorem cellIte_canon {p : Prop} [Decidable p] {x y : Cell} (hx : x.Canon) (hy : y.Canon) :
    Cell.Canon (if p then x else y) := by
  split
  · exact hx
  · exact hy

theorem cellFoldl_canon {α : Type} {f : Cell → α → Cell} {x : Cell} {l : List α} (hx : x.Canon)
    (hf : ∀ y a, y.Canon → (f y a).Canon) : Cell.Canon (l.foldl f x) := foldl_keeps l hx hf

theorem dieFoldl_canon {α : Type} {f : Die → α → Die} {D : Die} {l : List α} (hD : D.Canon)
    (hf : ∀ y a, y.Canon → (f y a).Canon) : Die.Canon (l.foldl f D) := foldl_keeps l hD hf

/-! ### Outcomes -/

/-- Where an outcome goes on, its state is canonical. -/
def CanonAfter (o : Host.Outcome State Fault Refusal) : Prop := ∀ t, o = .next t → t.Canon

theorem next_canonAfter (h : s.Canon) : CanonAfter (.next s) := fun _ ht => by
  injection ht with ht
  exact ht ▸ h

theorem ite_canonAfter {p : Prop} [Decidable p] {a b : Res} (ha : CanonAfter a) (hb : CanonAfter b) :
    CanonAfter (if p then a else b) := by
  split
  · exact ha
  · exact hb

theorem onCell_canonAfter {c : Nat} {r : Res} (h : s.Canon) (hr : CanonAfter r) : CanonAfter (s.onCell c r) :=
  ite_canonAfter (next_canonAfter h) hr

theorem defers_canonAfter {i : Instr} {r : Res} (h : s.Canon) (hr : CanonAfter r) : CanonAfter (s.defers i r) :=
  ite_canonAfter (next_canonAfter (frame_canon h)) hr

end

end Sys2Proof.Machine
end

section
/-! What keeps the canonical form, first part: the hub, the resets, the clerks, links and packets (R26, R99, R230-R254, R432-R434). -/

namespace Sys2Proof.Machine

-- One proof after another: hundreds of them at once, in one text with the model, take more threads than the check allows.
set_option Elab.async false

variable {s : State}

/-! ### The hub, packets, error records, bytes and services -/

theorem assertAt_canon {k src : Nat} (h : s.Canon) : (s.assertAt k src).Canon := modClerk_canon h

theorem assertShared_canon {src : Nat} (h : s.Canon) : (s.assertShared src).Canon := assertAt_canon h

theorem assertKey_canon {key : Nat} (h : s.Canon) : (s.assertKey key).Canon :=
  ite_canon (assertAt_canon h) (ite_canon (assertShared_canon h) h)

theorem setPartState_canon {p : Nat} {x : PartState} (h : s.Canon) : (s.setPartState p x).Canon :=
  ite_canon (modPart_canon h) (assertShared_canon (modPart_canon h))

theorem intake_canon {kind : IngressKind} {key : Nat} (h : s.Canon) : (s.intake kind key).2.Canon := by
  unfold State.intake
  split
  · exact modHub_canon h
  · exact assertKey_canon (foldl_canon (modHub_canon h) fun _ _ ht => modPart_canon ht)

theorem holdOver_canon {i : Instr} {kind : IngressKind} {key : Nat} (h : s.Canon) : (s.holdOver i kind key).Canon :=
  frame_canon (intake_canon h)

theorem admitted_canon {kind : IngressKind} {key : Nat} (h : s.Canon) : (s.admitted kind key).Canon :=
  intake_canon h

theorem kmpTo_canon {hdr : BitVec 256} {payload : List Byte} {signed : Bool} {dest : KmpDest} (h : s.Canon) :
    (s.kmpTo hdr payload signed dest).Canon := by
  unfold State.kmpTo
  dsimp only
  split
  · exact emit_canon h
  · exact emit_canon h

theorem sendKmp_canon {type : Nat} {signed : Bool} {payload : List Byte} (h : s.Canon) :
    (s.sendKmp type signed payload).Canon := by
  unfold State.sendKmp
  split
  · exact h
  · exact frame_canon (kmpTo_canon h)

theorem storeRecord_canon {rcd : BitVec 512} {newSecond : Bool} (h : s.Canon) : (s.storeRecord rcd newSecond).Canon :=
  ite_canon (frame_canon (modHub_canon h))
    (ite_canon (sendKmp_canon (modHub_canon (modHub_canon h))) (modServices_canon (modHub_canon h)))

theorem makeRecord_canon {e : ErrEvent} {num : BitVec 64} (h : s.Canon) : (s.makeRecord e num).Canon :=
  storeRecord_canon (modHub_canon h)

theorem notice_canon {e : ErrEvent} (h : s.Canon) : (s.notice e).Canon :=
  makeRecord_canon (intake_canon h)

theorem detect_canon {reason : BitVec 16} {unit : Fin 5} {part loc detail : Nat} (h : s.Canon) :
    (s.detect reason unit part loc detail).Canon := modHub_canon h

theorem detectCell_canon {c : Nat} {reason : BitVec 16} {loc detail : Nat} (h : s.Canon) :
    (s.detectCell c reason loc detail).Canon := detect_canon h

theorem countFabric_canon {port unit lo len n : Nat} (h : s.Canon) : (s.countFabric port unit lo len n).Canon := h

theorem placePacket_canon {p dx dy : Nat} {pkt : Packet} (h : s.Canon) : (s.placePacket p dx dy pkt).Canon :=
  ite_canon h (ite_canon (ite_canon (countFabric_canon h) h) h)

theorem sendMarked_canon {mark : Bool} {p seat ddie kind vc addr tag : Nat} {payload : List Byte} (h : s.Canon) :
    (s.sendMarked mark p seat ddie kind vc addr tag payload).Canon :=
  ite_canon (ite_canon (placePacket_canon h) (countFabric_canon h))
    (ite_canon (placePacket_canon h) (countFabric_canon h))

theorem sendPacket_canon {p seat ddie kind vc addr tag : Nat} {payload : List Byte} (h : s.Canon) :
    (s.sendPacket p seat ddie kind vc addr tag payload).Canon := sendMarked_canon h

theorem sendDirect_canon {p dx dy seat kind vc : Nat} {payload : List Byte} (h : s.Canon) :
    (s.sendDirect p dx dy seat kind vc payload).Canon := placePacket_canon h

theorem sendCtl_canon {p seat : Nat} {c : Control} (h : s.Canon) : (s.sendCtl p seat c).Canon :=
  sendPacket_canon h

theorem sendTrouble_canon {p seat reason : Nat} (h : s.Canon) : (s.sendTrouble p seat reason).Canon := by
  unfold State.sendTrouble
  dsimp only
  split
  · exact h
  · split
    · exact sendCtl_canon (sendCtl_canon h)
    · exact sendCtl_canon h

theorem takeDelivered_canon {p : PartIx} {f : Packet → Bool} (h : s.Canon) : (s.takeDelivered p f).Canon := by
  unfold State.takeDelivered
  dsimp only
  split
  · exact h
  · exact h

theorem dieWriteHbm_canon {D : Die} {a : Nat} {bs : List Byte} (hD : D.Canon) : Die.Canon (Die.writeHbm D a bs) :=
  dieMk_canon (writeBytes_wf hD.hbm) hD.tallies

theorem snoopRange_canon {d a n : Nat} {inv : Bool} (h : s.Canon) : (s.snoopRange d a n inv).Canon :=
  frame_canon (foldl_canon h fun _ _ ht => emit_canon ht)

theorem afterSnoops_canonAfter {acc : List (Nat × Nat × Nat × Bool)} {r : Res} (h : s.Canon) (hr : CanonAfter r) :
    CanonAfter (State.afterSnoops s acc r) :=
  ite_canonAfter hr (next_canonAfter (foldl_canon h fun _ _ ht => snoopRange_canon ht))

theorem storeHbm_canon {d a : Nat} {bs : List Byte} (h : s.Canon) : (s.storeHbm d a bs).Canon := by
  unfold State.storeHbm
  dsimp only
  split
  · exact modPart_canon (modDie_canon h fun _ hD => dieWriteHbm_canon hD)
  · exact modDie_canon h fun _ hD => dieWriteHbm_canon hD

theorem writeHbm_canon {d a : Nat} {bs : List Byte} (h : s.Canon) : (s.writeHbm d a bs).Canon :=
  storeHbm_canon (snoopRange_canon h)

theorem serviceRead_canon {d a n : Nat} (h : s.Canon) : (s.serviceRead d a n).2.Canon :=
  snoopRange_canon h

theorem hbmCorrected_canon {d a : Nat} (h : s.Canon) : (s.hbmCorrected d a).Canon :=
  modServices_canon (modDie_canon h fun _ hD => hD)

theorem cellPush_canon {c : Cell} {q : Nat} {e : Entry} (hc : c.Canon) : Cell.Canon (Cell.push c q e) :=
  cellMk_canon hc.store (put_wf hc.queues) hc.streams

theorem cellPop_canon {x y : Cell} {q : Nat} {e : Entry} (hx : x.Canon) (hp : x.pop q = some (e, y)) : y.Canon := by
  obtain ⟨r, -, hr⟩ := Option.map_eq_some_iff.1 hp
  obtain ⟨-, rfl⟩ := Prod.mk.inj hr
  exact cellMk_canon hx.store (put_wf hx.queues) hx.streams

theorem addTally_canon {t : BitVec 14} {n off : Nat} (h : s.Canon) : (s.addTally t n off).Canon := by
  refine ite_canon ?_ (notice_canon ?_)
  all_goals exact modDie_canon h fun _ hD => dieMk_canon hD.hbm (put_wf hD.tallies)

theorem addOwn_canon {p : Nat} {t : BitVec 14} {n off : Nat} (h : s.Canon) : (s.addOwn p t n off).Canon :=
  ite_canon (addTally_canon h) h

/-! ### The resets of the device, Off, recovery mode, and the staging session's clearing -/

theorem keptParts_wf (s : State) : SMap.wf {} (keptParts s) = true :=
  foldl_put_wf (List.range 4) (fun p => p) _ rfl

theorem cellAfterDeviceReset_canon (x : Cell) : x.afterDeviceReset.Canon := ⟨rfl, rfl, rfl⟩

theorem dieAfterDeviceReset_canon (D : Die) : D.afterDeviceReset.Canon := ⟨rfl, rfl⟩

theorem deviceReset_canon : s.deviceReset.Canon :=
  ⟨foldl_put_wf _ _ _ rfl, foldl_put_wf _ _ _ rfl, keptParts_wf s, rfl, rfl, rfl,
    forall_foldl_put _ _ (List.forall_mem_nil _) fun e _ => cellAfterDeviceReset_canon e.2,
    forall_foldl_put _ _ (List.forall_mem_nil _) fun e _ => dieAfterDeviceReset_canon e.2⟩

theorem coldReset_canon : s.coldReset.Canon :=
  ⟨rfl, rfl, keptParts_wf s, rfl, rfl, rfl, List.forall_mem_nil _, List.forall_mem_nil _⟩

theorem powerOff_canon : s.powerOff.Canon := frame_canon coldReset_canon

theorem dieUnpowered_canon (D : Die) : D.unpowered.Canon := ⟨rfl, rfl⟩

theorem recoveryMode_canon (h : s.Canon) : s.recoveryMode.Canon :=
  ⟨foldl_put_wf _ _ _ rfl, foldl_put_wf _ _ _ rfl, h.parts, h.rings, rfl, h.ports,
    forall_foldl_put _ _ (List.forall_mem_nil _) fun e _ => cellAfterDeviceReset_canon e.2,
    forall_foldl_put _ _ (List.forall_mem_nil _) fun e _ => dieUnpowered_canon e.2⟩

theorem startFailure_canon : s.startFailure.Canon := frame_canon (recoveryMode_canon deviceReset_canon)

/-! ### The interrupt controller: completion, GIE, routes, delivery, overdue handlers -/

theorem abandon_canon {k cause : Nat} {wr : Byte} (h : s.Canon) : (s.abandon k cause wr).Canon :=
  ite_canon (modClerk_canon h) (modClerk_canon (modClerk_canon h))

theorem completionFault_canon {k cause : Nat} {wr : Byte} (h : s.Canon) : (s.completionFault k cause wr).Canon :=
  ite_canon startFailure_canon (detect_canon (modClerk_canon (abandon_canon h)))

theorem execCompleteWrite_canonAfter {k : ClerkIx} {v : Byte} (h : s.Canon) : CanonAfter (execCompleteWrite k v s) :=
  ite_canonAfter (next_canonAfter (completionFault_canon h))
    (ite_canonAfter (next_canonAfter (modHub_canon (modClerk_canon h))) (next_canonAfter (completionFault_canon h)))

theorem execGieWrite_canonAfter {k : ClerkIx} {on : Bool} (h : s.Canon) : CanonAfter (execGieWrite k on s) :=
  next_canonAfter (modClerk_canon h)

theorem execRouteWrite_canonAfter {src : Fin 32} {k : ClerkIx} (h : s.Canon) : CanonAfter (execRouteWrite src k s) :=
  ite_canonAfter (next_canonAfter (modHub_canon h))
    (next_canonAfter (modClerk_canon (modClerk_canon (modHub_canon h))))

theorem execInterruptDelivery_canonAfter {k : ClerkIx} {posts : List ClerkIx} (h : s.Canon) :
    CanonAfter (execInterruptDelivery k posts s) := by
  unfold execInterruptDelivery
  dsimp only
  split
  · exact next_canonAfter (foldl_canon (modClerk_canon h) fun _ _ ht => assertAt_canon ht)
  · exact next_canonAfter h

theorem execHandlerOverdue_canonAfter {k : ClerkIx} (h : s.Canon) : CanonAfter (execHandlerOverdue k s) :=
  ite_canonAfter (next_canonAfter h) (next_canonAfter (completionFault_canon h))

/-! ### Bench domains: Recess and Active -/

theorem modBench_canon {k : Nat} {f : Bench → Bench} (h : s.Canon) : (s.modBench k f).Canon :=
  modDie_canon h fun _ hD => hD

theorem settleBenches_canon {p : Nat} (h : s.Canon) : (s.settleBenches p).Canon :=
  foldl_canon h fun _ _ ht => modBench_canon ht

/-! ### Flits, retry, credits and link states -/

theorem countFec_canon {port u : Nat} {fec : Fec} (h : s.Canon) : (s.countFec port u fec).Canon :=
  ite_canon h (modUnit_canon (countFabric_canon (countFabric_canon h)))

theorem takeFlit_canon {port u type : Nat} {flit : Flit} {fec : Fec} {f : State → State} (h : s.Canon)
    (hf : ∀ (t : State), t.Canon → (f t).Canon) : (s.takeFlit port u type flit fec f).Canon :=
  ite_canon h
    (ite_canon
      (ite_canon (countFabric_canon (countFec_canon h)) (modUnit_canon (countFabric_canon (countFec_canon h))))
      (ite_canon h (hf _ (countFec_canon h))))

theorem execDataFlit_canonAfter {port : PortIx} {u : UnitIx} {rx : RxFlit} (h : s.Canon) :
    CanonAfter (execDataFlit port u rx s) :=
  next_canonAfter (takeFlit_canon h fun _ ht => ite_canon (modUnit_canon ht) (modUnit_canon (countFabric_canon ht)))

theorem execIdleFlit_canonAfter {port : PortIx} {u : UnitIx} {rx : RxFlit} (h : s.Canon) :
    CanonAfter (execIdleFlit port u rx s) :=
  next_canonAfter (takeFlit_canon h fun _ ht => ite_canon (modUnit_canon ht) ht)

theorem execControlFlit_canonAfter {port : PortIx} {u : UnitIx} {rx : RxFlit} (h : s.Canon) :
    CanonAfter (execControlFlit port u rx s) :=
  next_canonAfter (takeFlit_canon h fun _ ht => modUnit_canon (ite_canon (countFabric_canon ht) ht))

theorem execFlitSlot_canonAfter {port : PortIx} {w : UnitSlot} (h : s.Canon) : CanonAfter (execFlitSlot port w s) := by
  refine ite_canonAfter (next_canonAfter h) (next_canonAfter (ite_canon (countFabric_canon ?_) ?_))
  all_goals exact ite_canon (emit_canon (emit_canon (modUnit_canon h))) (emit_canon (modUnit_canon h))

theorem portDown_canon {port : Nat} (h : s.Canon) : (s.portDown port).Canon :=
  detect_canon (assertShared_canon (modPort_canon h))

theorem portTo_canon {port : Nat} {x : PortState} (h : s.Canon) : (s.portTo port x).Canon :=
  assertShared_canon (modPort_canon h)

theorem retrainUnit_canon {port u : Nat} (h : s.Canon) : (s.retrainUnit port u).Canon :=
  ite_canon (portDown_canon (countFabric_canon h)) (modUnit_canon (countFabric_canon h))

theorem execReplayLimit_canonAfter {port : PortIx} {u : UnitIx} {fec : Bool} (h : s.Canon) :
    CanonAfter (execReplayLimit port u fec s) :=
  ite_canonAfter (next_canonAfter (retrainUnit_canon h)) (next_canonAfter h)

theorem execLaneSignalLoss_canonAfter {port : PortIx} {lane : Fin 36} (h : s.Canon) :
    CanonAfter (execLaneSignalLoss port lane s) :=
  ite_canonAfter (next_canonAfter (retrainUnit_canon h)) (next_canonAfter h)

theorem execRetrainComplete_canonAfter {port : PortIx} {u : UnitIx} {ok : Bool} (h : s.Canon) :
    CanonAfter (execRetrainComplete port u ok s) :=
  ite_canonAfter (next_canonAfter h)
    (ite_canonAfter (next_canonAfter (modUnit_canon h)) (next_canonAfter (notice_canon (modUnit_canon h))))

theorem execDetectSignal_canonAfter {port : PortIx} {quads : BitVec 8} (h : s.Canon) :
    CanonAfter (execDetectSignal port quads s) :=
  ite_canonAfter (next_canonAfter (portTo_canon h)) (next_canonAfter h)

theorem execDetectTimeout_canonAfter {port : PortIx} (h : s.Canon) : CanonAfter (execDetectTimeout port s) :=
  ite_canonAfter (next_canonAfter (portDown_canon h)) (next_canonAfter h)

theorem execTrainComplete_canonAfter {port : PortIx} {nb : Neighbour} (h : s.Canon) :
    CanonAfter (execTrainComplete port nb s) :=
  ite_canonAfter (next_canonAfter h)
    (ite_canonAfter (next_canonAfter (portTo_canon (modPort_canon h)))
      (next_canonAfter (portDown_canon (notice_canon (modPort_canon h)))))

theorem execTrainTimeout_canonAfter {port : PortIx} (h : s.Canon) : CanonAfter (execTrainTimeout port s) :=
  ite_canonAfter (next_canonAfter (portDown_canon h)) (next_canonAfter h)

theorem execVerifyComplete_canonAfter {port : PortIx} {pass : BitVec 9} (h : s.Canon) :
    CanonAfter (execVerifyComplete port pass s) :=
  ite_canonAfter (next_canonAfter h)
    (ite_canonAfter (next_canonAfter (portTo_canon (foldl_canon h fun _ _ ht => modUnit_canon ht)))
      (next_canonAfter (portDown_canon h)))

/-! ### Packets through the device: quad ownership, routing, escape, multicast, delivery -/

theorem toOutput_canon {port unit : Nat} {cls esc : Bool} {pkt : Packet} (h : s.Canon) :
    (s.toOutput port unit cls esc pkt).Canon := modUnit_canon h

/-- The state without a packet that may leave an input. -/
theorem candidates_canon {inp : Input} (h : s.Canon) {c : Cand} (hc : c ∈ s.candidates inp) : c.taken.Canon := by
  unfold State.candidates at hc
  cases inp with
  | unit i u =>
    obtain ⟨e, -, rfl⟩ := List.mem_map.1 hc
    exact modUnit_canon h
  | own p =>
    obtain ⟨e, -, he⟩ := List.mem_filterMap.1 hc
    split at he
    · obtain rfl := Option.some.inj he
      exact frame_canon h
    · exact absurd he nofun
  | relay =>
    obtain ⟨e, -, he⟩ := List.mem_filterMap.1 hc
    split at he
    · exact absurd he nofun
    · obtain ⟨r, -, rfl⟩ := Option.map_eq_some_iff.1 he
      exact frame_canon h

theorem passTurn_canon {t : State} {inp : Input} {c : Cand} {out q : Nat} (h : t.Canon) :
    (s.passTurn inp c out q t).Canon := by
  unfold State.passTurn
  split
  · exact h
  · exact h

theorem deliver_canon {src : Source} {cls : Bool} {pkt : Packet} (h : s.Canon) : (s.deliver src cls pkt).Canon := h

theorem carry_canon {inp : Input} {c : Cand} {r : Route} (h : s.Canon) (hc : c.taken.Canon) :
    (s.carry inp c r).Canon := by
  unfold State.carry
  split
  · exact deliver_canon hc
  · exact countFabric_canon hc
  · exact detect_canon (countFabric_canon hc)
  · exact passTurn_canon (toOutput_canon hc)
  · exact h

theorem moveFirst_canon {inp : Input} (h : s.Canon) : (s.moveFirst inp).Canon := by
  unfold State.moveFirst
  split
  next heq => exact carry_canon h (candidates_canon h (List.mem_of_find?_eq_some heq))
  · exact h

theorem execPacketRoute_canonAfter {src : Input} (h : s.Canon) : CanonAfter (execPacketRoute src s) :=
  next_canonAfter (moveFirst_canon h)

theorem execPacketSend_canonAfter {port : PortIx} {u : UnitIx} {vc : Fin 8} (h : s.Canon) :
    CanonAfter (execPacketSend port u vc s) := by
  unfold execPacketSend
  dsimp only
  split
  · exact next_canonAfter h
  · exact ite_canonAfter (next_canonAfter (ite_canon (countFabric_canon (modUnit_canon h)) (modUnit_canon h)))
      (next_canonAfter h)

/-- As `candidates_canon`, of a candidate that a search with an answer has found. -/
theorem findSome_canon {α : Type} {inp : Input} {f : Cand → Option α} {c : Cand} {r : α} (h : s.Canon)
    (hc : ((s.candidates inp).findSome? fun c => (f c).map fun r => (c, r)) = some (c, r)) : c.taken.Canon := by
  obtain ⟨d, hd, hr⟩ := List.exists_of_findSome?_eq_some hc
  obtain ⟨_, -, he⟩ := Option.map_eq_some_iff.1 hr
  injection he with he
  exact he ▸ candidates_canon h hd

theorem execPacketEscape_canonAfter {src : Input} (h : s.Canon) : CanonAfter (execPacketEscape src s) := by
  unfold execPacketEscape
  split
  next heq => exact next_canonAfter (countFabric_canon (toOutput_canon (findSome_canon h heq)))
  · exact next_canonAfter h

theorem dropRelays_canon (h : s.Canon) : s.dropRelays.Canon := by
  unfold State.dropRelays
  split
  · split
    · exact countFabric_canon h
    · exact h
  · exact h

theorem execMulticastRelay_canonAfter (h : s.Canon) : CanonAfter (execMulticastRelay s) :=
  next_canonAfter (moveFirst_canon (dropRelays_canon h))

theorem execMirrorBridgeWait_canonAfter {port : PortIx} {u : UnitIx} (h : s.Canon) :
    CanonAfter (execMirrorBridgeWait port u s) := by
  unfold execMirrorBridgeWait
  split
  next heq => exact next_canonAfter (frame_canon (toOutput_canon (findSome_canon h heq)))
  · exact next_canonAfter h

end Sys2Proof.Machine
end

section
/-! What keeps the canonical form, second part: streams, remote packets, HBM turns, the sequencer and the outer-product engine (R40-R71, R99-R166). -/

namespace Sys2Proof.Machine

-- One proof after another: hundreds of them at once, in one text with the model, take more threads than the check allows.
set_option Elab.async false

variable {s : State}

/-! ### Queues and stream charts: pushes and pops, reading and writing streams -/

theorem freeBytes_canon {n : Nat} (h : s.Canon) : (s.freeBytes n).2.Canon := h

theorem countStream_canon {c st lo len n : Nat} (h : s.Canon) : (s.countStream c st lo len n).Canon :=
  modCell_canon h fun _ hx => hx

theorem corrected_canon {c kind : Nat} (h : s.Canon) : (s.corrected c kind).Canon :=
  modServices_canon (modCell_canon h fun _ hx => hx)

theorem checked_canon {ecc : Ecc} {bs : List LByte} {count err : State → State} (h : s.Canon)
    (hcount : ∀ t : State, t.Canon → (count t).Canon) (herr : ∀ t : State, t.Canon → (err t).Canon) :
    (s.checked ecc bs count err).2.Canon := by
  cases ecc with
  | clean => exact h
  | corrected => exact hcount s h
  | uncorrectable => exact herr s h
  | miscorrected => exact freeBytes_canon (hcount s h)
  | unseen => exact freeBytes_canon h

theorem seeWords_canon {eff : Nat → Ecc → State → State} {errs : WordErrs}
    (heff : ∀ w x t, t.Canon → (eff w x t).Canon) (ws : List Nat) (seen : List (Nat × Nat)) (h : s.Canon) :
    (s.seeWords eff errs ws seen).2.Canon := by
  induction ws generalizing seen s with
  | nil => exact h
  | cons w ws ih =>
    unfold State.seeWords
    dsimp only
    split
    · exact ih seen h
    · exact ih _ (heff _ _ _ (frame_canon h))

theorem csSeen_canon {c w : Nat} {x : Ecc} (h : s.Canon) : (csSeen c w x s).Canon := by
  unfold csSeen
  split
  · exact modCell_canon (corrected_canon h) fun _ hx => hx
  · exact modCell_canon (corrected_canon h) fun _ hx => hx
  · exact detectCell_canon h
  · exact h

theorem csRead_canon {c agent a n : Nat} {errs : WordErrs} {seen : List (Nat × Nat)} (h : s.Canon) :
    (s.csRead c agent a n errs seen).2.2.Canon :=
  seeWords_canon (fun _ _ _ ht => csSeen_canon ht) _ _ h

theorem cellCsWrite_canon {x : Cell} {agent a : Nat} {bs : List Byte} (hx : x.Canon) : (x.csWrite agent a bs).Canon := by
  refine cellMk_canon (foldl_keeps (P := fun m => Memory.wf m = true) _ hx.store fun m e hm => ?_) hx.queues hx.streams
  split
  · exact put_wf hm
  · exact hm

theorem csStore_canon {c agent a : Nat} {bs : List Byte} {errs : WordErrs} (h : s.Canon) :
    (s.csStore c agent a bs errs).Canon :=
  modCell_canon
    (foldl_canon h fun _ _ ht => ite_canon ht (modCell_canon (csRead_canon ht) fun _ hx => cellCsWrite_canon hx))
    fun _ hx => cellCsWrite_canon hx

theorem execQueuePush_canonAfter {c : CellIx} {q : QueueIx} {e : Entry} (h : s.Canon) :
    CanonAfter (execQueuePush c q e s) :=
  onCell_canonAfter h (next_canonAfter (modCell_canon h fun _ hx => cellPush_canon hx))

theorem countWait_canon {c st : Nat} (h : s.Canon) : (s.countWait c st).Canon :=
  countStream_canon (fresh_canon h)

theorem consume_canon {t : State} {c q : Nat} {e : Entry} (h : s.Canon) (hc : s.consume c q = some (e, t)) :
    t.Canon := by
  obtain ⟨r, hp, hr⟩ := Option.map_eq_some_iff.1 hc
  obtain ⟨-, rfl⟩ := Prod.mk.inj hr
  have h1 : (s.setCell c r.2).Canon := setCell_canon h (cellPop_canon (cell_canon h c) hp)
  exact ite_canon h1 (ite_canon (countWait_canon (countStream_canon h1)) (countStream_canon h1))

theorem cellPutStream_canon {x : Cell} {k : Nat} {y : Stream} {ctr : SMap (BitVec 256)} (hx : x.Canon) :
    Cell.Canon { x with streams := put {} x.streams k y, ctr := ctr } :=
  cellMk_canon hx.store hx.queues (put_wf hx.streams)

/-- A cell's update that maps its streams and sets its sequencer. -/
theorem cellMapStreams_canon {x : Cell} {f : Stream → Stream} {seq : Seq} (hx : x.Canon) :
    Cell.Canon { x with streams := mapVals {} f x.streams, seq := seq } :=
  cellMk_canon hx.store hx.queues (mapVals_wf hx.streams)

theorem modStream_canon {c st : Nat} {f : Stream → Stream} (h : s.Canon) : (s.modStream c st f).Canon :=
  modCell_canon h fun _ hx => cellMk_canon hx.store hx.queues (put_wf hx.streams)

theorem dieWantLine_canon {D : Die} {line : Nat} (hD : D.Canon) : Die.Canon (Die.wantLine D line) := by
  unfold Die.wantLine
  split
  · exact hD
  · exact hD

theorem sendRead_canon {c ctx blk addr : Nat} {hdr : ChartHdr} (h : s.Canon) :
    (s.sendRead c ctx blk addr hdr).Canon := by
  unfold State.sendRead
  dsimp only
  split
  · exact sendPacket_canon h
  · exact h

theorem issueReq_canon {c st : Nat} {r : Req} (h : s.Canon) : (s.issueReq c st r).Canon := by
  refine ite_canon
    (ite_canon (ite_canon ?_ (countStream_canon (modStream_canon ?_))) (ite_canon ?_ (countStream_canon ?_)))
    (ite_canon (countStream_canon (modStream_canon h)) (sendRead_canon (countStream_canon (modStream_canon h))))
  all_goals exact modDie_canon (modStream_canon h) fun _ hD => dieWantLine_canon hD

theorem issueReqs_canon {c : Nat} {gather : Bool} {n : Nat} (h : s.Canon) : (State.issueReqs c gather n s).Canon := by
  induction n generalizing s with
  | zero => exact h
  | succ n ih =>
    unfold State.issueReqs
    dsimp only
    split
    · exact h
    · split
      · exact h
      next r _ =>
        refine ih (modCell_canon ?_ fun _ hx => cellFrame_canon hx)
        cases r with
        | some q => exact issueReq_canon h
        | none => exact modStream_canon h

theorem putOne_canon {st : Nat} {hdr : ChartHdr} {agent c : Nat} {errs : WordErrs} {acc : State × List (Nat × Nat)}
    {p : Put} (h : acc.1.Canon) : (State.putOne st hdr agent c errs acc p).1.Canon := by
  cases p with
  | zero pos n poison mem =>
    unfold State.putOne
    dsimp only
    split
    · exact modStream_canon h
    · exact h
  | mem pos a n before after =>
    unfold State.putOne
    dsimp only
    split
    · exact countStream_canon (modStream_canon (csRead_canon (countStream_canon h)))
    · refine foldl_canon (ite_canon (modStream_canon ?_) ?_) fun _ _ ht => issueReqs_canon (modStream_canon ht)
      all_goals
        exact ite_canon (modCell_canon (countStream_canon h) fun _ hx => cellFrame_canon hx) (countStream_canon h)

theorem pushWhole_canon {q n : Nat} {x : Cell} (hx : x.Canon) : (pushWhole q n x).Canon := by
  induction n generalizing x with
  | zero => exact hx
  | succ n ih =>
    unfold pushWhole
    dsimp only
    split
    · split
      · exact ih (cellPutStream_canon (cellPush_canon hx))
      · exact hx
    · exact hx

theorem settleRead_canon {c q : Nat} (h : s.Canon) : (s.settleRead c q).Canon :=
  modStream_canon (modCell_canon h fun _ hx => pushWhole_canon hx)

/-- Every put of an entry keeps the canonical form. -/
theorem putAll_canon {st : Nat} {hdr : ChartHdr} {agent c : Nat} {errs : WordErrs} {l : List Put}
    {acc : State × List (Nat × Nat)} (h : acc.1.Canon) : (l.foldl (State.putOne st hdr agent c errs) acc).1.Canon :=
  foldl_keeps (P := fun a : State × List (Nat × Nat) => a.1.Canon) l h fun _ _ ha => putOne_canon ha

theorem execStreamEntryStart_canonAfter {c : CellIx} {st : StreamIx} {errs : WordErrs} (h : s.Canon) :
    CanonAfter (execStreamEntryStart c st errs s) := by
  refine onCell_canonAfter h (ite_canonAfter (ite_canonAfter (next_canonAfter h) (next_canonAfter ?_)) (next_canonAfter h))
  exact settleRead_canon (modStream_canon (putAll_canon (modStream_canon
    (seeWords_canon (fun _ _ _ ht => csSeen_canon ht) _ _ h))))

theorem returned_canon {c st : Nat} {r : Req} {bs : List LByte} (h : s.Canon) : (s.returned c st r bs).Canon :=
  issueReqs_canon (settleRead_canon (modStream_canon h))

theorem visitBank_canon {d a : Nat} (h : s.Canon) : (s.visitBank d a).Canon :=
  modDie_canon h fun _ hD => hD

theorem portTurn_canon {c : Nat} (h : s.Canon) : (s.portTurn c).Canon := modDie_canon h fun _ hD => hD

theorem noteBank_canon {c st a : Nat} (h : s.Canon) : (s.noteBank c st a).Canon :=
  ite_canon (modCell_canon (fresh_canon h) fun _ hx => hx) (fresh_canon h)

theorem execMemoryReturn_canonAfter {c : CellIx} {st : StreamIx} {errs : WordErrs} {k : Nat} (h : s.Canon) :
    CanonAfter (execMemoryReturn c st errs k s) := by
  refine onCell_canonAfter h ?_
  split
  · exact next_canonAfter h
  · split
    · exact ite_canonAfter
        (next_canonAfter (returned_canon (noteBank_canon (visitBank_canon (checked_canon h
          (fun _ ht => hbmCorrected_canon ht) fun _ ht => detect_canon ht))))) (next_canonAfter h)
    · refine ite_canonAfter
        (next_canonAfter (returned_canon (seeWords_canon (fun _ _ _ hw => ?_) _ _
          (modDie_canon (portTurn_canon h) fun _ hD => hD))))
        (next_canonAfter (modDie_canon h fun _ hD => dieWantLine_canon hD))
      split
      · exact corrected_canon hw
      · exact corrected_canon hw
      · exact detect_canon hw
      · exact hw
    · exact next_canonAfter (returned_canon h)
    · exact next_canonAfter h

theorem flushRemote_canon {c st : Nat} {last : Bool} (h : s.Canon) : (s.flushRemote c st last).Canon := by
  refine modStream_canon (ite_canon ?_ ?_)
  · split
    · exact sendPacket_canon h
    · exact h
  · dsimp only
    split
    · exact placePacket_canon h
    · exact countFabric_canon h

theorem packRemote_canon {c st off : Nat} {bs : List Byte} (h : s.Canon) : (s.packRemote c st off bs).Canon :=
  foldl_canon h fun _ _ ht => modStream_canon (ite_canon (flushRemote_canon ht) ht)

theorem writePoison_canon {c st n new : Nat} (h : s.Canon) : (s.writePoison c st n new).Canon :=
  ite_canon h
    (ite_canon (detectCell_canon (modStream_canon (modCell_canon h fun _ hx => hx))) (modCell_canon h fun _ hx => hx))

theorem takeOne_canon {c st : Nat} {e : Entry} {k : Take} (h : s.Canon) : (State.takeOne c st e s k).Canon := by
  refine ite_canon (detectCell_canon (writePoison_canon h)) ?_
  split
  · exact countStream_canon (modStream_canon (countStream_canon (writePoison_canon h)))
  · exact countStream_canon (packRemote_canon (countStream_canon (writePoison_canon h)))
  · exact foldl_canon (countStream_canon (writePoison_canon h)) fun _ _ ht => countStream_canon (modStream_canon ht)

theorem settleWrite_canon {c st : Nat} (h : s.Canon) : (s.settleWrite c st).Canon :=
  ite_canon (modStream_canon h) h

theorem popOut_canon {t : State} {c q : Nat} {e : Entry} (h : s.Canon) (hc : s.popOut c q = some (e, t)) : t.Canon := by
  obtain ⟨r, hp, hr⟩ := Option.map_eq_some_iff.1 hc
  obtain ⟨-, rfl⟩ := Prod.mk.inj hr
  have h1 : (s.setCell c r.2).Canon := setCell_canon h (cellPop_canon (cell_canon h c) hp)
  exact ite_canon h1 (countWait_canon h1)

theorem execWriteStreamEntry_canonAfter {c : CellIx} {st : StreamIx} (h : s.Canon) :
    CanonAfter (execWriteStreamEntry c st s) := by
  refine onCell_canonAfter h (ite_canonAfter ?_ (next_canonAfter h))
  split
  · exact next_canonAfter h
  next heq =>
    refine next_canonAfter (settleWrite_canon (issueReqs_canon (ite_canon (flushRemote_canon ?_) ?_)))
    all_goals
      exact modStream_canon (foldl_canon (countStream_canon (popOut_canon h heq)) fun _ _ ht => takeOne_canon ht)

theorem execWriteAccepted_canonAfter {c : CellIx} {x : WriteAt} (h : s.Canon) :
    CanonAfter (execWriteAccepted c x s) := by
  refine onCell_canonAfter h ?_
  dsimp only
  split
  · exact next_canonAfter (settleWrite_canon h)
  · exact next_canonAfter (settleWrite_canon (issueReqs_canon (modStream_canon (ite_canon (csStore_canon h)
      (visitBank_canon h)))))

/-! ### The flag computations: poison bits and their consumption under a policy, the taint of tile slots -/

theorem consumePoison_canon {c : Nat} {op : Op} {e : Entry} {n : Nat} (h : s.Canon) :
    (s.consumePoison c op e n).Canon :=
  ite_canon h
    (ite_canon (detectCell_canon (modCell_canon (modCell_canon h fun _ hx => hx) fun _ hx => hx))
      (modCell_canon h fun _ hx => hx))

/-! ### Lane generators, and how elements fill lanes and entries -/

theorem seedLanes_canon {c lo pass : Nat} (h : s.Canon) : (s.seedLanes c lo pass).Canon :=
  modCell_canon h fun _ hx => hx

theorem cellDraw_canon {x : Cell} {lo k : Nat} (hx : x.Canon) : (x.draw lo k).2.Canon := cellFrame_canon hx

theorem cellPushAll_canon {q : Nat} {es : List Entry} {x : Cell} (hx : x.Canon) : Cell.Canon (Cell.pushAll q es x) :=
  cellIte_canon (cellFoldl_canon hx fun _ _ hy => cellPush_canon hy) hx

theorem pull_canon {c : Nat} {op : Op} {q fmt need n : Nat} {buf : List InByte} (h : s.Canon) :
    (State.pull c op q fmt need n buf s).2.Canon := by
  induction n generalizing buf s with
  | zero => exact h
  | succ n ih =>
    unfold State.pull
    split
    · exact h
    · split
      · exact h
      next heq => exact ih (consumePoison_canon (consume_canon h heq))

/-! ### Remote writes and reads at their receivers, and the remote gateway's turns -/

theorem arrived_canon {g : GatePkt} (h : s.Canon) : (s.arrived g).Canon :=
  ite_canon h (ite_canon (addOwn_canon (modPart_canon h)) (modPart_canon h))

theorem answerRead_canon {g : GatePkt} {bs : List Byte} (h : s.Canon) : (s.answerRead g bs).Canon :=
  sendMarked_canon (checked_canon h (fun _ ht => hbmCorrected_canon ht) fun _ ht => detect_canon ht)

theorem toGateway_canon {g : GatePkt} (h : s.Canon) : (s.toGateway g).Canon :=
  ite_canon (arrived_canon h) (modDie_canon h fun _ hD => hD)

theorem remoteTurn_canon {d pc : Nat} (h : s.Canon) : (s.remoteTurn d pc).Canon := by
  unfold State.remoteTurn
  split
  · exact h
  · refine ite_canon (snoopRange_canon h) (ite_canon (ite_canon (arrived_canon ?_) ?_) (answerRead_canon ?_))
    all_goals exact ite_canon (writeHbm_canon (modDie_canon h fun _ hD => hD)) (modDie_canon h fun _ hD => hD)

theorem execRemoteWritePacket_canonAfter {p : PartIx} {pkt : Packet} (h : s.Canon) :
    CanonAfter (execRemoteWritePacket p pkt s) :=
  defers_canonAfter h
    (ite_canonAfter (next_canonAfter h)
      (ite_canonAfter (next_canonAfter (countFabric_canon (takeDelivered_canon h)))
        (ite_canonAfter (next_canonAfter (detect_canon (takeDelivered_canon h)))
          (next_canonAfter (toGateway_canon (takeDelivered_canon h))))))

theorem execReadRequest_canonAfter {p : PartIx} {pkt : Packet} {ecc : Ecc} (h : s.Canon) :
    CanonAfter (execReadRequest p pkt ecc s) :=
  defers_canonAfter h (next_canonAfter (toGateway_canon (takeDelivered_canon h)))

theorem execReadResponse_canonAfter {p : PartIx} {pkt : Packet} (h : s.Canon) :
    CanonAfter (execReadResponse p pkt s) := by
  refine defers_canonAfter h ?_
  dsimp only
  split
  · exact next_canonAfter (takeDelivered_canon h)
  · exact ite_canonAfter (next_canonAfter (takeDelivered_canon h))
      (next_canonAfter (returned_canon (takeDelivered_canon h)))

/-! ### HBM turns and weight-cache fills -/

theorem countAccepted_canon {d pc : Nat} (h : s.Canon) : (s.countAccepted d pc).Canon :=
  modDie_canon h fun _ hD => hD

theorem readTurn_canon {d pc c : Nat} (h : s.Canon) : (s.readTurn d pc c).Canon := by
  refine ite_canon h ?_
  split
  · exact h
  · exact ite_canon (snoopRange_canon h) (countAccepted_canon (modStream_canon h))

theorem fillTurn_canon {d pc : Nat} (h : s.Canon) : (s.fillTurn d pc).Canon := by
  unfold State.fillTurn
  dsimp only
  split
  · exact h
  · exact ite_canon h (ite_canon (snoopRange_canon h) (setDie_canon h (die_canon h _)))

theorem writeTurn_canon {d pc c : Nat} (h : s.Canon) : (s.writeTurn d pc c).Canon := by
  refine ite_canon h ?_
  split
  · exact h
  · exact ite_canon (snoopRange_canon h) (countAccepted_canon (modStream_canon (writeHbm_canon h)))

theorem execHbmTurn_canonAfter {d : DieIx} {pc : Fin 96} (h : s.Canon) : CanonAfter (execHbmTurn d pc s) := by
  refine next_canonAfter (ite_canon h
    (ite_canon (remoteTurn_canon ?_)
      (ite_canon (fillTurn_canon ?_) (ite_canon (readTurn_canon ?_) (writeTurn_canon ?_)))))
  all_goals exact modDie_canon h fun _ hD => hD

theorem fillBlock_canon {d a : Nat} {x : Ecc} (h : s.Canon) : (s.fillBlock d a x).Canon := by
  unfold State.fillBlock
  dsimp only
  split
  · exact hbmCorrected_canon h
  · exact hbmCorrected_canon h
  · exact foldl_canon (detect_canon h) fun _ _ ht => modCell_canon ht fun _ hx => cellMapStreams_canon hx
  · exact h

theorem execWeightCacheFill_canonAfter {d : DieIx} {x : LineRead} (h : s.Canon) :
    CanonAfter (execWeightCacheFill d x s) := by
  unfold execWeightCacheFill
  split
  · exact next_canonAfter h
  · exact next_canonAfter (ite_canon h (modDie_canon (foldl_canon h fun _ _ ht => fillBlock_canon ht) fun _ hD => hD))

/-! ### The sequencer, descriptors, signals and control descriptors -/

theorem modSeq_canon {c : Nat} {f : Seq → Seq} (h : s.Canon) : (s.modSeq c f).Canon :=
  modCell_canon h fun _ hx => hx

theorem putSet_canon {c k : Nat} {r : Option RegSet} (h : s.Canon) : (s.putSet c k r).Canon :=
  modSeq_canon h

theorem chainFetch_canon {c n : Nat} (h : s.Canon) : (s.chainFetch c n).Canon :=
  ite_canon (modDie_canon h fun _ hD => dieFoldl_canon hD fun _ _ hy => dieWantLine_canon hy) h

theorem chainRead_canon {c n : Nat} (h : s.Canon) : (s.chainRead c n).Canon :=
  modDie_canon (portTurn_canon h) fun _ hD => hD

theorem onControl_canonAfter {c op : Nat} {act : State → State} (h : s.Canon)
    (hact : ∀ (t : State), t.Canon → (act t).Canon) : CanonAfter (State.onControl s c op act) :=
  ite_canonAfter (next_canonAfter (hact _ (chainRead_canon h)))
    (ite_canonAfter (next_canonAfter h) (next_canonAfter (chainFetch_canon h)))

theorem launch_canon {p : Nat} {w : BitVec 64} {off : Nat} (h : s.Canon) : (s.launch p w off).Canon :=
  modPart_canon h

theorem signal_canon {c : Nat} {ev : FormEvent} {num off : Nat} {w : BitVec 64} (h : s.Canon) :
    (s.signal c ev num off w).Canon := by
  refine ite_canon h ?_
  split
  · exact h
  · exact ite_canon (launch_canon h) (ite_canon (launch_canon (modPart_canon h)) (modPart_canon h))

theorem execTallySignal_canonAfter {p : PartIx} (h : s.Canon) : CanonAfter (execTallySignal p s) := by
  unfold execTallySignal
  split
  · exact next_canonAfter h
  · exact next_canonAfter (addOwn_canon (modPart_canon h))

theorem clampFlag_canon {c : Nat} (h : s.Canon) : (s.clampFlag c).Canon := by
  unfold State.clampFlag
  split
  · exact modPart_canon h
  · exact h

theorem execLoop_canonAfter {c : CellIx} (h : s.Canon) : CanonAfter (execLoop c s) :=
  onCell_canonAfter h
    (ite_canonAfter (next_canonAfter h)
      (onControl_canonAfter h fun _ ht => modSeq_canon (ite_canon (clampFlag_canon ht) ht)))

theorem execLoopExitSignal_canonAfter {c : CellIx} (h : s.Canon) : CanonAfter (execLoopExitSignal c s) := by
  refine onCell_canonAfter h ?_
  dsimp only
  split
  · exact next_canonAfter h
  · exact next_canonAfter (signal_canon (modSeq_canon h))

theorem execBranch_canonAfter {c : CellIx} (h : s.Canon) : CanonAfter (execBranch c s) :=
  onCell_canonAfter h (ite_canonAfter (next_canonAfter h) (onControl_canonAfter h fun _ ht => modSeq_canon ht))

theorem execSetCount_canonAfter {c : CellIx} (h : s.Canon) : CanonAfter (execSetCount c s) :=
  onCell_canonAfter h (ite_canonAfter (next_canonAfter h) (onControl_canonAfter h fun _ ht => modSeq_canon ht))

theorem execFeature_canonAfter {c : CellIx} (h : s.Canon) : CanonAfter (execFeature c s) :=
  onCell_canonAfter h (onControl_canonAfter h fun _ ht => modSeq_canon ht)

theorem execSkipPad_canonAfter {c : CellIx} (h : s.Canon) : CanonAfter (execSkipPad c s) :=
  onCell_canonAfter h (onControl_canonAfter h fun _ ht => modSeq_canon ht)

theorem execEndWalk_canonAfter {c : CellIx} (h : s.Canon) : CanonAfter (execEndWalk c s) :=
  onCell_canonAfter h (onControl_canonAfter h fun _ ht => modSeq_canon ht)

theorem execJoin_canonAfter {c : CellIx} (h : s.Canon) : CanonAfter (execJoin c s) := by
  refine onCell_canonAfter h ?_
  dsimp only
  split
  · exact ite_canonAfter (next_canonAfter (modSeq_canon h)) (next_canonAfter h)
  · refine ite_canonAfter (next_canonAfter h) (onControl_canonAfter h fun _ ht => ?_)
    split
    · exact modPart_canon (modSeq_canon ht)
    · exact modSeq_canon ht

theorem execJoinSignal_canonAfter {f : FormIx} (h : s.Canon) : CanonAfter (execJoinSignal f s) := by
  unfold execJoinSignal
  split
  · exact next_canonAfter h
  · exact next_canonAfter (ite_canon (launch_canon (modPart_canon h)) (modPart_canon h))

theorem execDescriptorLoad_canonAfter {c : CellIx} {ecc : Ecc} (h : s.Canon) :
    CanonAfter (execDescriptorLoad c ecc s) := by
  refine onCell_canonAfter h ?_
  split
  · exact next_canonAfter h
  · refine ite_canonAfter (next_canonAfter h)
      (ite_canonAfter (next_canonAfter (chainFetch_canon h))
        (ite_canonAfter (next_canonAfter (detect_canon (modSeq_canon h)))
          (ite_canonAfter (next_canonAfter h) (ite_canonAfter (next_canonAfter (chainFetch_canon h)) ?_))))
    split
    · exact next_canonAfter h
    · exact next_canonAfter (modSeq_canon (putSet_canon (chainRead_canon (checked_canon h
        (fun _ ht => corrected_canon ht) fun _ ht => ht))))

theorem armStream_canon {charts : List Byte} {n : Nat} {r : RegSet} {op : Nat} {x : Cell} {ref : BitVec 128}
    (hx : x.Canon) : (armStream charts n r op x ref).Canon := by
  unfold armStream
  dsimp only
  split
  · split
    · exact cellPutStream_canon hx
    · exact hx
  · exact cellPutStream_canon hx

theorem completeSet_canon {c k : Nat} {r : RegSet} {o : Nat} (h : s.Canon) : (s.completeSet c k r o).Canon :=
  signal_canon (signal_canon (modSeq_canon (putSet_canon h)))

theorem issueSet_canon {c k : Nat} {r : RegSet} (h : s.Canon) : (s.issueSet c k r).Canon := by
  refine ite_canon (completeSet_canon ?_) ?_
  all_goals
    exact setCell_canon h
      (cellIte_canon (cell_canon h _) (cellFoldl_canon (cell_canon h _) fun _ _ hy => armStream_canon hy))

theorem execDescriptorIssue_canonAfter {c : CellIx} (h : s.Canon) : CanonAfter (execDescriptorIssue c s) := by
  refine onCell_canonAfter h ?_
  split
  · exact ite_canonAfter (next_canonAfter (issueSet_canon h)) (next_canonAfter h)
  · exact next_canonAfter h

theorem execDescriptorComplete_canonAfter {c : CellIx} {k : Fin 4} (h : s.Canon) :
    CanonAfter (execDescriptorComplete c k s) := by
  refine onCell_canonAfter h ?_
  split
  · split
    · exact ite_canonAfter (next_canonAfter (completeSet_canon h)) (next_canonAfter h)
    · exact next_canonAfter h
  · exact next_canonAfter h

theorem execNop_canonAfter {c : CellIx} (h : s.Canon) : CanonAfter (execNop c s) := by
  refine onCell_canonAfter h ?_
  split
  · exact ite_canonAfter (next_canonAfter (issueSet_canon h)) (next_canonAfter h)
  · exact next_canonAfter h

theorem execMove_canonAfter {c : CellIx} (h : s.Canon) : CanonAfter (execMove c s) := by
  refine onCell_canonAfter h ?_
  split
  · exact ite_canonAfter (next_canonAfter (issueSet_canon h)) (next_canonAfter h)
  · exact next_canonAfter h

theorem cellFormReset_canon {x : Cell} (hx : x.Canon) : Cell.Canon (Cell.formReset x) := cellMk_canon hx.store rfl rfl

theorem cellStartWalk_canon {r : FormRec} {x : Cell} (hx : x.Canon) : Cell.Canon (Cell.startWalk r x) :=
  cellMk_canon hx.store hx.queues rfl

theorem signalInputs_canon {p : Nat} {ix : List Nat} (h : s.Canon) : (s.signalInputs p ix).Canon :=
  foldl_canon h fun _ _ ht => ite_canon (addOwn_canon ht) ht

theorem cellDisarm_canon {x : Cell} (hx : x.Canon) : x.disarm.Canon := cellMapStreams_canon hx

theorem execFormPeriodEnd_canonAfter {f : FormIx} (h : s.Canon) : CanonAfter (execFormPeriodEnd f s) := by
  unfold execFormPeriodEnd
  split
  · exact next_canonAfter h
  · exact next_canonAfter (foldl_canon (modPart_canon (admitted_canon h)) fun _ _ ht =>
      modCell_canon ht fun _ hx => cellDisarm_canon hx)

/-! ### The outer-product engine, tile slots and drains -/

theorem cellModSlot_canon {x : Cell} {sl : Nat} {f : Slot → Slot} (hx : x.Canon) : Cell.Canon (Cell.modSlot x sl f) :=
  hx

theorem modSlot_canon {c sl : Nat} {f : Slot → Slot} (h : s.Canon) : (s.modSlot c sl f).Canon :=
  modCell_canon h fun _ hx => cellModSlot_canon hx

theorem release_canon {c : Nat} {op : Op} (h : s.Canon) : (s.release c op).Canon :=
  modSeq_canon (modSlot_canon h)

theorem loadEntry_canon {c : Nat} {op : Op} {k : Nat} {e : Entry} (h : s.Canon) : (s.loadEntry c op k e).Canon :=
  modSlot_canon (consumePoison_canon h)

theorem loadSlot_canon {c n : Nat} (h : s.Canon) : (State.loadSlot c n s).Canon := by
  induction n generalizing s with
  | zero => exact h
  | succ n ih =>
    unfold State.loadSlot
    split
    · split
      · split
        next heq => exact ih (modCell_canon (loadEntry_canon (consume_canon h heq)) fun _ hx => cellFrame_canon hx)
        · exact h
      · exact h
    · exact h

theorem engineTake_canon {c : Nat} {e : EngineRun} (h : s.Canon) : (s.engineTake c e).Canon :=
  modSlot_canon (modCell_canon (seedLanes_canon h) fun _ hx => hx)

theorem drainTake_canon {c : Nat} {op : Op} (h : s.Canon) : (s.drainTake c op).Canon :=
  modCell_canon h fun _ hx => hx

theorem takeToken_canon {c sl : Nat} (h : s.Canon) : (s.takeToken c sl).Canon := by
  refine ite_canon h ?_
  split
  · split
    · refine ite_canon (completeSet_canon (modSlot_canon h)) (ite_canon ?_ ?_)
      · split
        · exact drainTake_canon h
        · exact h
      · split
        · exact ite_canon (engineTake_canon h) h
        · exact h
    · exact h
  · exact h

theorem execSlotTokenTake_canonAfter {c : CellIx} {sl : SlotIx} (h : s.Canon) :
    CanonAfter (execSlotTokenTake c sl s) := by
  refine onCell_canonAfter h ?_
  dsimp only
  split
  · exact ite_canonAfter (next_canonAfter (loadSlot_canon (takeToken_canon h))) (next_canonAfter (takeToken_canon h))
  · exact next_canonAfter (takeToken_canon h)

theorem execEngine_canonAfter {c : CellIx} (h : s.Canon) : CanonAfter (execEngine c s) := by
  refine onCell_canonAfter h ?_
  dsimp only
  split
  · exact ite_canonAfter (next_canonAfter h) (next_canonAfter (setCell_canon h (cell_canon h _)))
  · exact next_canonAfter h

theorem popSide_canon {c q fwd : Nat} (h : s.Canon) : (s.popSide c q fwd).2.Canon := by
  unfold State.popSide
  split
  next heq => exact modCell_canon (consume_canon h heq) fun _ hx => cellPushAll_canon hx
  · exact h

theorem takeSide_canon {c : Nat} {e : EngineRun} {col : Bool} (h : s.Canon) : (s.takeSide c e col).2.2.Canon := by
  unfold State.takeSide
  refine ite_canon (modSlot_canon (consumePoison_canon (popSide_canon ?_))) (consumePoison_canon (popSide_canon ?_))
  all_goals
    exact iteSnd_canon
      (ite_canon (modSlot_canon (consumePoison_canon (popSide_canon h))) (consumePoison_canon (popSide_canon h))) h

theorem siteFault_canon {c : Nat} {e : EngineRun} {f : Option SiteFault} (h : s.Canon) : (s.siteFault c e f).Canon := by
  unfold State.siteFault
  split
  · exact h
  · exact modSlot_canon (detectCell_canon h)

theorem engineEnd_canon {c : Nat} {e : EngineRun} (h : s.Canon) : (s.engineEnd c e).Canon :=
  ite_canon (modCell_canon (modCell_canon h fun _ hx => hx) fun _ hx => hx)
    (release_canon (modCell_canon h fun _ hx => hx))

theorem engineStep_canon {c : Nat} {e : EngineRun} {fault : Option SiteFault} (h : s.Canon) :
    (s.engineStep c e fault).Canon := by
  have hb : ((s.takeSide c e true).2.2.takeSide c e false).2.2.Canon := takeSide_canon (takeSide_canon h)
  unfold State.engineStep
  refine ite_canon (engineEnd_canon ?_) ?_
  all_goals
    exact siteFault_canon (setCell_canon hb (cellModSlot_canon (cellFrame_canon (cellDraw_canon (cell_canon hb c)))))

theorem tryStep_canon {c : Nat} {mode : Option Nat} {fault : Option SiteFault} (h : s.Canon) :
    (s.tryStep c mode fault).Canon := by
  unfold State.tryStep
  split
  · exact ite_canon (engineStep_canon h) h
  · exact h

theorem execEngineStep_canonAfter {c : CellIx} {fault : Option SiteFault} (h : s.Canon) :
    CanonAfter (execEngineStep c fault s) := onCell_canonAfter h (next_canonAfter (tryStep_canon h))

theorem execMultiplyAdd_canonAfter {c : CellIx} {fault : Option SiteFault} (h : s.Canon) :
    CanonAfter (execMultiplyAdd c fault s) := onCell_canonAfter h (next_canonAfter (tryStep_canon h))

theorem execAbsoluteDifference_canonAfter {c : CellIx} {fault : Option SiteFault} (h : s.Canon) :
    CanonAfter (execAbsoluteDifference c fault s) := onCell_canonAfter h (next_canonAfter (tryStep_canon h))

theorem execSquaredDifference_canonAfter {c : CellIx} {fault : Option SiteFault} (h : s.Canon) :
    CanonAfter (execSquaredDifference c fault s) := onCell_canonAfter h (next_canonAfter (tryStep_canon h))

theorem execMinPlus_canonAfter {c : CellIx} {fault : Option SiteFault} (h : s.Canon) :
    CanonAfter (execMinPlus c fault s) := onCell_canonAfter h (next_canonAfter (tryStep_canon h))

theorem execMaxPlus_canonAfter {c : CellIx} {fault : Option SiteFault} (h : s.Canon) :
    CanonAfter (execMaxPlus c fault s) := onCell_canonAfter h (next_canonAfter (tryStep_canon h))

theorem execCompareAndCount_canonAfter {c : CellIx} {fault : Option SiteFault} (h : s.Canon) :
    CanonAfter (execCompareAndCount c fault s) := onCell_canonAfter h (next_canonAfter (tryStep_canon h))

theorem execDrain_canonAfter {c : CellIx} (h : s.Canon) : CanonAfter (execDrain c s) := by
  refine onCell_canonAfter h (ite_canonAfter (next_canonAfter h) ?_)
  split
  · exact next_canonAfter (drainTake_canon h)
  · exact next_canonAfter h

theorem drainRow_canon {c : Nat} {d : DrainRun} (h : s.Canon) : (s.drainRow c d).Canon := by
  have h0 : (if d.row = 0 then s.seedLanes c 64 d.op.desc.pass else s).Canon := ite_canon (seedLanes_canon h) h
  have hd := cellDraw_canon (lo := 64) (k := 1) (cell_canon h0 c)
  refine ite_canon (release_canon (modCell_canon ?_ fun _ hx => hx)) ?_
  all_goals
    exact setCell_canon h0 (cellPushAll_canon (cellIte_canon (cellPushAll_canon (cellFrame_canon hd))
      (cellIte_canon (cellModSlot_canon (cellFrame_canon hd)) (cellFrame_canon hd))))

theorem execDrainStart_canonAfter {c : CellIx} (h : s.Canon) : CanonAfter (execDrainStart c s) := by
  refine onCell_canonAfter h ?_
  split
  · exact ite_canonAfter (next_canonAfter (drainRow_canon h)) (next_canonAfter h)
  · exact next_canonAfter h

theorem execSlotBufferPush_canonAfter {c : CellIx} {sl : SlotIx} (h : s.Canon) :
    CanonAfter (execSlotBufferPush c sl s) := by
  refine onCell_canonAfter h ?_
  dsimp only
  split
  · exact ite_canonAfter (next_canonAfter (setCell_canon h (cellPush_canon (cellModSlot_canon (cell_canon h _)))))
      (next_canonAfter h)
  · exact next_canonAfter h

end Sys2Proof.Machine
end

section
/-! What keeps the canonical form, third part: the vector engine, reductions, periods, the lodestar, the mirror, replies (R149-R151, R183-R223, R255-R306). -/

namespace Sys2Proof.Machine

-- One proof after another: hundreds of them at once, in one text with the model, take more threads than the check allows.
set_option Elab.async false

variable {s : State}

/-! ### The vector engine's VECTOR operations -/

theorem execVector_canonAfter {c : CellIx} (h : s.Canon) : CanonAfter (execVector c s) := by
  refine onCell_canonAfter h ?_
  dsimp only
  split
  · exact ite_canonAfter (next_canonAfter (modCell_canon (seedLanes_canon h) fun _ hx => hx)) (next_canonAfter h)
  · exact next_canonAfter h

theorem vecEnd_canon {c : Nat} {v : VecRun} (h : s.Canon) : (s.vecEnd c v).Canon :=
  ite_canon (modSeq_canon (modCell_canon h fun _ hx => hx)) (modCell_canon h fun _ hx => hx)

theorem vecOut_canon {c : Nat} {v : VecRun} {r : List InElem} (h : s.Canon) : (s.vecOut c v r).1.Canon :=
  setCell_canon h (cellPushAll_canon (cellPushAll_canon (cellDraw_canon (cell_canon h _))))

theorem vecTake_canon {c : Nat} {v : VecRun} {q1 q2 : Option (Nat × Nat)} (h : s.Canon) :
    (s.vecTake c v q1 q2).1.Canon := by
  refine iteFst_canon ?_ ?_
  all_goals
    split
    · refine pull_canon ?_
      split
      · exact pull_canon (pull_canon h)
      · exact pull_canon h
    · split
      · exact pull_canon (pull_canon h)
      · exact pull_canon h

theorem vecStep_canon {c fn : Nat} {work : State → VecRun → State × VecRun} (h : s.Canon)
    (hwork : ∀ v, (work s v).1.Canon) : (s.vecStep c fn work).Canon := by
  unfold State.vecStep
  split
  · exact ite_canon (ite_canon (vecEnd_canon (hwork _)) (vecEnd_canon h)) h
  · exact h

theorem lanesOf_canon {c : Nat} {f : List Val → Val} {q1 q2 : Option (Nat × Nat)} {v : VecRun} (h : s.Canon) :
    (lanesOf c f q1 q2 s v).1.Canon := by
  unfold lanesOf
  dsimp only
  split
  · exact vecOut_canon (vecTake_canon h)
  · exact vecTake_canon h

theorem execVecAdd_canonAfter {c : CellIx} (h : s.Canon) : CanonAfter (execVecAdd c s) :=
  onCell_canonAfter h (next_canonAfter (vecStep_canon h fun _ => lanesOf_canon h))

theorem execVecFma_canonAfter {c : CellIx} (h : s.Canon) : CanonAfter (execVecFma c s) :=
  onCell_canonAfter h (next_canonAfter (vecStep_canon h fun _ => lanesOf_canon h))

theorem execConvert_canonAfter {c : CellIx} (h : s.Canon) : CanonAfter (execConvert c s) :=
  onCell_canonAfter h (next_canonAfter (vecStep_canon h fun _ => lanesOf_canon h))

theorem popParam_canon {c q n : Nat} {v : VecRun} (h : s.Canon) : (s.popParam c q n v).1.Canon := by
  unfold State.popParam
  split
  · exact h
  · split
    next heq => exact consumePoison_canon (consume_canon h heq)
    · exact h

theorem dequantOne_canon {c : Nat} {t : State} {v : VecRun} (h : t.Canon) : (dequantOne c t v).1.Canon := by
  unfold dequantOne
  dsimp only
  split
  · exact popParam_canon h
  · split
    · exact vecOut_canon (vecTake_canon (popParam_canon h))
    · exact vecTake_canon (popParam_canon h)

theorem execDequant_canonAfter {c : CellIx} (h : s.Canon) : CanonAfter (execDequant c s) :=
  onCell_canonAfter h (next_canonAfter (vecStep_canon h fun _ => dequantOne_canon h))

theorem splitFp32One_canon {c : Nat} {t : State} {v : VecRun} (h : t.Canon) : (splitFp32One c t v).1.Canon := by
  unfold splitFp32One
  dsimp only
  split
  · exact setCell_canon (vecTake_canon h)
      (cellPushAll_canon (cellDraw_canon (cellPushAll_canon (cellDraw_canon (cellPushAll_canon (cellDraw_canon (cell_canon
        (vecTake_canon h) _)))))))
  · exact vecTake_canon h

theorem execSplitFp32_canonAfter {c : CellIx} (h : s.Canon) : CanonAfter (execSplitFp32 c s) :=
  onCell_canonAfter h (next_canonAfter (vecStep_canon h fun _ => splitFp32One_canon h))

theorem splitBf16One_canon {c : Nat} {t : State} {v : VecRun} (h : t.Canon) : (splitBf16One c t v).1.Canon := by
  unfold splitBf16One
  dsimp only
  split
  · exact iteFst_canon
      (setCell_canon (vecTake_canon h)
        (cellPushAll_canon (cellPushAll_canon (cellDraw_canon (cell_canon (vecTake_canon h) _)))))
      (setCell_canon (vecTake_canon h) (cellDraw_canon (cell_canon (vecTake_canon h) _)))
  · exact vecTake_canon h

theorem execSplitBf16_canonAfter {c : CellIx} (h : s.Canon) : CanonAfter (execSplitBf16 c s) :=
  onCell_canonAfter h (next_canonAfter (vecStep_canon h fun _ => splitBf16One_canon h))

theorem optimOne_canon {c : Nat} {t : State} {v : VecRun} (h : t.Canon) : (optimOne c t v).1.Canon := by
  unfold optimOne
  dsimp only
  split
  · exact popParam_canon h
  · exact iteFst_canon
      (modCell_canon (vecOut_canon (pull_canon (pull_canon (popParam_canon h)))) fun _ hx => cellPushAll_canon hx)
      (pull_canon (pull_canon (popParam_canon h)))

theorem execOptim_canonAfter {c : CellIx} (h : s.Canon) : CanonAfter (execOptim c s) :=
  onCell_canonAfter h (next_canonAfter (vecStep_canon h fun _ => optimOne_canon h))

/-! ### Reductions and the gradient ring -/

theorem countRed_canon {d kind lo len n : Nat} (h : s.Canon) : (s.countRed d kind lo len n).Canon :=
  modDie_canon h fun _ hD => hD

theorem sendRed_canon {p : Nat} {b : Bucket} {seat : Nat} {payload : List Byte} (h : s.Canon) :
    (s.sendRed p b seat payload).Canon := sendPacket_canon (modDie_canon h fun _ hD => hD)

theorem diePutRun_canon {D : Die} {r : Run} (hD : D.Canon) : Die.Canon (Die.putRun D r) := hD

theorem putRun_canon {d : Nat} {r : Run} (h : s.Canon) : (s.putRun d r).Canon :=
  modDie_canon h fun _ hD => diePutRun_canon hD

theorem flushRun_canon {p : Nat} {b : Bucket} {r : Run} (h : s.Canon) : (s.flushRun p b r).Canon :=
  ite_canon (putRun_canon (foldl_canon h fun _ _ ht => sendRed_canon ht)) (putRun_canon h)

theorem contribution_canon {p : Nat} {b : Bucket} {bn e n : Nat} {bad : Option (Nat × Ecc)} (h : s.Canon) :
    (s.contribution p b bn e n bad).2.Canon := by
  unfold State.contribution
  split
  · exact iteSnd_canon
      (checked_canon (serviceRead_canon h) (fun _ ht => hbmCorrected_canon ht) fun _ ht =>
        detect_canon (detect_canon ht)) (serviceRead_canon h)
  · exact serviceRead_canon h

theorem stopRun_canon {b : Bucket} {r : Run} (h : s.Canon) : (s.stopRun b r).Canon := putRun_canon h

theorem writeResult_canon {b : Bucket} {e : Nat} {vs : List Val} (h : s.Canon) : (s.writeResult b e vs).Canon :=
  writeHbm_canon h

theorem firstChunk_canon {p : Nat} {b : Bucket} {r : Run} {g : Place} {bad : Option (Nat × Ecc)} (h : s.Canon) :
    (s.firstChunk p b r g bad).2.Canon := by
  unfold State.firstChunk
  refine iteSnd_canon h (foldl_keeps (P := fun a : Run × State => a.2.Canon) _ h fun acc q hacc => ?_)
  refine iteSnd_canon hacc ?_
  dsimp only
  split
  · exact contribution_canon hacc
  · exact contribution_canon hacc

theorem execRunStart_canonAfter {d : DieIx} {kind : Fin 4} {bad : Option (Nat × Ecc)} (h : s.Canon) :
    CanonAfter (execRunStart d kind bad s) := by
  unfold execRunStart
  split
  · exact next_canonAfter h
  · split
    · exact next_canonAfter h
    · refine ite_canonAfter
        (afterSnoops_canonAfter h
          (ite_canonAfter ?_
            (next_canonAfter (flushRun_canon (firstChunk_canon (sendRed_canon (modDie_canon h fun _ hD => hD)))))))
        (next_canonAfter h)
      dsimp only
      split
      · exact next_canonAfter (stopRun_canon (contribution_canon (modDie_canon h fun _ hD => hD)))
      · exact next_canonAfter (putRun_canon (writeResult_canon (contribution_canon (modDie_canon h fun _ hD => hD))))

theorem dropRed_canon {pkt : Packet} (h : s.Canon) : (s.dropRed pkt).Canon := countRed_canon h

theorem redError_canon {p : Nat} {pkt : Packet} {hdr : BitVec 128} (h : s.Canon) : (s.redError p pkt hdr).Canon :=
  detect_canon h

theorem takeRed_canon {p : PartIx} {pkt : Packet} {type : Nat}
    {f : State → BitVec 128 → List Byte → Bucket → Place → Run → State} (h : s.Canon)
    (hf : ∀ (t : State) (b : BitVec 128) (c : List Byte) (d : Bucket) (e : Place) (i : Run), t.Canon → (f t b c d e i).Canon) :
    (s.takeRed p pkt type f).Canon := by
  refine ite_canon h ?_
  split
  · exact dropRed_canon (takeDelivered_canon h)
  · exact redError_canon (takeDelivered_canon h)
  · exact ite_canon (takeDelivered_canon h) (hf _ _ _ _ _ _ (takeDelivered_canon h))

theorem execReductionOpen_canonAfter {p : PartIx} {pkt : Packet} (h : s.Canon) :
    CanonAfter (execReductionOpen p pkt s) :=
  defers_canonAfter h (next_canonAfter (takeRed_canon h fun _ _ _ _ _ _ ht => flushRun_canon ht))

theorem execReductionPartial_canonAfter {p : PartIx} {pkt : Packet} {bad : Option (Nat × Ecc)} (h : s.Canon) :
    CanonAfter (execReductionPartial p pkt bad s) := by
  refine defers_canonAfter h (afterSnoops_canonAfter h (next_canonAfter (takeRed_canon h fun _ _ _ _ _ _ ht => ?_)))
  dsimp only
  split
  · exact stopRun_canon (contribution_canon ht)
  · refine ite_canon (flushRun_canon (writeResult_canon ?_)) (flushRun_canon ?_)
    all_goals exact ite_canon (contribution_canon ht) (countRed_canon (contribution_canon ht))

theorem execReductionFinal_canonAfter {p : PartIx} {pkt : Packet} (h : s.Canon) :
    CanonAfter (execReductionFinal p pkt s) :=
  defers_canonAfter h
    (afterSnoops_canonAfter h
      (next_canonAfter (takeRed_canon h fun _ _ _ _ _ _ ht => flushRun_canon (writeResult_canon ht))))

theorem execRunComplete_canonAfter {d : DieIx} {x : RunEnd} (h : s.Canon) : CanonAfter (execRunComplete d x s) := by
  unfold execRunComplete
  split
  · exact next_canonAfter h
  · split
    · exact next_canonAfter h
    · exact next_canonAfter (assertShared_canon (addOwn_canon (countRed_canon (modDie_canon h fun _ hD => hD))))

/-! ### Bells and the step period on a member -/

theorem cascade_canon {p : Nat} {c : Control} (h : s.Canon) : (s.cascade p c).Canon :=
  foldl_canon h fun _ _ ht => sendCtl_canon ht

theorem relayOn_canon {p root : Nat} {c : Control} (h : s.Canon) : (s.relayOn p root c).Canon :=
  ite_canon h (foldl_canon h fun _ _ ht => sendCtl_canon ht)

theorem dropCtl_canon {p : Nat} (h : s.Canon) : (s.dropCtl p).Canon := countFabric_canon h

theorem receiveCtl_canon {p : PartIx} {c : Control} {casc : Bool} {key : Nat} (h : s.Canon) :
    (s.receiveCtl p c casc key).2.Canon :=
  intake_canon (ite_canon (relayOn_canon (takeDelivered_canon h)) (takeDelivered_canon h))

theorem takeCtl_canonAfter {i : Instr} {p : PartIx} {type : Nat} {c : Control} {casc : Bool} {key : Nat}
    {f : BitVec 64 → State → State} (h : s.Canon) (hf : ∀ (a : BitVec 64) (t : State), t.Canon → (f a t).Canon) :
    CanonAfter (State.takeCtl s i p type c casc key f) :=
  ite_canonAfter (next_canonAfter h)
    (ite_canonAfter (next_canonAfter (holdOver_canon h))
      (ite_canonAfter (next_canonAfter (dropCtl_canon (receiveCtl_canon h)))
        (next_canonAfter (hf _ _ (receiveCtl_canon h)))))

theorem stopWalks_canon {p : Nat} (h : s.Canon) : (s.stopWalks p).Canon :=
  foldl_canon h fun _ _ ht => modSeq_canon ht

theorem mapPorts_canon {f : Port → Port} {inject : List Inject} (h : s.Canon) :
    State.Canon { s with fabric := { s.fabric with ports := mapVals {} f s.fabric.ports, inject := inject } } :=
  setFabric_canon h (mapVals_wf h.ports)

theorem resetForms_canon {p : Nat} (h : s.Canon) : (s.resetForms p).Canon := by
  unfold State.resetForms
  refine modPart_canon (mapPorts_canon (foldl_canon (foldl_canon h fun _ _ ht => ?_) fun _ _ ht =>
    modDie_canon ht fun _ hD => hD))
  exact modCell_canon ht fun _ hx => cellIte_canon (cellFrame_canon hx) (cellFormReset_canon hx)

theorem issueReads_canon {p : Nat} {j : SvcJob} (h : s.Canon) : (s.issueReads p j).Canon :=
  ite_canon h (foldl_canon h fun _ _ ht => emit_canon ht)

theorem askFor_canon {p : Nat} {step : BitVec 64} (h : s.Canon) : (s.askFor p step).Canon :=
  foldl_canon h fun _ _ ht => issueReads_canon ht

theorem askWaypoint_canon {p : Nat} (h : s.Canon) : (s.askWaypoint p).Canon := by
  unfold State.askWaypoint
  dsimp only
  split
  · exact ite_canon (emit_canon h) h
  · exact h

theorem beginReads_canon {p : Nat} {step : BitVec 64} (h : s.Canon) : (s.beginReads p step).Canon :=
  ite_canon h (askFor_canon (modPart_canon h))

theorem bellIn_canon {s0 : State} {p : Nat} {c : Control} {num : BitVec 64} (hs0 : s0.Canon) :
    (s0.bellIn p c num).Canon :=
  setPartState_canon (beginReads_canon (modPart_canon (foldl_canon hs0 fun _ _ ht => modDie_canon ht fun _ hD => hD)))

theorem execStepBell_canonAfter {p : PartIx} {ctl : Control} (h : s.Canon) : CanonAfter (execStepBell p ctl s) :=
  takeCtl_canonAfter h fun _ _ ha => ite_canon (bellIn_canon ha) (modPart_canon ha)

theorem execRestartBell_canonAfter {p : PartIx} {ctl : Control} (h : s.Canon) :
    CanonAfter (execRestartBell p ctl s) := by
  refine takeCtl_canonAfter h fun _ _ ha => ite_canon ?_ (modPart_canon ha)
  dsimp only
  exact askFor_canon (modPart_canon (bellIn_canon (resetForms_canon ha)))

theorem execHaltBell_canonAfter {p : PartIx} {ctl : Control} (h : s.Canon) : CanonAfter (execHaltBell p ctl s) :=
  takeCtl_canonAfter h fun _ _ ha => ite_canon (setPartState_canon (modPart_canon (stopWalks_canon ha))) ha

theorem execBeacon_canonAfter {p : PartIx} {ctl : Control} (h : s.Canon) : CanonAfter (execBeacon p ctl s) :=
  takeCtl_canonAfter h fun _ _ ha => modPart_canon ha

theorem execPeriodStart_canonAfter {p : PartIx} (h : s.Canon) : CanonAfter (execPeriodStart p s) := by
  unfold execPeriodStart
  dsimp only
  split
  · exact next_canonAfter h
  · exact ite_canonAfter
      (next_canonAfter (signalInputs_canon (modPart_canon (foldl_canon
        (foldl_canon h fun _ _ ht => modDie_canon ht fun _ hD => dieMk_canon hD.hbm (put_wf (foldl_put_wf _ _ _ rfl)))
        fun _ _ ht => foldl_canon ht fun _ _ ht => modCell_canon ht fun _ hx => cellStartWalk_canon hx))))
      (next_canonAfter h)

theorem resetVersions_canon {p : Nat} (h : s.Canon) : (s.resetVersions p).Canon :=
  foldl_canon h fun _ _ ht =>
    foldl_canon ht fun _ _ ht => modDie_canon ht fun _ hD => dieMk_canon hD.hbm (put_wf hD.tallies)

theorem sendMirror_canon {p seat ddie kind vc : Nat} {full : Bool} {step : BitVec 64} {attempt : BitVec 8}
    {entry : Nat} {bs : List Byte} (h : s.Canon) :
    (s.sendMirror p seat ddie kind vc full step attempt entry bs).Canon :=
  foldl_canon h fun _ _ ht => sendPacket_canon ht

theorem sendUpdate_canon {p : Nat} {e : JEntry} (h : s.Canon) : (s.sendUpdate p e).Canon := by
  unfold State.sendUpdate
  refine modPart_canon (sendPacket_canon (sendMirror_canon ?_))
  exact foldl_keeps (P := fun a : State × Nat => a.1.Canon) _ h fun _ _ ha => sendMirror_canon ha

theorem closeNow_canon {p : Nat} {e : JEntry} (h : s.Canon) : (s.closeNow p e).Canon :=
  sendCtl_canon (modPart_canon h)

theorem execPeriodClose_canonAfter {p : PartIx} (h : s.Canon) : CanonAfter (execPeriodClose p s) := by
  refine ite_canonAfter ?_ (next_canonAfter h)
  split
  · exact next_canonAfter (ite_canon h (modPart_canon (resetVersions_canon h)))
  · refine ite_canonAfter (next_canonAfter (closeNow_canon ?_))
      (ite_canonAfter (afterSnoops_canonAfter ?_ (next_canonAfter (sendUpdate_canon ?_)))
        (ite_canonAfter (next_canonAfter (closeNow_canon ?_)) (next_canonAfter ?_)))
    all_goals exact ite_canon h (modPart_canon (resetVersions_canon h))

/-! ### The lodestar: roll call, patience, holds, decisions, succession, and the recovery sequence it runs -/

theorem modLode_canon {p : Nat} {f : Lodestar → Lodestar} (h : s.Canon) : (s.modLode p f).Canon :=
  modPart_canon h

theorem ringBell_canon {p type : Nat} {step : BitVec 64} {attempt : BitVec 8} (h : s.Canon) :
    (s.ringBell p type step attempt).Canon := modLode_canon (cascade_canon h)

theorem haltJob_canon {p cause : Nat} (h : s.Canon) : (s.haltJob p cause).Canon :=
  modLode_canon (cascade_canon h)

theorem partNotice_canon {p : Nat} {reason : BitVec 16} {loc detail : Nat} (h : s.Canon) :
    (s.partNotice p reason loc detail).Canon := notice_canon h

theorem stuckStep_canon {p : Nat} (h : s.Canon) : (s.stuckStep p).Canon := partNotice_canon h

theorem hold_canon {p cause named : Nat} (h : s.Canon) : (s.hold p cause named).Canon :=
  modLode_canon (cascade_canon h)

theorem ringing_canon {p us : Nat} (h : s.Canon) : (s.ringing p us).Canon :=
  ite_canon (modLode_canon (haltJob_canon (modLode_canon h))) (ringBell_canon (modLode_canon h))

theorem cascadeAll_canon {p : Nat} {c : Control} (h : s.Canon) : (s.cascadeAll p c).Canon :=
  foldl_canon (cascade_canon h) fun _ _ ht => sendDirect_canon ht

theorem issueGen_canon {p : Nat} {changes : List (Nat × BitVec 128)} (h : s.Canon) : (s.issueGen p changes).Canon :=
  modLode_canon (cascadeAll_canon (foldl_canon h fun _ _ ht => cascadeAll_canon ht))

theorem requestSeat_canon {p seat i : Nat} (h : s.Canon) : (s.requestSeat p seat i).Canon :=
  ite_canon (sendDirect_canon (modPart_canon h)) (partNotice_canon (sendDirect_canon (modPart_canon h)))

theorem requestSeats_canon {t : State} {p : Nat} {l : List Nat} (h : s.Canon) (ht : s.requestSeats p l = some t) :
    t.Canon := by
  induction l generalizing s with
  | nil => exact Option.some.inj ht ▸ h
  | cons q l ih =>
    unfold State.requestSeats at ht
    split at ht
    · exact ih (requestSeat_canon h) ht
    · exact absurd ht nofun

theorem seatAll_canon {p : Nat} (h : s.Canon) : (s.seatAll p).Canon :=
  ite_canon (modLode_canon (issueGen_canon h)) h

theorem orderRestore_canon {p : Nat} (h : s.Canon) : (s.orderRestore p).Canon := by
  unfold State.orderRestore
  dsimp only
  split
  · exact stuckStep_canon (haltJob_canon h)
  · exact cascadeAll_canon (modLode_canon (issueGen_canon (foldl_canon h fun _ _ ht => partNotice_canon ht)))

theorem replay_canon {p : Nat} {step : BitVec 64} {attempt : BitVec 8} (h : s.Canon) :
    (s.replay p step attempt).Canon :=
  foldl_canon (modLode_canon (ringBell_canon h)) fun _ _ ht => partNotice_canon (fresh_canon ht)

theorem refillEnd_canon {p : Nat} (h : s.Canon) : (s.refillEnd p).Canon := ite_canon (replay_canon h) h

theorem advance_canon {p : Nat} (h : s.Canon) : (s.advance p).Canon := by
  refine ite_canon h ?_
  split
  · split
    next heq => exact seatAll_canon (modLode_canon (requestSeats_canon h heq))
    · exact stuckStep_canon (haltJob_canon h)
  · exact ite_canon (orderRestore_canon h) (refillEnd_canon (modLode_canon h))
  · exact h

theorem recover_canon {p : Nat} {seats kept : List Nat} (h : s.Canon) : (s.recover p seats kept).Canon :=
  issueGen_canon (modLode_canon h)

theorem decideStep_canon {p : Nat} (h : s.Canon) : (s.decideStep p).Canon := by
  refine ite_canon
    (ite_canon (ite_canon (stuckStep_canon (haltJob_canon h)) (modLode_canon (ringBell_canon h)))
      (partNotice_canon (haltJob_canon h)))
    (ite_canon (modLode_canon ?_)
      (ite_canon (ite_canon (stuckStep_canon (haltJob_canon h)) (modLode_canon (ringBell_canon h)))
        (recover_canon h)))
  split
  · exact sendCtl_canon h
  · exact h

theorem holdEnd_canon {p us : Nat} (h : s.Canon) : (s.holdEnd p us).Canon :=
  ite_canon (ite_canon (ringing_canon h) (ite_canon (decideStep_canon h) h)) h

theorem execMemberToken_canonAfter {p : PartIx} {ctl : Control} (h : s.Canon) :
    CanonAfter (execMemberToken p ctl s) :=
  ite_canonAfter (next_canonAfter h)
    (takeCtl_canonAfter h fun _ _ ha =>
      ite_canon ha (ite_canon (sendCtl_canon (modPart_canon ha)) (modPart_canon ha)))

theorem execRowToken_canonAfter {p : PartIx} {ctl : Control} {us : Nat} (h : s.Canon) :
    CanonAfter (execRowToken p ctl us s) :=
  ite_canonAfter (next_canonAfter h)
    (takeCtl_canonAfter h fun _ _ ha => ite_canon (holdEnd_canon (modLode_canon ha)) ha)

theorem execHoldAnswer_canonAfter {p : PartIx} {ctl : Control} {us : Nat} (h : s.Canon) :
    CanonAfter (execHoldAnswer p ctl us s) :=
  takeCtl_canonAfter h fun _ _ ha => ite_canon (holdEnd_canon (modLode_canon ha)) ha

theorem execSlowNotice_canonAfter {p : PartIx} {ctl : Control} (h : s.Canon) : CanonAfter (execSlowNotice p ctl s) :=
  takeCtl_canonAfter h fun _ _ ha => modPart_canon (modLode_canon ha)

theorem execPaceChange_canonAfter {p : PartIx} {tj : BitVec 64} {msPassed : Bool} (h : s.Canon) :
    CanonAfter (execPaceChange p tj msPassed s) := by
  refine ite_canonAfter ?_ (next_canonAfter h)
  split
  · exact next_canonAfter h
  · exact next_canonAfter (sendCtl_canon (assertAt_canon (modPart_canon h)))

theorem timer_canon (h : s.Canon) : s.timer.Canon := admitted_canon h

theorem execPatienceExpiry_canonAfter {p : PartIx} (h : s.Canon) : CanonAfter (execPatienceExpiry p s) :=
  ite_canonAfter (next_canonAfter (hold_canon (timer_canon h))) (next_canonAfter h)

theorem execAnswerWindowExpiry_canonAfter {p : PartIx} (h : s.Canon) : CanonAfter (execAnswerWindowExpiry p s) :=
  ite_canonAfter (next_canonAfter (holdEnd_canon (modLode_canon (timer_canon h)))) (next_canonAfter h)

theorem execExaminationAllowanceExpiry_canonAfter {p : PartIx} (h : s.Canon) :
    CanonAfter (execExaminationAllowanceExpiry p s) :=
  ite_canonAfter (next_canonAfter (holdEnd_canon (modLode_canon (timer_canon h)))) (next_canonAfter h)

theorem execBeaconTimer_canonAfter {p : PartIx} (h : s.Canon) : CanonAfter (execBeaconTimer p s) :=
  ite_canonAfter (next_canonAfter (cascade_canon h)) (next_canonAfter h)

theorem execFirstStepTimeout_canonAfter {p : PartIx} (h : s.Canon) : CanonAfter (execFirstStepTimeout p s) :=
  ite_canonAfter (next_canonAfter (stuckStep_canon (modLode_canon (haltJob_canon (timer_canon h)))))
    (next_canonAfter h)

theorem takeOver_canon {p : Nat} (h : s.Canon) : (s.takeOver p).Canon :=
  hold_canon (cascade_canon (modPart_canon h))

theorem execTroubleNotice_canonAfter {p : PartIx} {ctl : Control} (h : s.Canon) :
    CanonAfter (execTroubleNotice p ctl s) := by
  refine takeCtl_canonAfter h fun _ _ ha => ite_canon ?_ (ite_canon (takeOver_canon ha) ha)
  split
  · exact ite_canon (hold_canon ha) ha
  · exact ite_canon
      (ite_canon (stuckStep_canon (haltJob_canon ha))
        (ite_canon (orderRestore_canon (modLode_canon ha)) (modLode_canon ha))) (ite_canon (recover_canon ha) ha)
  · exact ha

theorem execClaim_canonAfter {p : PartIx} {ctl : Control} (h : s.Canon) : CanonAfter (execClaim p ctl s) :=
  takeCtl_canonAfter h fun _ _ ha => ite_canon (ite_canon (sendCtl_canon (modPart_canon ha)) (modPart_canon ha)) ha

theorem execWatchExpiry_canonAfter {p : PartIx} (h : s.Canon) : CanonAfter (execWatchExpiry p s) :=
  ite_canonAfter (next_canonAfter (modPart_canon (timer_canon h))) (next_canonAfter h)

theorem execTakeover_canonAfter {p : PartIx} (h : s.Canon) : CanonAfter (execTakeover p s) :=
  ite_canonAfter (next_canonAfter (takeOver_canon (timer_canon h))) (next_canonAfter h)

/-! ### The mirror on the deskmate, refills, waypoints and scrubs -/

theorem modMirror_canon {p : Nat} {f : Mirror → Mirror} (h : s.Canon) : (s.modMirror p f).Canon :=
  modPart_canon h

theorem tryCommit_canon {p seat : Nat} (h : s.Canon) : (s.tryCommit p seat).Canon := by
  unfold State.tryCommit
  dsimp only
  split
  · exact h
  · exact ite_canon h (sendCtl_canon (modMirror_canon h))

theorem takePkt_canon {p : PartIx} {pkt : Packet} (h : s.Canon) : (s.takePkt p pkt).Canon :=
  takeDelivered_canon h

theorem execMirrorPacket_canonAfter {p : PartIx} {pkt : Packet} (h : s.Canon) :
    CanonAfter (execMirrorPacket p pkt s) :=
  defers_canonAfter h
    (ite_canonAfter (next_canonAfter h)
      (ite_canonAfter (next_canonAfter (dropCtl_canon (takePkt_canon h)))
        (ite_canonAfter (next_canonAfter (tryCommit_canon (modMirror_canon (takePkt_canon h)))) (next_canonAfter h))))

theorem execMirrorCommit_canonAfter {p : PartIx} {pkt : Packet} (h : s.Canon) :
    CanonAfter (execMirrorCommit p pkt s) :=
  defers_canonAfter h
    (ite_canonAfter (next_canonAfter h)
      (ite_canonAfter (next_canonAfter (dropCtl_canon (takePkt_canon h)))
        (ite_canonAfter (next_canonAfter (tryCommit_canon (modMirror_canon (assertAt_canon (takePkt_canon h)))))
          (next_canonAfter h))))

theorem streamBody_canon {p seat : Nat} {step : BitVec 64} (h : s.Canon) : (s.streamBody p seat step).Canon :=
  ite_canon (modMirror_canon (sendMirror_canon (foldl_canon h fun _ _ ht => sendMirror_canon ht)))
    (modMirror_canon (sendTrouble_canon h))

theorem execRefillRequest_canonAfter {p : PartIx} {ctl : Control} (h : s.Canon) :
    CanonAfter (execRefillRequest p ctl s) :=
  takeCtl_canonAfter h fun _ _ ha =>
    ite_canon (modMirror_canon (assertAt_canon ha)) (streamBody_canon (assertAt_canon ha))

theorem execMirrorApplyComplete_canonAfter {p : PartIx} (h : s.Canon) : CanonAfter (execMirrorApplyComplete p s) := by
  refine ite_canonAfter (next_canonAfter h) ?_
  split
  · exact next_canonAfter (streamBody_canon (modMirror_canon h))
  · exact next_canonAfter (modMirror_canon h)

theorem execMirrorAcknowledge_canonAfter {p : PartIx} {ctl : Control} (h : s.Canon) :
    CanonAfter (execMirrorAcknowledge p ctl s) := takeCtl_canonAfter h fun _ _ ha => ite_canon (modMirror_canon ha) ha

theorem execSnapshotPacket_canonAfter {p : PartIx} {pkt : Packet} (h : s.Canon) :
    CanonAfter (execSnapshotPacket p pkt s) := by
  refine defers_canonAfter h
    (ite_canonAfter (next_canonAfter h)
      (ite_canonAfter (next_canonAfter (modMirror_canon (modMirror_canon (takePkt_canon h)))) ?_))
  split
  · exact afterSnoops_canonAfter h (next_canonAfter (writeHbm_canon (modMirror_canon (takePkt_canon h))))
  · exact next_canonAfter (modMirror_canon (takePkt_canon h))

theorem adoptJournal_canon {p : Nat} {e : JEntry} {events : List IngressEvent} (h : s.Canon) :
    (s.adoptJournal p e events).Canon :=
  foldl_canon (modPart_canon h) fun _ _ ht => modDie_canon ht fun _ hD => dieMk_canon hD.hbm (foldl_put_wf _ _ _ rfl)

theorem takeJournal_canon {p : Nat} {bs : List Byte} (h : s.Canon) : (s.takeJournal p bs).Canon := by
  unfold State.takeJournal
  split
  · exact adoptJournal_canon h
  · exact h

theorem execSnapshotStreamComplete_canonAfter {p : PartIx} (h : s.Canon) :
    CanonAfter (execSnapshotStreamComplete p s) :=
  ite_canonAfter (next_canonAfter (sendCtl_canon (modPart_canon (takeJournal_canon (assertAt_canon h)))))
    (next_canonAfter h)

theorem servicePeriod_canon {k key : Nat} (h : s.Canon) : (s.servicePeriod k key).Canon :=
  modServices_canon (admitted_canon h)

theorem countLate_canon {k : Nat} (h : s.Canon) : (s.countLate k).Canon := modServices_canon h

theorem execWaypointCopyComplete_canonAfter {p : PartIx} (h : s.Canon) : CanonAfter (execWaypointCopyComplete p s) :=
  ite_canonAfter (next_canonAfter (modMirror_canon h)) (next_canonAfter h)

theorem waypointPeriod_canon {finishes : Bool} {p : Nat} (h : s.Canon) : (s.waypointPeriod finishes p).Canon := by
  unfold State.waypointPeriod
  dsimp only
  split
  · refine ite_canon (modMirror_canon ?_)
      (ite_canon (sendCtl_canon (modMirror_canon (emit_canon (emit_canon ?_)))) (modMirror_canon (emit_canon ?_)))
    all_goals exact ite_canon (modMirror_canon (countLate_canon h)) h
  · exact ite_canon (modMirror_canon (countLate_canon h)) h

theorem execWaypointTimer_canonAfter {finishes : Bool} (h : s.Canon) : CanonAfter (execWaypointTimer finishes s) :=
  next_canonAfter (foldl_canon (servicePeriod_canon h) fun _ _ ht => waypointPeriod_canon ht)

theorem bodyBad_canon {b : BadBlock} (h : s.Canon) : (s.bodyBad b).Canon := by
  unfold State.bodyBad
  split
  · exact emit_canon (notice_canon (modMirror_canon h))
  · exact notice_canon (modMirror_canon h)

theorem execScrubTimer_canonAfter {x : ScrubPeriod} (h : s.Canon) : CanonAfter (execScrubTimer x s) := by
  unfold execScrubTimer
  dsimp only
  split
  · exact next_canonAfter (modServices_canon (servicePeriod_canon (ite_canon (countLate_canon h) h)))
  · exact next_canonAfter (bodyBad_canon (modServices_canon (servicePeriod_canon (ite_canon (countLate_canon h) h))))

theorem execBodyInvalidReport_canonAfter {p : PartIx} (h : s.Canon) : CanonAfter (execBodyInvalidReport p s) :=
  next_canonAfter (modMirror_canon h)

/-! ### Commands from the rings: submit entries, starting and finishing, replies -/

theorem reply_canon {r : Nat} {c : PendCmd} {status detail : Nat} {data : List Byte} (h : s.Canon) :
    (s.reply r c status detail data).Canon := ite_canon (modRing_canon h) h

theorem ok_canon {r : Nat} {c : PendCmd} (h : s.Canon) : (s.ok r c).Canon := reply_canon h

theorem finish_canon {f : PendCmd → Bool} {status detail : Nat} {data : List Byte} (h : s.Canon) :
    (s.finish f status detail data).Canon := by
  unfold State.finish
  exact foldl_canon h fun _ _ ht => foldl_canon ht fun _ _ ht => reply_canon ht

theorem sendReply_canon {q : Reply} (h : s.Canon) : (s.sendReply q).Canon :=
  foldl_canon h fun _ _ ht => kmpTo_canon ht

theorem writeReply_canon {r : Nat} (h : s.Canon) : (s.writeReply r).Canon := by
  unfold State.writeReply
  dsimp only
  split
  · exact h
  · exact ite_canon (sendReply_canon (modRing_canon h))
      (ite_canon (emit_canon (modRing_canon (emit_canon (ite_canon h (emit_canon h))))) h)

theorem dieWake_canon {D : Die} (hD : D.Canon) : Die.Canon (Die.wake D) := by
  unfold Die.wake
  split
  · exact hD
  · exact hD
  · exact hD
  · exact hD

theorem wakePart_canon {p : Nat} (h : s.Canon) : (s.wakePart p).Canon :=
  foldl_canon h fun _ _ ht => modDie_canon ht fun _ hD => dieWake_canon hD

theorem runCmd_canonAfter {r : RingIx} {op : Nat} {states : List PartState} {bad : PendCmd → Option Nat}
    {f : PendCmd → State → State} {acc : PendCmd → List (Nat × Nat × Nat × Bool)} (h : s.Canon)
    (hf : ∀ (a : PendCmd) (t : State), t.Canon → (f a t).Canon) : CanonAfter (State.runCmd s r op states bad f acc) := by
  unfold State.runCmd
  dsimp only
  split
  · exact next_canonAfter h
  · refine ite_canonAfter (next_canonAfter h) ?_
    split
    · exact next_canonAfter (reply_canon (modRing_canon h))
    · exact ite_canonAfter (next_canonAfter (wakePart_canon h))
        (afterSnoops_canonAfter h (next_canonAfter (hf _ _ (modRing_canon h))))

end Sys2Proof.Machine
end

section
/-! What keeps the canonical form, fourth part: recovery, commands, services, exams, mesh routes, rows, scalars, holds (R28, R45, R189-R194, R325-R328, R409-R424). -/

namespace Sys2Proof.Machine

-- One proof after another: hundreds of them at once, in one text with the model, take more threads than the check allows.
set_option Elab.async false

variable {s : State}

/-! ### Chart generations, reserves, waypoint notices and restores -/

theorem dropSends_canon {p : Nat} (h : s.Canon) : (s.dropSends p).Canon := h

theorem fence_canon {p lode : Nat} (h : s.Canon) : (s.fence p lode).Canon :=
  setPartState_canon (partNotice_canon (modPart_canon (sendCtl_canon (dropSends_canon (stopWalks_canon h)))))

theorem takeSeat_canon {p seat : Nat} (h : s.Canon) : (s.takeSeat p seat).Canon :=
  sendCtl_canon (modPart_canon (beginReads_canon h))

theorem tryInstall_canon {p lode : Nat} (h : s.Canon) : (s.tryInstall p lode).Canon := by
  unfold State.tryInstall
  dsimp only
  split
  · exact h
  · refine ite_canon h (ite_canon (fence_canon (modPart_canon h)) (sendCtl_canon ?_))
    split
    · refine ite_canon (takeSeat_canon ?_) ?_
      all_goals exact ite_canon (modMirror_canon (modPart_canon h)) (modPart_canon h)
    · exact ite_canon (modMirror_canon (modPart_canon h)) (modPart_canon h)

theorem execChartUpdate_canonAfter {p : PartIx} {ctl : Control} (h : s.Canon) :
    CanonAfter (execChartUpdate p ctl s) :=
  takeCtl_canonAfter h fun _ _ ha => ite_canon ha (tryInstall_canon (modPart_canon ha))

theorem execChartCommit_canonAfter {p : PartIx} {ctl : Control} (h : s.Canon) :
    CanonAfter (execChartCommit p ctl s) :=
  takeCtl_canonAfter h fun _ _ ha => ite_canon ha (tryInstall_canon (modPart_canon ha))

theorem execChartAcknowledge_canonAfter {p : PartIx} {ctl : Control} (h : s.Canon) :
    CanonAfter (execChartAcknowledge p ctl s) :=
  takeCtl_canonAfter h fun _ _ ha => ite_canon (advance_canon (modLode_canon ha)) ha

theorem execSeatRequest_canonAfter {p : PartIx} {ctl : Control} (h : s.Canon) :
    CanonAfter (execSeatRequest p ctl s) :=
  ite_canonAfter (next_canonAfter (wakePart_canon h))
    (takeCtl_canonAfter h fun _ _ ha => ite_canon (setPartState_canon (sendCtl_canon (modPart_canon ha))) ha)

theorem markLate_canon {p seat : Nat} {f : LateSeat → LateSeat} (h : s.Canon) : (s.markLate p seat f).Canon :=
  modLode_canon h

theorem execSeatReady_canonAfter {p : PartIx} {ctl : Control} (h : s.Canon) : CanonAfter (execSeatReady p ctl s) :=
  takeCtl_canonAfter h fun _ _ ha => ite_canon (seatAll_canon (markLate_canon ha)) ha

theorem execRefillDone_canonAfter {p : PartIx} {ctl : Control} (h : s.Canon) : CanonAfter (execRefillDone p ctl s) :=
  takeCtl_canonAfter h fun _ _ ha => ite_canon (refillEnd_canon (markLate_canon ha)) ha

theorem execFenceNotice_canonAfter {p : PartIx} {ctl : Control} (h : s.Canon) :
    CanonAfter (execFenceNotice p ctl s) := takeCtl_canonAfter h fun _ _ ha => modLode_canon ha

theorem execWaypointSealed_canonAfter {p : PartIx} {ctl : Control} (h : s.Canon) :
    CanonAfter (execWaypointSealed p ctl s) :=
  takeCtl_canonAfter h fun _ _ ha => ite_canon ha (ite_canon (cascadeAll_canon (modLode_canon ha)) (modLode_canon ha))

theorem execWaypointWhole_canonAfter {p : PartIx} {ctl : Control} (h : s.Canon) :
    CanonAfter (execWaypointWhole p ctl s) := takeCtl_canonAfter h fun _ _ ha => modPart_canon ha

theorem execRestoreOrder_canonAfter {p : PartIx} {ctl : Control} (h : s.Canon) :
    CanonAfter (execRestoreOrder p ctl s) :=
  takeCtl_canonAfter h fun _ _ ha =>
    ite_canon (askWaypoint_canon (modPart_canon (resetForms_canon (modPart_canon (assertAt_canon ha)))))
      (modPart_canon (assertAt_canon ha))

theorem restoreFrom_canon {p : Nat} {w : BitVec 64} {data : List Byte} (h : s.Canon) :
    (s.restoreFrom p w data).Canon := by
  unfold State.restoreFrom
  exact modPart_canon (takeJournal_canon (foldl_keeps (P := fun a : State × List Byte => a.1.Canon) _ h fun _ _ ha =>
    writeHbm_canon ha))

theorem sendRestoreDone_canon {p : Nat} {w : BitVec 64} (h : s.Canon) : (s.sendRestoreDone p w).Canon :=
  sendCtl_canon h

theorem execWaypointRestoreComplete_canonAfter {p : PartIx} {wp : HostData} (h : s.Canon) :
    CanonAfter (execWaypointRestoreComplete p wp s) := by
  unfold execWaypointRestoreComplete
  dsimp only
  split
  · exact next_canonAfter h
  · split
    · exact afterSnoops_canonAfter h
        (next_canonAfter (finish_canon (sendRestoreDone_canon (restoreFrom_canon (ite_canon h
          (resetForms_canon h))))))
    · exact ite_canonAfter (next_canonAfter (setPartState_canon (modPart_canon (finish_canon h))))
        (next_canonAfter (modPart_canon (sendTrouble_canon (detect_canon (fresh_canon h)))))

theorem tryFirst_canon {p : Nat} (h : s.Canon) : (s.tryFirst p).Canon := by
  refine ite_canon h (ite_canon ?_ ?_)
  · split
    · exact ite_canon (replay_canon h) h
    · exact h
  · split
    · exact ite_canon (ringBell_canon h) h
    · exact h

theorem execRestoreDone_canonAfter {p : PartIx} {ctl : Control} (h : s.Canon) :
    CanonAfter (execRestoreDone p ctl s) := takeCtl_canonAfter h fun _ _ ha => tryFirst_canon (modLode_canon ha)

/-! ### The device-wide, partition and memory commands of the host -/

theorem execIdentify_canonAfter {r : RingIx} (h : s.Canon) : CanonAfter (execIdentify r s) :=
  runCmd_canonAfter h fun _ _ ha => reply_canon ha

theorem execFeatureRead_canonAfter {r : RingIx} (h : s.Canon) : CanonAfter (execFeatureRead r s) :=
  runCmd_canonAfter h fun _ _ ha => reply_canon ha

theorem execStatus_canonAfter {r : RingIx} (h : s.Canon) : CanonAfter (execStatus r s) :=
  runCmd_canonAfter h fun _ _ ha => reply_canon ha

theorem execPartitionSet_canonAfter {r : RingIx} (h : s.Canon) : CanonAfter (execPartitionSet r s) := by
  refine runCmd_canonAfter h fun _ _ ha => ?_
  split
  · exact reply_canon ha
  · exact ok_canon (foldl_canon ha fun _ _ ht => modPart_canon ht)

theorem execFabricConfig_canonAfter {r : RingIx} (h : s.Canon) : CanonAfter (execFabricConfig r s) :=
  runCmd_canonAfter h fun _ _ ha => ite_canon (reply_canon ha) (ok_canon ha)

theorem setPort_canon {i : Nat} {on : Bool} (h : s.Canon) : (s.setPort i on).Canon := by
  unfold State.setPort
  split
  · exact ite_canon h (portTo_canon h)
  · exact h
  · exact h
  · exact portTo_canon h
  · exact portTo_canon (portDown_canon h)

theorem execPortEnable_canonAfter {r : RingIx} (h : s.Canon) : CanonAfter (execPortEnable r s) :=
  runCmd_canonAfter h fun _ _ ha => ok_canon (foldl_canon ha fun _ _ ht => ite_canon (setPort_canon ht) ht)

theorem execDeviceReset_canonAfter {r : RingIx} (h : s.Canon) : CanonAfter (execDeviceReset r s) := by
  unfold execDeviceReset
  exact runCmd_canonAfter h fun _ _ _ => deviceReset_canon

theorem beginJob_canon {p : Nat} {first : BitVec 64} {fromWp : Bool} (h : s.Canon) :
    (s.beginJob p first fromWp).Canon :=
  askWaypoint_canon (askFor_canon (setPartState_canon (ite_canon (modPart_canon (ite_canon h (resetForms_canon h)))
    (resetVersions_canon (foldl_canon (modPart_canon (ite_canon h (resetForms_canon h))) fun _ _ ht =>
      modDie_canon ht fun _ hD => dieMk_canon hD.hbm rfl)))))

theorem execStartJob_canonAfter {r : RingIx} (h : s.Canon) : CanonAfter (execStartJob r s) :=
  runCmd_canonAfter h fun _ _ ha =>
    ite_canon (reply_canon ha)
      (ite_canon (reply_canon ha)
        (ite_canon (beginJob_canon ha) (ok_canon (sendRestoreDone_canon (beginJob_canon ha)))))

theorem execStopJob_canonAfter {r : RingIx} (h : s.Canon) : CanonAfter (execStopJob r s) :=
  runCmd_canonAfter h fun _ _ ha => ite_canon (ok_canon (modLode_canon ha)) (reply_canon ha)

theorem dropImage_canon {p : Nat} (h : s.Canon) : (s.dropImage p).Canon :=
  modPart_canon (resetForms_canon h)

theorem execUnload_canonAfter {r : RingIx} (h : s.Canon) : CanonAfter (execUnload r s) :=
  runCmd_canonAfter h fun _ _ ha => ok_canon (settleBenches_canon (setPartState_canon (dropImage_canon ha)))

theorem hostWrite_canon {d a : Nat} {bs : List Byte} (h : s.Canon) : (s.hostWrite d a bs).Canon := by
  unfold State.hostWrite
  split
  · exact h
  · refine foldl_canon h fun _ _ ht => ?_
    split
    · exact writeHbm_canon ht
    · exact writeHbm_canon ht
    · exact ht

theorem execWriteHbm_canonAfter {r : RingIx} {data : HostData} (h : s.Canon) : CanonAfter (execWriteHbm r data s) := by
  refine runCmd_canonAfter h fun _ _ ha => ite_canon (reply_canon ha) ?_
  split
  · exact reply_canon ha
  · exact ok_canon (hostWrite_canon ha)

theorem execReadHbm_canonAfter {r : RingIx} (h : s.Canon) : CanonAfter (execReadHbm r s) :=
  runCmd_canonAfter h fun _ _ ha => ite_canon (reply_canon ha) (reply_canon ha)

theorem finishRemaps_canon (h : s.Canon) : s.finishRemaps.Canon :=
  foldl_canon h fun _ _ ht => ite_canon (finish_canon ht) ht

theorem execApertureMap_canonAfter {r : RingIx} (h : s.Canon) : CanonAfter (execApertureMap r s) := by
  refine runCmd_canonAfter h fun _ _ ha => ite_canon (reply_canon ha) (finishRemaps_canon (frame_canon ?_))
  split
  · exact snoopRange_canon ha
  · exact ha

theorem execJournalRead_canonAfter {r : RingIx} (h : s.Canon) : CanonAfter (execJournalRead r s) :=
  runCmd_canonAfter h fun _ _ ha => reply_canon ha

theorem execChartLoad_canonAfter {r : RingIx} (h : s.Canon) : CanonAfter (execChartLoad r s) := by
  refine runCmd_canonAfter h fun _ _ ha => ite_canon (reply_canon ha) ?_
  split
  · exact reply_canon ha
  · exact ok_canon (modPart_canon ha)

theorem execChartRead_canonAfter {r : RingIx} (h : s.Canon) : CanonAfter (execChartRead r s) :=
  runCmd_canonAfter h fun _ _ ha => ite_canon (reply_canon ha) (reply_canon ha)

/-! ### What a detected error does -/

theorem dropPeriod_canon {reason p : Nat} (h : s.Canon) : (s.dropPeriod reason p).Canon :=
  ite_canon h (sendTrouble_canon (ite_canon (modPart_canon (stopWalks_canon h)) (modPart_canon h)))

theorem reexamine_canon {unit : Nat} (h : s.Canon) : (s.reexamine unit).Canon := modServices_canon h

theorem takeReport_canon {e : ErrEvent} (h : s.Canon) : (s.takeReport e).Canon := modHub_canon h

theorem execErrorReport_canonAfter {e : ErrEvent} (h : s.Canon) : CanonAfter (execErrorReport e s) :=
  ite_canonAfter (next_canonAfter (notice_canon (takeReport_canon h)))
    (next_canonAfter (reexamine_canon (foldl_canon
      (ite_canon (emit_canon (makeRecord_canon (intake_canon (takeReport_canon h))))
        (makeRecord_canon (intake_canon (takeReport_canon h)))) fun _ _ ht => dropPeriod_canon ht)))

theorem examPassed_canon {p : Nat} (h : s.Canon) : (s.examPassed p).Canon :=
  ite_canon h (ite_canon (sendCtl_canon (modPart_canon h)) (modPart_canon h))

theorem reenable_canon {unit : Nat} (h : s.Canon) : (s.reenable unit).Canon :=
  ite_canon (portTo_canon h) h

theorem execReexaminationComplete_canonAfter {unit : Fin 5} {passed : Bool} (h : s.Canon) :
    CanonAfter (execReexaminationComplete unit passed s) :=
  ite_canonAfter (next_canonAfter h)
    (ite_canonAfter
      (next_canonAfter (reenable_canon (foldl_canon (modServices_canon h) fun _ _ ht => examPassed_canon ht)))
      (next_canonAfter h))

/-! ### Telemetry, record and service commands, the telemetry and quiz services -/

theorem execTelemetryTimer_canonAfter {x : TelePeriod} (h : s.Canon) : CanonAfter (execTelemetryTimer x s) := by
  refine next_canonAfter (ite_canon (sendKmp_canon ?_) ?_)
  all_goals exact modServices_canon (servicePeriod_canon (ite_canon (countLate_canon h) h))

theorem clearRecord_canon {kind i : Nat} (h : s.Canon) : (s.clearRecord kind i).Canon := by
  unfold State.clearRecord
  split
  · exact modServices_canon h
  · exact modCell_canon h fun _ hx => hx
  · exact modDie_canon h fun _ hD => hD
  · exact h
  · exact modDie_canon (modCell_canon h fun _ hx => hx) fun _ hD => hD
  · exact modCell_canon h fun _ hx => hx

theorem execTelemetryRead_canonAfter {r : RingIx} {smp : TeleSample} (h : s.Canon) :
    CanonAfter (execTelemetryRead r smp s) := runCmd_canonAfter h fun _ _ ha => reply_canon ha

theorem execTelemetryClear_canonAfter {r : RingIx} (h : s.Canon) : CanonAfter (execTelemetryClear r s) :=
  runCmd_canonAfter h fun _ _ ha => ok_canon (clearRecord_canon ha)

theorem execRecordRead_canonAfter {r : RingIx} (h : s.Canon) : CanonAfter (execRecordRead r s) :=
  runCmd_canonAfter h fun _ _ ha => reply_canon ha

theorem execServiceSet_canonAfter {r : RingIx} (h : s.Canon) : CanonAfter (execServiceSet r s) :=
  runCmd_canonAfter h fun _ _ ha => ok_canon (assertShared_canon (modServices_canon ha))

theorem execQuizTimer_canonAfter (h : s.Canon) : CanonAfter (execQuizTimer s) := by
  refine ite_canonAfter
    (next_canonAfter (modServices_canon (foldl_canon (modServices_canon ?_) fun _ _ ht =>
      modCell_canon ht fun _ hx => hx))) (next_canonAfter (modServices_canon ?_))
  all_goals
    split
    · exact modServices_canon (foldl_canon (countLate_canon (servicePeriod_canon h)) fun _ _ ht =>
        modCell_canon ht fun _ hx => hx)
    · exact servicePeriod_canon h

theorem execQuizDigestsComplete_canonAfter {faulty : List (Fin 32 × BitVec 64)} (h : s.Canon) :
    CanonAfter (execQuizDigestsComplete faulty s) := by
  unfold execQuizDigestsComplete
  split
  · exact next_canonAfter h
  · exact ite_canonAfter (next_canonAfter h)
      (next_canonAfter (foldl_canon
        (modServices_canon (foldl_canon (assertAt_canon h) fun _ _ ht => modCell_canon ht fun _ hx => hx))
        fun _ _ ht => detectCell_canon ht))

/-! ### Exams: slices, grants, results and commands -/

theorem modRec_canon {t : Word} {f : ExamRec → ExamRec} (h : s.Canon) : (s.modRec t f).Canon :=
  modServices_canon h

theorem examOutcome_canon {t : Word} {o : ExamOutcome} (h : s.Canon) : (s.examOutcome t o).Canon :=
  ite_canon (modHub_canon (modRec_canon h)) (ite_canon (notice_canon (modRec_canon h)) (modRec_canon h))

theorem examOutcomes_canon {t : Word} {empty : Bool} {rs : List ExamOutcome} (h : s.Canon) :
    (s.examOutcomes t empty rs).Canon := modRec_canon (foldl_canon h fun _ _ ht => examOutcome_canon ht)

theorem examAll_canon {es : List (Word × List ExamOutcome)} (h : s.Canon) : (s.examAll es).Canon := by
  unfold State.examAll
  exact foldl_canon h fun _ _ ht => examOutcomes_canon ht

theorem cellRestore_canon {g base : Nat} {hbm : SMap Byte} {x : Cell} (hx : x.Canon) :
    (Cell.restore g base hbm x).Canon := by
  refine cellMk_canon (foldl_keeps (P := fun m => Memory.wf m = true) _ (filter_wf hx.store) fun m e hm => ?_)
    hx.queues hx.streams
  split
  · exact put_wf hm
  · exact hm

theorem save_canon {t : Word} {base : Nat} {bad : List (Fin 16 × Nat)} (h : s.Canon) : (s.save t base bad).Canon :=
  foldl_canon
    (modDie_canon (snoopRange_canon h) fun _ hD => dieMk_canon (foldl_put_wf _ _ _ (filter_wf hD.hbm)) hD.tallies)
    fun _ _ ht =>
      foldl_canon ht fun _ _ ht =>
        ite_canon (detectCell_canon (modCell_canon ht fun _ hx => hx))
          (detectCell_canon (modCell_canon ht fun _ hx => hx))

theorem restoreBench_canon {t : Word} {base : Nat} (h : s.Canon) : (s.restoreBench t base).Canon :=
  foldl_canon h fun _ _ ht => modCell_canon ht fun _ hx => cellRestore_canon hx

theorem takeTarget_canon {t : Word} (h : s.Canon) : (s.takeTarget t).Canon := by
  unfold State.takeTarget
  split
  · exact modBench_canon (foldl_canon h fun _ _ ht => modCell_canon ht fun _ hx => hx)
  · exact modDie_canon h fun _ hD => hD
  · exact h

theorem releaseTarget_canon {x : Slice} (h : s.Canon) : (s.releaseTarget x).Canon := by
  refine frame_canon (ite_canon
    (modBench_canon (foldl_canon ?_ fun _ _ ht =>
      modCell_canon ht fun _ hx => cellIte_canon (cellFormReset_canon hx) hx)) ?_)
  all_goals
    split
    · exact restoreBench_canon h
    · exact h

theorem execSliceGrant_canonAfter {g : SliceStart} (h : s.Canon) : CanonAfter (execSliceGrant g s) := by
  refine ite_canonAfter (next_canonAfter (frame_canon (modServices_canon ?_))) (next_canonAfter h)
  split
  · exact save_canon (takeTarget_canon h)
  · exact takeTarget_canon h

theorem lateSlices_canon (h : s.Canon) : s.lateSlices.Canon :=
  modServices_canon (foldl_canon h fun _ _ ht => modRec_canon (countLate_canon ht))

theorem execExamTimer_canonAfter (h : s.Canon) : CanonAfter (execExamTimer s) :=
  ite_canonAfter (next_canonAfter h) (next_canonAfter (modServices_canon (lateSlices_canon (servicePeriod_canon h))))

theorem finishExams_canon (h : s.Canon) : s.finishExams.Canon :=
  foldl_canon h fun _ _ ht => ite_canon ht (reply_canon ht)

theorem endSlice_canon {t : Word} {f : Slice → State → State} (h : s.Canon)
    (hf : ∀ (a : Slice) (t : State), t.Canon → (f a t).Canon) : (s.endSlice t f).Canon := by
  unfold State.endSlice
  split
  · exact h
  · exact finishExams_canon (ite_canon (modServices_canon (releaseTarget_canon h))
      (hf _ _ (modServices_canon (releaseTarget_canon h))))

theorem execExamSliceComplete_canonAfter {t : Word} {rs : List ExamOutcome} (h : s.Canon) :
    CanonAfter (execExamSliceComplete t rs s) :=
  ite_canonAfter (next_canonAfter h)
    (next_canonAfter (endSlice_canon (assertAt_canon h) fun _ _ ha =>
      ite_canon (modServices_canon (examOutcomes_canon ha)) (examOutcomes_canon ha)))

theorem execSliceBudgetExpiry_canonAfter {t : Word} (h : s.Canon) : CanonAfter (execSliceBudgetExpiry t s) :=
  ite_canonAfter (next_canonAfter (endSlice_canon h fun _ _ ha => modRec_canon (countLate_canon ha)))
    (next_canonAfter h)

theorem execExamResults_canonAfter {r : RingIx} (h : s.Canon) : CanonAfter (execExamResults r s) :=
  runCmd_canonAfter h fun _ _ ha => reply_canon ha

theorem execExamRun_canonAfter {r : RingIx} (h : s.Canon) : CanonAfter (execExamRun r s) := by
  unfold execExamRun
  refine runCmd_canonAfter h fun _ _ ha => ite_canon (finishExams_canon (modServices_canon ha)) ?_
  dsimp only
  split
  · exact reply_canon ha
  · exact modServices_canon ha

theorem execExamPolicy_canonAfter {r : RingIx} (h : s.Canon) : CanonAfter (execExamPolicy r s) :=
  runCmd_canonAfter h fun _ _ ha => ok_canon (modServices_canon ha)

/-! ### Mesh routes, their rotas, and the consumer's pop of a queue -/

theorem crossHop_canon {t : State} {p : Nat} {hops : List (Nat × Nat)} {k : Nat} (h : s.Canon)
    (ht : s.crossHop p hops k = some t) : t.Canon := by
  obtain ⟨r, -, rfl⟩ := Option.map_eq_some_iff.1 ht
  exact modPart_canon h

/-- What pushes to the far queue and the crossing of a resource keep, the steps of a route's entries keep. -/
theorem moveEntries_keeps {P : State → Prop} {p : Nat} {hops : List (Nat × Nat)} {far : Nat × Nat}
    (l acc : List (Nat × Entry)) (h : P s) (hpush : ∀ t e, P t → P (t.modCell far.1 fun x => x.push (8 + far.2) e))
    (hcross : ∀ t u k, P t → t.crossHop p hops k = some u → P u) : P (State.moveEntries p hops far l acc s).2 := by
  induction l generalizing acc s with
  | nil => exact h
  | cons e l ih =>
    unfold State.moveEntries
    dsimp only
    split
    · split
      · exact ih acc (hpush s _ h)
      · exact ih _ h
    · split
      · exact ih _ h
      · split
        next heq => exact ih _ (hcross s _ _ h heq)
        · exact ih _ h

theorem moveEntries_canon {p : Nat} {hops : List (Nat × Nat)} {far : Nat × Nat} {l acc : List (Nat × Entry)}
    (h : s.Canon) : (State.moveEntries p hops far l acc s).2.Canon :=
  moveEntries_keeps l acc h (fun _ _ ht => modCell_canon ht fun _ hx => cellPush_canon hx) fun _ _ _ ht hu => crossHop_canon ht hu

theorem routeStep_canon {c x : Nat} (h : s.Canon) : (s.routeStep c x).Canon := by
  unfold State.routeStep
  dsimp only
  split
  · split
    next heq =>
      refine ite_canon (modPart_canon (moveEntries_canon h)) ?_
      split
      next heq3 =>
        exact modPart_canon (setCell_canon (crossHop_canon (moveEntries_canon h) heq3)
          (cellPop_canon (cell_canon (moveEntries_canon h) _) heq))
      · exact modPart_canon (moveEntries_canon h)
    · exact modPart_canon (moveEntries_canon h)
  · exact h

theorem execQueuePop_canonAfter {c : CellIx} {q : QueueIx} {out : Option (Fin 4)} (h : s.Canon) :
    CanonAfter (execQueuePop c q out s) := by
  refine onCell_canonAfter h (ite_canonAfter (next_canonAfter (routeStep_canon h)) ?_)
  split
  · refine ite_canonAfter ?_ (next_canonAfter h)
    split
    next heq => exact next_canonAfter (modCell_canon (popOut_canon h heq) fun _ hx => cellPush_canon hx)
    · exact next_canonAfter h
  · split
    next heq => exact next_canonAfter (consume_canon h heq)
    · exact next_canonAfter h

/-! ### The row engine -/

theorem execRow_canonAfter {c : CellIx} (h : s.Canon) : CanonAfter (execRow c s) := by
  refine onCell_canonAfter h ?_
  dsimp only
  split
  · exact next_canonAfter (modCell_canon (seedLanes_canon h) fun _ hx => hx)
  · exact next_canonAfter h

theorem cellPutStats_canon {i : Nat} {a b : F32 × Bool} {x : Cell} (hx : x.Canon) :
    Cell.Canon (Cell.putStats i a b x) := hx

theorem rowPush_canon {c : Nat} {op : Op} {fmt : Nat} {crossed : Bool} {l : List (List RElem)} {o : OutBuf}
    (h : s.Canon) : (State.rowPush c op fmt crossed l s o).1.Canon := by
  induction l generalizing s o with
  | nil => exact h
  | cons v vs ih => exact ih (setCell_canon h (cellPushAll_canon (cellPushAll_canon (cellDraw_canon (cell_canon h c)))))

theorem rowPull_canon {c : Nat} {op : Op} {i : Option RowIn} {n : Nat} {buf : List InByte} (h : s.Canon) :
    (s.rowPull c op i n buf).2.1.Canon := by
  unfold State.rowPull
  split
  · exact h
  · exact pull_canon h

theorem rowEnd_canon {c : Nat} {r : RowRun} {ended : Bool} (h : s.Canon) : (s.rowEnd c r ended).Canon :=
  ite_canon (modSeq_canon (modCell_canon h fun _ hx => hx)) (modCell_canon h fun _ hx => hx)

/-- A row's result leaves a cell's store, queues and streams canonical. -/
def RowOut.SideCanon (w : RowOut) : Prop := ∀ y : Cell, y.Canon → (w.side y).Canon

theorem softmaxRow_sideCanon (x : Cell) (op : Op) (row : Nat) (a b : List RElem) :
    (softmaxRow x op row a b).SideCanon := by
  unfold softmaxRow
  dsimp only
  split
  · exact fun _ hy => cellPutStats_canon hy
  · split
    · exact fun _ hy => hy
    · exact fun _ hy => cellPutStats_canon hy
  · exact fun _ hy => cellPutStats_canon hy
  · exact fun _ hy => hy
  · exact fun _ hy => hy

theorem softmaxBackRow_sideCanon (x : Cell) (op : Op) (row : Nat) (a b : List RElem) :
    (softmaxBackRow x op row a b).SideCanon := by
  unfold softmaxBackRow
  dsimp only
  split
  · exact fun _ hy => hy
  · exact fun _ hy => hy

theorem normRow_sideCanon (op : Op) (row : Nat) (a g b : List RElem) : (normRow op row a g b).SideCanon := by
  unfold normRow
  dsimp only
  split
  · exact fun _ hy => cellPutStats_canon hy
  · exact fun _ hy => cellPutStats_canon hy
  · exact fun _ hy => hy

theorem normBackRow_sideCanon (x : Cell) (op : Op) (row : Nat) (a b g : List RElem) :
    (normBackRow x op row a b g).SideCanon := by
  unfold normBackRow
  dsimp only
  split
  · exact fun _ hy => hy
  · exact fun _ hy => hy

theorem rowStep_canon {c fn : Nat}
    {work : Cell → RowRun → List RElem → List RElem → List RElem → RowOut × List LVal × List LVal} (h : s.Canon)
    (hwork : ∀ x r a b g, (work x r a b g).1.SideCanon) : (s.rowStep c fn work).Canon := by
  unfold State.rowStep
  split
  · exact h
  · refine ite_canon h (ite_canon
      (ite_canon (rowEnd_canon (modCell_canon (iteFst_canon ?_ (rowPush_canon ?_)) fun _ hx => cellPushAll_canon hx)) ?_)
      (ite_canon ?_ (ite_canon ?_ ?_)))
    · exact modCell_canon (rowPull_canon (rowPull_canon (rowPull_canon h))) (hwork _ _ _ _ _)
    · exact modCell_canon (rowPull_canon (rowPull_canon (rowPull_canon h))) (hwork _ _ _ _ _)
    · exact rowEnd_canon (rowPull_canon (rowPull_canon (rowPull_canon h)))
    · exact rowEnd_canon (rowPull_canon (rowPull_canon h))
    · exact rowEnd_canon (rowPush_canon (rowPull_canon (rowPull_canon h)))
    · exact rowEnd_canon (rowPull_canon (rowPull_canon h))

theorem execSoftmaxForward_canonAfter {c : CellIx} (h : s.Canon) : CanonAfter (execSoftmaxForward c s) :=
  onCell_canonAfter h (next_canonAfter (rowStep_canon h fun _ _ _ _ _ => softmaxRow_sideCanon _ _ _ _ _))

theorem execSoftmaxBackward_canonAfter {c : CellIx} (h : s.Canon) : CanonAfter (execSoftmaxBackward c s) :=
  onCell_canonAfter h (next_canonAfter (rowStep_canon h fun _ _ _ _ _ => softmaxBackRow_sideCanon _ _ _ _ _))

theorem execNormalisationForward_canonAfter {c : CellIx} (h : s.Canon) : CanonAfter (execNormalisationForward c s) :=
  onCell_canonAfter h (next_canonAfter (rowStep_canon h fun _ _ _ _ _ => normRow_sideCanon _ _ _ _ _))

theorem execNormalisationBackward_canonAfter {c : CellIx} (h : s.Canon) :
    CanonAfter (execNormalisationBackward c s) := by
  refine onCell_canonAfter h (next_canonAfter (rowStep_canon h fun x r a b g => ?_))
  split
  · exact fun _ hy => hy
  · exact normBackRow_sideCanon _ _ _ _ _ _

theorem orthoOne_canon {c : Nat} {r : RowRun} (h : s.Canon) : (s.orthoOne c r).Canon := by
  refine ite_canon (rowEnd_canon (ite_canon (modCell_canon ?_ fun _ hx => cellPutStats_canon hx) ?_))
    (rowEnd_canon (rowPull_canon h))
  all_goals exact modCell_canon (rowPush_canon (rowPull_canon h)) fun _ hx => cellPushAll_canon hx

theorem execOrthonormalisation_canonAfter {c : CellIx} (h : s.Canon) : CanonAfter (execOrthonormalisation c s) := by
  refine onCell_canonAfter h ?_
  split
  · exact next_canonAfter h
  · exact ite_canonAfter (next_canonAfter h)
      (ite_canonAfter (next_canonAfter (rowEnd_canon h)) (next_canonAfter (orthoOne_canon h)))

/-! ### SCALAR operations: each cell's partial, and the combination over a form -/

theorem execScalar_canonAfter {c : CellIx} (h : s.Canon) : CanonAfter (execScalar c s) := by
  refine onCell_canonAfter h ?_
  dsimp only
  split
  · exact ite_canonAfter (next_canonAfter (modCell_canon (seedLanes_canon h) fun _ hx => hx)) (next_canonAfter h)
  · exact next_canonAfter h

theorem givePartial_canon {c : Nat} {r : ScalRun} (h : s.Canon) : (s.givePartial c r).Canon := by
  unfold State.givePartial
  split
  · exact h
  · exact ite_canon (modPart_canon (modCell_canon h fun _ hx => hx))
      (foldl_canon (modPart_canon (modCell_canon h fun _ hx => hx)) fun _ _ ht =>
        modSeq_canon (modCell_canon ht fun _ hx => hx))

theorem scalStep_canon {c fn : Nat} (h : s.Canon) : (s.scalStep c fn).Canon := by
  unfold State.scalStep
  split
  · exact h
  · refine ite_canon h ?_
    split
    · exact h
    next heq =>
      exact ite_canon (givePartial_canon (consumePoison_canon (consume_canon h heq)))
        (modCell_canon (consumePoison_canon (consume_canon h heq)) fun _ hx => hx)

theorem execScalarSum_canonAfter {c : CellIx} (h : s.Canon) : CanonAfter (execScalarSum c s) :=
  onCell_canonAfter h (next_canonAfter (scalStep_canon h))

theorem execScalarSumOfSquares_canonAfter {c : CellIx} (h : s.Canon) : CanonAfter (execScalarSumOfSquares c s) :=
  onCell_canonAfter h (next_canonAfter (scalStep_canon h))

theorem execScalarMaximum_canonAfter {c : CellIx} (h : s.Canon) : CanonAfter (execScalarMaximum c s) :=
  onCell_canonAfter h (next_canonAfter (scalStep_canon h))

theorem execScalarMinimum_canonAfter {c : CellIx} (h : s.Canon) : CanonAfter (execScalarMinimum c s) :=
  onCell_canonAfter h (next_canonAfter (scalStep_canon h))

theorem execNanCount_canonAfter {c : CellIx} (h : s.Canon) : CanonAfter (execNanCount c s) :=
  onCell_canonAfter h (next_canonAfter (scalStep_canon h))

theorem execInfinityCount_canonAfter {c : CellIx} (h : s.Canon) : CanonAfter (execInfinityCount c s) :=
  onCell_canonAfter h (next_canonAfter (scalStep_canon h))

/-! ### The hold bell: the member's answer, and deadlock records -/

theorem sendDeadlock_canon {p : Nat} {num : BitVec 64} (h : s.Canon) : (s.sendDeadlock p num).Canon :=
  modPart_canon (foldl_canon h fun _ _ ht => storeRecord_canon ht)

theorem execHoldBell_canonAfter {p : PartIx} {ctl : Control} (h : s.Canon) : CanonAfter (execHoldBell p ctl s) := by
  refine takeCtl_canonAfter h fun _ _ ha =>
    ite_canon (modPart_canon ha)
      (sendCtl_canon (iteSnd_canon (fresh_canon (ite_canon (modPart_canon ?_) ?_)) (ite_canon (modPart_canon ?_) ?_)))
  all_goals exact ite_canon (sendDeadlock_canon (modPart_canon ha)) (modPart_canon ha)

end Sys2Proof.Machine
end

section
/-! What keeps the canonical form, fifth part: the host port, loading, firmware, management, power, rings, SPDM, start-up, test access (R309-R408, R425-R442). -/

namespace Sys2Proof.Machine

-- One proof after another: hundreds of them at once, in one text with the model, take more threads than the check allows.
set_option Elab.async false

variable {s : State}

/-! ### The CXL port: the HDM window, the snoop filter, the data service, the link -/

theorem recordLine_canon {d a : Nat} (h : s.Canon) : (s.recordLine d a).Canon := by
  refine ite_canon h (frame_canon (ite_canon h ?_))
  split
  · exact emit_canon h
  · exact h

theorem execHostMemRead_canonAfter {line : BitVec 30} (h : s.Canon) : CanonAfter (execHostMemRead line s) := by
  refine ite_canonAfter (next_canonAfter h) ?_
  split
  · exact next_canonAfter (emit_canon h)
  · exact next_canonAfter (emit_canon (recordLine_canon h))

theorem execHostMemWrite_canonAfter {line : BitVec 30} {data : BitVec 512} {be : BitVec 64} (h : s.Canon) :
    CanonAfter (execHostMemWrite line data be s) := by
  refine ite_canonAfter (next_canonAfter h) ?_
  split
  · exact next_canonAfter (emit_canon h)
  · exact ite_canonAfter (next_canonAfter (emit_canon (storeHbm_canon h))) (next_canonAfter (emit_canon h))

theorem execBisnpResponse_canonAfter {d : DieIx} {line : Nat} (h : s.Canon) :
    CanonAfter (execBisnpResponse d line s) := by
  unfold execBisnpResponse
  split
  · exact next_canonAfter h
  · exact next_canonAfter (finishRemaps_canon h)

theorem execH2dSnoop_canonAfter {addr : BitVec 64} (h : s.Canon) : CanonAfter (execH2dSnoop addr s) :=
  ite_canonAfter (next_canonAfter (emit_canon h)) (next_canonAfter h)

theorem compareManifest_canon {p : Nat} {j : SvcJob} (h : s.Canon) : (s.compareManifest p j).Canon := by
  unfold State.compareManifest
  split
  · exact ite_canon (detect_canon h) h
  · exact h

theorem execDataServiceLine_canonAfter {p : PartIx} {i : Fin 256} {off : Nat} {data : BitVec 512} {poison : Bool}
    (h : s.Canon) : CanonAfter (execDataServiceLine p i off data poison s) := by
  refine ite_canonAfter (next_canonAfter h) ?_
  split
  · exact next_canonAfter h
  · refine afterSnoops_canonAfter h
      (ite_canonAfter (next_canonAfter (ite_canon (modPart_canon h) (emit_canon (modPart_canon h))))
        (next_canonAfter (ite_canon (compareManifest_canon (assertAt_canon ?_)) ?_)))
    all_goals
      exact ite_canon (signalInputs_canon (modPart_canon (writeHbm_canon h))) (modPart_canon (writeHbm_canon h))

theorem execCxlLinkUp_canonAfter {width rate : Fin 8} {flit256 : Bool} (h : s.Canon) :
    CanonAfter (execCxlLinkUp width rate flit256 s) :=
  ite_canonAfter (next_canonAfter h)
    (ite_canonAfter (next_canonAfter h) (ite_canonAfter (next_canonAfter (assertShared_canon h)) (next_canonAfter h)))

theorem resetRings_canon (h : s.Canon) : s.resetRings.Canon :=
  foldl_canon h fun _ _ ht => setRing_canon ht

theorem reissueReads_canon (h : s.Canon) : s.reissueReads.Canon := by
  unfold State.reissueReads
  exact foldl_canon h fun _ _ ht => askWaypoint_canon (foldl_canon ht fun _ _ ht => issueReads_canon ht)

theorem linkDown_canon (h : s.Canon) : s.linkDown.Canon :=
  assertShared_canon (foldl_canon (frame_canon (resetRings_canon h)) fun _ _ ht => finish_canon ht)

theorem execCxlLinkReset_canonAfter {kind : LinkReset} (h : s.Canon) : CanonAfter (execCxlLinkReset kind s) := by
  refine ite_canonAfter (next_canonAfter h) ?_
  split
  · exact next_canonAfter (resetRings_canon h)
  · exact next_canonAfter (linkDown_canon h)
  · exact next_canonAfter (linkDown_canon h)

theorem execViralReceived_canonAfter (h : s.Canon) : CanonAfter (execViralReceived s) :=
  ite_canonAfter (next_canonAfter h) (next_canonAfter h)

theorem execIdeIntegrityFailure_canonAfter (h : s.Canon) : CanonAfter (execIdeIntegrityFailure s) :=
  ite_canonAfter (next_canonAfter h) (next_canonAfter (linkDown_canon h))

/-! ### Loading a program image: LOAD's verdict, and the copy of an accepted image -/

theorem execLoadImage_canonAfter {r : RingIx} {img : HostData} (h : s.Canon) : CanonAfter (execLoadImage r img s) := by
  refine runCmd_canonAfter h fun _ _ ha => ?_
  split
  · exact reply_canon ha
  · exact ite_canon (reply_canon ha) (modPart_canon ha)

theorem copySegment_canon {image : Image} {bytes : List Byte} {g : BitVec 128} (h : s.Canon) :
    State.Canon (State.copySegment image bytes s g) :=
  ite_canon
    (foldl_canon h fun _ _ ht =>
      modCell_canon ht fun _ hx => cellMk_canon (writeBytes_wf hx.store) hx.queues hx.streams) (writeHbm_canon h)

theorem takeImage_canon {p : Nat} {l : Loading} {bytes : List Byte} (h : s.Canon) : (s.takeImage p l bytes).Canon :=
  settleBenches_canon (setPartState_canon (resetVersions_canon (foldl_canon (modPart_canon (dropImage_canon h))
    fun _ _ ht => copySegment_canon ht)))

theorem loseImage_canon {p : Nat} {l : Loading} {bytes : List Byte} (h : s.Canon) : (s.loseImage p l bytes).Canon :=
  settleBenches_canon (setPartState_canon (foldl_canon (dropImage_canon h) fun _ _ ht => copySegment_canon ht))

theorem execLoaderReadComplete_canonAfter {r : RingIx} {img : HostData} (h : s.Canon) :
    CanonAfter (execLoaderReadComplete r img s) := by
  unfold execLoaderReadComplete
  split
  · exact next_canonAfter h
  · split
    · exact next_canonAfter h
    · refine afterSnoops_canonAfter h ?_
      split
      · exact next_canonAfter (reply_canon (modPart_canon (assertAt_canon h)))
      · exact ite_canonAfter (next_canonAfter (reply_canon (takeImage_canon (modPart_canon (assertAt_canon h)))))
          (next_canonAfter (reply_canon (loseImage_canon (modPart_canon (assertAt_canon h)))))

/-! ### Measurements and identity, the announcement -/

theorem issueKey_canon (h : s.Canon) : s.issueKey.Canon := ite_canon h h

theorem announce_canon (h : s.Canon) : s.announce.Canon := ite_canon (sendKmp_canon h) h

theorem mgmtDown_canon (h : s.Canon) : s.mgmtDown.Canon := ite_canon (assertShared_canon h) h

/-! ### Replacing the firmware -/

theorem refusedPiece_canon (h : s.Canon) : s.refusedPiece.Canon := h

theorem stage_canon {path off : Nat} {bs : List Byte} (h : s.Canon) : (s.stage path off bs).Canon :=
  assertShared_canon h

theorem execFwBegin_canonAfter {r : RingIx} (h : s.Canon) : CanonAfter (execFwBegin r s) :=
  runCmd_canonAfter h fun _ _ ha => ite_canon (reply_canon ha) (ite_canon (ok_canon ha) (ok_canon ha))

theorem execFwBlock_canonAfter {r : RingIx} {data : HostData} (h : s.Canon) : CanonAfter (execFwBlock r data s) := by
  refine runCmd_canonAfter h fun _ _ ha =>
    ite_canon (reply_canon (refusedPiece_canon ha))
      (ite_canon (reply_canon (refusedPiece_canon ha))
        (ite_canon (reply_canon (refusedPiece_canon ha))
          (ite_canon (reply_canon (refusedPiece_canon ha)) (ite_canon (reply_canon (refusedPiece_canon ha)) ?_))))
  split
  · exact reply_canon ha
  · exact ok_canon (stage_canon ha)

theorem execFwStatus_canonAfter {r : RingIx} (h : s.Canon) : CanonAfter (execFwStatus r s) :=
  runCmd_canonAfter h fun _ _ ha => reply_canon ha

theorem execFwDiscard_canonAfter {r : RingIx} (h : s.Canon) : CanonAfter (execFwDiscard r s) :=
  runCmd_canonAfter h fun _ _ ha => ite_canon (reply_canon ha) (ok_canon ha)

theorem execFwVerificationDone_canonAfter (h : s.Canon) : CanonAfter (execFwVerificationDone s) := by
  refine ite_canonAfter (next_canonAfter h) ?_
  split
  · exact next_canonAfter h
  · exact next_canonAfter h

theorem execFwActivate_canonAfter {r : RingIx} (h : s.Canon) : CanonAfter (execFwActivate r s) :=
  runCmd_canonAfter h fun _ _ ha =>
    ite_canon (reply_canon ha) (ite_canon (reply_canon ha) (ite_canon coldReset_canon ha))

theorem dropServices_canon (h : s.Canon) : s.dropServices.Canon := by
  refine foldl_canon (lateSlices_canon ?_) fun _ _ ht => ite_canon (modMirror_canon (countLate_canon ht)) ht
  split
  · exact modServices_canon (foldl_canon (countLate_canon h) fun _ _ ht => modCell_canon ht fun _ hx => hx)
  · exact h

theorem holdClerks_canon (h : s.Canon) : s.holdClerks.Canon :=
  foldl_canon h fun _ _ ht => modClerk_canon ht

theorem restartClerks_canon (h : s.Canon) : s.restartClerks.Canon :=
  foldl_canon h fun _ _ ht => modClerk_canon ht

theorem execSwitchBoundary_canonAfter {badWrites : Fin 3} (h : s.Canon) :
    CanonAfter (execSwitchBoundary badWrites s) :=
  ite_canonAfter (next_canonAfter h)
    (ite_canonAfter (next_canonAfter startFailure_canon)
      (next_canonAfter (frame_canon (holdClerks_canon (dropServices_canon h)))))

theorem execActivateWindowExpiry_canonAfter (h : s.Canon) : CanonAfter (execActivateWindowExpiry s) :=
  ite_canonAfter (next_canonAfter h) (next_canonAfter (finish_canon (frame_canon (admitted_canon h))))

theorem execFirmwareReady_canonAfter (h : s.Canon) : CanonAfter (execFirmwareReady s) :=
  ite_canonAfter (next_canonAfter h)
    (next_canonAfter (announce_canon (finish_canon (issueKey_canon (frame_canon (restartClerks_canon h))))))

theorem execFirmwareReadyTimeout_canonAfter (h : s.Canon) : CanonAfter (execFirmwareReadyTimeout s) :=
  ite_canonAfter (next_canonAfter startFailure_canon) (next_canonAfter h)

theorem execFwFuse_canonAfter {r : RingIx} (h : s.Canon) : CanonAfter (execFwFuse r s) :=
  runCmd_canonAfter h fun _ _ ha =>
    ite_canon (reply_canon ha)
      (ite_canon (reply_canon ha) (ite_canon (reply_canon ha) (ite_canon (ok_canon ha) (ok_canon ha))))

/-! ### The management port, KMP and I3C -/

theorem execArpRequest_canonAfter {ip : BitVec 32} (h : s.Canon) : CanonAfter (execArpRequest ip s) :=
  ite_canonAfter (next_canonAfter (emit_canon h)) (next_canonAfter h)

theorem execNeighborSolicitation_canonAfter {ip : BitVec 128} (h : s.Canon) :
    CanonAfter (execNeighborSolicitation ip s) := ite_canonAfter (next_canonAfter (emit_canon h)) (next_canonAfter h)

theorem execEchoRequest_canonAfter {m : Echo} (h : s.Canon) : CanonAfter (execEchoRequest m s) :=
  ite_canonAfter (next_canonAfter (emit_canon h)) (next_canonAfter h)

theorem sendKept_canon {rcd : BitVec 512} (h : s.Canon) : (s.sendKept rcd).Canon :=
  ite_canon (sendKmp_canon (modHub_canon h)) (modServices_canon h)

theorem execAnnouncementTimer_canonAfter (h : s.Canon) : CanonAfter (execAnnouncementTimer s) :=
  ite_canonAfter (next_canonAfter (announce_canon h))
    (ite_canonAfter
      (next_canonAfter (announce_canon (foldl_canon (assertShared_canon h) fun _ _ ht => sendKept_canon ht)))
      (next_canonAfter h))

theorem execManagementLinkLoss_canonAfter (h : s.Canon) : CanonAfter (execManagementLinkLoss s) :=
  next_canonAfter (mgmtDown_canon h)

theorem takeKmp_canonAfter {i : Instr} {m : Kmp} {type : Nat} {f : BitVec 64 → State → State} (h : s.Canon)
    (hf : ∀ (a : BitVec 64) (t : State), t.Canon → (f a t).Canon) : CanonAfter (State.takeKmp s i m type f) :=
  ite_canonAfter (next_canonAfter h)
    (ite_canonAfter (next_canonAfter (holdOver_canon h)) (next_canonAfter (hf _ _ (intake_canon h))))

theorem reject_canon {m : Kmp} {reason : Nat} (h : s.Canon) : (s.reject m reason).Canon :=
  ite_canon (frame_canon (kmpTo_canon h)) h

theorem acceptSeq_canon {m : Kmp} (h : s.Canon) : (s.acceptSeq m).Canon := ite_canon h h

theorem execControlRequest_canonAfter {m : Kmp} (h : s.Canon) : CanonAfter (execControlRequest m s) := by
  refine takeKmp_canonAfter h fun _ _ ha => ?_
  dsimp only
  split
  · exact reject_canon ha
  · exact modRing_canon (acceptSeq_canon ha)

theorem execFirmwarePiece_canonAfter {m : Kmp} (h : s.Canon) : CanonAfter (execFirmwarePiece m s) :=
  takeKmp_canonAfter h fun _ _ ha => ite_canon (stage_canon ha) (refusedPiece_canon ha)

theorem execNetworkConfiguration_canonAfter {m : Kmp} (h : s.Canon) : CanonAfter (execNetworkConfiguration m s) := by
  refine takeKmp_canonAfter h fun _ _ ha => ?_
  split
  · exact frame_canon (acceptSeq_canon ha)
  · exact reject_canon ha
  · exact ha

theorem execKeyManagement_canonAfter {m : Kmp} (h : s.Canon) : CanonAfter (execKeyManagement m s) := by
  refine takeKmp_canonAfter h fun _ _ ha => ?_
  split
  · exact ite_canon (reject_canon ha) (frame_canon (acceptSeq_canon ha))
  · exact reject_canon ha
  · exact ha

theorem execMctpControl_canonAfter {m : MctpControl} (h : s.Canon) : CanonAfter (execMctpControl m s) := by
  refine ite_canonAfter (next_canonAfter h) ?_
  split
  · exact ite_canonAfter (next_canonAfter (emit_canon (admitted_canon h)))
      (next_canonAfter (emit_canon (frame_canon (admitted_canon h))))
  · exact next_canonAfter (emit_canon (admitted_canon h))
  · exact next_canonAfter (emit_canon (admitted_canon h))
  · exact next_canonAfter (emit_canon (admitted_canon h))

theorem execI3cCommonCommand_canonAfter {cc : I3cCommand} (h : s.Canon) : CanonAfter (execI3cCommonCommand cc s) := by
  have ha : (s.admitted .i3c 7).Canon := admitted_canon h
  refine ite_canonAfter (next_canonAfter h) ?_
  dsimp only
  generalize s.admitted .i3c 7 = t at ha
  generalize t.mgmt.dynAddr = d
  cases cc
  all_goals
    cases d
    all_goals exact next_canonAfter (frame_canon ha)

/-! ### Power states, the governor, sprint and wear, conversion faults, the power commands -/

theorem mapBenches_canon {f : Nat → Bench → Bench} (h : s.Canon) : (s.mapBenches f).Canon :=
  foldl_canon h fun _ _ ht => modBench_canon ht

theorem endSprints_canon (h : s.Canon) : s.endSprints.Canon := mapBenches_canon h

theorem governDown_canon (h : s.Canon) : s.governDown.Canon :=
  ite_canon (endSprints_canon h) (ite_canon (mapBenches_canon h) (mapBenches_canon h))

theorem governUp_canon {g : GovSample} (h : s.Canon) : (s.governUp g).Canon := mapBenches_canon h

theorem endRateMs_canon (h : s.Canon) : s.endRateMs.Canon :=
  modHub_canon h (by
    split
    · rfl
    · rfl)

theorem markSprint_canon (h : s.Canon) : s.markSprint.Canon := ite_canon h h

theorem execGovernorSample_canonAfter {g : GovSample} (h : s.Canon) : CanonAfter (execGovernorSample g s) := by
  refine ite_canonAfter (next_canonAfter h)
    (ite_canonAfter
      (next_canonAfter (ite_canon (modServices_canon (assertAt_canon (governDown_canon ?_))) (governDown_canon ?_)))
      (ite_canonAfter (next_canonAfter (markSprint_canon (governUp_canon ?_))) (next_canonAfter ?_)))
  all_goals
    exact ite_canon (assertAt_canon (frame_canon (ite_canon (endRateMs_canon h) h)))
      (frame_canon (ite_canon (endRateMs_canon h) h))

theorem execSprintLimit_canonAfter (h : s.Canon) : CanonAfter (execSprintLimit s) :=
  ite_canonAfter (next_canonAfter (frame_canon (endSprints_canon h))) (next_canonAfter h)

theorem execWearHour_canonAfter (h : s.Canon) : CanonAfter (execWearHour s) :=
  ite_canonAfter (next_canonAfter h)
    (ite_canonAfter (next_canonAfter h) (next_canonAfter (frame_canon (endSprints_canon h))))

theorem cellAfterDormant_canon {x : Cell} (hx : x.Canon) : Cell.Canon (Cell.afterDormant x) :=
  cellMk_canon hx.store (cellFormReset_canon hx).queues (cellFormReset_canon hx).streams

theorem loseLogic_canon {d : Nat} (h : s.Canon) : (s.loseLogic d).Canon :=
  modDie_canon (foldl_canon h fun _ _ ht => modCell_canon ht fun _ hx => cellAfterDormant_canon hx) fun _ hD => hD

theorem dieSleep_canon {D : Die} (hD : D.Canon) : Die.Canon (Die.sleep D) := by
  unfold Die.sleep
  split
  · exact hD
  · exact hD
  · exact hD
  · exact hD

theorem finishPower_canon (h : s.Canon) : s.finishPower.Canon := by
  unfold State.finishPower
  exact finish_canon h

theorem execShutdownEventComplete_canonAfter {d : DieIx} (h : s.Canon) : CanonAfter (execShutdownEventComplete d s) := by
  unfold execShutdownEventComplete
  refine ite_canonAfter (next_canonAfter h) ?_
  split
  · exact ite_canonAfter (next_canonAfter (modDie_canon h fun _ hD => hD)) (next_canonAfter h)
  · exact next_canonAfter (modDie_canon h fun _ hD => hD)
  · refine next_canonAfter (modDie_canon h fun _ hD => ?_)
    split
    · exact hD
    · exact hD
  · refine next_canonAfter (finishPower_canon (modDie_canon (loseLogic_canon h) fun _ hD => ?_))
    split
    · exact hD
    · exact hD
  · exact next_canonAfter h

theorem wakeStep_canon {d : Nat} (h : s.Canon) : (s.wakeStep d).Canon := by
  unfold State.wakeStep
  split
  · exact modDie_canon h fun _ hD => hD
  · exact modDie_canon h fun _ hD => hD
  · exact modDie_canon h fun _ hD => hD
  · refine modDie_canon (loseLogic_canon h) fun _ hD => ?_
    split
    · exact hD
    · exact hD
  · exact h

theorem execWakeStepComplete_canonAfter {d : DieIx} (h : s.Canon) : CanonAfter (execWakeStepComplete d s) := by
  unfold execWakeStepComplete
  exact ite_canonAfter (next_canonAfter (finishPower_canon (wakeStep_canon h))) (next_canonAfter h)

theorem execStageFault_canonAfter {k : Fin 4} {code : BitVec 64} (h : s.Canon) :
    CanonAfter (execStageFault k code s) :=
  ite_canonAfter (next_canonAfter h)
    (ite_canonAfter (next_canonAfter powerOff_canon) (next_canonAfter (notice_canon h)))

theorem execInputUndervoltage_canonAfter : CanonAfter (execInputUndervoltage s) :=
  next_canonAfter (frame_canon powerOff_canon)

theorem execOverTemperatureStop_canonAfter (h : s.Canon) : CanonAfter (execOverTemperatureStop s) :=
  ite_canonAfter (next_canonAfter (frame_canon powerOff_canon)) (next_canonAfter h)

theorem execPowerStatus_canonAfter {r : RingIx} (h : s.Canon) : CanonAfter (execPowerStatus r s) :=
  runCmd_canonAfter h fun _ _ ha => reply_canon ha

theorem execPowerPolicy_canonAfter {r : RingIx} (h : s.Canon) : CanonAfter (execPowerPolicy r s) :=
  runCmd_canonAfter h fun _ _ ha => ok_canon (mapBenches_canon (modPart_canon ha))

theorem execBenchState_canonAfter {r : RingIx} (h : s.Canon) : CanonAfter (execBenchState r s) :=
  runCmd_canonAfter h fun _ _ ha =>
    ite_canon (reply_canon ha)
      (ite_canon (reply_canon ha)
        (ite_canon (reply_canon ha) (ok_canon (foldl_canon ha fun _ _ ht => ite_canon (modBench_canon ht) ht))))

theorem execDieState_canonAfter {r : RingIx} (h : s.Canon) : CanonAfter (execDieState r s) := by
  unfold execDieState
  refine runCmd_canonAfter h fun _ _ ha =>
    ite_canon (reply_canon ha)
      (ite_canon (reply_canon ha) (finishPower_canon (foldl_canon ha fun _ _ ht => modDie_canon ht fun _ hD => ?_)))
  split
  · exact dieSleep_canon hD
  · exact dieWake_canon hD

theorem enterStandby_canon (h : s.Canon) : s.enterStandby.Canon :=
  ⟨foldl_put_wf _ _ _ rfl, foldl_put_wf _ _ _ rfl, h.parts, h.rings, h.clerks, h.ports,
    forall_foldl_put _ _ (List.forall_mem_nil _) fun e _ => cellAfterDeviceReset_canon e.2,
    forall_foldl_put _ _ (List.forall_mem_nil _) fun e _ => dieUnpowered_canon e.2⟩

theorem wakeAll_canon (h : s.Canon) : s.wakeAll.Canon :=
  foldl_canon h fun _ _ ht => modDie_canon ht fun _ hD => hD

theorem execDeviceStandby_canonAfter {r : RingIx} (h : s.Canon) : CanonAfter (execDeviceStandby r s) :=
  runCmd_canonAfter h fun _ _ ha =>
    ite_canon (ok_canon ha)
      (ite_canon (ite_canon (ok_canon (enterStandby_canon ha)) (reply_canon ha)) (wakeAll_canon ha))

theorem execPowerCap_canonAfter {r : RingIx} (h : s.Canon) : CanonAfter (execPowerCap r s) :=
  runCmd_canonAfter h fun _ _ ha => ite_canon (reply_canon ha) (ok_canon ha)

/-! ### The host's command rings and the registers that writes reach -/

theorem readEntries_canon {r : Nat} {subs : List Submit} (h : s.Canon) : (s.readEntries r subs).Canon :=
  foldl_canon h fun _ _ ht => modRing_canon (emit_canon ht)

theorem execDoorbell_canonAfter {r : HostRing} {tail : Byte} {subs : List Submit} (h : s.Canon) :
    CanonAfter (execDoorbell r tail subs s) :=
  ite_canonAfter (next_canonAfter (modRing_canon (intake_canon h)))
    (next_canonAfter (ite_canon (readEntries_canon (modRing_canon (intake_canon h)))
      (modRing_canon (intake_canon h))))

theorem execRepHeadWrite_canonAfter {r : HostRing} {head : Byte} (h : s.Canon) :
    CanonAfter (execRepHeadWrite r head s) := next_canonAfter (assertAt_canon (modRing_canon h))

theorem execRingEnableWrite_canonAfter {r : HostRing} {on : Option (List Submit)} (h : s.Canon) :
    CanonAfter (execRingEnableWrite r on s) := by
  unfold execRingEnableWrite
  split
  · exact next_canonAfter (readEntries_canon (modRing_canon h))
  · exact next_canonAfter (modRing_canon h)

theorem execRegisterWrite_canonAfter {reg : Reg} {v : BitVec 64} (h : s.Canon) :
    CanonAfter (execRegisterWrite reg v s) := by
  unfold execRegisterWrite
  split
  · exact next_canonAfter (modRing_canon h)
  · exact next_canonAfter (modRing_canon h)
  · exact next_canonAfter (modRing_canon h)
  · exact next_canonAfter (modRing_canon h)
  · exact next_canonAfter (modClerk_canon h)
  · exact next_canonAfter (modClerk_canon h)
  · exact next_canonAfter (modClerk_canon h)
  · exact next_canonAfter (modClerk_canon h)
  · exact next_canonAfter (modClerk_canon h)
  · exact next_canonAfter h
  · exact next_canonAfter (ite_canon h (reissueReads_canon h))
  · exact next_canonAfter h
  · exact next_canonAfter h
  · exact next_canonAfter h
  · exact next_canonAfter h
  · exact next_canonAfter h
  · exact next_canonAfter h
  · exact next_canonAfter h
  · exact next_canonAfter h
  · exact next_canonAfter h

theorem execCommandReply_canonAfter {r : RingIx} (h : s.Canon) : CanonAfter (execCommandReply r s) :=
  next_canonAfter (writeReply_canon h)

/-! ### The SPDM responder -/

theorem respond_canon {t : Transport} {code : Byte} {bytes : List Byte} {signed : Bool} (h : s.Canon) :
    (s.respond t code bytes signed).Canon := emit_canon h

theorem spdmError_canon {t : Transport} {e : Byte} (h : s.Canon) : (s.spdmError t e).Canon :=
  respond_canon h

theorem spdmIn_canon {t : Transport} (h : s.Canon) : (s.spdmIn t).Canon := by
  unfold State.spdmIn
  split
  · exact admitted_canon h
  · exact h

theorem takeSpdm_canonAfter {t : Transport} {need : Nat → Bool} {f : State → State} (h : s.Canon)
    (hf : ∀ (t : State), t.Canon → (f t).Canon) : CanonAfter (State.takeSpdm s t need f) :=
  ite_canonAfter (next_canonAfter h)
    (ite_canonAfter (next_canonAfter (hf _ (spdmIn_canon h))) (next_canonAfter (spdmError_canon (spdmIn_canon h))))

theorem connTo_canon {t : Transport} {n : Nat} (h : s.Canon) : (s.connTo t n).Canon := h

theorem execGetVersion_canonAfter {t : Transport} (h : s.Canon) : CanonAfter (execGetVersion t s) :=
  takeSpdm_canonAfter h fun _ ht => respond_canon (connTo_canon ht)

theorem execGetCapabilities_canonAfter {t : Transport} (h : s.Canon) : CanonAfter (execGetCapabilities t s) :=
  takeSpdm_canonAfter h fun _ ht => respond_canon (connTo_canon ht)

theorem execNegotiateAlgorithms_canonAfter {t : Transport} {a : AlgorithmOffer} (h : s.Canon) :
    CanonAfter (execNegotiateAlgorithms t a s) :=
  takeSpdm_canonAfter h fun _ ht => ite_canon (respond_canon (connTo_canon ht)) (spdmError_canon ht)

theorem execGetDigests_canonAfter {t : Transport} (h : s.Canon) : CanonAfter (execGetDigests t s) :=
  takeSpdm_canonAfter h fun _ ht => respond_canon ht

theorem execGetCertificate_canonAfter {t : Transport} {slot : Byte} {off len : Nat} (h : s.Canon) :
    CanonAfter (execGetCertificate t slot off len s) :=
  takeSpdm_canonAfter h fun _ ht => ite_canon (spdmError_canon ht) (respond_canon ht)

theorem nonce_canon (h : s.Canon) : s.nonce.2.Canon := h

theorem execChallenge_canonAfter {t : Transport} {nonce : BitVec 256} (h : s.Canon) :
    CanonAfter (execChallenge t nonce s) :=
  takeSpdm_canonAfter h fun _ ht => ite_canon (respond_canon (nonce_canon ht)) (spdmError_canon ht)

theorem execGetMeasurements_canonAfter {t : Transport} {ix : Byte} {nonce : BitVec 256} {sign : Bool} (h : s.Canon) :
    CanonAfter (execGetMeasurements t ix nonce sign s) :=
  takeSpdm_canonAfter h fun _ ht =>
    ite_canon (spdmError_canon ht)
      (ite_canon (respond_canon ht)
        (ite_canon (respond_canon ht) (ite_canon (respond_canon ht) (spdmError_canon ht))))

theorem execKeyExchange_canonAfter {t : Transport} {pub : List Byte} (h : s.Canon) :
    CanonAfter (execKeyExchange t pub s) :=
  takeSpdm_canonAfter h fun _ ht =>
    ite_canon (spdmError_canon ht)
      (ite_canon (spdmError_canon ht)
        (ite_canon (spdmError_canon ht) (respond_canon (nonce_canon (frame_canon (nonce_canon ht))))))

theorem inSession_canonAfter {t : Transport} {sess : Nat} {ready : Bool} {f : State → State} (h : s.Canon)
    (hf : ∀ (t : State), t.Canon → (f t).Canon) : CanonAfter (State.inSession s t sess ready f) :=
  takeSpdm_canonAfter h fun _ ht => ite_canon (hf _ ht) (spdmError_canon ht)

theorem modSessions_canon {f : List Session → List Session} (h : s.Canon) : (s.modSessions f).Canon := h

theorem execFinish_canonAfter {t : Transport} {sess : Nat} {macOk : Bool} (h : s.Canon) :
    CanonAfter (execFinish t sess macOk s) :=
  inSession_canonAfter h fun _ ht =>
    ite_canon (respond_canon (modSessions_canon ht)) (spdmError_canon (modSessions_canon ht))

theorem execHeartbeat_canonAfter {t : Transport} {sess : Nat} (h : s.Canon) : CanonAfter (execHeartbeat t sess s) :=
  inSession_canonAfter h fun _ ht => respond_canon ht

theorem execKeyUpdate_canonAfter {t : Transport} {sess : Nat} (h : s.Canon) : CanonAfter (execKeyUpdate t sess s) :=
  inSession_canonAfter h fun _ ht => respond_canon (modSessions_canon ht)

theorem execEndSession_canonAfter {t : Transport} {sess : Nat} (h : s.Canon) : CanonAfter (execEndSession t sess s) :=
  inSession_canonAfter h fun _ ht => respond_canon (modSessions_canon ht)

theorem execVendorDefinedRequest_canonAfter {t : Transport} {sess : Nat} {km : IdeKm} (h : s.Canon) :
    CanonAfter (execVendorDefinedRequest t sess km s) := by
  refine inSession_canonAfter h fun _ ht => ?_
  split
  · exact spdmError_canon ht
  · exact respond_canon ht

/-! ### Start-up and resets by pins -/

theorem startHold_canon {order : Nat} {failed : BitVec 12} {dies : BitVec 4} (h : s.Canon) :
    (s.startHold order failed dies).Canon := frame_canon (enterStandby_canon (notice_canon h))

theorem bootRecovery_canon (h : s.Canon) : s.bootRecovery.Canon := recoveryMode_canon h

theorem bootLoader_canon {ok : Bool} (h : s.Canon) : (s.bootLoader ok).Canon :=
  ite_canon (bootRecovery_canon h) (ite_canon h (ite_canon h (bootRecovery_canon h)))

theorem bootRunning_canon {ok : Bool} (h : s.Canon) : (s.bootRunning ok).Canon :=
  ite_canon h (ite_canon h (bootRecovery_canon h))

theorem bootFirmware_canon (h : s.Canon) : s.bootFirmware.Canon := wakeAll_canon (issueKey_canon h)

theorem boot_canon {st : BootSample} (h : s.Canon) : (s.boot st).Canon := by
  unfold State.boot
  split
  · exact h
  · exact h
  · exact h
  · exact h
  · exact bootLoader_canon h
  · exact bootRunning_canon h
  · exact bootFirmware_canon h
  · exact frame_canon (foldl_canon h fun _ _ ht => wakeStep_canon ht)
  · exact frame_canon (foldl_canon h fun _ _ ht => wakeStep_canon ht)
  · exact frame_canon (foldl_canon h fun _ _ ht => wakeStep_canon ht)
  · exact ite_canon (frame_canon (foldl_canon h fun _ _ ht => wakeStep_canon ht)) (startHold_canon h)
  · exact frame_canon (examAll_canon h)
  · exact h

theorem execColdStart_canonAfter {st : BootSample} (h : s.Canon) : CanonAfter (execColdStart st s) :=
  ite_canonAfter (next_canonAfter (boot_canon h)) (next_canonAfter h)

theorem execStartupReady_canonAfter {ms : Word} (h : s.Canon) : CanonAfter (execStartupReady ms s) :=
  ite_canonAfter (next_canonAfter (announce_canon (frame_canon (mapBenches_canon h)))) (next_canonAfter h)

theorem execStartHold_canonAfter {order : Fin 16} {failed : BitVec 12} {dies : BitVec 4} (h : s.Canon) :
    CanonAfter (execStartHold order failed dies s) :=
  ite_canonAfter (next_canonAfter (startHold_canon h)) (next_canonAfter h)

theorem execVinRise_canonAfter (h : s.Canon) : CanonAfter (execVinRise s) :=
  ite_canonAfter (next_canonAfter h) (next_canonAfter coldReset_canon)

theorem execColdNAssert_canonAfter : CanonAfter (execColdNAssert s) := next_canonAfter (frame_canon powerOff_canon)

theorem execColdNRelease_canonAfter {held10us : Bool} (h : s.Canon) : CanonAfter (execColdNRelease held10us s) :=
  ite_canonAfter (next_canonAfter h) (ite_canonAfter (next_canonAfter coldReset_canon) (next_canonAfter h))

theorem execPerstAssert_canonAfter {held1us : Bool} (h : s.Canon) : CanonAfter (execPerstAssert held1us s) :=
  ite_canonAfter (next_canonAfter h) (ite_canonAfter (next_canonAfter deviceReset_canon) (next_canonAfter h))

theorem execPerstRelease_canonAfter (h : s.Canon) : CanonAfter (execPerstRelease s) := next_canonAfter h

/-! ### The test access port and debug unlock -/

theorem tapTo_canon {i : TapInstr} (h : s.Canon) : (s.tapTo i).Canon := h

theorem execTrstNAssert_canonAfter (h : s.Canon) : CanonAfter (execTrstNAssert s) := next_canonAfter h

theorem execBypass_canonAfter (h : s.Canon) : CanonAfter (execBypass s) :=
  next_canonAfter (emit_canon (tapTo_canon h))

theorem execIdcode_canonAfter (h : s.Canon) : CanonAfter (execIdcode s) :=
  next_canonAfter (emit_canon (tapTo_canon h))

theorem execSamplePreload_canonAfter (h : s.Canon) : CanonAfter (execSamplePreload s) :=
  next_canonAfter (tapTo_canon h)

theorem execClamp_canonAfter (h : s.Canon) : CanonAfter (execClamp s) := next_canonAfter (tapTo_canon h)

theorem execExtest_canonAfter (h : s.Canon) : CanonAfter (execExtest s) := by
  refine next_canonAfter (foldl_canon
    (ite_canon (mgmtDown_canon (tapTo_canon h)) (linkDown_canon (mgmtDown_canon (tapTo_canon h)))) fun _ _ ht => ?_)
  split
  · exact portDown_canon ht
  · exact portDown_canon ht
  · exact portDown_canon ht
  · exact ht

theorem execDebugUnlock_canonAfter (h : s.Canon) : CanonAfter (execDebugUnlock s) :=
  ite_canonAfter (next_canonAfter (tapTo_canon h))
    (next_canonAfter (emit_canon (assertShared_canon (frame_canon (tapTo_canon h)))))

theorem zeroise_canon (h : s.Canon) : s.zeroise.Canon :=
  ⟨foldl_put_wf _ _ _ rfl, foldl_put_wf _ _ _ rfl, h.parts, h.rings, h.clerks, h.ports,
    forall_foldl_put _ _ (List.forall_mem_nil _) fun e he =>
      cellMk_canon rfl (h.eachCell e he).queues (h.eachCell e he).streams,
    forall_foldl_put _ _ (List.forall_mem_nil _) fun e he => dieMk_canon rfl (h.eachDie e he).tallies⟩

/-- A partition's part of an unlock. -/
theorem unlockPart_canon {p : Nat} (h : s.Canon) :
    (((s.stopWalks p).resetForms p).modPart p Partition.stopped).Canon :=
  modPart_canon (resetForms_canon (stopWalks_canon h))

/-- What an unlock leaves besides the maps: keys, sessions and packets gone, debug access open. -/
theorem unlockFrame_canon (h : s.Canon) :
    State.Canon { s with
      cxl := { s.cxl with ideKeys := [] }
      spdm := { s.spdm with sessions := [] }
      fabric := { s.fabric with inject := [], delivered := [], relays := [] }
      power := { s.power with memAct := false }
      sec := { s.sec with attKey := none, idBlocked := true, unlocked := true, access := true, challenge := none } } :=
  frame_canon h

theorem unlock_canon (h : s.Canon) : s.unlock.Canon := by
  refine unlockFrame_canon (zeroise_canon (finish_canon (ite_canon ?_ (linkDown_canon ?_))))
  all_goals
    refine foldl_canon (foldl_canon h fun _ _ ht => ?_) fun _ _ ht => setPort_canon ht
    exact ite_canon (setPartState_canon (unlockPart_canon ht)) (unlockPart_canon ht)

theorem execUnlockResponse_canonAfter {key sig : List Byte} (h : s.Canon) :
    CanonAfter (execUnlockResponse key sig s) := by
  unfold execUnlockResponse
  split
  · exact next_canonAfter h
  · exact ite_canonAfter (next_canonAfter (unlock_canon h)) (next_canonAfter h)

end Sys2Proof.Machine
end

section
/-! Every command and every step keep the canonical form of the state (R45, R67, R99, R151). -/

namespace Sys2Proof.Machine

-- One proof after another: hundreds of them at once, in one text with the model, take more threads than the check allows.
set_option Elab.async false

variable {s : State}

theorem exec_canonAfter {i : Instr} (h : s.Canon) : CanonAfter (exec i s) := by
  cases i with
  | identify => exact execIdentify_canonAfter h
  | featureRead => exact execFeatureRead_canonAfter h
  | partitionSet => exact execPartitionSet_canonAfter h
  | fabricConfig => exact execFabricConfig_canonAfter h
  | portEnable => exact execPortEnable_canonAfter h
  | deviceReset => exact execDeviceReset_canonAfter h
  | loadImage => exact execLoadImage_canonAfter h
  | loaderReadComplete => exact execLoaderReadComplete_canonAfter h
  | startJob => exact execStartJob_canonAfter h
  | stopJob => exact execStopJob_canonAfter h
  | unload => exact execUnload_canonAfter h
  | status => exact execStatus_canonAfter h
  | writeHbm => exact execWriteHbm_canonAfter h
  | readHbm => exact execReadHbm_canonAfter h
  | apertureMap => exact execApertureMap_canonAfter h
  | journalRead => exact execJournalRead_canonAfter h
  | chartLoad => exact execChartLoad_canonAfter h
  | chartRead => exact execChartRead_canonAfter h
  | fwBegin => exact execFwBegin_canonAfter h
  | fwBlock => exact execFwBlock_canonAfter h
  | fwStatus => exact execFwStatus_canonAfter h
  | fwActivate => exact execFwActivate_canonAfter h
  | fwDiscard => exact execFwDiscard_canonAfter h
  | fwFuse => exact execFwFuse_canonAfter h
  | powerStatus => exact execPowerStatus_canonAfter h
  | powerPolicy => exact execPowerPolicy_canonAfter h
  | benchState => exact execBenchState_canonAfter h
  | dieState => exact execDieState_canonAfter h
  | deviceStandby => exact execDeviceStandby_canonAfter h
  | powerCap => exact execPowerCap_canonAfter h
  | examResults => exact execExamResults_canonAfter h
  | examRun => exact execExamRun_canonAfter h
  | examPolicy => exact execExamPolicy_canonAfter h
  | telemetryRead => exact execTelemetryRead_canonAfter h
  | telemetryClear => exact execTelemetryClear_canonAfter h
  | recordRead => exact execRecordRead_canonAfter h
  | serviceSet => exact execServiceSet_canonAfter h
  | doorbell => exact execDoorbell_canonAfter h
  | repHeadWrite => exact execRepHeadWrite_canonAfter h
  | ringEnableWrite => exact execRingEnableWrite_canonAfter h
  | registerWrite => exact execRegisterWrite_canonAfter h
  | commandReply => exact execCommandReply_canonAfter h
  | completeWrite => exact execCompleteWrite_canonAfter h
  | gieWrite => exact execGieWrite_canonAfter h
  | routeWrite => exact execRouteWrite_canonAfter h
  | interruptDelivery => exact execInterruptDelivery_canonAfter h
  | handlerOverdue => exact execHandlerOverdue_canonAfter h
  | periodStart => exact execPeriodStart_canonAfter h
  | descriptorLoad => exact execDescriptorLoad_canonAfter h
  | descriptorIssue => exact execDescriptorIssue_canonAfter h
  | descriptorComplete => exact execDescriptorComplete_canonAfter h
  | tallySignal => exact execTallySignal_canonAfter h
  | nop => exact execNop_canonAfter h
  | engine => exact execEngine_canonAfter h
  | multiplyAdd => exact execMultiplyAdd_canonAfter h
  | absoluteDifference => exact execAbsoluteDifference_canonAfter h
  | squaredDifference => exact execSquaredDifference_canonAfter h
  | minPlus => exact execMinPlus_canonAfter h
  | maxPlus => exact execMaxPlus_canonAfter h
  | compareAndCount => exact execCompareAndCount_canonAfter h
  | drain => exact execDrain_canonAfter h
  | vector => exact execVector_canonAfter h
  | vecAdd => exact execVecAdd_canonAfter h
  | dequant => exact execDequant_canonAfter h
  | splitFp32 => exact execSplitFp32_canonAfter h
  | splitBf16 => exact execSplitBf16_canonAfter h
  | vecFma => exact execVecFma_canonAfter h
  | convert => exact execConvert_canonAfter h
  | optim => exact execOptim_canonAfter h
  | row => exact execRow_canonAfter h
  | softmaxForward => exact execSoftmaxForward_canonAfter h
  | softmaxBackward => exact execSoftmaxBackward_canonAfter h
  | normalisationForward => exact execNormalisationForward_canonAfter h
  | normalisationBackward => exact execNormalisationBackward_canonAfter h
  | orthonormalisation => exact execOrthonormalisation_canonAfter h
  | scalar => exact execScalar_canonAfter h
  | scalarSum => exact execScalarSum_canonAfter h
  | scalarSumOfSquares => exact execScalarSumOfSquares_canonAfter h
  | scalarMaximum => exact execScalarMaximum_canonAfter h
  | scalarMinimum => exact execScalarMinimum_canonAfter h
  | nanCount => exact execNanCount_canonAfter h
  | infinityCount => exact execInfinityCount_canonAfter h
  | move => exact execMove_canonAfter h
  | endWalk => exact execEndWalk_canonAfter h
  | loop => exact execLoop_canonAfter h
  | loopExitSignal => exact execLoopExitSignal_canonAfter h
  | branch => exact execBranch_canonAfter h
  | setCount => exact execSetCount_canonAfter h
  | join => exact execJoin_canonAfter h
  | joinSignal => exact execJoinSignal_canonAfter h
  | feature => exact execFeature_canonAfter h
  | skipPad => exact execSkipPad_canonAfter h
  | formPeriodEnd => exact execFormPeriodEnd_canonAfter h
  | slotTokenTake => exact execSlotTokenTake_canonAfter h
  | engineStep => exact execEngineStep_canonAfter h
  | drainStart => exact execDrainStart_canonAfter h
  | slotBufferPush => exact execSlotBufferPush_canonAfter h
  | queuePush => exact execQueuePush_canonAfter h
  | queuePop => exact execQueuePop_canonAfter h
  | streamEntryStart => exact execStreamEntryStart_canonAfter h
  | memoryReturn => exact execMemoryReturn_canonAfter h
  | writeStreamEntry => exact execWriteStreamEntry_canonAfter h
  | writeAccepted => exact execWriteAccepted_canonAfter h
  | weightCacheFill => exact execWeightCacheFill_canonAfter h
  | hbmTurn => exact execHbmTurn_canonAfter h
  | remoteWritePacket => exact execRemoteWritePacket_canonAfter h
  | readRequest => exact execReadRequest_canonAfter h
  | readResponse => exact execReadResponse_canonAfter h
  | runStart => exact execRunStart_canonAfter h
  | reductionOpen => exact execReductionOpen_canonAfter h
  | reductionPartial => exact execReductionPartial_canonAfter h
  | reductionFinal => exact execReductionFinal_canonAfter h
  | runComplete => exact execRunComplete_canonAfter h
  | dataFlit => exact execDataFlit_canonAfter h
  | idleFlit => exact execIdleFlit_canonAfter h
  | controlFlit => exact execControlFlit_canonAfter h
  | flitSlot => exact execFlitSlot_canonAfter h
  | replayLimit => exact execReplayLimit_canonAfter h
  | laneSignalLoss => exact execLaneSignalLoss_canonAfter h
  | retrainComplete => exact execRetrainComplete_canonAfter h
  | packetRoute => exact execPacketRoute_canonAfter h
  | packetSend => exact execPacketSend_canonAfter h
  | packetEscape => exact execPacketEscape_canonAfter h
  | multicastRelay => exact execMulticastRelay_canonAfter h
  | detectSignal => exact execDetectSignal_canonAfter h
  | detectTimeout => exact execDetectTimeout_canonAfter h
  | trainComplete => exact execTrainComplete_canonAfter h
  | trainTimeout => exact execTrainTimeout_canonAfter h
  | verifyComplete => exact execVerifyComplete_canonAfter h
  | mirrorBridgeWait => exact execMirrorBridgeWait_canonAfter h
  | stepBell => exact execStepBell_canonAfter h
  | restartBell => exact execRestartBell_canonAfter h
  | holdBell => exact execHoldBell_canonAfter h
  | haltBell => exact execHaltBell_canonAfter h
  | beacon => exact execBeacon_canonAfter h
  | memberToken => exact execMemberToken_canonAfter h
  | rowToken => exact execRowToken_canonAfter h
  | holdAnswer => exact execHoldAnswer_canonAfter h
  | slowNotice => exact execSlowNotice_canonAfter h
  | troubleNotice => exact execTroubleNotice_canonAfter h
  | claim => exact execClaim_canonAfter h
  | paceChange => exact execPaceChange_canonAfter h
  | patienceExpiry => exact execPatienceExpiry_canonAfter h
  | answerWindowExpiry => exact execAnswerWindowExpiry_canonAfter h
  | examinationAllowanceExpiry => exact execExaminationAllowanceExpiry_canonAfter h
  | beaconTimer => exact execBeaconTimer_canonAfter h
  | watchExpiry => exact execWatchExpiry_canonAfter h
  | takeover => exact execTakeover_canonAfter h
  | firstStepTimeout => exact execFirstStepTimeout_canonAfter h
  | periodClose => exact execPeriodClose_canonAfter h
  | mirrorPacket => exact execMirrorPacket_canonAfter h
  | mirrorCommit => exact execMirrorCommit_canonAfter h
  | mirrorApplyComplete => exact execMirrorApplyComplete_canonAfter h
  | mirrorAcknowledge => exact execMirrorAcknowledge_canonAfter h
  | snapshotPacket => exact execSnapshotPacket_canonAfter h
  | snapshotStreamComplete => exact execSnapshotStreamComplete_canonAfter h
  | chartUpdate => exact execChartUpdate_canonAfter h
  | chartCommit => exact execChartCommit_canonAfter h
  | chartAcknowledge => exact execChartAcknowledge_canonAfter h
  | seatRequest => exact execSeatRequest_canonAfter h
  | seatReady => exact execSeatReady_canonAfter h
  | refillRequest => exact execRefillRequest_canonAfter h
  | refillDone => exact execRefillDone_canonAfter h
  | waypointSealed => exact execWaypointSealed_canonAfter h
  | waypointWhole => exact execWaypointWhole_canonAfter h
  | restoreOrder => exact execRestoreOrder_canonAfter h
  | waypointRestoreComplete => exact execWaypointRestoreComplete_canonAfter h
  | restoreDone => exact execRestoreDone_canonAfter h
  | fenceNotice => exact execFenceNotice_canonAfter h
  | errorReport => exact execErrorReport_canonAfter h
  | reexaminationComplete => exact execReexaminationComplete_canonAfter h
  | quizTimer => exact execQuizTimer_canonAfter h
  | quizDigestsComplete => exact execQuizDigestsComplete_canonAfter h
  | telemetryTimer => exact execTelemetryTimer_canonAfter h
  | examTimer => exact execExamTimer_canonAfter h
  | waypointTimer => exact execWaypointTimer_canonAfter h
  | scrubTimer => exact execScrubTimer_canonAfter h
  | sliceGrant => exact execSliceGrant_canonAfter h
  | examSliceComplete => exact execExamSliceComplete_canonAfter h
  | sliceBudgetExpiry => exact execSliceBudgetExpiry_canonAfter h
  | hostMemRead => exact execHostMemRead_canonAfter h
  | hostMemWrite => exact execHostMemWrite_canonAfter h
  | bisnpResponse => exact execBisnpResponse_canonAfter h
  | h2dSnoop => exact execH2dSnoop_canonAfter h
  | dataServiceLine => exact execDataServiceLine_canonAfter h
  | cxlLinkUp => exact execCxlLinkUp_canonAfter h
  | cxlLinkReset => exact execCxlLinkReset_canonAfter h
  | viralReceived => exact execViralReceived_canonAfter h
  | ideIntegrityFailure => exact execIdeIntegrityFailure_canonAfter h
  | controlRequest => exact execControlRequest_canonAfter h
  | firmwarePiece => exact execFirmwarePiece_canonAfter h
  | networkConfiguration => exact execNetworkConfiguration_canonAfter h
  | keyManagement => exact execKeyManagement_canonAfter h
  | announcementTimer => exact execAnnouncementTimer_canonAfter h
  | arpRequest => exact execArpRequest_canonAfter h
  | neighborSolicitation => exact execNeighborSolicitation_canonAfter h
  | echoRequest => exact execEchoRequest_canonAfter h
  | mctpControl => exact execMctpControl_canonAfter h
  | getVersion => exact execGetVersion_canonAfter h
  | getCapabilities => exact execGetCapabilities_canonAfter h
  | negotiateAlgorithms => exact execNegotiateAlgorithms_canonAfter h
  | getDigests => exact execGetDigests_canonAfter h
  | getCertificate => exact execGetCertificate_canonAfter h
  | challenge t nonce => exact execChallenge_canonAfter (nonce := nonce) h
  | getMeasurements t ix nonce => exact execGetMeasurements_canonAfter (nonce := nonce) h
  | keyExchange => exact execKeyExchange_canonAfter h
  | finish => exact execFinish_canonAfter h
  | heartbeat => exact execHeartbeat_canonAfter h
  | keyUpdate => exact execKeyUpdate_canonAfter h
  | endSession => exact execEndSession_canonAfter h
  | vendorDefinedRequest => exact execVendorDefinedRequest_canonAfter h
  | fwVerificationDone => exact execFwVerificationDone_canonAfter h
  | switchBoundary => exact execSwitchBoundary_canonAfter h
  | activateWindowExpiry => exact execActivateWindowExpiry_canonAfter h
  | firmwareReady => exact execFirmwareReady_canonAfter h
  | firmwareReadyTimeout => exact execFirmwareReadyTimeout_canonAfter h
  | governorSample => exact execGovernorSample_canonAfter h
  | sprintLimit => exact execSprintLimit_canonAfter h
  | wearHour => exact execWearHour_canonAfter h
  | shutdownEventComplete => exact execShutdownEventComplete_canonAfter h
  | wakeStepComplete => exact execWakeStepComplete_canonAfter h
  | stageFault => exact execStageFault_canonAfter h
  | inputUndervoltage => exact execInputUndervoltage_canonAfter
  | overTemperatureStop => exact execOverTemperatureStop_canonAfter h
  | vinRise => exact execVinRise_canonAfter h
  | coldNAssert => exact execColdNAssert_canonAfter
  | coldNRelease => exact execColdNRelease_canonAfter h
  | coldStart => exact execColdStart_canonAfter h
  | perstAssert => exact execPerstAssert_canonAfter h
  | perstRelease => exact execPerstRelease_canonAfter h
  | startupReady => exact execStartupReady_canonAfter h
  | startHold => exact execStartHold_canonAfter h
  | trstNAssert => exact execTrstNAssert_canonAfter h
  | bypass => exact execBypass_canonAfter h
  | idcode => exact execIdcode_canonAfter h
  | samplePreload => exact execSamplePreload_canonAfter h
  | extest => exact execExtest_canonAfter h
  | clamp => exact execClamp_canonAfter h
  | debugUnlock => exact execDebugUnlock_canonAfter h
  | unlockResponse => exact execUnlockResponse_canonAfter h
  | waypointCopyComplete => exact execWaypointCopyComplete_canonAfter h
  | bodyInvalidReport => exact execBodyInvalidReport_canonAfter h
  | managementLinkLoss => exact execManagementLinkLoss_canonAfter h
  | i3cCommonCommand => exact execI3cCommonCommand_canonAfter h

theorem step_canonAfter (h : s.Canon) : CanonAfter (step s) := by
  unfold step
  split
  · exact exec_canonAfter (frame_canon h)
  · split
    · split
      next heq => exact next_canonAfter (frame_canon (exec_canonAfter (frame_canon h) _ heq))
      next hne => exact fun t ht => absurd ht (hne t)
    · exact next_canonAfter h

/-- Settles O3: every command keeps the canonical form (`exec_canonAfter`), and a step is the front command's, or a
deferred one's, on a state that differs in its queues alone. -/
theorem stepKeepsCanonical : Obligations.StepKeepsCanonical := fun _ _ hs ht => step_canonAfter hs _ ht

end Sys2Proof.Machine
end

section
/-! The laws of queues, mesh routes, rotas and check bits (R29, R45, R46, R48, R70, R125, R178): what a push and a pop keep of a queue, that a step of a route keeps its entries in order, and when an owner hands over. -/

namespace Sys2Proof.Machine

-- One proof after another: hundreds of them at once, in one text with the model, take more threads than the check allows.
set_option Elab.async false

variable {s : State}

/-! ### Queues (R45, R46) -/

/-- What a queue holds, the oldest first: its entries, then the pushes that wait for a free one. -/
def Queue.held (q : Queue) : List Entry := q.entries ++ q.waiting

theorem Queue.held_push (n : Nat) (late : Bool) (e : Entry) (q : Queue) : (q.push n late e).held = q.held ++ [e] := by
  unfold Queue.push
  split
  next h => simp [Queue.held, List.isEmpty_iff.1 h.1]
  · simp [Queue.held]

theorem Queue.entries_push_le {n : Nat} {late : Bool} {e : Entry} {q : Queue} (h : q.entries.length ≤ n) :
    (q.push n late e).entries.length ≤ n := by
  unfold Queue.push
  split
  next hn => simpa using hn.2
  · exact h

theorem Queue.pop_cons {n : Nat} {q : Queue} {e : Entry} {rest : List Entry} (hq : q.entries = e :: rest) :
    ∃ t, q.pop n = some (e, t) ∧ t.held = rest ++ q.waiting ∧ (q.entries.length ≤ n → t.entries.length ≤ n) := by
  have hlen : q.entries.length = rest.length + 1 := by rw [hq]; rfl
  unfold Queue.pop
  rw [hq]
  dsimp only
  split
  next w ws hw =>
    split
    next hn => exact ⟨_, rfl, by simp [Queue.held, hw], fun _ => by simpa using hn⟩
    · exact ⟨_, rfl, by simp [Queue.held, hw], fun h => by dsimp only; simp at h; omega⟩
  next hw => exact ⟨_, rfl, by simp [Queue.held, hw], fun h => by dsimp only; simp at h; omega⟩

theorem Queue.held_of_pop {n : Nat} {q t : Queue} {e : Entry} (h : q.pop n = some (e, t)) : q.held = e :: t.held := by
  cases hq : q.entries with
  | nil => simp [Queue.pop, hq] at h
  | cons a rest =>
    obtain ⟨u, hu, hheld, -⟩ := Queue.pop_cons (n := n) hq
    obtain ⟨rfl, rfl⟩ := Prod.mk.inj (Option.some.inj (hu.symm.trans h))
    rw [hheld, Queue.held, hq, List.cons_append]

theorem queue_push {x : Cell} {q : Nat} {e : Entry} (hx : x.Canon) :
    (x.push q e).queue q = (x.queue q).push (queueDepth q) (x.awaits q) e := look_put_same hx.queues

theorem queue_push_ne {x : Cell} {q r : Nat} {e : Entry} (h : r ≠ q) : (x.push q e).queue r = x.queue r := look_put_ne h

theorem queue_of_pop {x y : Cell} {q : Nat} {e : Entry} (hx : x.Canon) (h : x.pop q = some (e, y)) :
    (x.queue q).pop (queueDepth q) = some (e, y.queue q) ∧ ∀ r, r ≠ q → y.queue r = x.queue r := by
  obtain ⟨r, hr, he⟩ := Option.map_eq_some_iff.1 h
  obtain ⟨rfl, rfl⟩ := Prod.mk.inj he
  exact ⟨hr.trans (congrArg (fun t => some (r.1, t)) (look_put_same hx.queues).symm), fun _ hne => look_put_ne hne⟩

/-! ### The pop of a queue by its consumer (R45, R48) -/

section

variable {c : CellIx} {q : QueueIx} {x : Fin 4} {e : Entry} {t : State}

theorem execQueuePop_route {out : Option (Fin 4)} (h : s.Awake c) (hq : 20 ≤ q.val) :
    execQueuePop c q out s = .next (s.routeStep c (q.val - 20)) := (onCell_awake h).trans (if_pos hq)

theorem execQueuePop_consumed (h : s.Awake c) (hq : q.val < 20) (hs : s.consume c q = some (e, t)) :
    execQueuePop c q none s = .next t := by
  refine (onCell_awake h).trans ((if_neg (by omega)).trans ?_)
  dsimp only
  rw [hs]

theorem execQueuePop_empty (h : s.Awake c) (hq : q.val < 20) (hs : s.consume c q = none) :
    execQueuePop c q none s = .next s := by
  refine (onCell_awake h).trans ((if_neg (by omega)).trans ?_)
  dsimp only
  rw [hs]

theorem execQueuePop_out (h : s.Awake c) (hq : q.val < 20) (hy : 16 ≤ q.val)
    (hwait : ((s.cell c).queue (20 + x.val)).waiting = []) (hroom : ((s.cell c).queue (20 + x.val)).entries.length < 8)
    (hs : s.popOut c q = some (e, t)) :
    execQueuePop c q (some x) s = .next (t.modCell c fun y => y.push (20 + x.val) e) := by
  have hd : queueDepth (20 + x.val) = 8 := by simp [queueDepth]; omega
  refine (onCell_awake h).trans ((if_neg (by omega)).trans ((if_pos ⟨hy, by rw [hwait]; rfl, by rwa [hd]⟩).trans ?_))
  rw [hs]

theorem execQueuePop_out_waits (h : s.Awake c) (hq : q.val < 20)
    (hw : q.val < 16 ∨ ((s.cell c).queue (20 + x.val)).waiting ≠ [] ∨ 8 ≤ ((s.cell c).queue (20 + x.val)).entries.length ∨
      s.popOut c q = none) : execQueuePop c q (some x) s = .next s := by
  have hd : queueDepth (20 + x.val) = 8 := by simp [queueDepth]; omega
  refine (onCell_awake h).trans ((if_neg (by omega)).trans ?_)
  dsimp only
  split
  next hc =>
    obtain ⟨hy, hwait, hroom⟩ := hc
    rw [hd] at hroom
    obtain hlt | hne | hle | hs := hw
    · omega
    · exact absurd (List.isEmpty_iff.1 hwait) hne
    · omega
    · rw [hs]
  · rfl

end

/-! ### The entries of a mesh route (R48) -/

/-- The far queue of a route. -/
def State.farQueue (s : State) (far : Nat × Nat) : Queue := (s.cell far.1).queue (8 + far.2)

/-- The entries on the route of a key, the foremost first. -/
def State.onRoute (s : State) (p key : Nat) : List (Nat × Entry) := look [] (s.part p).period.hops key

theorem crossHop_cell {t : State} {p k : Nat} {hops : List (Nat × Nat)} (ht : s.crossHop p hops k = some t) (c : Nat) :
    t.cell c = s.cell c := by
  obtain ⟨r, -, rfl⟩ := Option.map_eq_some_iff.1 ht
  rfl

theorem crossHop_hops {t : State} {p k : Nat} {hops : List (Nat × Nat)} (h : s.Canon) (ht : s.crossHop p hops k = some t) :
    (t.part p).period.hops = (s.part p).period.hops := by
  obtain ⟨r, -, rfl⟩ := Option.map_eq_some_iff.1 ht
  simp [part_modPart h.parts]

theorem farQueue_push {far : Nat × Nat} {e : Entry} (h : s.Canon) :
    ((s.modCell far.1 fun x => x.push (8 + far.2) e).farQueue far).held = (s.farQueue far).held ++ [e] := by
  rw [State.farQueue, cell_modCell_same h.cells, queue_push (cell_canon h _), Queue.held_push]
  rfl

/-- The far queue of a route takes an entry at once. -/
def State.farFree (s : State) (far : Nat × Nat) : Prop :=
  (s.farQueue far).waiting.isEmpty ∧ (s.farQueue far).entries.length < queueDepth (8 + far.2)

/-- What stands ahead of a route's source, the foremost first: the far queue, then the entries on the route. -/
def heldAhead (far : Nat × Nat) (m : List (Nat × Entry) × State) : List Entry := (m.2.farQueue far).held ++ m.1.map Prod.snd

/-- The entries of a route keep their order: those that go past its last resource enter the far queue, foremost first.
An entry stays behind only where the far queue is full, or where none behind it has come so far. -/
theorem moveEntries_heldAhead {p : Nat} {hops : List (Nat × Nat)} {far : Nat × Nat} {l acc : List (Nat × Entry)} (h : s.Canon)
    (hl : (l.map Prod.fst).Pairwise fun a b => b < a)
    (hacc : acc = [] ∨ ¬ s.farFree far ∨ ∀ k ∈ l.map Prod.fst, k < hops.length) :
    heldAhead far (State.moveEntries p hops far l acc s) = heldAhead far (acc, s) ++ l.map Prod.snd := by
  induction l generalizing acc s with
  | nil => exact (List.append_nil _).symm
  | cons a l ih =>
    obtain ⟨k, e⟩ := a
    obtain ⟨hk, hl⟩ := List.pairwise_cons.1 hl
    -- an entry that stays on the route, in a state with the same far queue
    have stay {t : State} {j : Nat} (ht : t.Canon) (hq : t.farQueue far = s.farQueue far)
        (hj : ¬ t.farFree far ∨ k < hops.length) :
        heldAhead far (State.moveEntries p hops far l (acc ++ [(j, e)]) t) =
          heldAhead far (acc, s) ++ ((k, e) :: l).map Prod.snd := by
      rw [ih ht hl (.inr (hj.imp_right fun hkl i hi => (hk i hi).trans hkl)), heldAhead, hq, heldAhead]
      simp
    unfold State.moveEntries
    dsimp only
    split
    next hlen =>
      split
      next hroom =>
        have hnil : acc = [] := by
          obtain h1 | h1 | h1 := hacc
          · exact h1
          · exact absurd hroom h1
          · exact absurd (h1 k List.mem_cons_self) (Nat.not_lt.2 hlen)
        subst hnil
        rw [ih (modCell_canon h fun _ hx => cellPush_canon hx) hl (.inl rfl), heldAhead, farQueue_push h, heldAhead]
        simp
      next hroom => exact stay h rfl (.inl hroom)
    next hlen =>
      have hlt : k < hops.length := Nat.not_le.1 hlen
      split
      · exact stay h rfl (.inr hlt)
      · split
        next hcross =>
          exact stay (crossHop_canon h hcross) (congrArg (Cell.queue · _) (crossHop_cell hcross _)) (.inr hlt)
        · exact stay h rfl (.inr hlt)

/-- The steps of a route's entries leave every queue but the far one, and what the partition's routes hold. -/
theorem moveEntries_frame {p c r : Nat} {hops : List (Nat × Nat)} {far : Nat × Nat} {l acc : List (Nat × Entry)} (h : s.Canon)
    (hr : r ≠ 8 + far.2) :
    ((State.moveEntries p hops far l acc s).2.cell c).queue r = (s.cell c).queue r ∧
      ((State.moveEntries p hops far l acc s).2.part p).period.hops = (s.part p).period.hops := by
  refine (moveEntries_keeps (P := fun t : State => t.Canon ∧ (t.cell c).queue r = (s.cell c).queue r ∧
    (t.part p).period.hops = (s.part p).period.hops) l acc ⟨h, rfl, rfl⟩ ?_ ?_).2
  · rintro t e ⟨ht, hq, hh⟩
    refine ⟨modCell_canon ht fun _ hx => cellPush_canon hx, Eq.trans ?_ hq, hh⟩
    rw [cell_modCell ht.cells]
    split
    next hc => rw [queue_push_ne hr, hc]
    · rfl
  · rintro t u k ⟨ht, hq, hh⟩ hu
    exact ⟨crossHop_canon ht hu, (congrArg (Cell.queue · r) (crossHop_cell hu c)).trans hq, (crossHop_hops ht hu).trans hh⟩

/-- A route's entries and the state once those entries have gone on, before the source's oldest sets out. -/
def State.routeMoves (s : State) (c x : Nat) (far : Nat × Nat) : List (Nat × Entry) × State :=
  State.moveEntries (s.cellPart c) ((s.part (s.cellPart c)).routeHops c x) far (s.onRoute (s.cellPart c) (4 * c + x)) [] s

/-- The state with the entries on a route written back. -/
def State.putOnRoute (s : State) (p key : Nat) (l : List (Nat × Entry)) : State :=
  s.modPart p fun P => { P with period := { P.period with hops := put [] P.period.hops key l } }

theorem routeStep_of_farEnd_none {c x : Nat} (h : s.farEnd c x = none) : s.routeStep c x = s := by
  unfold State.routeStep
  dsimp only
  rw [h]
  split
  next hf => exact absurd hf nofun
  · rfl

/-- What a step of a route can do: nothing, where no resource lists it; else its entries go on, and then the oldest
entry of its source sets out or stays. -/
theorem routeStep_cases {c x : Nat} {far : Nat × Nat} (hfar : s.farEnd c x = some far) :
    let p := s.cellPart c
    let m := s.routeMoves c x far
    s.routeStep c x = s ∨ s.routeStep c x = m.2.putOnRoute p (4 * c + x) m.1 ∨
      ∃ e y t, (m.2.cell c).pop (20 + x) = some (e, y) ∧ m.2.crossHop p ((s.part p).routeHops c x) 0 = some t ∧
        s.routeStep c x = (t.setCell c y).putOnRoute p (4 * c + x) (m.1 ++ [(1, e)]) := by
  unfold State.routeStep
  dsimp only
  rw [hfar]
  split
  next hf =>
    obtain rfl := Option.some.inj hf
    right
    split
    next e y hpop =>
      split
      · exact .inl rfl
      · split
        next t ht => exact .inr ⟨e, y, t, hpop, ht, rfl⟩
        · exact .inl rfl
    · exact .inl rfl
  · exact .inl rfl

/-- What a mesh route holds from its far end back to its source: the far queue, the entries on the route, the source. -/
def State.routeHeld (s : State) (p c x : Nat) (far : Nat × Nat) : List Entry :=
  heldAhead far (s.onRoute p (4 * c + x), s) ++ ((s.cell c).queue (20 + x)).held

theorem routeHeld_putOnRoute {p c x : Nat} {far : Nat × Nat} {l : List (Nat × Entry)} (h : s.Canon)
    (hh : SMap.wf [] (s.part p).period.hops = true) :
    (s.putOnRoute p (4 * c + x) l).routeHeld p c x far = heldAhead far (l, s) ++ ((s.cell c).queue (20 + x)).held := by
  simp only [State.routeHeld, State.onRoute, State.putOnRoute, part_modPart h.parts, if_true, look_put_same hh]
  rfl

/-- An entry that sets out from the source leaves the far queue as it is. -/
theorem setOut_queues {t : State} {y : Cell} {e : Entry} {p c x k : Nat} {hops : List (Nat × Nat)} {far : Nat × Nat} (h : s.Canon)
    (hpop : (s.cell c).pop (20 + x) = some (e, y)) (ht : s.crossHop p hops k = some t) (hx : far.2 < 4) :
    (t.setCell c y).farQueue far = s.farQueue far ∧
      ((s.cell c).queue (20 + x)).held = e :: (((t.setCell c y).cell c).queue (20 + x)).held := by
  have hcells := (crossHop_canon h ht).cells
  obtain ⟨hq, hne⟩ := queue_of_pop (cell_canon h c) hpop
  constructor
  · rw [State.farQueue, cell_setCell hcells, State.farQueue]
    split
    next hc => rw [hne _ (by omega), hc]
    · rw [crossHop_cell ht]
  · rw [cell_setCell hcells, if_pos rfl]
    exact Queue.held_of_pop hq

/-- A step of a mesh route loses, doubles and overtakes no entry. -/
theorem routeStep_held {c x : Nat} {far : Nat × Nat} (hfar : s.farEnd c x = some far) (h : s.Canon)
    (hh : SMap.wf [] (s.part (s.cellPart c)).period.hops = true)
    (hkeys : ((s.onRoute (s.cellPart c) (4 * c + x)).map Prod.fst).Pairwise fun a b => b < a) (hx : far.2 < 4) :
    (s.routeStep c x).routeHeld (s.cellPart c) c x far = s.routeHeld (s.cellPart c) c x far := by
  have hm : (s.routeMoves c x far).2.Canon := moveEntries_canon h
  have hahead : heldAhead far (s.routeMoves c x far) = heldAhead far (s.onRoute (s.cellPart c) (4 * c + x), s) :=
    (moveEntries_heldAhead h hkeys (.inl rfl)).trans (by simp [heldAhead])
  obtain ⟨hsrc, hhops⟩ : ((s.routeMoves c x far).2.cell c).queue (20 + x) = (s.cell c).queue (20 + x) ∧
      ((s.routeMoves c x far).2.part (s.cellPart c)).period.hops = (s.part (s.cellPart c)).period.hops :=
    moveEntries_frame h (by omega)
  have hbefore : s.routeHeld (s.cellPart c) c x far =
      heldAhead far (s.routeMoves c x far) ++ (((s.routeMoves c x far).2.cell c).queue (20 + x)).held := by
    rw [State.routeHeld, hahead, hsrc]
  rw [← hhops] at hh
  rw [hbefore]
  obtain hs | hs | ⟨e, y, t, hpop, ht, hs⟩ := routeStep_cases hfar
  · rw [hs, hbefore]
  · rw [hs, routeHeld_putOnRoute hm hh]
  · obtain ⟨hq, hpopped⟩ := setOut_queues hm hpop ht hx
    have hu : (t.setCell c y).Canon := setCell_canon (crossHop_canon hm ht) (cellPop_canon (cell_canon hm c) hpop)
    rw [hs, routeHeld_putOnRoute hu ((congrArg (SMap.wf []) (crossHop_hops hm ht)).trans hh), hpopped, heldAhead, hq, heldAhead]
    simp

/-! ### Rotas that do not pass by themselves (R29, R178) -/

theorem pass_given (t : TtRec) (n : Nat) (r : Rota) : (r.pass t n).given = r.given := by
  induction n generalizing r with
  | zero => rfl
  | succ n ih =>
    unfold Rota.pass
    split
    · exact ih _
    · rfl

theorem cross_of_sole {t : TtRec} (k : Nat) (r : Rota) (h : ttNown t ≤ 1) :
    r.cross t k = some { r.pass t (ttNown t) with given := alter 0 r.given k fun n => n + 1 } :=
  (if_pos h).trans (by rw [pass_given])

theorem cross_of_several {t : TtRec} {k : Nat} {r u : Rota} (h : 1 < ttNown t) (hu : r.cross t k = some u) :
    look 0 r.given k < ttCount t k ∧ u = { turn := (k + 1) % ttNown t, given := alter 0 r.given k fun n => n + 1 } := by
  replace hu := (if_neg (Nat.not_le.2 h)).symm.trans hu
  rw [pass_given] at hu
  split at hu
  next hk => exact ⟨hk.2, (Option.some.inj hu).symm⟩
  · exact absurd hu nofun

theorem cross_given {t : TtRec} {k : Nat} {r u : Rota} (hu : r.cross t k = some u) :
    u.given = alter 0 r.given k fun n => n + 1 := by
  obtain h | h := Nat.lt_or_ge 1 (ttNown t)
  · rw [(cross_of_several h hu).2]
  · rw [← Option.some.inj ((cross_of_sole k r h).symm.trans hu)]

/-! ### Check bits (R70, R125) -/

theorem length_freeBytes (s : State) (n : Nat) : (s.freeBytes n).1.length = n := by
  have h8 (v : BitVec 64) : (bytesOfBv 8 v).length = 8 := by simp [bytesOfBv, bytesOfNat]
  have h : n ≤ (n + 7) / 8 * 8 := by omega
  simpa [State.freeBytes, List.length_flatMap, h8] using h

/-- Settles O38: a queue's and a route's entries keep their order (`Queue.held_push`, `Queue.pop_cons`, `routeStep_held`),
and a rota's owner and a word's check bits do what R29, R178 and R70 say. -/
theorem queuesComplete : Obligations.QueuesComplete := by
  refine ⟨⟨?_, ?_, ?_, ?_, ?_, ?_, ?_, ?_⟩, ?_⟩
  · exact fun s c q e h => onCell_awake h
  · exact fun n late e q => ⟨Queue.held_push n late e q, Queue.entries_push_le⟩
  · exact fun n q e rest hq => Queue.pop_cons hq
  · exact fun s c q h hq => ⟨fun _ _ => execQueuePop_consumed h hq, execQueuePop_empty h hq⟩
  · exact fun s c q x h hq => ⟨fun _ _ => execQueuePop_out h hq, execQueuePop_out_waits h hq⟩
  · intro s c q out h hq
    refine ⟨execQueuePop_route h hq, routeStep_of_farEnd_none, fun far hfar hs hh hkeys hx => ?_⟩
    have hheld := routeStep_held hfar hs hh hkeys hx
    rw [State.routeHeld, State.routeHeld, Nat.add_sub_cancel' hq] at hheld
    simpa [heldAhead, Queue.held, State.farQueue, State.onRoute] using hheld
  · exact fun t k r u hu => ⟨cross_given hu, fun h => ⟨(cross_of_several h hu).1, by rw [(cross_of_several h hu).2]⟩⟩
  · exact fun t r h => by rw [cross_of_sole 0 r h]; rfl
  · exact fun s bs count err => ⟨rfl, rfl, rfl, ⟨_, _, rfl, length_freeBytes _ _⟩, ⟨_, _, rfl, length_freeBytes _ _⟩⟩

end Sys2Proof.Machine
end

section
/-! The laws of the storage formats (R73, R74, R89): an element's bits as a sign and a magnitude, and what writing a value that lies on the format's own grid gives. -/

namespace Sys2Proof.Machine

/-! ### The parts of an element's bits (R73, R74) -/

/-- The sign of an element's bits. -/
def Fmt.signOf (f : Fmt) (bits : Nat) : Bool := decide (bits / 2 ^ (f.ebits + f.fbits) % 2 = 1)

/-- The magnitude bits of an element: its exponent and its fraction. -/
def Fmt.magOf (f : Fmt) (bits : Nat) : Nat := bits % 2 ^ (f.ebits + f.fbits)

/-- The number that a sign and the magnitude bits of a finite element stand for: a subnormal or a normal one. -/
def Fmt.finite (f : Fmt) (neg : Bool) (mag : Nat) : Val :=
  if mag / 2 ^ f.fbits = 0 then .num neg (mag % 2 ^ f.fbits) (1 - f.bias - f.fbits)
  else .num neg (mag % 2 ^ f.fbits + 2 ^ f.fbits) ((mag / 2 ^ f.fbits : Nat) - f.bias - f.fbits)

/-- What `maxMag` means (R73): the infinity, of the highest exponent and fraction 0, comes right after it; in a format
without infinities every magnitude but E4M3's NaN is at most it. -/
def Fmt.TopFinite (f : Fmt) : Prop :=
  if f.hasInf then f.maxMag + 1 = (2 ^ f.ebits - 1) * 2 ^ f.fbits
  else ∀ mag, mag < 2 ^ (f.ebits + f.fbits) → ¬(f = fmtE4M3 ∧ mag = 0x7F) → mag ≤ f.maxMag

theorem topFinite_of_mem {f : Fmt} (h : f ∈ [fmtE4M3, fmtE5M2, fmtE2M1, fmtBF16, fmtFP32, fmtW40]) : f.TopFinite := by
  simp only [List.mem_cons, List.not_mem_nil, or_false] at h
  obtain rfl | rfl | rfl | rfl | rfl | rfl := h
  case inl =>
    intro mag hlt hnan
    have hlt : mag < 2 ^ 7 := hlt
    have hne : mag ≠ 0x7F := fun he => hnan ⟨rfl, he⟩
    show mag ≤ 0x7E
    omega
  case inr.inr.inl => exact fun mag hlt _ => Nat.le_of_lt_succ hlt
  all_goals exact rfl

theorem sign_mul_add_magOf {f : Fmt} {bits : Nat} (h : bits < 2 ^ f.width) :
    (f.signOf bits).toNat * 2 ^ (f.ebits + f.fbits) + f.magOf bits = bits := by
  have hw : f.width = f.ebits + f.fbits + 1 := by unfold Fmt.width; omega
  have hlt : bits / 2 ^ (f.ebits + f.fbits) < 2 := Nat.div_lt_of_lt_mul (by rwa [hw, pow_succ] at h)
  have hs : (f.signOf bits).toNat = bits / 2 ^ (f.ebits + f.fbits) := by
    rw [Fmt.signOf, Nat.mod_eq_of_lt hlt]
    interval_cases bits / 2 ^ (f.ebits + f.fbits) <;> rfl
  rw [hs, Fmt.magOf, Nat.div_add_mod']

theorem decodeBits_eq (f : Fmt) (bits : Nat) : decodeBits f bits =
    if f.hasInf then
      if f.magOf bits / 2 ^ f.fbits = 2 ^ f.ebits - 1 then
        if f.magOf bits % 2 ^ f.fbits = 0 then .inf (f.signOf bits) else .nan
      else f.finite (f.signOf bits) (f.magOf bits)
    else if f = fmtE4M3 ∧ f.magOf bits = 0x7F then .nan
    else f.finite (f.signOf bits) (f.magOf bits) := rfl

/-- An element that is no NaN is an infinity, right after the largest finite magnitude, or finite. -/
theorem decodeBits_cases {f : Fmt} {bits : Nat} (hf : f.TopFinite) (h : (decodeBits f bits).isNan = false) :
    (f.hasInf = true ∧ f.magOf bits = f.maxMag + 1 ∧ decodeBits f bits = .inf (f.signOf bits)) ∨
    (f.magOf bits ≤ f.maxMag ∧ decodeBits f bits = f.finite (f.signOf bits) (f.magOf bits)) := by
  have hmag : f.magOf bits < 2 ^ (f.ebits + f.fbits) := Nat.mod_lt _ (Nat.two_pow_pos _)
  have hsplit := Nat.div_add_mod' (f.magOf bits) (2 ^ f.fbits)
  rw [decodeBits_eq] at h ⊢
  unfold Fmt.TopFinite at hf
  by_cases hi : f.hasInf = true
  case pos =>
    rw [if_pos hi] at hf
    by_cases hex : f.magOf bits / 2 ^ f.fbits = 2 ^ f.ebits - 1
    case pos =>
      by_cases hfr : f.magOf bits % 2 ^ f.fbits = 0
      · rw [hex, hfr] at hsplit
        exact .inl ⟨hi, by omega, by simp [hi, hex, hfr]⟩
      · simp [hi, hex, hfr, Val.isNan] at h
    case neg =>
      have hlt : f.magOf bits < f.maxMag + 1 := by
        have hexlt : f.magOf bits / 2 ^ f.fbits < 2 ^ f.ebits :=
          Nat.div_lt_of_lt_mul (by rwa [pow_add, mul_comm] at hmag)
        rw [hf]
        exact (Nat.div_lt_iff_lt_mul (Nat.two_pow_pos _)).1 (by omega)
      exact .inr ⟨Nat.le_of_lt_succ hlt, by simp [hi, hex]⟩
  case neg =>
    rw [if_neg hi] at hf
    by_cases hn : f = fmtE4M3 ∧ f.magOf bits = 0x7F
    · rw [if_neg hi, if_pos hn] at h
      exact absurd h nofun
    · exact .inr ⟨hf _ hmag hn, by rw [if_neg hi, if_neg hn]⟩

/-! ### Writing a value that lies on the grid (R89, R90) -/

/-- A magnitude on the format's grid keeps its units, whatever the rounding: there is no remainder. -/
theorem gridRound_of_onGrid {fbits m : Nat} {emin e : Int} (r : Rounding) (hlt : m < 2 ^ (fbits + 1))
    (hmin : emin - fbits ≤ e) (hsub : m < 2 ^ fbits → e = emin - fbits) : gridRound r fbits emin m e = (m, e) := by
  unfold gridRound
  split
  next h0 => rw [h0, hsub (h0 ▸ Nat.two_pow_pos _)]
  next h0 =>
    have hu : max (magLog2 m e) emin - fbits = e := by
      have hle : Nat.log2 m < fbits + 1 := (Nat.log2_lt h0).2 hlt
      have hsub' : Nat.log2 m < fbits → e = emin - fbits := fun h => hsub ((Nat.log2_lt h0).1 h)
      unfold magLog2 floorLog2
      omega
    simp [hu]

section

variable {f : Fmt} (r : Rounding) (neg : Bool)

/-- A value whose magnitude bits are within the format's range is written as its sign and those bits. -/
theorem encodeVal_of_onGrid {m mag : Nat} {e : Int} (hg : gridRound r f.fbits (1 - f.bias) m e = (m, e))
    (hp : packMag f m e = mag) (h : mag ≤ f.maxMag) :
    encodeVal f r (.num neg m e) = neg.toNat * 2 ^ (f.ebits + f.fbits) + mag := by
  simp [encodeVal, hg, hp, Nat.not_lt.2 h]

theorem encodeVal_subnormal {fr : Nat} (hfr : fr < 2 ^ f.fbits) (h : fr ≤ f.maxMag) :
    encodeVal f r (.num neg fr (1 - f.bias - f.fbits)) = neg.toNat * 2 ^ (f.ebits + f.fbits) + fr :=
  encodeVal_of_onGrid r neg (gridRound_of_onGrid r (by omega) le_rfl fun _ => rfl) (if_pos hfr) h

theorem encodeVal_normal {ex fr : Nat} (hex : ex ≠ 0) (hfr : fr < 2 ^ f.fbits) (h : ex * 2 ^ f.fbits + fr ≤ f.maxMag) :
    encodeVal f r (.num neg (fr + 2 ^ f.fbits) (ex - f.bias - f.fbits)) =
      neg.toNat * 2 ^ (f.ebits + f.fbits) + (ex * 2 ^ f.fbits + fr) := by
  have hlt : fr + 2 ^ f.fbits < 2 ^ (f.fbits + 1) := by omega
  have hp : packMag f (fr + 2 ^ f.fbits) (ex - f.bias - f.fbits) = ex * 2 ^ f.fbits + fr := by
    rw [packMag, if_neg (by omega), if_pos hlt]
    simp
  exact encodeVal_of_onGrid r neg (gridRound_of_onGrid r hlt (by omega) fun _ => by omega) hp h

theorem encodeVal_finite {mag : Nat} (h : mag ≤ f.maxMag) :
    encodeVal f r (f.finite neg mag) = neg.toNat * 2 ^ (f.ebits + f.fbits) + mag := by
  have hfr := Nat.mod_lt mag (Nat.two_pow_pos f.fbits)
  have hsplit := Nat.div_add_mod' mag (2 ^ f.fbits)
  unfold Fmt.finite
  split
  next h0 =>
    rw [h0, zero_mul, zero_add] at hsplit
    rw [encodeVal_subnormal r neg hfr (hsplit.trans_le h), hsplit]
  next h0 => rw [encodeVal_normal r neg h0 hfr (hsplit.trans_le h), hsplit]

theorem encodeVal_inf (h : f.hasInf = true) :
    encodeVal f r (.inf neg) = neg.toNat * 2 ^ (f.ebits + f.fbits) + (f.maxMag + 1) := if_pos h

end

/-! ### The statement -/

/-- Settles O33: an element's value lies on the format's grid, so writing it rounds nothing (`encodeVal_finite`) and
puts the sign and the magnitude back together (`sign_mul_add_magOf`). -/
theorem formatsHoldTheirValues : Obligations.FormatsHoldTheirValues := by
  intro f r bits hf hbits hnan _
  obtain ⟨hinf, hmag, hval⟩ | ⟨hmag, hval⟩ := decodeBits_cases (topFinite_of_mem hf) hnan
  · rw [hval, encodeVal_inf r _ hinf, ← hmag, sign_mul_add_magOf hbits]
  · rw [hval, encodeVal_finite r _ hmag, sign_mul_add_magOf hbits]

end Sys2Proof.Machine
end

section
/-! The laws of the lane-by-lane functions (R93, R94, R119, R149) and of the SCALAR reductions (R150, R162): what one lane of a result is, what one entry does to a cell's partial, and when a form's combination completes. -/

namespace Sys2Proof.Machine

/-! ### Lanes (R93, R94, R119, R149) -/

theorem lanewise_getD (f : List Val → Val) (ins : List (List InElem)) {l : Nat} (h : l < 64) (z : InElem) :
    (lanewise f ins).getD l z =
      ⟨f (ins.map fun v => (v.getD l ⟨.zero, false⟩).val), ins.any fun v => (v.getD l ⟨.zero, false⟩).poison⟩ := by
  have hl : l < (lanewise f ins).length := by simpa [lanewise] using h
  rw [List.getD_eq_getElem _ _ hl]
  simp [lanewise, Function.comp_def]

theorem lanewise_pair_getD (f : List Val → Val) (a b : List InElem) {l : Nat} (h : l < 64) (z : InElem) :
    (lanewise f [a, b]).getD l z =
      ⟨f [(a.getD l ⟨.zero, false⟩).val, (b.getD l ⟨.zero, false⟩).val],
       (a.getD l ⟨.zero, false⟩).poison || (b.getD l ⟨.zero, false⟩).poison⟩ := by
  rw [lanewise_getD f _ h]
  simp

theorem lanewise_triple_getD (f : List Val → Val) (a b x : List InElem) {l : Nat} (h : l < 64) (z : InElem) :
    (lanewise f [a, b, x]).getD l z =
      ⟨f [(a.getD l ⟨.zero, false⟩).val, (b.getD l ⟨.zero, false⟩).val, (x.getD l ⟨.zero, false⟩).val],
       (a.getD l ⟨.zero, false⟩).poison || (b.getD l ⟨.zero, false⟩).poison || (x.getD l ⟨.zero, false⟩).poison⟩ := by
  rw [lanewise_getD f _ h]
  simp [Bool.or_assoc]

/-- Settles O35: a lane of a result depends on that lane of the inputs alone (`lanewise_getD`); what the function gives
there is its own equation. -/
theorem vectorLanesStandAlone : Obligations.VectorLanesStandAlone := fun a b x _ hl =>
  ⟨lanewise_pair_getD vaddFn a b hl _, lanewise_triple_getD vaddFn a b x hl _, lanewise_triple_getD fmaFn a b x hl _,
   lanewise_pair_getD dequantFn a b hl _⟩

/-! ### A cell's own reduction (R150) -/

section

variable {s : State} {c : Nat} {r : ScalRun} (hr : (s.cell c).scal = some r)
include hr

/-- The oldest entry of the input goes into the running partial, which the last entry completes. -/
theorem scalStep_entry (hg : r.given = false) {e : Entry} {t : State} (hc : s.consume c r.op.desc.in0 = some (e, t)) :
    s.scalStep c r.op.desc.func =
      (let es := scalElems r.op.desc.fmtA (r.buf ++ unpack r.op.desc.fmtA e)
       let r1 := es.1.foldl (scalAdd r.op.desc.func) { r with done := r.done + 1, buf := es.2 }
       let u := t.consumePoison c r.op e 64
       if r1.done = r.op.desc.steps then u.givePartial c r1 else u.modCell c fun x => { x with scal := some r1 }) := by
  simp [State.scalStep, hr, hg, hc]

theorem scalStep_idle {k : Nat} (h : k ≠ r.op.desc.func ∨ r.given = true ∨ s.consume c r.op.desc.in0 = none) :
    s.scalStep c k = s := by
  simp only [State.scalStep, hr]
  split
  · rfl
  next hgo =>
    obtain ⟨hk, hg⟩ := not_or.1 hgo
    obtain h | h | h := h
    · exact absurd (not_not.1 hk).symm h
    · exact absurd h hg
    · rw [h]

end

/-! ### The combination over a form (R150, R162) -/

section

variable {s : State} {c : Nat} {r : ScalRun} {f : FormRec}

/-- The partials that a form has for an operation once cell `c` gives its own. -/
def State.scalParts (s : State) (c : Nat) (r : ScalRun) (f : FormRec) : List ScalPart :=
  findJoin f.num r.op.id (s.part (s.cellPart c)).period.scalars ++ [⟨c, r.acc, r.any, r.count, r.taint⟩]

/-- The joins of the partition's other SCALAR operations. -/
def State.scalOthers (s : State) (c : Nat) (r : ScalRun) (f : FormRec) : List ScalJoin :=
  (s.part (s.cellPart c)).period.scalars.filter fun j => !(j.form == f.num && j.num == r.op.id)

/-- Those partials in the order of form cell numbers. -/
def State.scalInOrder (s : State) (c : Nat) (r : ScalRun) (f : FormRec) : List ScalPart :=
  f.cellList.filterMap fun k => (s.scalParts c r f).find? fun q => decide (q.cell = k)

/-- Cell `c` with its partial given, and the partition's joins `js`. -/
def State.scalGiven (s : State) (c : Nat) (r : ScalRun) (js : List ScalJoin) : State :=
  (s.modCell c fun x => { x with scal := some { r with given := true } }).modPart (s.cellPart c) fun P =>
    { P with period := { P.period with scalars := js } }

/-- A partial waits while one of its form is missing. -/
theorem givePartial_waits (hf : s.formOf c = some f) (h : (s.scalInOrder c r f).length < f.cellList.length) :
    s.givePartial c r = s.scalGiven c r (⟨f.num, r.op.id, s.scalParts c r f⟩ :: s.scalOthers c r f) := by
  unfold State.givePartial
  rw [hf]
  exact if_pos h

/-- The last partial completes the combination, and every cell of the form has the value. -/
theorem givePartial_completes (hf : s.formOf c = some f) {q : ScalPart} {l : List ScalPart}
    (hq : s.scalInOrder c r f = q :: l) (h : f.cellList.length ≤ (s.scalInOrder c r f).length) :
    s.givePartial c r = f.cellList.foldl (fun t i => (t.modCell i fun x => { x with scal := none }).modSeq i fun y =>
      Seq.opDone r.op.id { y with
        scalars := if look 0 y.feats (r.op.desc.ssel 0) ≤ r.op.id then
          put 0 y.scalars (r.op.desc.ssel 0) (scalValue r.op.desc.func (l.foldl (scalJoin r.op.desc.func) q)) else y.scalars })
      (s.scalGiven c r (s.scalOthers c r f)) := by
  unfold State.givePartial
  rw [hf]
  refine (if_neg (Nat.not_lt.2 h)).trans ?_
  unfold State.scalInOrder State.scalParts at hq
  rw [hq]
  rfl

end

/-! ### The statement -/

/-- Settles O37: each command is one step of the running reduction (`scalStep_entry`, `scalStep_idle`), and a partial
given waits for its form or completes it (`givePartial_waits`, `givePartial_completes`). -/
theorem scalarsComplete : Obligations.ScalarsComplete := by
  refine ⟨fun s c r ha hr => ?cell, fun s c r f hf => ?form⟩
  case cell =>
    intro d fn cmd
    have hcmd : ∀ k, 1 ≤ k → k ≤ 6 → exec (cmd k) s = .next (s.scalStep c k) := by
      intro k h1 h6
      interval_cases k <;> exact onCell_awake ha
    exact ⟨fun e t h1 h6 hg hc => (hcmd _ h1 h6).trans (by rw [scalStep_entry hr hg hc]),
      fun k h1 h6 h => (hcmd k h1 h6).trans (by rw [scalStep_idle hr h])⟩
  case form =>
    exact ⟨fun h => givePartial_waits hf h, fun q l hq h => givePartial_completes hf hq h⟩

end Sys2Proof.Machine
end

section
/-! The laws of HBM turns, of weight-cache fills and of the packets of remote memory (R121-R127, R131-R133, R315, R419): who a turn goes to, what a fill's end leaves, and what a remote packet does at its receiver. -/

namespace Sys2Proof.Machine

/-! ### HBM turns (R124, R125, R419) -/

section

variable {s : State} {d : DieIx} {pc : Fin 96}

theorem execHbmTurn_held (h : s.examHolds (phyTarget (3 * d + pc / 32) (pc % 32)) = true) :
    execHbmTurn d pc s = .next s := congrArg Host.Outcome.next (if_pos h)

variable (h : s.examHolds (phyTarget (3 * d + pc / 32) (pc % 32)) = false)
  {x : Chan} {k : Nat} (hx : (look {} (s.die d).chans pc).nextClass (s.shares d) = (k, x))
include h hx

theorem execHbmTurn_remote (hk : k = 2) :
    execHbmTurn d pc s = .next ((s.modDie d fun D => { D with chans := put {} D.chans pc x }).remoteTurn d pc) := by
  simp [execHbmTurn, h, hx, hk]

variable {list : List Nat} (hl : s.channelList d pc (k == 0) = list) {o : Nat}
include hl

/-- A read turn goes to the owner at the list's place, a bench at the seat of its rota or the fill engine. -/
theorem execHbmTurn_read (hk : k = 0) (ho : list.getD (x.readPos % max 1 list.length) 0 = o) :
    execHbmTurn d pc s =
      (let y : Chan := { x with readPos := (x.readPos + 1) % max 1 list.length }
       let seat := look 0 x.seatPos o % 16
       if o < 24 then .next ((s.modDie d fun D => { D with
           chans := put {} D.chans pc { y with seatPos := put 0 x.seatPos o ((seat + 1) % 16) } }).readTurn d pc (384 * d + 16 * o + seat))
       else .next ((s.modDie d fun D => { D with chans := put {} D.chans pc y }).fillTurn d pc)) := by
  subst hk
  simp only [execHbmTurn, h, hx, hl, if_true, ho]
  by_cases hlt : o < 24
  · simp [hlt]
  · simp [hlt, Nat.not_lt.1 hlt]

theorem execHbmTurn_write (hk : k = 1) (ho : list.getD (x.writePos % max 1 list.length) 0 = o) (hlt : o < 24) :
    execHbmTurn d pc s =
      (let seat := look 0 x.seatPos o % 16
       let y : Chan := { x with
         writePos := (x.writePos + 1) % max 1 list.length, seatPos := put 0 x.seatPos o ((seat + 1) % 16) }
       .next ((s.modDie d fun D => { D with chans := put {} D.chans pc y }).writeTurn d pc (384 * d + 16 * o + seat))) := by
  subst hk
  simp only [execHbmTurn, h, hx, hl, Nat.one_ne_zero, if_false, ho]
  simp [hlt, Nat.not_le.2 hlt]

end

/-! ### The remote gateway's turns (R124, R315) -/

section

variable {s : State} {d pc i j a : Nat} {g : GatePkt} {bs : List Byte}

theorem remoteTurn_idle (h : gateNext pc (s.die d).gateway = none) : s.remoteTurn d pc = s := by
  simp only [State.remoteTurn, h]

variable (h : gateNext pc (s.die d).gateway = some (i, g, j, a, bs))
include h

/-- A block of a line that the host has recorded waits for the host's answer. -/
theorem remoteTurn_snoops (hs : s.cxl.mustSnoop d a (if g.write then bs.length else 64) g.write ≠ []) :
    s.remoteTurn d pc = s.snoopRange d a (if g.write then bs.length else 64) g.write := by
  simp only [State.remoteTurn, h]
  exact if_pos (by simpa using hs)

theorem remoteTurn_read (hs : s.cxl.mustSnoop d a (if g.write then bs.length else 64) g.write = []) (hw : g.write = false) :
    s.remoteTurn d pc =
      (s.modDie d fun D => { D with gateway := dropBlock i j D.gateway }).answerRead g (s.readHbm d a 64) := by
  rw [hw] at hs
  simp only [State.remoteTurn, h, hw]
  exact if_neg (by simpa using hs)

theorem remoteTurn_write (hs : s.cxl.mustSnoop d a (if g.write then bs.length else 64) g.write = []) (hw : g.write = true) :
    s.remoteTurn d pc =
      (let u := (s.modDie d fun D => { D with gateway := dropBlock i j D.gateway }).writeHbm d a bs
       if g.todo.length ≤ 1 then u.arrived g else u) := by
  rw [hw] at hs
  simp only [State.remoteTurn, h, hw]
  exact if_neg (by simpa using hs)

end

/-! ### Weight-cache fills (R122, R123, R125) -/

/-- A fill that is whole ends: it leaves the list, and its line is installed unless the fill is stale or a block of it is
uncorrectable. -/
theorem execWeightCacheFill_whole {s : State} {d : DieIx} {line : Nat} {f : Fill} {errs : WordErrs}
    (hf : (s.die d).fills.find? (fun f => decide (f.line = line ∧ f.blocks = 4)) = some f)
    (h : s.examHolds (wcTarget d (wcSet line / 256)) = false) :
    execWeightCacheFill d ⟨line, errs⟩ s =
      .next (((List.range 4).foldl (fun t b => t.fillBlock d (line + 64 * b) (errOf errs b)) s).modDie d fun D =>
        { D with fills := D.fills.filter fun g => decide (g.line ≠ line)
                 wc := if f.stale || (List.range 4).any (fun b => decide (errOf errs b = .uncorrectable)) then D.wc
                   else wcInstall D.wc line }) := by
  simp only [execWeightCacheFill, hf]
  exact congrArg Host.Outcome.next (if_neg (by simp [h]))

theorem execWeightCacheFill_held {s : State} {d : DieIx} {line : Nat} {errs : WordErrs}
    (h : s.examHolds (wcTarget d (wcSet line / 256)) = true) : execWeightCacheFill d ⟨line, errs⟩ s = .next s := by
  unfold execWeightCacheFill
  split
  · rfl
  · exact congrArg Host.Outcome.next (if_pos h)

theorem execWeightCacheFill_unfinished {s : State} {d : DieIx} {line : Nat} {errs : WordErrs}
    (h : ∀ f ∈ (s.die d).fills, f.line ≠ line ∨ f.blocks ≠ 4) : execWeightCacheFill d ⟨line, errs⟩ s = .next s := by
  have hf : (s.die d).fills.find? (fun f => decide (f.line = line ∧ f.blocks = 4)) = none :=
    List.find?_eq_none.2 fun f hf => by simpa [imp_iff_not_or] using h f hf
  simp only [execWeightCacheFill, hf]

/-! ### The blocks of a write (R132) -/

/-- The first `k` blocks of a write of [a, a + n) hold its bytes below the next block's start. -/
theorem flatMap_blocksBelow (a : Nat) (bs : List Byte) {k : Nat} (hk : k ≤ (a + bs.length - 1) / 64 - a / 64 + 1)
    (hn : 0 < bs.length) :
    ((List.range k).flatMap fun i =>
      let lo := max a (64 * (a / 64 + i))
      (bs.drop (lo - a)).take (min (a + bs.length) (64 * (a / 64 + i + 1)) - lo)) =
      bs.take (min (a + bs.length) (64 * (a / 64 + k)) - a) := by
  induction k with
  | zero =>
    have h0 : min (a + bs.length) (64 * (a / 64)) - a = 0 := by omega
    simp [h0]
  | succ k ih =>
    have hlo : min (a + bs.length) (64 * (a / 64 + k)) - a = max a (64 * (a / 64 + k)) - a := by omega
    have hsum : min (a + bs.length) (64 * (a / 64 + k + 1)) - a =
        (max a (64 * (a / 64 + k)) - a) + (min (a + bs.length) (64 * (a / 64 + k + 1)) - max a (64 * (a / 64 + k))) := by
      omega
    rw [List.range_succ, List.flatMap_append, ih (by omega), hlo, ← Nat.add_assoc, hsum, List.take_add]
    simp

theorem flatMap_writeBlocks (a : Nat) (bs : List Byte) : (writeBlocks a bs).flatMap Prod.snd = bs := by
  by_cases hn : bs.length = 0
  · simp [writeBlocks, blocksOf, List.length_eq_zero_iff.1 hn]
  · have hp := flatMap_blocksBelow a bs le_rfl (Nat.pos_of_ne_zero hn)
    rw [List.take_of_length_le (by omega)] at hp
    simpa [writeBlocks, blocksOf, hn, List.flatMap_map] using hp

/-- Each block of a write holds bytes, of one 64-byte block of memory. -/
theorem mem_writeBlocks {a : Nat} {bs : List Byte} {b : Nat × List Byte} (hb : b ∈ writeBlocks a bs) :
    b.2 ≠ [] ∧ b.1 / 64 = (b.1 + b.2.length - 1) / 64 := by
  obtain ⟨q, hq, rfl⟩ := List.mem_map.1 hb
  unfold blocksOf at hq
  split at hq
  · exact absurd hq List.not_mem_nil
  · obtain ⟨i, hi, rfl⟩ := List.mem_map.1 hq
    have hi := List.mem_range.1 hi
    rw [← List.length_pos_iff]
    simp only [List.length_take, List.length_drop]
    omega

/-! ### Remote writes at their receiver (R131, R132) -/

section

variable {s : State} {p : PartIx} {pkt : Packet} (hn : s.NoSwitch)
include hn

theorem execRemoteWritePacket_early (h : (s.part p).period.waiting.isSome = true) :
    execRemoteWritePacket p pkt s = .next s := (defers_noSwitch hn).trans (if_pos h)

/-- In the partition's period a packet leaves the place where it waited, and is counted as stale, reported, or taken to
the gateway. -/
theorem execRemoteWritePacket_now (hw : (s.part p).period.waiting = none) :
    execRemoteWritePacket p pkt s =
      (let s1 := s.takeDelivered p fun q => decide (q = pkt)
       let P := s1.part p
       let h := bvOfBytes 128 (pkt.payload.take 16)
       let r := P.image.remotes.getD (fldN h 0 8) 0
       if fld h 72 32 ≠ P.period.step.setWidth 32 ∨ fld h 104 8 ≠ P.period.attempt ∨ P.state ≠ .running then
         .next (s1.countFabric P.firstPort 0 192 16 1)
       else if !bit r 2 ∨ fldN r 26 2 ≠ pktDdie pkt.hdr then
         .next (s1.detect 0x4002 (dieUnit (pktDdie pkt.hdr)) p (fldN h 0 8) (fldN h 0 64))
       else .next (s1.toGateway { part := p, hdr := pkt.hdr, write := true, rhdr := h
                                  todo := writeBlocks (pktAddr pkt.hdr) (pkt.payload.drop 16) })) :=
  (defers_noSwitch hn).trans (if_neg (by simp [hw]))

end

/-- A packet of an attempt that has been left counts for no arming; one of the attempt counts for its own, which raises its
arrival tally once it is whole. -/
theorem arrived_eq (s : State) (g : GatePkt) :
    s.arrived g =
      (let P := s.part g.part
       let h := g.rhdr
       let l := arrive (fldN h 0 8) (pktLsrc g.hdr) (pktTag g.hdr) (fldN h 8 16)
         (if bit h 24 then some (fldN h 52 20) else none) P.period.arrivals
       let s1 := s.modPart g.part fun P => { P with period := { P.period with arrivals := l } }
       if fld h 72 32 = P.period.step.setWidth 32 ∧ fld h 104 8 = P.period.attempt then
         if ∃ a ∈ l, a.rrec = fldN h 0 8 ∧ a.src = pktLsrc g.hdr ∧ a.tag = pktTag g.hdr ∧ a.arm = fldN h 8 16 ∧ a.total = some a.got
         then s1.addOwn g.part (fld (P.image.remotes.getD (fldN h 0 8) 0) 96 14) 1 0
         else s1
       else s) := by
  by_cases hl : fld g.rhdr 72 32 = (s.part g.part).period.step.setWidth 32 ∧ fld g.rhdr 104 8 = (s.part g.part).period.attempt
  · simp [State.arrived, hl]
  · exact (if_pos (by rwa [← not_and_or])).trans (if_neg hl).symm

/-! ### The statement -/

/-- Settles O40: a turn by its class (`execHbmTurn_read`, `execHbmTurn_write`, `execHbmTurn_remote`), a fill by its end
(`execWeightCacheFill_whole`), a remote packet by its partition's attempt and the blocks that it is cut in
(`execRemoteWritePacket_now`, `flatMap_writeBlocks`, `arrived_eq`). -/
theorem turnsAndRemotePacketsComplete : Obligations.TurnsAndRemotePacketsComplete := by
  refine ⟨⟨?turn, ?gateway, ?fill, fun s d a => ⟨rfl, rfl, rfl, rfl⟩, ?unfinished⟩, ?packet, ?blocks, ?arrived, ?request,
    fun s g bs => rfl, ?response⟩
  case turn =>
    intro s d pc
    refine ⟨execHbmTurn_held, fun h hk => execHbmTurn_remote h rfl hk, fun h hk => ⟨fun ho => ?_, fun ho => ?_⟩,
      fun h hk ho => execHbmTurn_write h rfl rfl hk rfl ho⟩
    · exact (execHbmTurn_read h rfl rfl hk rfl).trans (if_pos ho)
    · exact (execHbmTurn_read h rfl rfl hk rfl).trans (if_neg (Nat.not_lt.2 ho))
  case gateway =>
    intro s d pc
    refine ⟨remoteTurn_idle, fun i g j a bs h => ⟨remoteTurn_snoops h, fun hs =>
      ⟨fun hw => remoteTurn_read h hs hw, fun hw h2 => ?_, fun hw h1 => ?_⟩⟩⟩
    · exact (remoteTurn_write h hs hw).trans (if_neg (by omega))
    · exact (remoteTurn_write h hs hw).trans (if_pos h1)
  case fill => exact fun s d line f errs hf => ⟨execWeightCacheFill_held, execWeightCacheFill_whole hf⟩
  case unfinished => exact fun s d line errs => execWeightCacheFill_unfinished
  case packet =>
    intro s p pkt hn
    refine ⟨execRemoteWritePacket_early hn, fun h => ⟨fun hl => ?_, fun hl hr => ?_, fun hl hv hd => ?_⟩⟩ <;>
      refine (execRemoteWritePacket_now hn h).trans ?_
    · exact if_pos ((not_and_or.1 hl).imp_right not_and_or.1)
    · exact (if_neg (by simpa using hl)).trans (if_pos (by simpa using hr))
    · refine ((if_neg (by simpa using hl)).trans (if_neg (not_or.2 ⟨by rw [hv]; decide, not_not.2 hd⟩))).trans ?_
      simp [State.toGateway]
  case blocks => exact fun a bs => ⟨flatMap_writeBlocks a bs, fun b => mem_writeBlocks⟩
  case arrived =>
    intro s g
    refine ⟨fun hl => ?_, fun hl hw => ?_, fun hl hw => ?_⟩ <;> refine (arrived_eq s g).trans ?_
    · exact if_neg hl
    · exact (if_pos hl).trans (if_pos hw)
    · exact (if_pos hl).trans (if_neg fun ⟨a, ha, h⟩ => hw a ha h)
  case request => exact fun s p pkt ecc hn => defers_noSwitch hn
  case response =>
    intro s p pkt hn
    refine ⟨fun st r hf hp hr => ?_, fun h => ?_⟩ <;> refine (defers_noSwitch hn).trans ?_
    · simp only [hf]
      exact if_neg (by simp [hp, hr])
    · split
      next => rfl
      next st r hf => exact if_pos (h.resolve_left fun e => nomatch hf.symm.trans e)

end Sys2Proof.Machine
end

section
/-! The laws of streams (R68, R70, R106, R108-R112, R114, R122-R127): what an entry's start or taking does, which write its memory takes, what a request's return gives, and that words without an error show nothing. -/

namespace Sys2Proof.Machine

variable {s : State} {c : CellIx} {st : StreamIx}

/-! ### Check bits (R70) -/

/-- Words that show no error change nothing. -/
theorem seeWords_clean {eff : Nat → Ecc → State → State} {errs : WordErrs} (h : ∀ w, errOf errs w = .clean)
    (ws : List Nat) (seen : List (Nat × Nat)) (s : State) : s.seeWords eff errs ws seen = (seen, s) := by
  induction ws with
  | nil => rfl
  | cons w ws ih => exact (if_pos (.inl (h w))).trans ih

/-- A write to a cell store without errors reads no word first (R68). -/
theorem csStore_of_clean {c agent a : Nat} {bs : List Byte} (h : (s.cell c).badWords = []) :
    s.csStore c agent a bs [] = s.modCell c fun x => x.csWrite agent a bs := by
  have hclean (w : Nat) : errOf ((s.cell c).storeErrs []) w = .clean := by simp [Cell.storeErrs, h, errOf]
  exact congrArg (fun t : State => t.modCell c fun x => x.csWrite agent a bs)
    (List.foldl_fixed' (fun w => if_pos (hclean w)) _)

/-! ### Writing streams (R108, R114, R124, R127) -/

theorem execWriteStreamEntry_takes (ha : s.Awake c) (h8 : 8 ≤ st.val) (harm : ((s.cell c).stream st).armed = true)
    (hd : ((s.cell c).stream st).done = false) (he : ((s.cell c).stream st).entries < chEntries ((s.cell c).stream st).hdr)
    {e : Entry} {y : State} (hp : s.popOut c (st.val + 8) = some (e, y)) :
    execWriteStreamEntry c st s =
      (let x := (s.cell c).stream st
       let f := takeEntry (walkOf x.instrs) x.base (chExtent x.hdr) entryFuel x.pos x.off 0 []
       let s3 := (f.1.foldl (State.takeOne c st e) (y.countStream c st 0 32 1)).modStream c st fun y =>
         { y with pos := f.2.1, off := f.2.2, entries := y.entries + 1 }
       let x3 := (s3.cell c).stream st
       .next ((State.issueReqs c false 32
         (if chSpace x.hdr = 3 ∧ x3.entries = chEntries x.hdr ∧ x3.pkt ≠ [] then s3.flushRemote c st true else s3)).settleWrite c st)) := by
  refine (onCell_awake ha).trans ((if_pos ⟨h8, harm, hd, he⟩).trans ?_)
  rw [hp]

theorem execWriteStreamEntry_waits (ha : s.Awake c)
    (h : st.val < 8 ∨ ((s.cell c).stream st).armed = false ∨ ((s.cell c).stream st).done = true ∨
      chEntries ((s.cell c).stream st).hdr ≤ ((s.cell c).stream st).entries ∨ s.popOut c (st.val + 8) = none) :
    execWriteStreamEntry c st s = .next s := by
  refine (onCell_awake ha).trans ?_
  dsimp only
  split
  next hgo =>
    obtain ⟨h8, harm, hd, he⟩ := hgo
    obtain h | h | h | h | h := h
    · omega
    · simp [harm] at h
    · simp [hd] at h
    · omega
    · rw [h]
  · rfl

/-- A write to the cell store at the head of a stream's list is taken now. -/
theorem nextWrite_store (d : Nat) {w : PendWrite} (rest : List PendWrite) (h : w.space = 0) :
    s.nextWrite d (w :: rest) = some (0, w) := by simp [State.nextWrite, h]

/-- What the memory takes now is a write of the list, to the cell store or with an HBM turn behind it. -/
theorem of_nextWrite {d i : Nat} {w : PendWrite} {ws : List PendWrite} (h : s.nextWrite d ws = some (i, w)) :
    ws[i]? = some w ∧ (w.space = 0 ∨ w.granted.isSome = true) := by
  obtain ⟨⟨v, j⟩, hf, he⟩ := Option.map_eq_some_iff.1 h
  obtain ⟨rfl, rfl⟩ := Prod.mk.inj he
  refine ⟨List.mem_zipIdx_iff_getElem?.1 (List.mem_of_find?_eq_some hf), ?_⟩
  have hp := List.find?_some hf
  cases hg : v.granted with
  | none => exact .inl (by simpa [hg] using hp)
  | some n => exact .inr rfl

theorem execWriteAccepted_none (ha : s.Awake c) (errs : WordErrs)
    (h : s.nextWrite (dieOf c) ((s.cell c).stream st).writes = none) :
    execWriteAccepted c ⟨st, errs⟩ s = .next (s.settleWrite c st) := by
  refine (onCell_awake ha).trans ?_
  simp only [h]

theorem execWriteAccepted_some (ha : s.Awake c) (errs : WordErrs) {i : Nat} {w : PendWrite}
    (h : s.nextWrite (dieOf c) ((s.cell c).stream st).writes = some (i, w)) :
    execWriteAccepted c ⟨st, errs⟩ s =
      .next ((State.issueReqs c false 1
        ((if w.space = 0 then s.csStore c 0 w.addr w.bytes errs else s.visitBank (dieOf c) w.addr).modStream c st fun x =>
          { x with writes := x.writes.eraseIdx i })).settleWrite c st) := by
  refine (onCell_awake ha).trans ?_
  simp only [h]

/-! ### Requests that return (R111, R122, R125, R127) -/

/-- What a word of a cached line does whose check bits show an error (R70): `d` and `a` are the line's die and address. -/
def cacheSeen (s : State) (c d a w : Nat) (x : Ecc) (t : State) : State :=
  match x with
  | .corrected | .miscorrected => t.corrected c 2
  | .uncorrectable =>
    t.detect 0x2003 (dieUnit d) (s.cellPart c) (d + wcSet (256 * (a / 256)) * 2 ^ 16) (64 * (a / 64) + 32 * w)
  | _ => t

theorem cacheSeen_eq (s : State) (c d a : Nat) :
    cacheSeen s c d a = fun w x t =>
      if x = .corrected ∨ x = .miscorrected then t.corrected c 2
      else if x = .uncorrectable then
        t.detect 0x2003 (dieUnit d) (s.cellPart c) (d + wcSet (256 * (a / 256)) * 2 ^ 16) (64 * (a / 64) + 32 * w)
      else t := by
  funext w x t
  cases x <;> rfl

section

variable {k : Nat} {r : Req} (ha : s.Awake c) (hr : ((s.cell c).stream st).reqs[k]? = some r) (errs : WordErrs)
include ha hr

theorem execMemoryReturn_spoiled (h : r.state = .spoiled) :
    execMemoryReturn c st errs k s =
      .next (s.returned c st r (List.replicate r.size { byte := 0, poison := true, memErr := true })) := by
  refine (onCell_awake ha).trans ?_
  simp only [hr, h]

/-- A request that has no slot, waits for its turn or is a remote one does not return from this die's memory. -/
theorem execMemoryReturn_waits (h : r.state = .queued ∨ r.state = .waiting ∨ r.state = .remote) :
    execMemoryReturn c st errs k s = .next s := by
  refine (onCell_awake ha).trans ?_
  obtain h | h | h := h <;> simp only [hr, h]

/-- An accepted request returns when its bank has served all before it. -/
theorem execMemoryReturn_accepted {n : Nat} (h : r.state = .accepted n) :
    execMemoryReturn c st errs k s =
      (let d := dieOf c
       let q := s.checked (errOf errs 0) (r.data.map fun b => .of b false) (fun t => t.hbmCorrected d r.addr)
         (fun t => t.detect 0x2004 (dieUnit d) (s.cellPart c) (hbmLoc d r.addr) (stackLocal r.addr))
       if ∀ m ∈ s.bankQueue d r.addr, n ≤ m then
         .next (((q.2.visitBank d r.addr).noteBank c st r.addr).returned c st r q.1)
       else .next s) := by
  refine (onCell_awake ha).trans ?_
  simp only [hr, h, List.all_eq_true, decide_eq_true_eq]

theorem execMemoryReturn_uncached (h : r.state = .filling)
    (hc : (look [] (s.die (dieOf c)).wc (wcSet (256 * (r.addr / 256)))).contains (256 * (r.addr / 256)) = false) :
    execMemoryReturn c st errs k s = .next (s.modDie (dieOf c) fun D => D.wantLine (256 * (r.addr / 256))) := by
  refine (onCell_awake ha).trans ?_
  simp only [hr, h]
  exact if_neg (by rw [hc]; decide)

theorem execMemoryReturn_cached (h : r.state = .filling)
    (hc : (look [] (s.die (dieOf c)).wc (wcSet (256 * (r.addr / 256)))).contains (256 * (r.addr / 256)) = true) :
    execMemoryReturn c st errs k s =
      (let d := dieOf c
       let line := 256 * (r.addr / 256)
       let l := look [] (s.die d).wc (wcSet line)
       let s1 := (s.portTurn c).modDie d fun D =>
         { D with wc := put [] D.wc (wcSet line) (line :: l.filter fun y => decide (y ≠ line)) }
       let q := s1.seeWords (cacheSeen s c d r.addr) errs (wordsOf (r.addr % 64) r.size) []
       .next (q.2.returned c st r ((s.readHbm d r.addr r.size).zipIdx.map fun b =>
         seenByte errs q.1 ((r.addr % 64 + b.2) / 32) ((r.addr + b.2) % 32) b.1))) := by
  refine (onCell_awake ha).trans ?_
  simp only [hr, h]
  exact if_pos hc

end

/-! ### Reading streams (R70, R106, R110, R112) -/

/-- A read stream may start its next entry (R112): it holds a credit, and its arming has an entry left. -/
abbrev State.MayStart (s : State) (c : CellIx) (st : StreamIx) : Prop :=
  st.val < 8 ∧ ((s.cell c).stream st).armed = true ∧ ((s.cell c).stream st).done = false ∧
    ((s.cell c).stream st).entries < chEntries ((s.cell c).stream st).hdr ∧ 0 < (s.cell c).credits st

/-- What the indices of a stream's next entry show (R70): the words that have shown an error, and the state that has seen
them. -/
def State.indicesSeen (s : State) (c : CellIx) (st : StreamIx) (errs : WordErrs) : List (Nat × Nat) × State :=
  let x := (s.cell c).stream st
  let w := walkOf x.instrs
  let stop := (fillEntry w x.base (chExtent x.hdr) (fun _ _ => .inl false) entryFuel x.pos x.off 0 []).2.1
  s.seeWords (csSeen c) ((s.cell c).storeErrs errs)
    ((w.indexWords x.pos stop).filter fun v => (s.cell c).owns 1 (v % 32)) []

theorem indicesSeen_of_noIndex (errs : WordErrs) (h : (walkOf ((s.cell c).stream st).instrs).index = none) :
    s.indicesSeen c st errs = ([], s) := by
  simp only [State.indicesSeen, Walk.indexWords, h]
  rfl

/-- The puts of a stream's next entry, and the place in its walk after it (R106). -/
def State.nextPuts (s : State) (c : CellIx) (st : StreamIx) (errs : WordErrs) : List Put × Nat × Nat :=
  let x := (s.cell c).stream st
  fillEntry (walkOf x.instrs) x.base (chExtent x.hdr)
    ((s.cell c).readIndex ((s.cell c).storeErrs errs) (s.indicesSeen c st errs).1) entryFuel x.pos x.off 0 []

/-- A gathered entry of memory for whose EMITs there are too few free contexts (R110). -/
abbrev State.LacksContexts (s : State) (c : CellIx) (st : StreamIx) (errs : WordErrs) : Prop :=
  (((s.cell c).stream st).onGather && decide (chSpace ((s.cell c).stream st).hdr ≠ 0)) = true ∧
    1024 < (s.cell c).contexts.length + newContexts (s.nextPuts c st errs).1

theorem execStreamEntryStart_starts (ha : s.Awake c) (errs : WordErrs) (h : s.MayStart c st)
    (hc : ¬s.LacksContexts c st errs) :
    execStreamEntryStart c st errs s =
      (let x := (s.cell c).stream st
       let f := s.nextPuts c st errs
       let s2 := (s.indicesSeen c st errs).2.modStream c st fun y => { y with asm := y.asm ++ [{ num := y.entries }] }
       let s3 := (f.1.foldl (State.putOne st x.hdr (if x.onGather then 1 else 0) c errs) (s2, (s.indicesSeen c st errs).1)).1
       .next ((s3.modStream c st fun y => { y with pos := f.2.1, off := f.2.2, entries := y.entries + 1 }).settleRead c st)) := by
  refine (onCell_awake ha).trans ((if_pos h).trans (if_neg fun ⟨hg, hs, hn⟩ => hc ⟨?_, hn⟩))
  by_cases hx : ((s.cell c).stream st).onGather = true
  · simp [hx, hs]
  · simp [hx] at hg

theorem execStreamEntryStart_waits (ha : s.Awake c) (errs : WordErrs)
    (h : ¬s.MayStart c st ∨ s.LacksContexts c st errs) : execStreamEntryStart c st errs s = .next s := by
  refine (onCell_awake ha).trans ?_
  dsimp only
  split
  next hgo =>
    obtain ⟨hneed, hn⟩ := h.resolve_left (not_not.2 hgo)
    obtain ⟨hg, hs⟩ := Bool.and_eq_true_iff.1 hneed
    exact if_pos ⟨if_pos hg, of_decide_eq_true hs, hn⟩
  · rfl

/-! ### The statement -/

/-- Settles O39: a write stream's entry and the write that its memory takes now (`execWriteStreamEntry_takes`,
`of_nextWrite`), a request's return by its state, and a read stream's start by its credit and its contexts
(`execStreamEntryStart_starts`, `execStreamEntryStart_waits`). -/
theorem streamsComplete : Obligations.StreamsComplete := by
  refine ⟨⟨?entry, ?accepted, fun s c agent a bs => csStore_of_clean, ?returns⟩, ?start⟩
  case entry =>
    exact fun s c st ha => ⟨fun e y h8 harm hd he hp => execWriteStreamEntry_takes ha h8 harm hd he hp,
      execWriteStreamEntry_waits ha⟩
  case accepted =>
    exact fun s c st errs ha => ⟨execWriteAccepted_none ha errs, fun i w => execWriteAccepted_some ha errs,
      fun w rest hw h => by rw [hw]; exact nextWrite_store _ rest h, fun i w => of_nextWrite⟩
  case returns =>
    intro s c st k r ha hr
    refine ⟨fun n h hall errs => ?_, fun n h ⟨m, hm, hlt⟩ errs => ?_, fun h hc errs => ?_,
      fun h hc errs => execMemoryReturn_uncached ha hr errs h hc, fun h errs => execMemoryReturn_spoiled ha hr errs h,
      fun h errs => execMemoryReturn_waits ha hr errs h⟩
    · exact (execMemoryReturn_accepted ha hr errs h).trans (if_pos hall)
    · exact (execMemoryReturn_accepted ha hr errs h).trans (if_neg fun hall => Nat.not_le.2 hlt (hall m hm))
    · refine (execMemoryReturn_cached ha hr errs h hc).trans ?_
      simp only [cacheSeen_eq]
  case start =>
    intro s c st errs ha
    exact ⟨fun hm hc => execStreamEntryStart_starts ha errs hm fun ⟨hg, hn⟩ => Nat.not_lt.2 (hc hg) hn,
      execStreamEntryStart_waits ha errs, indicesSeen_of_noIndex errs, fun hclean => seeWords_clean hclean _ _ _⟩

end Sys2Proof.Machine
end

section
/-! The laws of the weight cache under writes (R121-R125): a write drops the cached lines that it covers and marks their overtaken fills, and a read of HBM does not depend on what is cached. -/

namespace Sys2Proof.Machine

/-! ### A write and the lines that it covers (R123) -/

theorem wcDrop_wf {wc : SMap (List Nat)} (h : SMap.wf [] wc = true) (line : Nat) : SMap.wf [] (wcDrop wc line) = true :=
  alter_wf h

/-- Dropping lines leaves in a set those of its lines that are not dropped. -/
theorem mem_look_foldl_wcDrop {wc : SMap (List Nat)} (h : SMap.wf [] wc = true) (ls : List Nat) (k x : Nat) :
    x ∈ look [] (ls.foldl wcDrop wc) k ↔ x ∈ look [] wc k ∧ ¬(x ∈ ls ∧ wcSet x = k) := by
  induction ls generalizing wc with
  | nil => simp
  | cons l ls ih =>
    rw [List.foldl_cons, ih (wcDrop_wf h l), wcDrop, look_alter h]
    split
    next hk => rw [hk, List.mem_filter]; grind
    next hk => grind

/-- A covered line is in the cache no longer. -/
theorem not_mem_wc_writeHbm {D : Die} {a line : Nat} {bs : List Byte} (h : SMap.wf [] D.wc = true)
    (hl : line ∈ linesOf a bs.length) : line ∉ look [] (D.writeHbm a bs).wc (wcSet line) := fun hm =>
  ((mem_look_foldl_wcDrop h _ _ _).1 hm).2 ⟨hl, rfl⟩

/-- A fill of a covered line that has read a block is stale. -/
theorem stale_of_mem_writeHbm_fills {D : Die} {a : Nat} {bs : List Byte} {f : Fill}
    (hf : f ∈ (D.writeHbm a bs).fills) (hl : f.line ∈ linesOf a bs.length) (hb : 0 < f.blocks) : f.stale = true := by
  obtain ⟨g, -, rfl⟩ := List.mem_map.1 hf
  by_cases hc : (linesOf a bs.length).contains g.line = true
  · rw [if_pos hc] at hb ⊢
    simp [hb]
  · rw [if_neg hc] at hl
    exact absurd (List.contains_iff_mem.2 hl) hc

/-! ### The end of a fill (R123, R125) -/

/-- Blocks without an error change nothing when they return. -/
theorem foldl_fillBlock_clean {s : State} {d line : Nat} {errs : WordErrs} (h : ∀ b < 4, errOf errs b = .clean) :
    (List.range 4).foldl (fun t b => t.fillBlock d (line + 64 * b) (errOf errs b)) s = s := by
  simp [List.range_succ, State.fillBlock, h]

section

variable {s : State} {d : DieIx} {line : Nat} {f : Fill} {errs : WordErrs}
  (hf : (s.die d).fills.find? (fun f => decide (f.line = line ∧ f.blocks = 4)) = some f)
  (hx : s.examHolds (wcTarget d (wcSet line / 256)) = false)
include hf hx

/-- An overtaken fill, or one with an uncorrectable block, leaves the weight cache as it is. -/
theorem execWeightCacheFill_discards (h : f.stale = true ∨ ∃ b < 4, errOf errs b = .uncorrectable) :
    execWeightCacheFill d ⟨line, errs⟩ s =
      .next (((List.range 4).foldl (fun t b => t.fillBlock d (line + 64 * b) (errOf errs b)) s).modDie d fun D =>
        { D with fills := D.fills.filter fun g => decide (g.line ≠ line) }) := by
  have hbad : (f.stale || (List.range 4).any fun b => decide (errOf errs b = .uncorrectable)) = true := by
    simpa only [Bool.or_eq_true, List.any_eq_true, List.mem_range, decide_eq_true_eq] using h
  simp only [execWeightCacheFill_whole hf hx, hbad, if_true]

theorem execWeightCacheFill_installs (hs : f.stale = false) (h : ∀ b < 4, errOf errs b ≠ .uncorrectable) :
    execWeightCacheFill d ⟨line, errs⟩ s =
      .next (((List.range 4).foldl (fun t b => t.fillBlock d (line + 64 * b) (errOf errs b)) s).modDie d fun D =>
        { D with fills := D.fills.filter fun g => decide (g.line ≠ line), wc := wcInstall D.wc line }) := by
  have hgood : (f.stale || (List.range 4).any fun b => decide (errOf errs b = .uncorrectable)) = false := by
    simpa only [hs, Bool.false_or, List.any_eq_false, List.mem_range, decide_eq_true_eq] using h
  simp only [execWeightCacheFill_whole hf hx, hgood, Bool.false_eq_true, if_false]

end

/-! ### Reads and the weight cache (R121) -/

/-- In a canonical state what a read of HBM gives does not depend on the weight cache. -/
theorem readHbm_modDie_wc {s : State} (h : SMap.wf {} s.dies = true) (d e a n : Nat) (wc : SMap (List Nat)) :
    (s.modDie d fun D => { D with wc := wc }).readHbm e a n = s.readHbm e a n := by
  unfold State.readHbm
  rw [die_modDie h]
  split
  next he => rw [he]
  next => rfl

/-! ### The statement -/

/-- Refutes O15: its last clause speaks of every state, and fails where the map of dies is not canonical. Here die 0 is
listed twice, first with the value of an unlisted die: emptying its weight cache takes the first entry away, and a read
finds the second. Every step keeps the canonical form (`stepKeepsCanonical`), so no run from reset comes to such a state.
What the statement means holds: a write drops what it covers (`not_mem_wc_writeHbm`, `stale_of_mem_writeHbm_fills`), a fill ends as it says
(`foldl_fillBlock_clean`, `execWeightCacheFill_discards`, `execWeightCacheFill_installs`), and where the map of dies is
canonical a read does not depend on the weight cache (`readHbm_modDie_wc`). -/
theorem not_writesInvalidateCachedLines : ¬ Obligations.WritesInvalidateCachedLines := fun ⟨_, _, hread⟩ =>
  absurd (hread { State.reset with dies := [(0, {}), (0, { hbm := [(0, 1)] })] } 0 0 0 1 []) (by decide)

end Sys2Proof.Machine
end

section
/-! The laws of the control descriptors (R121, R134, R136, R137, R156-R166): what a cell's sequencer does at a descriptor and away from it, the passes of a loop, and JOIN over a form. -/

namespace Sys2Proof.Machine

/-! ### At a control descriptor, and away from it (R134, R139) -/

section

variable {s : State} {c op : Nat} {act : State → State}

/-- No control descriptor is handled before it has come from the weight cache. -/
theorem atControl_of_uncached (h : s.chainCached c 64 = false) : s.atControl c op = false := by simp [State.atControl, h]

theorem onControl_at (h : s.atControl c op = true) : s.onControl c op act = .next (act (s.chainRead c 64)) := if_pos h

theorem onControl_uncached (h : s.chainCached c 64 = false) : s.onControl c op act = .next (s.chainFetch c 64) := by
  simp [State.onControl, atControl_of_uncached h, h]

theorem onControl_elsewhere (hc : s.chainCached c 64 = true) (h : s.atControl c op = false) :
    s.onControl c op act = .next s := by simp [State.onControl, h, hc]

theorem onCell_onControl_away (ha : s.Awake c) :
    (s.chainCached c 64 = false → s.onCell c (s.onControl c op act) = .next (s.chainFetch c 64)) ∧
    (s.chainCached c 64 = true → s.atControl c op = false → s.onCell c (s.onControl c op act) = .next s) := by
  rw [onCell_awake ha]
  exact ⟨onControl_uncached, onControl_elsewhere⟩

/-- A control descriptor that may have to wait at its place: LOOP, BRANCH and SETC. -/
def State.onControlUnless (s : State) (c op : Nat) (waits : Prop) [Decidable waits] (act : State → State) : Res :=
  if s.atControl c op = true ∧ waits then .next s else s.onControl c op act

variable {waits : Prop} [Decidable waits]

theorem onControlUnless_waits (h : s.atControl c op = true) (hw : waits) : s.onControlUnless c op waits act = .next s :=
  if_pos ⟨h, hw⟩

theorem onControlUnless_at (h : s.atControl c op = true) (hw : ¬waits) :
    s.onControlUnless c op waits act = .next (act (s.chainRead c 64)) := (if_neg fun hn => hw hn.2).trans (onControl_at h)

theorem onControlUnless_away (h : s.atControl c op = false) : s.onControlUnless c op waits act = s.onControl c op act :=
  if_neg fun hn => Bool.false_ne_true (h.symm.trans hn.1)

theorem onControlUnless_uncached (h : s.chainCached c 64 = false) :
    s.onControlUnless c op waits act = .next (s.chainFetch c 64) :=
  (onControlUnless_away (atControl_of_uncached h)).trans (onControl_uncached h)

theorem onControlUnless_elsewhere (hc : s.chainCached c 64 = true) (h : s.atControl c op = false) :
    s.onControlUnless c op waits act = .next s := (onControlUnless_away h).trans (onControl_elsewhere hc h)

end

/-- A chain read changes no byte of HBM: it changes the turn of the bench's port and the order of use of the cache. -/
theorem readHbm_chainRead {s : State} (h : SMap.wf {} s.dies = true) (c n d a k : Nat) :
    (s.chainRead c n).readHbm d a k = s.readHbm d a k := by
  have hturn : (s.portTurn c).readHbm d a k = s.readHbm d a k := by
    unfold State.readHbm State.portTurn
    rw [die_modDie h]
    split
    next hd => rw [hd]
    next => rfl
  exact (readHbm_modDie_wc (put_wf h) ..).trans hturn

/-! ### The passes of a loop (R156, R159) -/

section

variable {q : Seq} {l : Loop} {ls : List Loop}

/-- A walk that is not at the end of the innermost loop's body stays in its pass. -/
theorem settleLoops_inBody (h : ∀ l ∈ q.loops.head?, q.pc ≠ l.bodyEnd) (n : Nat) : settleLoops n q = q := by
  cases n with
  | zero => rfl
  | succ n =>
    unfold settleLoops
    split
    next l ls hl => exact if_neg fun he => h l (by simp [hl]) he.1
    next => rfl

theorem settleLoops_nextPass (hl : q.loops = l :: ls) (hs : q.headSet = none) (he : q.pc = l.bodyEnd)
    (hi : l.iter + 1 < l.count) (n : Nat) :
    settleLoops (n + 1) q = { q with pc := l.start, loops := { l with iter := l.iter + 1 } :: ls } := by
  simp [settleLoops, hl, hs, he, hi]

theorem settleLoops_leaves (hl : q.loops = l :: ls) (hs : q.headSet = none) (he : q.pc = l.bodyEnd)
    (hi : l.count ≤ l.iter + 1) (n : Nat) :
    settleLoops (n + 1) q = settleLoops n
      { q with loops := ls, exits := q.exits ++ [⟨l.num, l.sig, l.firstOp, q.nextOp, l.start - 64⟩] } := by
  simp [settleLoops, hl, hs, he, Nat.not_lt.2 hi]

/-- The ends of passes leave the register sets as they are. -/
theorem settleLoops_sets (n : Nat) (q : Seq) : (settleLoops n q).sets = q.sets := by
  induction n generalizing q with
  | zero => rfl
  | succ n ih =>
    unfold settleLoops
    split
    · split
      · split
        · rfl
        · exact ih _
      · rfl
    · rfl

end

/-! ### SKIP, END, FEATURE, SETC, BRANCH (R136, R137, R160-R162, R166) -/

/-- What a SETC puts into its count register: its immediate, or a scalar truncated and clamped to 24 bits (R161). -/
def Seq.setcValue (q : Seq) (d : CDesc) : BitVec 24 :=
  if setcSrc d then BitVec.ofInt 24 (truncClamp 0 16777215 0 (q.scalar (setcSreg d))) else setcImm d

/-- Where a BRANCH goes on (R160). -/
def Seq.branchPlace (q : Seq) (d : CDesc) : Nat :=
  if branchTest (brCmp d) (q.scalar (brSreg d)) (if brSrc d then q.scalar (brSreg2 d) else brImm d) then brTarget d
  else q.pc + 64

section

variable {s : State} {c : CellIx} (ha : s.Awake c)
include ha

theorem execSetCount_eq :
    execSetCount c s =
      (let q := (s.cell c).seq
       let d := s.control c
       s.onControlUnless c 0x83 (setcSrc d = true ∧ q.pending (setcSreg d) = true) fun t => t.modSeq c fun u =>
         Seq.goto (u.pc + 64) { u with counts := put 0 u.counts (loopCreg d) (q.setcValue d) }) :=
  onCell_awake ha

theorem execBranch_eq :
    execBranch c s =
      (let q := (s.cell c).seq
       let d := s.control c
       s.onControlUnless c 0x82 (q.pending (brSreg d) = true ∨ brSrc d = true ∧ q.pending (brSreg2 d) = true) fun t =>
         t.modSeq c (Seq.goto (q.branchPlace d))) :=
  onCell_awake ha

end

/-! ### JOIN over a form (R164) -/

section

variable {s : State} {c : CellIx} (ha : s.Awake c)
include ha

theorem execJoin_arrives {r : FormRec} (hat : s.atControl c 0x84 = true) (ho : (s.cell c).seq.openOps = [])
    (hj : (s.cell c).seq.join = none) (hf : s.formOf c = some r) :
    execJoin c s =
      (let q := (s.cell c).seq
       .next (State.modPart
         ((s.chainRead c 64).modSeq c fun q =>
           { q with join := some ⟨q.nextJoin, cWait (s.control c), cSig (s.control c)⟩, nextJoin := q.nextJoin + 1 })
         (s.cellPart c) fun P => { P with period := { P.period with
           counts := (countForm r.num .join q.nextJoin (r.cellList.length + 1) (s.part (s.cellPart c)).period.counts).1 } })) := by
  have hf' : (s.chainRead c 64).formOf c = some r := hf
  refine (onCell_awake ha).trans ?_
  simp only [hj, hat, ho, List.isEmpty_nil, Bool.not_true, Bool.and_false, Bool.false_eq_true, if_false, onControl_at hat, hf']
  rfl

/-- A cell that stands at a JOIN goes on when its form has sent the signal and the join wait is met. -/
theorem execJoin_stands {j : JoinAt} (hj : (s.cell c).seq.join = some j) :
    execJoin c s =
      if ((s.cell c).seq.running && !(s.cell c).seq.stopped && !s.joinOpen c j.num &&
          s.waitMet (s.cellPart c) (s.cell c).seq.iters j.wait) = true
      then .next (s.modSeq c fun q => Seq.goto (q.pc + 64) { q with join := none }) else .next s := by
  refine (onCell_awake ha).trans ?_
  simp only [hj]

end

/-- The first element that meets a test is the first for which a function that passes the test gives a value. -/
theorem findSome?_of_find? {α β : Type} {l : List α} {f : α → Option β} {a : α} {b : β}
    (h : l.find? (fun x => (f x).isSome) = some a) (hb : f a = some b) :
    (l.findSome? fun x => (f x).map fun y => (x, y)) = some (a, b) := by
  obtain ⟨-, l₁, l₂, rfl, hnone⟩ := List.find?_eq_some_iff_append.1 h
  refine List.findSome?_eq_some_iff.2 ⟨l₁, a, l₂, rfl, by rw [hb]; rfl, fun x hx => ?_⟩
  rw [Option.map_eq_none_iff]
  simpa using hnone x hx

theorem execJoinSignal_due {s : State} {f : FormIx} {p : Nat} {r : FormRec} {e : FormCount} {j : JoinAt}
    (hd : (s.formsNumbered f).find? (fun e => (s.joinDue e).isSome) = some (p, r)) (he : s.joinDue (p, r) = some e)
    (hj : (s.cell (r.cellList.headD 0)).seq.join = some j) :
    execJoinSignal f s =
      (let s1 := s.modPart p fun P => { P with period := { P.period with counts := P.period.counts.erase e } }
       .next (if sigEn j.sig then s1.launch p j.sig (s.cell (r.cellList.headD 0)).seq.pc else s1)) := by
  unfold execJoinSignal
  rw [findSome?_of_find? hd he]
  simp only [hj]

/-! ### The statement -/

/-- Settles O29: at a control descriptor and away from it (`onControl_at`, `onControl_uncached`, `onControl_elsewhere` and
their forms for one that may wait), the ends of passes (`settleLoops_inBody`, `settleLoops_nextPass`,
`settleLoops_leaves`), and JOIN in the cell and over its form (`execJoin_arrives`, `execJoin_stands`,
`execJoinSignal_due`). -/
theorem controlDescriptorsComplete : Obligations.ControlDescriptorsComplete := by
  refine ⟨?walk, fun s c n => ⟨rfl, rfl, rfl, fun h => readHbm_chainRead h c n⟩, ?passes, ?arrives, ?stands, ?signal⟩
  case walk =>
    intro s c ha
    dsimp only
    have hset : exec (.setCount c) s = _ := execSetCount_eq ha
    have hbr : exec (.branch c) s = _ := execBranch_eq ha
    refine ⟨?away, fun h => (onCell_awake ha).trans (onControl_at h), fun h => (onCell_awake ha).trans (onControl_at h),
      fun h => (onCell_awake ha).trans (onControl_at h), fun h hi => ?_, fun h hi hp => ?_,
      fun h hi hp => hset.trans (onControlUnless_waits h ⟨hi, hp⟩), fun h hp hi => ?_, fun h hp hi hp2 => ?_,
      fun h hw => hbr.trans (onControlUnless_waits h hw)⟩
    case away =>
      simp only [List.forall_mem_cons, List.not_mem_nil, false_imp_iff, implies_true, and_true]
      exact ⟨onCell_onControl_away ha, onCell_onControl_away ha, onCell_onControl_away ha,
        hset ▸ ⟨onControlUnless_uncached, onControlUnless_elsewhere⟩,
        hbr ▸ ⟨onControlUnless_uncached, onControlUnless_elsewhere⟩⟩
    · simpa only [Seq.setcValue, hi, Bool.false_eq_true, if_false] using hset.trans (onControlUnless_at h (by simp [hi]))
    · exact (hset.trans (onControlUnless_at h (by simp [hp]))).trans (by rw [Seq.setcValue, if_pos hi]; rfl)
    · simpa only [Seq.branchPlace, hi, Bool.false_eq_true, if_false] using hbr.trans (onControlUnless_at h (by simp [hp, hi]))
    · simpa only [Seq.branchPlace, hi, if_true] using hbr.trans (onControlUnless_at h (by simp [hp, hp2]))
  case passes =>
    intro q l ls pc hl hs
    refine ⟨fun hne => settleLoops_inBody (by simpa [hl] using hne) 5,
      fun he hi => settleLoops_nextPass (q := { q with pc }) hl hs he hi 4,
      fun he hi hls => (settleLoops_leaves (q := { q with pc }) hl hs he hi 4).trans (settleLoops_inBody (fun m hm => ?_) 4)⟩
    exact (hls m (List.mem_of_mem_head? hm)).symm
  case arrives => exact fun s c r ha hat ho hj hf => execJoin_arrives ha hat ho hj hf
  case stands =>
    refine fun s c j ha hj hr hs => ⟨fun ho hw => ?_, fun hwait => ?_⟩
    · exact (execJoin_stands ha hj).trans (if_pos (by simp [hr, hs, ho, hw]))
    · exact (execJoin_stands ha hj).trans (if_neg (by rcases hwait with h | h <;> simp [h]))
  case signal => exact fun s f p r e j => execJoinSignal_due

end Sys2Proof.Machine
end

section
/-! The laws of LOOP (R134, R156-R158): its entry wait, the count that it latches, the loop that it opens or passes by, and the on-exit signal. -/

namespace Sys2Proof.Machine

/-- The count that a LOOP names, before it is reduced to LIMIT (R156). -/
def Seq.loopAsked (q : Seq) (d : CDesc) : Nat := if loopCsrc d then (look 0 q.counts (loopCreg d)).toNat else loopCount d

/-- The passes of a LOOP's body (R156, R157): the latched count, and none for an empty body. -/
def Seq.passes (q : Seq) (d : CDesc) : Nat := if loopBodyEnd d ≤ q.pc + 64 then 0 else min (q.loopAsked d) (loopLimit d)

/-- A loop of no pass: the walk goes straight to BODYEND, and the on-exit signal is due (R157). -/
def Seq.passBy (q : Seq) (d : CDesc) : Seq :=
  Seq.goto (loopBodyEnd d)
    { q with nextLoop := q.nextLoop + 1, exits := q.exits ++ [⟨q.nextLoop, cSig d, q.nextOp, q.nextOp, q.pc⟩] }

/-- The body begins at iteration 0 of `n` (R156). -/
def Seq.beginBody (q : Seq) (d : CDesc) (n : Nat) : Seq :=
  Seq.goto (q.pc + 64)
    { q with nextLoop := q.nextLoop + 1
             loops := ⟨q.pc + 64, loopBodyEnd d, n, 0, cSig d, q.nextLoop, q.nextOp⟩ :: q.loops }

section

variable {s : State} {c : CellIx} (ha : s.Awake c)
include ha

theorem execLoop_eq :
    execLoop c s =
      (let q := (s.cell c).seq
       let d := s.control c
       s.onControlUnless c 0x81 (s.waitMet (s.cellPart c) q.iters (cWait d) = false) fun t =>
         (if loopLimit d < q.loopAsked d then t.clampFlag c else t).modSeq c fun u =>
           if q.passes d = 0 then u.passBy d else u.beginBody d (q.passes d)) :=
  onCell_awake ha

variable (hat : s.atControl c 0x81 = true) (hw : s.waitMet (s.cellPart c) (s.cell c).seq.iters (cWait (s.control c)) = true)
include hat hw

theorem execLoop_passesBy (h : (s.cell c).seq.passes (s.control c) = 0) :
    execLoop c s =
      (let q := (s.cell c).seq
       let d := s.control c
       let u := s.chainRead c 64
       .next ((if loopLimit d < q.loopAsked d then u.clampFlag c else u).modSeq c fun u => u.passBy d)) := by
  simpa only [h, if_true] using (execLoop_eq ha).trans (onControlUnless_at hat (by simp [hw]))

theorem execLoop_begins {n : Nat} (hn : (s.cell c).seq.passes (s.control c) = n) (h : n ≠ 0) :
    execLoop c s =
      (let q := (s.cell c).seq
       let d := s.control c
       let u := s.chainRead c 64
       .next ((if loopLimit d < q.loopAsked d then u.clampFlag c else u).modSeq c fun u => u.beginBody d n)) := by
  simpa only [hn, h, if_false] using (execLoop_eq ha).trans (onControlUnless_at hat (by simp [hw]))

end

theorem passes_of_empty {q : Seq} {d : CDesc} (h : min (q.loopAsked d) (loopLimit d) = 0 ∨ loopBodyEnd d ≤ q.pc + 64) :
    q.passes d = 0 := by
  rcases h with h | h
  · rw [Seq.passes, h, ite_self]
  · exact if_pos h

theorem passes_of_body {q : Seq} {d : CDesc} (h : q.pc + 64 < loopBodyEnd d) :
    q.passes d = min (q.loopAsked d) (loopLimit d) := if_neg (Nat.not_le.2 h)

theorem execLoopExitSignal_sends {s : State} {c : CellIx} {e : LoopExit} (ha : s.Awake c)
    (he : (s.cell c).seq.exits.find? (fun e => (s.cell c).seq.openOps.all fun o => decide (o < e.firstOp ∨ e.lastOp ≤ o)) = some e) :
    execLoopExitSignal c s =
      .next ((s.modSeq c fun q => { q with exits := q.exits.erase e }).signal c .loopExit e.num e.off e.sig) := by
  refine (onCell_awake ha).trans ?_
  simp only [he]

/-! ### The statement -/

/-- Settles O19: LOOP asks for its line and waits (`onControlUnless_uncached`, `onControlUnless_waits`), passes its body by
or begins it by the count that it latches (`execLoop_passesBy`, `execLoop_begins`), and the exit signal is sent
(`execLoopExitSignal_sends`). -/
theorem loopsComplete : Obligations.LoopsComplete := by
  refine ⟨fun s c ha hc => (execLoop_eq ha).trans (onControlUnless_uncached hc),
    fun s c ha hat hw => (execLoop_eq ha).trans (onControlUnless_waits hat hw), fun s c ha hat hw => ⟨fun h => ?_, fun h0 hb => ?_⟩,
    fun s c e ha he => execLoopExitSignal_sends ha he⟩
  · exact execLoop_passesBy ha hat hw (passes_of_empty h)
  · exact execLoop_begins ha hat hw (passes_of_body hb) h0

end Sys2Proof.Machine
end

section
/-! The laws of layer descriptors (R134, R136, R137, R139, R141, R144): what a load takes and leaves, when the oldest loaded descriptor is issued and when it completes, and the end of a form's period. -/

namespace Sys2Proof.Machine

/-! ### Loading (R134, R139) -/

/-- A state that has taken descriptor `desc` of a cell's chain into register set `k`. -/
def State.loadedSet (s : State) (c k : Nat) (q : Seq) (desc : Desc) : State :=
  ((s.chainRead c 256).putSet c k (some { num := q.nextLoad, desc := desc, off := q.pc, iters := q.iters })).modSeq c fun q =>
    { q with pc := q.pc + 256, nextLoad := q.nextLoad + 1 }

/-- The walk is not at the end of the innermost loop's body. -/
def Seq.inBody (q : Seq) : Bool :=
  match q.loops with
  | l :: _ => decide (q.pc ≠ l.bodyEnd)
  | [] => true

theorem inBody_iff {q : Seq} : q.inBody = true ↔ ∀ l ∈ q.loops.head?, q.pc ≠ l.bodyEnd := by
  unfold Seq.inBody
  split <;> simp_all

section

variable {s : State} {c : CellIx} {r : FormRec} (ha : s.Awake c) (hf : s.formOf c = some r)
  (hgo : ¬(s.walking c = false ∨ (s.cell c).seq.inBody = false))
include ha hf hgo

theorem execDescriptorLoad_uncached (ecc : Ecc) (hc : s.chainCached c 64 = false) :
    execDescriptorLoad c ecc s = .next (s.chainFetch c 64) := by
  refine (onCell_awake ha).trans ?_
  rw [hf]
  exact (if_neg hgo).trans (if_pos hc)

variable (hc : s.chainCached c 64 = true)
include hc

theorem execDescriptorLoad_uncorrectable :
    execDescriptorLoad c .uncorrectable s =
      (let a := r.chain + (s.cell c).seq.pc
       .next ((s.modSeq c fun q => { q with stopped := true }).detect 0x2003 (dieUnit (dieOf c)) (s.cellPart c)
        (dieOf c + wcSet a * 2 ^ 16) a)) := by
  refine (onCell_awake ha).trans ?_
  rw [hf]
  exact (if_neg hgo).trans ((if_neg (by simp [hc])).trans (if_pos rfl))

variable (hd : fldN (s.control c) 0 8 < 0x80) {ecc : Ecc} (he : ecc ≠ .uncorrectable)
include hd he

theorem execDescriptorLoad_partlyCached (h : s.chainCached c 256 = false) :
    execDescriptorLoad c ecc s = .next (s.chainFetch c 256) := by
  refine (onCell_awake ha).trans ?_
  rw [hf]
  exact (if_neg hgo).trans (by simp [hc, he, hd, h])

theorem execDescriptorLoad_takes (h : s.chainCached c 256 = true) {k : Nat}
    (hk : (List.range 4).find? (fun k => ((s.cell c).seq.set k).isNone) = some k) :
    execDescriptorLoad c ecc s =
      (let q := (s.cell c).seq
       let g := s.checked ecc ((s.readHbm (dieOf c) (r.chain + q.pc) 256).map fun b => .of b false) (fun t => t.corrected c 2) id
       .next (g.2.loadedSet c k q (bvOfBytes 2048 (g.1.map LByte.byte)))) := by
  refine (onCell_awake ha).trans ?_
  rw [hf]
  exact (if_neg hgo).trans (by simp [hc, he, hd, h, hk, State.loadedSet])

end

/-- Bytes without check-bit errors carry their values. -/
theorem map_byte_of (bs : List Byte) : (bs.map fun b => LByte.of b false).map LByte.byte = bs := by
  rw [List.map_map]
  exact List.map_id bs

/-! ### Issue and completion (R139, R141, R144) -/

section

variable {s : State} {c : CellIx} {k : Nat} {r : RegSet}

theorem execDescriptorComplete_completes (ha : s.Awake c) {j : Fin 4} {o : Nat} (hk : (s.cell c).seq.set j = some r)
    (ho : r.issued = some o) (hd : r.opDone = true) (hs : (s.cell c).streamsDone r o = true) :
    execDescriptorComplete c j s = .next (s.completeSet c j r o) := by
  refine (onCell_awake ha).trans ?_
  simp only [hk, ho, hd, hs, Bool.and_self, if_true]

theorem execDescriptorIssue_waits (ha : s.Awake c)
    (h : ∀ k r, (s.cell c).seq.headSet = some (k, r) → s.mayIssue c r = false) : execDescriptorIssue c s = .next s := by
  refine (onCell_awake ha).trans ?_
  split
  next k r hs => exact if_neg (by simp [h k r hs])
  next => rfl

section

variable (ha : s.Awake c) (hs : (s.cell c).seq.headSet = some (k, r)) (hw : s.walking c = true) (hm : s.mayIssue c r = true)
include ha hs hw hm

theorem execDescriptorIssue_issues : execDescriptorIssue c s = .next (s.issueSet c k r) := by
  refine (onCell_awake ha).trans ?_
  simp only [hs, hw, hm, Bool.and_self, if_true]

theorem execMove_issues (h : r.desc.op = 6) : execMove c s = .next (s.issueSet c k r) := by
  refine (onCell_awake ha).trans ?_
  simp only [hs, hw, hm, h, decide_true, Bool.and_self, if_true]

theorem execNop_issues (h : r.desc.op = 0) : execNop c s = .next (s.issueSet c k r) := by
  refine (onCell_awake ha).trans ?_
  simp only [hs, hw, hm, h, decide_true, Bool.and_self, if_true]

end

/-- A completed descriptor's set is free and its operation is closed; its signals change nothing of its cell (R141). -/
theorem completeSet_seq (h : SMap.wf {} s.cells = true) (o : Nat) :
    ((s.completeSet c k r o).cell c).seq = Seq.close o { (s.cell c).seq with sets := put none (s.cell c).seq.sets k none } := by
  unfold State.completeSet State.putSet State.modSeq
  rw [cell_of_cells ((signal_cells ..).trans (signal_cells ..)), cell_modCell_same (modCell_cells_wf h ..),
    cell_modCell_same h]

/-- A NOP is issued and completes in one (R144). -/
theorem issueSet_nop (hop : r.desc.op = 0) (h : SMap.wf none (s.cell c).seq.sets = true) :
    ∃ x : Cell, SMap.wf none x.seq.sets = true ∧
      s.issueSet c k r = (s.setCell c x).completeSet c k r (s.cell c).seq.nextOp :=
  ⟨_, (congrArg (SMap.wf none) (settleLoops_sets ..)).trans (put_wf h), if_pos (by simp [hop])⟩

/-- A NOP's register set is free again at its issue, and its operation is not open (R144). -/
theorem issueSet_nop_frees (hop : r.desc.op = 0) (hwf : SMap.wf {} s.cells = true) (h : SMap.wf none (s.cell c).seq.sets = true) :
    ((s.issueSet c k r).cell c).seq.set k = none ∧ (s.cell c).seq.nextOp ∉ ((s.issueSet c k r).cell c).seq.openOps := by
  obtain ⟨x, hx, hi⟩ := issueSet_nop (k := k) hop h
  have hcell : (s.setCell c x).cell c = x := look_put_same hwf
  rw [hi, completeSet_seq (put_wf hwf), hcell]
  exact ⟨look_put_same hx, by simp [Seq.close]⟩

end

/-! ### The end of a form's period (R137) -/

theorem formDone_iff {s : State} {p : Nat} {r : FormRec} :
    s.formDone (p, r) = true ↔
      (s.part p).period.isOpen = true ∧ (s.part p).period.dropped = false ∧ r.num ∉ (s.part p).period.ended ∧
      ∀ c ∈ r.cellList, let q := (s.cell c).seq
        q.ended = true ∧ q.stopped = false ∧ q.openOps = [] ∧ q.exits = [] ∧ q.used = [] := by
  simp [State.formDone, and_assoc]

theorem execFormPeriodEnd_ends {s : State} {f : FormIx} {p : Nat} {r : FormRec}
    (h : (s.formsNumbered f).find? s.formDone = some (p, r)) :
    execFormPeriodEnd f s = .next (r.cellList.foldl (fun t c => t.modCell c Cell.disarm)
      ((s.admitted .periodEnd (132 + p)).modPart p fun P =>
        { P with period := { P.period with ended := insNat f.val P.period.ended } })) := by
  simp only [execFormPeriodEnd, h]

/-! ### The statement -/

/-- Settles O31: a load inside the body (`execDescriptorLoad_takes` and the cases where it waits or stops), an issue
(`execDescriptorIssue_issues`, `execDescriptorIssue_waits`) and a NOP's end at it (`issueSet_nop_frees`), a completion
(`execDescriptorComplete_completes`), and the end of a form's period (`formDone_iff`, `execFormPeriodEnd_ends`). -/
theorem descriptorsComplete : Obligations.DescriptorsComplete := by
  refine ⟨⟨?load, ?issue, fun s c k r o ha => execDescriptorComplete_completes ha, fun s c => execDescriptorIssue_waits⟩,
    fun s p r => formDone_iff, fun s f p r => execFormPeriodEnd_ends⟩
  case load =>
    intro s c r k ecc ha hf hw hl
    have hgo : ¬(s.walking c = false ∨ (s.cell c).seq.inBody = false) := by simp [hw, inBody_iff.2 hl]
    refine ⟨execDescriptorLoad_uncached ha hf hgo ecc, execDescriptorLoad_uncorrectable ha hf hgo,
      fun hc h hd he => execDescriptorLoad_partlyCached ha hf hgo hc hd he h, fun hc h hd hk => ?_⟩
    have hload (x : Ecc) (hx : x ≠ .uncorrectable) := execDescriptorLoad_takes ha hf hgo hc hd hx h hk
    constructor
    · exact (hload .clean (by decide)).trans (by simp only [State.checked, map_byte_of]; rfl)
    · exact (hload .corrected (by decide)).trans (by simp only [State.checked, map_byte_of]; rfl)
  case issue =>
    intro s c k r ha hs hw hm
    exact ⟨execDescriptorIssue_issues ha hs hw hm, execMove_issues ha hs hw hm,
      fun hop => ⟨execNop_issues ha hs hw hm hop, issueSet_nop_frees hop⟩⟩

end Sys2Proof.Machine
end

section
/-! The laws of the step period (R137, R151, R260, R289, R290, R295, R315): when a waiting bell's period starts, and what closes it, sends its update, or keeps it open. -/

namespace Sys2Proof.Machine

/-- An access of HBM snoops and waits where the host holds a line that it needs (R315). -/
theorem afterSnoops_snooped {s : State} {acc : List (Nat × Nat × Nat × Bool)} {r : Res} (h : ¬s.Unrecorded acc) :
    s.afterSnoops acc r = .next (s.snooped acc) :=
  if_neg fun hall => h fun e he => List.isEmpty_iff.1 (List.all_eq_true.1 hall e he)

section

variable {s : State} {p : PartIx}

/-! ### The start (R137, R151) -/

theorem execPeriodStart_waits (h : (s.part p).period.waiting = none ∨ s.mayStart (s.part p) = false) :
    execPeriodStart p s = .next s := by
  unfold execPeriodStart
  dsimp only
  split
  next => rfl
  next hw => exact if_neg (by simp [h.resolve_left (by simp [hw])])

theorem execPeriodStart_starts {w : BitVec 64 × BitVec 8} (hw : (s.part p).period.waiting = some w)
    (hm : s.mayStart (s.part p) = true) :
    execPeriodStart p s =
      (let P := s.part p
       let s1 := P.dieList.foldl (fun t d => t.modDie d fun D =>
         { D with tallies := put 0 (startTallies P.period.carried d) 0 1 }) s
       let s2 := P.forms.foldl (fun t r => r.cellList.foldl (fun u c => u.modCell c (Cell.startWalk r)) t) s1
       let s3 := s2.modPart p fun P => { P with period := { P.period with
         waiting := none, isOpen := true, closed := false
         signals := [], counts := [], scalars := [], arrivals := [], clamped := [], rotas := [], hops := [] } }
       .next (s3.signalInputs p (P.inputsReady w.1))) := by
  simp only [execPeriodStart, hw, hm, if_true]

/-! ### The close (R260, R290) -/

/-- The period's work is done, so that it closes as far as its conditions have come (R38, R260). -/
def State.Closing (s : State) (p : Nat) : Prop :=
  (s.part p).state = .running ∧ (s.part p).period.isOpen = true ∧ (s.part p).period.dropped = false ∧ s.workDone p = true

/-- The state of a closing period whose version tallies are reset, once a period (R198). -/
def State.versionsReset (s : State) (p : Nat) : State :=
  if (s.part p).period.versions then s
  else (s.resetVersions p).modPart p fun P => { P with period := { P.period with versions := true } }

theorem execPeriodClose_waits (h : ¬s.Closing p) : execPeriodClose p s = .next s := if_neg h

theorem execPeriodClose_undigested (h : s.Closing p) (he : (s.versionsReset p).headEntry p = none) :
    execPeriodClose p s = .next (s.versionsReset p) := by
  unfold State.versionsReset at he ⊢
  refine (if_pos h).trans ?_
  dsimp only
  rw [he]

/-- Once the next step's inputs are digested, a period closes at once in single-device operation; otherwise it sends its
update, where the host records no line that the update reads, and closes once the update is acknowledged. -/
theorem execPeriodClose_digested (h : s.Closing p) {e : JEntry} (he : (s.versionsReset p).headEntry p = some e) :
    execPeriodClose p s =
      (let P := s.part p
       let t := s.versionsReset p
       if P.image.single then .next (t.closeNow p e)
       else if P.mirror.sent ≠ some P.period.step then
         t.afterSnoops (P.updateEntries.map fun i => (i.2.1, i.2.2.1, i.2.2.2, false)) (.next (t.sendUpdate p e))
       else if P.mirror.acked = some P.period.step then .next (t.closeNow p e)
       else .next t) := by
  unfold State.versionsReset at he ⊢
  refine (if_pos h).trans ?_
  dsimp only
  rw [he]

end

/-! ### The statement -/

/-- Settles O47: a waiting bell's period starts or waits (`execPeriodStart_starts`, `execPeriodStart_waits`), and a closing
period goes as far as the digest and the update let it (`execPeriodClose_undigested`, `execPeriodClose_digested`). -/
theorem periodsOpenAndClose : Obligations.PeriodsOpenAndClose := by
  refine ⟨fun s p w hw hm => execPeriodStart_starts hw hm, fun s p => execPeriodStart_waits, ?close, fun s p h => ?stays⟩
  case close =>
    intro s p P t hrun hopen hdrop hwork
    have hc : s.Closing p := ⟨hrun, hopen, hdrop, hwork⟩
    refine ⟨fun he => execPeriodClose_undigested hc he, fun e he => ?_⟩
    have hdig : exec (.periodClose p) s = _ := execPeriodClose_digested hc he
    have hmany (h1 : P.image.single = false) := hdig.trans (if_neg (Bool.eq_false_iff.1 h1))
    refine ⟨fun h1 => hdig.trans (if_pos h1), fun h1 hs => ?unsent, fun h1 hs ha => ?acked, fun h1 hs ha => ?unacked⟩
    case unsent =>
      have hsend := (hmany h1).trans (if_pos hs)
      exact ⟨fun hu => hsend.trans (afterSnoops_free hu), fun hu => hsend.trans (afterSnoops_snooped hu)⟩
    case acked => exact (hmany h1).trans ((if_neg (not_not.2 hs)).trans (if_pos ha))
    case unacked => exact (hmany h1).trans ((if_neg (not_not.2 hs)).trans (if_neg ha))
  case stays =>
    refine execPeriodClose_waits fun ⟨hrun, hopen, hdrop, hwork⟩ => ?_
    simp [hrun, hopen, hdrop, hwork] at h

end Sys2Proof.Machine
end

section
/-! The laws of LOAD (R167, R315, R326, R327, R332): what Proctor's report on the first reading leads to, and how the second
reading of an accepted image ends the command. -/

namespace Sys2Proof.Machine

section

variable {s : State} {r : RingIx} {c : PendCmd} {img : HostData}

/-! ### The first reading: Proctor's verdict (R167, R326, R327) -/

/-- Proctor's report on the bytes of a LOAD's image, for the partition as it stands (R167, R168). -/
def State.loadReport (s : State) (c : PendCmd) (bytes : List Byte) : Report :=
  proctor c.part (s.part c.part).dies s.fabric.maps (c.readImage bytes) bytes

theorem execLoadImage_unread {n : Nat} (h : s.Starts r 0x0201 [.empty, .loaded, .halted, .fenced] badLoad c)
    (hf : img.failAt = some n) : execLoadImage r img s = .next (s.answered r c 0x0301 n []) :=
  runCmd_answers h .id (by simp only [hf])

theorem execLoadImage_rejected (h : s.Starts r 0x0201 [.empty, .loaded, .halted, .fenced] badLoad c)
    (hf : img.failAt = none) (hv : (s.loadReport c (c.imageBytes img)).reason ≠ 0) :
    execLoadImage r img s = .next (s.answered r c 0x0202 (s.loadReport c (c.imageBytes img)).reason
      (s.loadReport c (c.imageBytes img)).bytes) :=
  runCmd_answers h .id (by simp only [hf]; exact if_pos hv)

/-- What waits for the second reading of an image that Proctor accepts with report `v` (R327). -/
def PendCmd.accepted (c : PendCmd) (bytes : List Byte) (v : Report) : Loading :=
  ⟨c.readImage bytes, readSegments bytes, (bytes.drop 32).take 32, v.bytes⟩

theorem execLoadImage_accepted (h : s.Starts r 0x0201 [.empty, .loaded, .halted, .fenced] badLoad c)
    (hf : img.failAt = none) (hv : (s.loadReport c (c.imageBytes img)).reason = 0) :
    execLoadImage r img s = .next ((s.started r c).modPart c.part fun P =>
      { P with loading := some (c.accepted (c.imageBytes img) (s.loadReport c (c.imageBytes img))) }) := by
  rw [execLoadImage, runCmd_starts h (fun _ he => absurd he List.not_mem_nil)]
  simp only [hf]
  exact congrArg Host.Outcome.next (if_neg (not_not.2 hv))

/-! ### The second reading: the copy (R315, R326, R327, R332) -/

/-- The writes of HBM that the copy of a loading image makes: die, address, length (R332). -/
def Loading.writes (l : Loading) : List (Nat × Nat × Nat × Bool) :=
  (l.segs.filter fun g => sgValid g && !sgStore g).map fun g => (sgDie g, sgDest g, sgLen g, true)

theorem unrecorded_writes_iff {l : Loading} : s.Unrecorded l.writes ↔
    ∀ g ∈ l.segs, sgValid g = true → sgStore g = false → s.cxl.mustSnoop (sgDie g) (sgDest g) (sgLen g) true = [] := by
  simp only [State.Unrecorded, Loading.writes, List.forall_mem_map, List.mem_filter, Bool.and_eq_true, Bool.not_eq_true',
    and_imp]

/-- The state in which a second reading of the partition's image has come: its completion is signalled, and nothing is
left to load. -/
def State.loaderRead (s : State) (p : Nat) : State :=
  (s.assertAt 0 8).modPart p fun P => { P with loading := none }

/-- A second reading ends the LOAD: it failed, or its bytes are those that were verified, or they have changed. -/
theorem execLoaderReadComplete_ends {l : Loading}
    (hc : (s.ring r).running.find? (fun c => decide (c.opcode = 0x0201)) = some c)
    (hl : (s.part c.part).loading = some l) (hu : s.Unrecorded l.writes) :
    execLoaderReadComplete r img s =
      (let s1 := s.loaderRead c.part
       let bytes := c.imageBytes img
       img.failAt.elim
         (if imageDigest bytes = l.digest then .next ((s1.takeImage c.part l bytes).reply r c 0 0 l.report)
          else .next ((s1.loseImage c.part l bytes).reply r c 0x0302 0 l.report))
         fun n => .next (s1.reply r c 0x0301 n [])) := by
  simp only [execLoaderReadComplete, hc, hl]
  refine (afterSnoops_free hu).trans ?_
  cases img.failAt with
  | none => rfl
  | some n => rfl

end

/-! ### The statement -/

/-- Settles O21: the first reading ends the LOAD or leaves it waiting, as `State.loadReport` says (`execLoadImage_unread`,
`execLoadImage_rejected`, `execLoadImage_accepted`), and the second ends it (`execLoaderReadComplete_ends`). -/
theorem loadCompletes : Obligations.LoadCompletes := by
  refine ⟨fun s r c img h => ?first, fun s r c l img hc hl hsnoop => ?second⟩
  case first =>
    exact ⟨fun n => execLoadImage_unread h, execLoadImage_rejected h, execLoadImage_accepted h⟩
  case second =>
    have hend : exec (.loaderReadComplete r img) s = _ := execLoaderReadComplete_ends hc hl (unrecorded_writes_iff.2 hsnoop)
    refine ⟨fun n hf => ?failed, fun hf hd => ?verified, fun hf hd => ?changed⟩
    case failed => exact hend.trans (by simp only [hf, Option.elim_some]; rfl)
    case verified => exact hend.trans (by simp only [hf, Option.elim_none, if_pos hd]; rfl)
    case changed => exact hend.trans (by simp only [hf, Option.elim_none, if_neg hd]; rfl)

end Sys2Proof.Machine
end

section
/-! The laws of reductions (R208-R218, R222, R315): when a run starts and what its start does, what a received packet is checked for and does for its run, and when a run is complete. -/

namespace Sys2Proof.Machine

variable {s : State}

/-! ### A member's contribution (R125, R218) -/

/-- A contribution is missing exactly where an element of it arrives poisoned. -/
theorem contribution_eq_none_iff {p : Nat} {b : Bucket} {bn e n : Nat} {bad : Option (Nat × Ecc)} :
    (s.contribution p b bn e n bad).1 = none ↔ ∃ i, bad = some (i, .uncorrectable) ∧ e ≤ i ∧ i < e + n := by
  unfold State.contribution
  cases bad with
  | none => simp
  | some w =>
    obtain ⟨i, ecc⟩ := w
    dsimp only
    split
    next hin => simp [hin]
    next hout => simpa using fun _ h => not_lt.1 fun hi => hout ⟨h, hi⟩

/-- A contribution none of whose elements arrives poisoned has its values. -/
theorem contribution_eq_some_getD {p : Nat} {b : Bucket} {bn e n : Nat} {bad : Option (Nat × Ecc)}
    (h : ∀ i, bad = some (i, .uncorrectable) → i < e ∨ e + n ≤ i) :
    (s.contribution p b bn e n bad).1 = some ((s.contribution p b bn e n bad).1.getD []) := by
  obtain ⟨vs, hvs⟩ : ∃ vs, (s.contribution p b bn e n bad).1 = some vs := by
    refine Option.ne_none_iff_exists'.1 fun hnone => ?_
    obtain ⟨i, hi, hlo, hhi⟩ := contribution_eq_none_iff.1 hnone
    have hout := h i hi
    omega
  rw [hvs, Option.getD_some]

/-! ### The start of a run (R208, R209, R213, R315) -/

/-- Run `j` of bucket `bn` may start on die `d` (R208): its partition's period is open, the bucket is filled, a run slot is
free and the bucket's earlier runs are done. -/
abbrev State.RunReady (s : State) (d : DieIx) (kind : Fin 4) (p j bn : Nat) : Prop :=
  (s.part p).state = .running ∧ (s.part p).period.isOpen = true ∧ bkDie ((s.part p).bucket bn) = d.val ∧
    bkFill ((s.part p).bucket bn) j ≤ (s.tally (fld ((s.part p).bucket bn) 160 14)).toNat ∧
    ((s.die d).runs.filter fun r => r.started && r.kind == kind.val).length < 16 ∧ look 0 (s.die d).runsDone bn = j

/-- The accesses of HBM that a run's start brings: its first chunk's contribution, and the result in a ring of one. -/
def startAccesses (d : DieIx) (b : Bucket) (g : Place) : List (Nat × Nat × Nat × Bool) :=
  let c := if bkOwnerMode b then 0 else g.pos
  let all : Nat × Nat :=
    if g.n ≤ 1 then (0, bkElems b) else if chunkStart b g.n c = g.pos then (chunkLo b g.n c, chunkLen b g.n c) else (0, 0)
  (d.val, bkBase b + bkSrc b * all.1, bkSrc b * all.2, false) ::
    (if g.n ≤ 1 then [(d.val, bkResult b, bkSrc b * bkElems b, true)] else [])

/-- The run that a start on die `d` begins, which its successor's open may have made before (R209). -/
def State.startedRun (s : State) (d : DieIx) (kind : Fin 4) (j bn : Nat) : Run :=
  { ((s.die d).findRun bn j).getD { bucket := bn, run := j, kind := kind } with started := true }

/-- The state in which a group's next start is that of the run after this one (R208). -/
def State.nextStart (s : State) (p : Nat) (kind : Fin 4) : State :=
  s.modDie (s.part p).lowDie fun L => { L with runPos := alter 0 L.runPos kind (· + 1) }

section

variable {d : DieIx} {kind : Fin 4} {p j bn : Nat} (bad : Option (Nat × Ecc)) (hp : s.partOf d = some p)
  (hnext : s.nextRun p kind = some (j, bn))
include hp hnext

theorem execRunStart_waits (h : ¬s.RunReady d kind p j bn) : execRunStart d kind bad s = .next s := by
  simp only [execRunStart, hp, hnext]
  exact if_neg h

/-- A run that may start does so once the host records no line that it needs: in a ring of one it writes its result, and
otherwise it opens to its predecessor and queues its first chunk. -/
theorem execRunStart_ready (h : s.RunReady d kind p j bn) :
    execRunStart d kind bad s =
      (let P := s.part p
       let b := P.bucket bn
       let g := P.place b
       let r := s.startedRun d kind j bn
       let x := (s.nextStart p kind).contribution p b bn 0 (bkElems b) bad
       let s2 := (s.nextStart p kind).sendRed p b (g.ring.getD ((g.pos + g.n - 1) % g.n) 0)
         (bytesOfBv 16 (redHdr bn j 0 0 0 (bkWire b) 0 0 P.period.step))
       let f := s2.firstChunk p b r g bad
       s.afterSnoops (startAccesses d b g) <|
       if g.n ≤ 1 then .next (x.1.elim (x.2.stopRun b r) fun vs =>
         (x.2.writeResult b 0 (wireVals (bkWire b) (bkElems b) (wireFirst (bkWire b) 1 vs))).putRun d
           { r with written := bkElems b })
       else .next (f.2.flushRun p b f.1)) := by
  simp only [execRunStart, hp, hnext]
  refine (if_pos h).trans (congrArg (s.afterSnoops _) (if_congr Iff.rfl ?_ rfl))
  unfold State.startedRun State.nextStart
  split
  next hx => rw [hx]; rfl
  next hx => rw [hx]; rfl

end

/-! ### Received packets (R216-R218) -/

/-- The header of a reduction packet (R216). -/
abbrev redHead (pkt : Packet) : BitVec 128 := bvOfBytes 128 (pkt.payload.take 16)

/-- The three commands by which a reduction packet is received, by the packet's TYPE (R216). -/
def redCmd (p : PartIx) (pkt : Packet) (bad : Option (Nat × Ecc)) : Nat → Instr
  | 0 => .reductionOpen p pkt
  | 1 => .reductionPartial p pkt bad
  | _ => .reductionFinal p pkt

/-- The accesses of HBM that a received packet of a TYPE brings: an open has none (R216, R315). -/
def State.redAccesses (s : State) (p : PartIx) (pkt : Packet) (k : Nat) : List (Nat × Nat × Nat × Bool) :=
  if k = 0 then [] else s.redRanges p pkt k

/-- A packet of a TYPE is taken for run `r` (R217). -/
abbrev State.TakesRed (s : State) (p : PartIx) (pkt : Packet) (k : Nat) (b : Bucket) (g : Place) (r : Run) : Prop :=
  fldN (redHead pkt) 14 2 = k ∧ (s.takePkt p pkt).checkRed p (pktTag pkt.hdr) (redHead pkt) k = .take b g r

section

variable {p : PartIx} {pkt : Packet} {bad : Option (Nat × Ecc)} {k : Nat}

/-- Outside a switch each of the commands waits for the host, and then takes its packet as `State.takeRed` says. -/
theorem exec_redCmd (hn : s.NoSwitch) (hk : k < 3) :
    ∃ f, exec (redCmd p pkt bad k) s = s.afterSnoops (s.redAccesses p pkt k) (.next (s.takeRed p pkt k f)) := by
  match k, hk with
  | 0, _ => exact ⟨_, defers_noSwitch hn⟩
  | 1, _ => exact ⟨_, defers_noSwitch hn⟩
  | 2, _ => exact ⟨_, defers_noSwitch hn⟩

/-- A packet of another type brings no accesses. -/
theorem redAccesses_other (h : fldN (redHead pkt) 14 2 ≠ k) : s.redAccesses p pkt k = [] :=
  ite_eq_left_iff.2 fun _ => if_pos h

variable {f : State → BitVec 128 → List Byte → Bucket → Place → Run → State}

theorem takeRed_other (h : fldN (redHead pkt) 14 2 ≠ k) : s.takeRed p pkt k f = s := if_pos h

theorem takeRed_discard (h : fldN (redHead pkt) 14 2 = k)
    (hc : (s.takePkt p pkt).checkRed p (pktTag pkt.hdr) (redHead pkt) k = .discard) :
    s.takeRed p pkt k f = (s.takePkt p pkt).dropRed pkt := by
  unfold State.takePkt at *
  simp only [State.takeRed, h, hc, ne_eq, not_true_eq_false, if_false]

theorem takeRed_mismatch (h : fldN (redHead pkt) 14 2 = k)
    (hc : (s.takePkt p pkt).checkRed p (pktTag pkt.hdr) (redHead pkt) k = .mismatch) :
    s.takeRed p pkt k f = (s.takePkt p pkt).redError p pkt (redHead pkt) := by
  unfold State.takePkt at *
  simp only [State.takeRed, h, hc, ne_eq, not_true_eq_false, if_false]

variable {b : Bucket} {g : Place} {r : Run}

/-- A packet that is taken for a run does what its type says, unless the run has stopped (R218). -/
theorem takeRed_taken (h : s.TakesRed p pkt k b g r) :
    s.takeRed p pkt k f = if r.stopped then s.takePkt p pkt
      else f (s.takePkt p pkt) (redHead pkt) (pkt.payload.drop 16) b g r := by
  obtain ⟨hty, hc⟩ := h
  unfold State.takePkt at *
  simp only [State.takeRed, hty, hc, ne_eq, not_true_eq_false, if_false]

theorem takeRed_stopped (h : s.TakesRed p pkt k b g r) (hr : r.stopped = true) : s.takeRed p pkt k f = s.takePkt p pkt :=
  (takeRed_taken h).trans (if_pos hr)

theorem takeRed_takes (h : s.TakesRed p pkt k b g r) (hr : r.stopped = false) :
    s.takeRed p pkt k f = f (s.takePkt p pkt) (redHead pkt) (pkt.payload.drop 16) b g r :=
  (takeRed_taken h).trans (if_neg (Bool.eq_false_iff.1 hr))

section

variable (hn : s.NoSwitch) (hr : r.stopped = false)
include hn hr

theorem execReductionOpen_takes (h : s.TakesRed p pkt 0 b g r) :
    execReductionOpen p pkt s = .next ((s.takePkt p pkt).flushRun p b { r with succOpen := true }) :=
  (defers_noSwitch hn).trans (congrArg Host.Outcome.next (takeRed_takes h hr))

/-- A final's elements are written, and it goes on unless this member is its last receiver (R210, R212). -/
theorem execReductionFinal_takes (hu : s.Unrecorded (s.redRanges p pkt 2)) (h : s.TakesRed p pkt 2 b g r) :
    execReductionFinal p pkt s =
      (let c := fldN (redHead pkt) 16 12
       let n := fldN (redHead pkt) 80 16
       let t1 := (s.takePkt p pkt).writeResult b (chunkLo b g.n c + fldN (redHead pkt) 48 32)
         (wireVals (bkWire b) n (pkt.payload.drop 16))
       let r1 := { r with written := r.written + n }
       .next (t1.flushRun p b (if g.pos = (c + g.n - 2) % g.n then r1
         else { r1 with queue := r1.queue ++ [(n, pkt.payload)] }))) :=
  (defers_noSwitch hn).trans ((afterSnoops_free hu).trans (congrArg Host.Outcome.next (takeRed_takes h hr)))

/-- A partial has this member's contribution added, where that does not stop the run; the sum goes on to the successor, or
is this member's result and, but for a bucket with an owner, a final (R210-R212, R218, R222). -/
theorem execReductionPartial_takes (hu : s.Unrecorded (s.redRanges p pkt 1)) (h : s.TakesRed p pkt 1 b g r) :
    execReductionPartial p pkt bad s =
      (let t := s.takePkt p pkt
       let c := fldN (redHead pkt) 16 12
       let off := fldN (redHead pkt) 48 32
       let n := fldN (redHead pkt) 80 16
       let hops := fldN (redHead pkt) 28 12
       let e := chunkLo b g.n c + off
       let x := t.contribution p b r.bucket e n bad
       .next (x.1.elim (x.2.stopRun b r) fun vs =>
         let w := wireHop (bkWire b) n (pkt.payload.drop 16) vs
         let t1 := if w.2 = 0 then x.2 else x.2.countRed (bkDie b) (bkKind b) 32 32 w.2
         let on (type k : Nat) : Nat × List Byte :=
           (n, bytesOfBv 16 (redHdr r.bucket r.run type c k (bkWire b) off n (t.part p).period.step) ++ w.1)
         let r1 := { r with written := r.written + n }
         if hops + 1 = g.n then
           (t1.writeResult b e (wireVals (bkWire b) n w.1)).flushRun p b
             (if bkOwnerMode b then r1 else { r1 with queue := r1.queue ++ [on 2 0] })
         else t1.flushRun p b { r with queue := r.queue ++ [on 1 (hops + 1)] })) := by
  refine (defers_noSwitch hn).trans ((afterSnoops_free hu).trans (congrArg Host.Outcome.next ((takeRed_takes h hr).trans ?_)))
  dsimp only
  split
  next hx => rw [hx]; rfl
  next hx => rw [hx]; rfl

end

end

/-! ### The completion of a run (R215, R217) -/

/-- Run `r` is a run of the bucket whose result is whole on this member, and whose packets, if it has sent any, have all been
accepted. -/
def State.runWhole (s : State) (p : Nat) (b : BucketIx) (accepted : Bool) (r : Run) : Bool :=
  decide (r.bucket = b.val) && s.runComplete p r && (accepted || !s.runSent p r)

section

variable {d : DieIx} {b : BucketIx} {p : Nat} {accepted : Bool} (hp : s.partOf d = some p)
include hp

theorem execRunComplete_none (h : (s.die d).runs.find? (s.runWhole p b accepted) = none) :
    execRunComplete d ⟨b, accepted⟩ s = .next s := by
  unfold State.runWhole at h
  simp only [execRunComplete, hp, h]

theorem execRunComplete_some {r : Run} (h : (s.die d).runs.find? (s.runWhole p b accepted) = some r) :
    execRunComplete d ⟨b, accepted⟩ s =
      (let rcd := (s.part p).bucket b
       .next ((((s.modDie d fun D => { D with
         runs := D.runs.filter fun q => !(q.bucket == r.bucket && q.run == r.run)
         runsDone := alter 0 D.runsDone b (· + 1) }).countRed d (bkKind rcd) 0 32 1).addOwn p (fld rcd 216 14)
           (fldN rcd 232 20) 0).assertShared 46)) := by
  unfold State.runWhole at h
  simp only [execRunComplete, hp, h]

end

/-! ### The statement -/

/-- Settles O41: a start by its readiness (`execRunStart_ready`, `execRunStart_waits`) and whether its contribution arrives
poisoned (`contribution_eq_none_iff`), a packet by its check (`exec_redCmd`, `takeRed_discard`, `takeRed_mismatch`,
`takeRed_taken`) and then by its type, and a run's end by whether it is whole (`execRunComplete_some`,
`execRunComplete_none`). -/
theorem reductionsComplete : Obligations.ReductionsComplete := by
  refine ⟨?start, ?packets, fun s d b p accepted hp => ⟨fun r => execRunComplete_some hp, execRunComplete_none hp⟩⟩
  case start =>
    intro s d kind bad p j bn hp hnext P b D ready g r0 s1 c all acc
    have hgo (h : ready) : exec (.runStart d kind bad) s = s.afterSnoops acc _ := execRunStart_ready bad hp hnext h
    have halone (h : ready) (hu : s.Unrecorded acc) (h1 : g.n ≤ 1) := (hgo h).trans ((afterSnoops_free hu).trans (if_pos h1))
    refine ⟨fun h hu => (hgo h).trans (afterSnoops_snooped hu), fun h hu h1 => ⟨fun hc => ?whole, fun i hi hlt => ?poisoned⟩,
      fun h hu h1 => ?ring, execRunStart_waits bad hp hnext⟩
    case whole =>
      have hvs := contribution_eq_some_getD (s := s1) (p := p) (b := b) (bn := bn) (e := 0) (n := bkElems b)
        fun i hi => .inr ((Nat.zero_add _).symm ▸ hc i hi)
      exact (halone h hu h1).trans (congrArg Host.Outcome.next (congrArg (Option.elim · _ _) hvs))
    case poisoned =>
      have hnone := (contribution_eq_none_iff (s := s1) (p := p) (b := b) (bn := bn) (e := 0) (n := bkElems b)).2
        ⟨i, hi, Nat.zero_le _, (Nat.zero_add _).symm ▸ hlt⟩
      exact (halone h hu h1).trans (congrArg Host.Outcome.next (congrArg (Option.elim · _ _) hnone))
    case ring => exact (hgo h).trans ((afterSnoops_free hu).trans (if_neg (Nat.not_le.2 h1)))
  case packets =>
    intro s p pkt bad hn t h body c off n cmd tag acc
    have hcmd (k : Nat) (hk : k < 3) : ∃ f, exec (cmd k) s = s.afterSnoops (acc k) (.next (s.takeRed p pkt k f)) :=
      exec_redCmd hn hk
    have htakes (k : Nat) (hk : k < 3) (hu : s.Unrecorded (acc k)) : ∃ f, exec (cmd k) s = .next (s.takeRed p pkt k f) :=
      (hcmd k hk).imp fun f hf => hf.trans (afterSnoops_free hu)
    refine ⟨fun k hk hu => ?snoops, fun k hk hu hty => ⟨fun hc => ?discard, fun hc => ?mismatch⟩, fun k hk hty => ?other,
      fun k b g r hk hu hty hc hr => ?stopped, fun b g r hty hc hr => execReductionOpen_takes hn hr ⟨hty, hc⟩,
      fun b g r hu hty hc hr => ?sum, fun b g r hu hty hc hr => ?final⟩
    case snoops =>
      obtain ⟨f, hf⟩ := hcmd k hk
      exact hf.trans (afterSnoops_snooped hu)
    case discard =>
      obtain ⟨f, hf⟩ := htakes k hk hu
      exact hf.trans (congrArg Host.Outcome.next (takeRed_discard hty hc))
    case mismatch =>
      obtain ⟨f, hf⟩ := htakes k hk hu
      exact hf.trans (congrArg Host.Outcome.next (takeRed_mismatch hty hc))
    case other =>
      have hacc : acc k = [] := redAccesses_other hty
      obtain ⟨f, hf⟩ := htakes k hk (hacc ▸ List.forall_mem_nil _)
      exact hf.trans (congrArg Host.Outcome.next (takeRed_other hty))
    case stopped =>
      obtain ⟨f, hf⟩ := htakes k hk hu
      exact hf.trans (congrArg Host.Outcome.next (takeRed_stopped ⟨hty, hc⟩ hr))
    case sum =>
      intro e x clean w t1 on
      have hsum : exec (.reductionPartial p pkt bad) s = _ := execReductionPartial_takes hn hr hu ⟨hty, hc⟩
      have hclean (hb : clean) := hsum.trans (congrArg Host.Outcome.next
        (congrArg (Option.elim · _ _) (contribution_eq_some_getD fun i hi => hb i hi)))
      refine ⟨fun i hi hlo hhi => ?poisoned, fun hb hlast => ?goesOn, fun hb hlast => ⟨fun ho => ?owned, fun ho => ?shared⟩⟩
      case poisoned =>
        exact hsum.trans (congrArg Host.Outcome.next
          (congrArg (Option.elim · _ _) (contribution_eq_none_iff.2 ⟨i, hi, hlo, hhi⟩)))
      case goesOn => exact (hclean hb).trans (congrArg Host.Outcome.next (if_neg hlast))
      case owned =>
        exact (hclean hb).trans (congrArg Host.Outcome.next ((if_pos hlast).trans (congrArg _ (if_pos ho))))
      case shared =>
        exact (hclean hb).trans (congrArg Host.Outcome.next
          ((if_pos hlast).trans (congrArg _ (if_neg (Bool.eq_false_iff.1 ho)))))
    case final =>
      have hfin : exec (.reductionFinal p pkt) s = _ := execReductionFinal_takes hn hr hu ⟨hty, hc⟩
      exact ⟨fun hlast => hfin.trans (congrArg Host.Outcome.next (congrArg _ (if_pos hlast))),
        fun hlast => hfin.trans (congrArg Host.Outcome.next (congrArg _ (if_neg hlast)))⟩

end Sys2Proof.Machine
end

section
/-! The laws of routing's first step (R244): a packet's distance in a dimension of the torus, and the outputs that it makes
productive. -/

namespace Sys2Proof.Machine

/-- The distance that the model computes in the naturals is R244's: the difference of the coordinates modulo the size. -/
theorem torusDistance_eq {n own : Nat} (dest : Nat) (h : own < n) :
    (((dest : Int) - own) % n).toNat = (dest + n - own) % n := by
  have hcast : ((dest + n - own : Nat) : Int) = (dest : Int) - own + n := by omega
  rw [← Int.add_emod_right, ← hcast, ← Int.natCast_emod, Int.toNat_natCast]

/-- The productive outputs by where a distance `d` lies on a ring of `n` devices (R244). -/
theorem productive_spec (n d up down : Nat) :
    (d = 0 → productive n d up down = []) ∧ (0 < d → 2 * d < n → productive n d up down = [up]) ∧
    (n < 2 * d → productive n d up down = [down]) ∧ (0 < d → 2 * d = n → productive n d up down = [up, down]) := by
  refine ⟨fun h0 => if_pos h0, fun hpos hnear => ?near, fun hfar => ?far, fun hpos hhalf => ?half⟩
  case near => rw [productive, if_neg hpos.ne', if_pos hnear]
  case far => rw [productive, if_neg (by omega), if_neg (by omega), if_pos hfar]
  case half => rw [productive, if_neg hpos.ne', if_neg hhalf.not_lt, if_neg hhalf.not_gt]

/-- Settles O16: the distances are R244's (`torusDistance_eq`), and each dimension's outputs follow from its distance
(`productive_spec`). -/
theorem productiveOutputs : Obligations.ProductiveOutputs := by
  intro f h hx hy _ _ dx dy
  have hxOuts : f.xOuts h = productive f.sizeX dx 2 0 := congrArg (productive f.sizeX · 2 0) (torusDistance_eq _ hx).symm
  have hyOuts : f.yOuts h = productive f.sizeY dy 1 3 := congrArg (productive f.sizeY · 1 3) (torusDistance_eq _ hy).symm
  obtain ⟨hx0, hxNear, hxFar, hxHalf⟩ := productive_spec f.sizeX dx 2 0
  rw [hxOuts, hyOuts]
  exact ⟨hx0, hxNear, hxFar, hxHalf, productive_spec f.sizeY dy 1 3⟩

end Sys2Proof.Machine
end

section
/-! The laws of flits (R231, R233-R235, R249-R251, R254): what becomes of a flit on a live unit by its check, its TYPE and its
SEQ, and what a flit slot sends. -/

namespace Sys2Proof.Machine

variable {s : State} {i : PortIx} {u : UnitIx}

/-! ### A received flit (R234, R249) -/

/-- A flit passes its check: its CRC holds, and no field of it has a reserved value (R233, R234). -/
def flitGood (u : Nat) (flit : Flit) : Bool := flitCrcOk flit && flitFormOk u flit

section

variable {port unit type : Nat} {flit : Flit} {fec : Fec} {f : State → State}

theorem takeFlit_notLive (h : s.unitLive port unit = false) : s.takeFlit port unit type flit fec f = s := if_pos h

/-- A flit on a live unit is discarded by its check, is not the command's, or takes its effect. -/
theorem takeFlit_live (h : s.unitLive port unit = true) :
    s.takeFlit port unit type flit fec f =
      (let t := s.countFec port unit fec
       let t1 := t.countFabric port unit 112 16 1
       if flitGood unit flit = false then
         if type = 2 then t1 else t1.modUnit port unit fun x => { x with nak := true }
       else if flitType flit ≠ type then s else f t) := by
  have hbad : (!flitCrcOk flit || !flitFormOk unit flit) = true ↔ flitGood unit flit = false := by
    rw [← Bool.not_and, Bool.not_eq_true', flitGood]
  exact (if_neg (by simp [h])).trans (if_congr hbad rfl rfl)

variable (h : s.unitLive port unit = true)
include h

theorem takeFlit_bad (hbad : flitGood unit flit = false) :
    s.takeFlit port unit type flit fec f =
      (let t1 := (s.countFec port unit fec).countFabric port unit 112 16 1
       if type = 2 then t1 else t1.modUnit port unit fun x => { x with nak := true }) :=
  (takeFlit_live h).trans (if_pos hbad)

variable (hgood : flitGood unit flit = true)
include hgood

theorem takeFlit_other (ht : flitType flit ≠ type) : s.takeFlit port unit type flit fec f = s :=
  (takeFlit_live h).trans ((if_neg (by simp [hgood])).trans (if_pos ht))

theorem takeFlit_takes (ht : flitType flit = type) : s.takeFlit port unit type flit fec f = f (s.countFec port unit fec) :=
  (takeFlit_live h).trans ((if_neg (by simp [hgood])).trans (if_neg (not_not.2 ht)))

end

/-! ### A control flit (R234, R250) -/

/-- The unit after a control flit, its buffer of sent flits aside: the credits come back, and another SEQ calls for a
replay. -/
def LinkUnit.credited (u : Nat) (flit : Flit) (x : LinkUnit) : LinkUnit :=
  { x with
    used := (unitChans u).foldl (fun m ch => alter 0 m ch fun n => n - creditOf u flit ch) x.used
    nak := x.nak || decide (flitSeq flit ≠ x.rxSeq) }

section

variable {flit : Flit} {fec : Fec} (h : s.unitLive i u = true) (hgood : flitGood u flit = true) (ht : flitType flit = 2)
include h hgood ht

/-- A NAK has all flits after the acknowledged one sent again. -/
theorem execControlFlit_nak (hn : bit flit 44 = true) :
    execControlFlit i u ⟨flit, fec⟩ s =
      .next (((s.countFec i u fec).countFabric i u 128 16 1).modUnit i u fun x =>
        { x.credited u flit with
          replay := ackReplay (fld flit 32 12) x.replay
          resend := (ackReplay (fld flit 32 12) x.replay).map SentFlit.flit }) := by
  rw [execControlFlit, takeFlit_takes h hgood ht]
  simp only [hn, if_true]
  rfl

/-- Without a NAK what is still to be sent again, and not acknowledged, stays so. -/
theorem execControlFlit_ack (hn : bit flit 44 = false) :
    execControlFlit i u ⟨flit, fec⟩ s =
      .next ((s.countFec i u fec).modUnit i u fun x =>
        { x.credited u flit with
          replay := ackReplay (fld flit 32 12) x.replay
          resend := x.resend.filter fun f => (ackReplay (fld flit 32 12) x.replay).any fun e => decide (e.flit = f) }) := by
  rw [execControlFlit, takeFlit_takes h hgood ht]
  simp only [hn, Bool.false_eq_true, if_false]
  rfl

end

/-! ### A flit slot (R231, R235) -/

/-- What the slot of a unit carries, whether it is a data flit, and the unit after it: where the last control flit failed at
its receiver, the next one carries its credits again (R249). -/
def LinkUnit.slotOf (u : Nat) (lost : Bool) (x : LinkUnit) : Flit × Bool × LinkUnit :=
  LinkUnit.nextSlot u (if lost then LinkUnit.retell u x else x)

/-- The state after a unit's slot `r`, with the flits of the pair so far: a whole pair of codewords goes on the lanes (R231), and
a data flit is counted (R254). -/
def State.slotSent (s : State) (i u : Nat) (r : Flit × Bool × LinkUnit) (flits : List Flit) (whole : Bool) : State :=
  let s1 := (s.modUnit i u fun _ => { r.2.2 with pair := if whole then [] else flits }).emit (.flit i u r.1)
  let s2 := if whole then s1.emit (.codewords i u (laneSymbols u flits)) else s1
  if r.2.1 then s2.countFabric i u 0 32 1 else s2

section

variable {lost whole : Bool}

theorem execFlitSlot_notLive (h : s.unitLive i u = false) : execFlitSlot i ⟨u, lost⟩ s = .next s := if_pos h

/-- The pair is whole with its fifth flit. -/
theorem execFlitSlot_live (h : s.unitLive i u = true) :
    let r := (s.unit i u).slotOf u lost
    decide (5 ≤ (r.2.2.pair ++ [r.1]).length) = whole →
    execFlitSlot i ⟨u, lost⟩ s = .next (s.slotSent i u r (r.2.2.pair ++ [r.1]) whole) := by
  rintro r rfl
  exact if_neg (by simp [h])

end

/-! ### The statement -/

/-- Settles O42: a flit is discarded by its check (`takeFlit_bad`), is not the command's (`takeFlit_other`), or is taken
(`takeFlit_takes`, `execControlFlit_nak`, `execControlFlit_ack`); a slot is `execFlitSlot_live`; a unit that is not live does
nothing. -/
theorem flitsComplete : Obligations.FlitsComplete := by
  intro s i u flit fec good t
  refine ⟨fun h => ⟨fun hg ht hs => ?data, fun hg ht hs => ?idle, fun hg => ?bad,
    fun hg hs => ⟨fun ht => ?dataAhead, fun ht => ?idleAhead⟩, fun hg => ?other, fun hg ht => ?control, fun lost => ?slot⟩,
    fun h => ?notLive⟩
  case data => exact congrArg Host.Outcome.next ((takeFlit_takes h hg ht).trans (if_neg (not_not.2 hs)))
  case idle => exact congrArg Host.Outcome.next ((takeFlit_takes h hg ht).trans (if_neg (not_not.2 hs)))
  case dataAhead => exact congrArg Host.Outcome.next ((takeFlit_takes h hg ht).trans (if_pos hs))
  case idleAhead => exact congrArg Host.Outcome.next ((takeFlit_takes h hg ht).trans (if_pos hs))
  case bad =>
    exact ⟨congrArg Host.Outcome.next (takeFlit_bad h hg), congrArg Host.Outcome.next (takeFlit_bad h hg),
      congrArg Host.Outcome.next (takeFlit_bad h hg)⟩
  case other =>
    exact ⟨fun ht => congrArg Host.Outcome.next (takeFlit_other h hg ht),
      fun ht => congrArg Host.Outcome.next (takeFlit_other h hg ht),
      fun ht => congrArg Host.Outcome.next (takeFlit_other h hg ht)⟩
  case control => exact ⟨execControlFlit_nak h hg ht, execControlFlit_ack h hg ht⟩
  case slot =>
    exact ⟨fun hpart => execFlitSlot_live h (decide_eq_false (Nat.not_le.2 hpart)),
      fun hwhole => execFlitSlot_live h (decide_eq_true hwhole)⟩
  case notLive =>
    exact ⟨congrArg Host.Outcome.next (takeFlit_notLive h), congrArg Host.Outcome.next (takeFlit_notLive h),
      congrArg Host.Outcome.next (takeFlit_notLive h), fun lost => execFlitSlot_notLive h⟩

end Sys2Proof.Machine
end

section
/-! The laws of the states of ports and link units (R250-R253): which event a state answers, and what turns a unit to
retraining. -/

namespace Sys2Proof.Machine

variable {s : State} {i : PortIx}

/-! ### Detect, Train, Verify (R252) -/

theorem execDetectSignal_trains {quads : BitVec 8} (h : (s.port i).state = .detect) (hq : quads ≠ 0) :
    execDetectSignal i quads s = .next (s.portTo i .train) := if_pos ⟨h, hq⟩

theorem execDetectSignal_elsewhere {quads : BitVec 8} (h : (s.port i).state ≠ .detect) :
    execDetectSignal i quads s = .next s := if_neg fun hd => h hd.1

/-- The neighbour that a port found is the one that the configuration expects, by the port that faces it (R238). -/
abbrev State.expects (s : State) (i : PortIx) (nb : Neighbour) : Prop :=
  (nb.x.toNat, nb.y.toNat) = s.fabric.neighbour i ∧ nb.port.val = facing i

theorem execTrainComplete_trained {nb : Neighbour} (h : (s.port i).state = .train) :
    execTrainComplete i nb s =
      (let s1 := s.modPort i fun p => { p with nb := some nb }
       if s.expects i nb then .next (s1.portTo i .verify)
       else .next ((s1.notice (s.portEvent 0x3002 i i (nb.x.toNat + nb.y.toNat * 64))).portDown i)) :=
  if_neg (not_not.2 h)

section

variable {pass : BitVec 9} (h : (s.port i).state = .verify)
include h

theorem execVerifyComplete_up (he : bit pass 8 = true) (hq : fldN pass 0 8 ≠ 0) :
    execVerifyComplete i pass s =
      .next (((List.range 9).foldl (fun t u => t.modUnit i u fun _ => { inService := bit pass u }) s).portTo i .up) :=
  (if_neg (not_not.2 h)).trans (if_pos (by simp [he, hq]))

theorem execVerifyComplete_fails (hf : bit pass 8 = false ∨ fldN pass 0 8 = 0) :
    execVerifyComplete i pass s = .next (s.portDown i) :=
  (if_neg (not_not.2 h)).trans (if_neg (by rcases hf with hf | hf <;> simp [hf]))

end

/-! ### Retraining (R250, R253) -/

/-- A unit has replayed a flit eight times, or `fec` says that its bad codewords came too fast (R250). -/
abbrev LinkUnit.overLimit (fec : Bool) (x : LinkUnit) : Prop :=
  (fec = true ∧ 16 < x.badWords) ∨ ∃ e ∈ x.replay, 8 ≤ e.replays

theorem execReplayLimit_eq {u : UnitIx} {fec : Bool} :
    execReplayLimit i u fec s =
      .next (if s.unitLive i u = true ∧ (s.unit i u).overLimit fec then s.retrainUnit i u else s) := by
  refine (if_congr ?_ rfl rfl).trans (apply_ite ..).symm
  simp only [Bool.and_eq_true, Bool.or_eq_true, List.any_eq_true, decide_eq_true_eq]

theorem execReplayLimit_retrains {u : UnitIx} {fec : Bool} (h : s.unitLive i u = true) (ho : (s.unit i u).overLimit fec) :
    execReplayLimit i u fec s = .next (s.retrainUnit i u) :=
  execReplayLimit_eq.trans (congrArg Host.Outcome.next (if_pos ⟨h, ho⟩))

theorem execReplayLimit_goesOn {u : UnitIx} {fec : Bool} (h : s.unitLive i u = true → ¬(s.unit i u).overLimit fec) :
    execReplayLimit i u fec s = .next s :=
  execReplayLimit_eq.trans (congrArg Host.Outcome.next (if_neg fun ⟨hl, ho⟩ => h hl ho))

theorem execLaneSignalLoss_eq {lane : Fin 36} :
    execLaneSignalLoss i lane s =
      .next (if s.unitLive i (lane.val / 4) then s.retrainUnit i (lane.val / 4) else s) := (apply_ite ..).symm

section

variable {u : UnitIx} (hup : (s.port i).state = .up) (hr : (s.unit i u).retrain = true)
include hup hr

theorem execRetrainComplete_retrained (ok : Bool) :
    execRetrainComplete i u ok s =
      .next (if ok then
          s.modUnit i u fun x => { x with retrain := false, badWords := 0, resend := x.replay.map SentFlit.flit }
        else (s.modUnit i u fun x => { x with retrain := false, inService := false }).notice
          (s.portEvent 0x3003 i (i.val + u.val * 4) 0)) :=
  (if_neg (by simp [hup, hr])).trans (apply_ite ..).symm

end

/-- A port that goes Down reports one error (R252, R253). -/
theorem portDown_reports (s : State) (i : Nat) : (s.portDown i).hub.reports.length = s.hub.reports.length + 1 :=
  List.length_append

/-! ### The statement -/

/-- Settles O43: each event by the state that it asks of its port, a replay limit by `execReplayLimit_eq`. -/
theorem portsAndUnitsChangeState : Obligations.PortsAndUnitsChangeState := by
  refine ⟨fun s i quads => ?detect, fun s i nb h => ?train, fun s i nb h => ?notTrain, fun s i pass => ?verify,
    fun s i u h => ?limit, fun s i u fec h => ?notLive, fun s i lane => execLaneSignalLoss_eq, fun s i u hup hr => ?retrained,
    fun s i u ok h => if_pos h, fun s i u => rfl, portDown_reports⟩
  case detect =>
    exact ⟨execDetectSignal_trains, fun h => if_pos h, fun h => ⟨execDetectSignal_elsewhere h, if_neg h⟩⟩
  case train =>
    have hend : exec (.trainComplete i nb) s = _ := execTrainComplete_trained h
    exact ⟨fun hx hp => hend.trans (if_pos ⟨hx, hp⟩), fun hw => hend.trans (if_neg hw), if_pos h⟩
  case notTrain => exact ⟨if_pos h, if_neg h⟩
  case verify => exact ⟨execVerifyComplete_up, execVerifyComplete_fails, fun h => if_pos h⟩
  case limit =>
    refine ⟨fun he fec => execReplayLimit_retrains h (.inr he), fun hw => execReplayLimit_retrains h (.inl ⟨rfl, hw⟩),
      fun he => ?_⟩
    have hfew : ¬∃ e ∈ (s.unit i u).replay, 8 ≤ e.replays := fun ⟨e, hm, h8⟩ => absurd (he e hm) (Nat.not_lt.2 h8)
    exact ⟨execReplayLimit_goesOn fun _ ho => hfew (ho.resolve_left nofun),
      fun hw => execReplayLimit_goesOn fun _ ho => hfew (ho.resolve_left fun hb => absurd hb.2 (Nat.not_lt.2 hw))⟩
  case notLive => exact execReplayLimit_goesOn fun hl => absurd hl (by simp [h])
  case retrained => exact ⟨execRetrainComplete_retrained hup hr true, execRetrainComplete_retrained hup hr false⟩

end Sys2Proof.Machine
end

section
/-! The laws of packets on their way (R205, R237, R243-R249, R251, R308): which packets stand at the heads of an input, which of
them moves and where, which copies are dropped, what is sent, and what escapes or takes a bridge. -/

namespace Sys2Proof.Machine

variable {s : State}

/-! ### The heads of an input (R205, R248, R251) -/

theorem fst_mem_of_mem_firsts {α : Type} {key : α → Nat} {l : List α} {e : α × Nat} (h : e ∈ firsts key l) : e.1 ∈ l :=
  List.fst_mem_of_mem_zipIdx (List.mem_filter.1 h).1

theorem candidates_unit_mem {i : PortIx} {u : UnitIx} {c : Cand} (hc : c ∈ s.candidates (.unit i u)) :
    c.src = .transit i ∧ c.pkt ∈ (s.unit i u).inq := by
  obtain ⟨e, he, rfl⟩ := List.mem_map.1 hc
  exact ⟨rfl, fst_mem_of_mem_firsts he⟩

/-- A copy's packet has been delivered here once nothing of it waits to be written (R248). -/
abbrev State.relayWritten (s : State) (r : Relay) : Prop := ∀ e ∈ s.fabric.delivered, e.2 ≠ r.pkt

theorem candidates_relay_mem {c : Cand} (hc : c ∈ s.candidates .relay) :
    ∃ r ∈ s.fabric.relays, s.relayWritten r ∧ s.relayCopy r = some c.pkt.pkt ∧ c.pkt.cls = r.cls ∧ c.src = .transit r.port := by
  obtain ⟨e, he, hm⟩ := List.mem_filterMap.1 hc
  split at hm
  next => exact absurd hm nofun
  next hwritten =>
    obtain ⟨copy, hcopy, rfl⟩ := Option.map_eq_some_iff.1 hm
    have hdone : s.relayWritten e.1 := by
      simpa only [List.any_eq_true, decide_eq_true_eq, not_exists, not_and] using hwritten
    exact ⟨e.1, fst_mem_of_mem_firsts he, hdone, hcopy, rfl, rfl⟩

/-! ### The packet that moves (R243, R245) -/

section

variable {inp : Input}

theorem moveFirst_moves {pre post : List Cand} {c : Cand} (hl : s.candidates inp = pre ++ c :: post)
    (hpre : ∀ d ∈ pre, s.move inp d = .wait) (hc : s.move inp c ≠ .wait) :
    s.moveFirst inp = s.carry inp c (s.move inp c) := by
  have hfirst : (s.candidates inp).find? (fun c => decide (s.move inp c ≠ .wait)) = some c :=
    List.find?_eq_some_iff_append.2 ⟨decide_eq_true hc, pre, post, hl, fun d hd => by simp [hpre d hd]⟩
  simp only [State.moveFirst, hfirst]

theorem moveFirst_waits (h : ∀ c ∈ s.candidates inp, s.move inp c = .wait) : s.moveFirst inp = s := by
  have hnone : (s.candidates inp).find? (fun c => decide (s.move inp c ≠ .wait)) = none :=
    List.find?_eq_none.2 fun c hc => by simp [h c hc]
  simp only [State.moveFirst, hnone]

variable {c : Cand}

/-- A packet that would leave by a quad moves at its turn alone. -/
theorem move_of_out {i u : Nat} {cls esc : Bool} (hr : s.route c.src c.pkt.cls c.pkt.pkt = .out i u cls esc) :
    s.move inp c = if s.hasTurn inp c i u then .out i u cls esc else .wait := by
  simp only [State.move, hr]

/-- A route that takes no output waits for no turn. -/
theorem move_of_not_out (hr : ∀ i u cls esc, s.route c.src c.pkt.cls c.pkt.pkt ≠ .out i u cls esc) :
    s.move inp c = s.route c.src c.pkt.cls c.pkt.pkt := by
  unfold State.move
  split
  next h => exact absurd h (hr _ _ _ _)
  next => rfl

end

theorem route_hopLimit {src : Source} {cls : Bool} {pkt : Packet}
    (haway : pktDx pkt.hdr ≠ s.fabric.ownX ∨ pktDy pkt.hdr ≠ s.fabric.ownY) (hhops : 128 ≤ pktHops pkt.hdr) :
    s.route src cls pkt = .hopLimit :=
  (if_neg (not_and_or.2 haway)).trans (if_pos (Nat.lt_succ_of_le hhops))

/-! ### Copies whose next device is not seated (R240) -/

/-- A copy is dropped: its packet is written here, and no seat takes the copy. -/
def State.unseatedRelay (s : State) (r : Relay) : Bool :=
  (s.relayCopy r).isNone && !s.fabric.delivered.any fun d => decide (d.2 = r.pkt)

theorem unseatedRelay_iff {r : Relay} : s.unseatedRelay r = true ↔ s.relayCopy r = none ∧ s.relayWritten r := by
  simp [State.unseatedRelay]

theorem unseatedRelay_false {r : Relay} (h : s.relayCopy r ≠ none ∨ ∃ e ∈ s.fabric.delivered, e.2 = r.pkt) :
    s.unseatedRelay r = false := by
  refine Bool.eq_false_iff.2 fun ht => ?_
  obtain ⟨hnone, hwritten⟩ := unseatedRelay_iff.1 ht
  exact h.elim (· hnone) fun ⟨e, he, hp⟩ => hwritten e he hp

theorem dropRelays_drops {pre post : List Relay} {r : Relay} (hl : s.fabric.relays = pre ++ r :: post)
    (hr : s.unseatedRelay r = true) (hpre : ∀ q ∈ pre, s.unseatedRelay q = false) :
    s.dropRelays =
      State.countFabric { s with fabric := { s.fabric with relays := pre ++ post } } r.port 0 208 16 1 := by
  have hix : s.fabric.relays.findIdx? s.unseatedRelay = some pre.length := by
    simp [hl, List.findIdx?_append, List.findIdx?_eq_none_iff.2 hpre, List.findIdx?_cons, hr]
  have hat : s.fabric.relays[pre.length]? = some r := by simp [hl]
  have herase : s.fabric.relays.eraseIdx pre.length = pre ++ post := by simp [hl, List.eraseIdx_append_of_length_le]
  unfold State.unseatedRelay at hix
  simp only [State.dropRelays, hix, hat, herase]

theorem dropRelays_keeps (h : ∀ q ∈ s.fabric.relays, s.unseatedRelay q = false) : s.dropRelays = s := by
  have hix : s.fabric.relays.findIdx? s.unseatedRelay = none := List.findIdx?_eq_none_iff.2 h
  unfold State.unseatedRelay at hix
  simp only [State.dropRelays, hix]

/-! ### Sending (R251) -/

theorem takeFirst_eq_none {α : Type} {f : α → Bool} {l : List α} (h : ∀ a ∈ l, f a = false) : takeFirst f l = none := by
  induction l with
  | nil => rfl
  | cons a l ih =>
    obtain ⟨ha, hl⟩ := List.forall_mem_cons.1 h
    simp only [takeFirst, ha, ih hl, Bool.false_eq_true, if_false, Option.map_none]

/-- A packet at an output waits for a channel of its unit. -/
def OutPacket.onChan (u vc : Nat) (o : OutPacket) : Bool := decide ((if u = 8 then o.cls.toNat else pktVc o.pkt.hdr) = vc)

section

variable {i : PortIx} {u : UnitIx} {vc : Fin 8}

theorem execPacketSend_none (h : ∀ o ∈ (s.unit i u).outq, o.onChan u vc = false) : execPacketSend i u vc s = .next s := by
  have hnone := takeFirst_eq_none h
  unfold OutPacket.onChan at hnone
  simp only [execPacketSend, hnone]

variable {o : OutPacket} {rest : List OutPacket} (ho : takeFirst (OutPacket.onChan u vc) (s.unit i u).outq = some (o, rest))
include ho

/-- The oldest packet of a channel starts where its unit is live and the far buffer holds all its flits. -/
theorem execPacketSend_some :
    execPacketSend i u vc s =
      (let n := flitCount o.pkt
       let s1 := s.modUnit i u fun x => { x with
         outq := rest, used := alter 0 x.used vc.val (· + n), txq := x.txq ++ packetFlits u vc.val o.pkt }
       if s.unitLive i u = true ∧ look 0 (s.unit i u).used vc.val + n ≤ unitBuffer u then
         .next (if u.val = 8 then s1.countFabric i u 160 32 1 else s1)
       else .next s) := by
  unfold OutPacket.onChan at ho
  simp only [execPacketSend, ho]
  exact if_congr (by rw [Bool.and_eq_true, decide_eq_true_eq]) rfl rfl

end

/-! ### The first packet with another way (R246, R308) -/

section

variable {α β : Type} {f : α → Option β} {l : List α}

theorem findSome?_first {pre post : List α} {a : α} {b : β} (hl : l = pre ++ a :: post) (hpre : ∀ x ∈ pre, f x = none)
    (ha : f a = some b) : (l.findSome? fun x => (f x).map fun y => (x, y)) = some (a, b) :=
  List.findSome?_eq_some_iff.2 ⟨pre, a, post, hl, by rw [ha]; rfl, fun x hx => by rw [hpre x hx]; rfl⟩

theorem findSome?_nowhere (h : ∀ x ∈ l, f x = none) : (l.findSome? fun x => (f x).map fun y => (x, y)) = none :=
  List.findSome?_eq_none_iff.2 fun x hx => by rw [h x hx]; rfl

end

theorem escapeOf_iff {c : Cand} {i u : Nat} {cls esc : Bool} :
    s.escapeOf c = some (i, u, cls, esc) ↔
      pktEsc c.pkt.pkt.hdr = false ∧ s.route c.src c.pkt.cls c.pkt.pkt = .wait ∧
        s.escapeRoute c.src c.pkt.cls c.pkt.pkt.hdr = .out i u cls esc := by
  unfold State.escapeOf
  split
  next hesc => simp [hesc]
  next hesc =>
    split
    next hwait hout => simp [hesc, hwait, hout]
    next hother => exact ⟨nofun, fun ⟨_, hwait, hout⟩ => (hother _ _ _ _ hwait hout).elim⟩

theorem bridgeOf_some {port : Nat} {c : Cand} {j v : Nat} {cls esc : Bool}
    (hr : s.route c.src c.pkt.cls c.pkt.pkt = .out j v cls esc) (hk : pktKind c.pkt.pkt.hdr = 4)
    (hp : bridgePath port j ≠ []) : s.bridgeOf port c = some (j, v, cls, esc) := by
  simp only [State.bridgeOf, hr]
  exact if_pos ⟨hk, hp⟩

theorem execPacketEscape_escapes {inp : Input} {pre post : List Cand} {c : Cand} {i u : Nat} {cls esc : Bool}
    (hl : s.candidates inp = pre ++ c :: post) (hpre : ∀ d ∈ pre, s.escapeOf d = none)
    (hc : s.escapeOf c = some (i, u, cls, esc)) :
    execPacketEscape inp s =
      (let q := ((List.range 8).find? fun q => decide (s.fabric.owner i q = c.src.code i)).getD 0
       .next ((c.taken.toOutput i u cls esc c.pkt.pkt).countFabric i q 160 32 1)) := by
  simp only [execPacketEscape, findSome?_first hl hpre hc]

theorem execPacketEscape_waits {inp : Input} (h : ∀ c ∈ s.candidates inp, s.escapeOf c = none) :
    execPacketEscape inp s = .next s := by
  simp only [execPacketEscape, findSome?_nowhere h]

section

variable {i : PortIx} {u : UnitIx}

theorem execMirrorBridgeWait_crosses {pre post : List Cand} {c : Cand} {j v : Nat} {cls esc : Bool}
    (hl : s.candidates (.unit i u) = pre ++ c :: post) (hpre : ∀ d ∈ pre, s.bridgeOf i d = none)
    (hc : s.bridgeOf i c = some (j, v, cls, esc)) :
    execMirrorBridgeWait i u s =
      (let s1 := c.taken.toOutput j v cls esc c.pkt.pkt
       .next { s1 with fabric := { s1.fabric with
         bridges := (bridgePath i j).foldl (fun m b => alter 0 m b (· + 1)) s1.fabric.bridges } }) := by
  simp only [execMirrorBridgeWait, findSome?_first hl hpre hc]

theorem execMirrorBridgeWait_waits (h : ∀ c ∈ s.candidates (.unit i u), s.bridgeOf i c = none) :
    execMirrorBridgeWait i u s = .next s := by
  simp only [execMirrorBridgeWait, findSome?_nowhere h]

end

/-! ### The statement -/

/-- Settles O44: the first packet that can move (`moveFirst_moves`, `moveFirst_waits`), by its route and its turn
(`move_of_out`, `move_of_not_out`), the copies that are dropped (`dropRelays_drops`, `dropRelays_keeps`), sending
(`execPacketSend_some`, `execPacketSend_none`), escaping (`escapeOf_iff`) and bridges (`bridgeOf_some`). -/
theorem packetsMove : Obligations.PacketsMove := by
  refine ⟨fun s inp => rfl, fun s => rfl, fun s inp => ⟨fun pre c post => moveFirst_moves, moveFirst_waits⟩,
    fun s inp c => ?route, fun s i u c => candidates_unit_mem, fun s c => candidates_relay_mem,
    fun s pre r post hl hn hw hpre => ?drop, fun s h => dropRelays_keeps fun q hq => unseatedRelay_false (h q hq),
    fun s i u vc => ?send, fun s inp => ⟨fun pre c post i u cls esc => execPacketEscape_escapes, execPacketEscape_waits⟩,
    fun s c i u cls esc => escapeOf_iff,
    fun s i u => ⟨fun pre c post j v cls esc hl hpre hr hk hp => ?bridge, execMirrorBridgeWait_waits⟩⟩
  case route =>
    intro r w
    have hmove (hr : ∀ i u cls esc, r ≠ .out i u cls esc) : s.move inp c = r := move_of_not_out hr
    have hcarry {x : Route} (hr : r = x) : s.carry inp c r = s.carry inp c x := congrArg _ hr
    refine ⟨fun i u cls esc hr ht => ⟨?turn, hcarry hr⟩, fun i u cls esc hr ht => ?noTurn,
      fun hr => ⟨hmove (by simp [hr]), hcarry hr⟩, fun hr => ⟨hmove (by simp [hr]), hcarry hr⟩,
      fun hr => ⟨hmove (by simp [hr]), hcarry hr⟩, route_hopLimit⟩
    case turn => exact (move_of_out hr).trans ((if_pos ht).trans hr.symm)
    case noTurn => exact (move_of_out hr).trans (if_neg (Bool.eq_false_iff.1 ht))
  case drop =>
    exact dropRelays_drops hl (unseatedRelay_iff.2 ⟨hn, hw⟩) fun q hq => unseatedRelay_false (hpre q hq)
  case send =>
    intro mine
    refine ⟨fun o rest ho => ?_, execPacketSend_none⟩
    have hsend : exec (.packetSend i u vc) s = _ := execPacketSend_some ho
    refine ⟨fun hlive hroom => hsend.trans (if_pos ⟨hlive, hroom⟩), fun hwaits => hsend.trans (if_neg ?_)⟩
    rintro ⟨hlive, hroom⟩
    exact hwaits.elim (fun h => absurd hlive (Bool.eq_false_iff.1 h)) (· hroom)
  case bridge => exact execMirrorBridgeWait_crosses hl hpre (bridgeOf_some hr hk hp)

end Sys2Proof.Machine
end

section
/-! The laws of chart generations, seats, waypoints and restores (R239, R295-R300, R302-R306, R328): what each received control
packet does once its partition takes it, and what ends the read of a waypoint. -/

namespace Sys2Proof.Machine

variable {s : State} {p : PartIx} {c : Control}

/-! ### Chart generations (R297, R298, R300) -/

/-- The chart update that a control packet carries (R297). -/
def chartUpdateOf (c : Control) : ChartUpdate :=
  { gen := fld (arg0 c) 0 32, seat := fldN (arg0 c) 32 12
    entry := at' 128 0 64 (arg1 c).toNat ||| at' 128 64 64 (arg2 c).toNat }

theorem execChartUpdate_takes (h : s.TakesCtl p 0x11 c) :
    execChartUpdate p c s =
      (let t := (s.receiveCtl p c true 39).2
       .next (if (t.part p).chart.held = false then t
         else (t.modPart p fun P => { P with
           watch := P.watch.heard false c
           chart := { P.chart with updates := P.chart.updates ++ [chartUpdateOf c] } }).tryInstall p (ctlSeat c))) :=
  takeCtl_takes h

theorem execChartCommit_takes (h : s.TakesCtl p 0x12 c) :
    execChartCommit p c s =
      (let t := (s.receiveCtl p c true 39).2
       let g : BitVec 32 := fld (arg0 c) 0 32
       .next (if (t.part p).chart.held = false ∨ g ≤ (t.part p).chart.gen then t
         else (t.modPart p fun P => { P with
           watch := P.watch.heard false c
           chart := { P.chart with commit := some (g, fldN (arg0 c) 32 12) } }).tryInstall p (ctlSeat c))) :=
  takeCtl_takes h

/-- The partition is the lodestar that recovers, and the packet acknowledges its generation (R300). -/
abbrev Partition.awaitsAck (P : Partition) (c : Control) : Prop :=
  P.isLode = true ∧ fld (arg0 c) 0 32 = P.lode.gen ∧ P.lode.state = .recovering

/-- The lodestar has counted an acknowledgement: that of a reserve, which has no seat, or that of a seat (R300). -/
def Lodestar.acknowledged (seat : Nat) (L : Lodestar) : Lodestar :=
  if seat = 0xFFF then { L with ackReserves := L.ackReserves + 1 } else { L with acks := insNat seat L.acks }

theorem acknowledged_reserve {seat : Nat} (h : seat = 0xFFF) :
    Lodestar.acknowledged seat = fun L => { L with ackReserves := L.ackReserves + 1 } := funext fun _ => if_pos h

theorem acknowledged_seat {seat : Nat} (h : seat ≠ 0xFFF) :
    Lodestar.acknowledged seat = fun L => { L with acks := insNat seat L.acks } := funext fun _ => if_neg h

theorem execChartAcknowledge_takes (h : s.TakesCtl p 0x13 c) :
    execChartAcknowledge p c s =
      (let t := (s.receiveCtl p c false 39).2
       .next (if (t.part p).awaitsAck c then (t.modLode p (Lodestar.acknowledged (ctlSeat c))).advance p else t)) := by
  refine (takeCtl_takes h).trans (congrArg Host.Outcome.next (if_congr ?_ rfl rfl))
  simp only [Bool.and_eq_true, decide_eq_true_eq, and_assoc]

/-! ### Seats (R299, R300) -/

/-- A seat request that finds a primed reserve asleep wakes it (R393). -/
theorem execSeatRequest_wakes (h : s.TakesCtl p 0x14 c) (hp : (s.part p).state = .primed)
    (hheld : (s.part p).chart.held = true) (hup : s.partUp p = false) :
    execSeatRequest p c s = .next (s.wakePart p) := by
  obtain ⟨hstage, -, htype, -⟩ := h
  exact if_pos ⟨htype, hstage, hp, hheld, hup⟩

/-- The partition takes the seat that it is asked for, and the period of the request (R300). -/
def Partition.seated (c : Control) (P : Partition) : Partition :=
  { P with
    chart := { P.chart with asked := some (fldN (arg0 c) 0 12) }
    watch := P.watch.heard true c
    period := { P.period with step := ctlStep c, attempt := ctlAttempt c, begun := false, svc := [] } }

theorem execSeatRequest_takes (h : s.TakesCtl p 0x14 c)
    (hawake : (s.part p).state ≠ .primed ∨ (s.part p).chart.held = false ∨ s.partUp p = true) :
    execSeatRequest p c s =
      (let t := (s.receiveCtl p c false 39).2
       let u := t.modPart p (Partition.seated c)
       .next (if (t.part p).state = .primed ∧ (t.part p).chart.held = true then
           (u.sendCtl p (ctlSeat c) (u.ownCtl p 0x15 (fldN (arg0 c) 0 12) 0 0)).setPartState p .running
         else t)) := by
  refine (if_neg fun ⟨_, _, hp, hheld, hup⟩ => ?_).trans (takeCtl_takes h)
  rcases hawake with hn | hn | hn
  · exact hn hp
  · exact absurd hheld (Bool.eq_false_iff.1 hn)
  · exact absurd hn (Bool.eq_false_iff.1 hup)

theorem execSeatReady_takes (h : s.TakesCtl p 0x15 c) :
    execSeatReady p c s =
      (let t := (s.receiveCtl p c false 39).2
       .next (if (t.part p).isLode = true ∧ (t.part p).lode.state = .recovering then
           (t.markLate p (fldN (arg0 c) 0 12) fun l => { l with ready := true }).seatAll p
         else t)) := by
  refine (takeCtl_takes h).trans (congrArg Host.Outcome.next (if_congr ?_ rfl rfl))
  rw [Bool.and_eq_true, decide_eq_true_eq]

theorem execFenceNotice_takes (h : s.TakesCtl p 0x1C c) :
    execFenceNotice p c s =
      .next ((s.receiveCtl p c false 39).2.modLode p fun L => { L with fenced := insNat (fldN (arg0 c) 0 12) L.fenced }) :=
  takeCtl_takes h

/-! ### Seals of a waypoint (R296) -/

/-- The seals that the lodestar holds once the packet's has come (R296). -/
def Lodestar.sealsWith (c : Control) (L : Lodestar) : List (BitVec 64 × Nat) :=
  let e := (arg1 c, fldN (arg0 c) 0 12)
  if L.sealed.contains e then L.sealed else L.sealed ++ [e]

theorem execWaypointSealed_takes (h : s.TakesCtl p 0x18 c) :
    execWaypointSealed p c s =
      (let t := (s.receiveCtl p c false 39).2
       let P := t.part p
       let l := P.lode.sealsWith c
       let u := t.modLode p fun L => { L with sealed := l.filter fun x => decide (arg1 c < x.1) }
       .next (if P.isLode = false ∨ P.lode.state = .halted then t
         else if ∀ m ∈ P.members, (arg1 c, m) ∈ l then u.cascadeAll p (u.lodeCtl p 0x19 0 (arg1 c).toNat)
         else t.modLode p fun L => { L with sealed := l })) := by
  refine (takeCtl_takes h).trans (congrArg Host.Outcome.next (if_congr Iff.rfl rfl (if_congr ?_ rfl rfl)))
  simp only [List.all_eq_true, List.contains_iff_mem, Lodestar.sealsWith]

theorem execWaypointWhole_takes (h : s.TakesCtl p 0x19 c) :
    execWaypointWhole p c s =
      .next ((s.receiveCtl p c true 39).2.modPart p fun P =>
        { P with watch := P.watch.heard false c, waypoint := some (arg1 c) }) :=
  takeCtl_takes h

/-! ### Restores (R306, R326, R328) -/

/-- An order to restore has come: its generation is held, if it is newer (R306). -/
def State.ordered (s : State) (p : PartIx) (c : Control) : State :=
  ((s.receiveCtl p c true 39).2.assertAt 2 11).modPart p fun P => { P with
    watch := P.watch.heard false c
    chart := { P.chart with gen := if P.chart.gen < fld (arg0 c) 0 32 then fld (arg0 c) 0 32 else P.chart.gen } }

theorem execRestoreOrder_takes (h : s.TakesCtl p 0x1A c) :
    execRestoreOrder p c s =
      (let t := s.ordered p c
       .next (if (t.part p).state = .running ∧ (t.part p).chart.own ≠ 0xFFF then
           ((t.resetForms p).modPart p fun P => { P with
             restoring := some (arg1 c), refilling := false
             period := { P.period with waiting := none, isOpen := false, begun := false } }).askWaypoint p
         else t)) :=
  takeCtl_takes h

/-- A restore done is counted once, and may ring the first bell (R306, R328). -/
theorem execRestoreDone_takes (h : s.TakesCtl p 0x1B c) :
    execRestoreDone p c s =
      (let e := (ctlSeat c, arg1 c)
       .next (((s.receiveCtl p c false 39).2.modLode p fun L =>
         { L with restores := if L.restores.contains e then L.restores else L.restores ++ [e] }).tryFirst p)) :=
  takeCtl_takes h

/-- What is wrong with a waypoint that was read: the read failed, or its bytes do not hold it (R326). -/
def restoreFault (w : BitVec 64) (wp : HostData) : Option Nat :=
  if wp.failAt.isSome then some 1 else waypointFault w wp.bytes

/-- The writes of HBM that restore a partition (R306, R315). -/
def Partition.restoreWrites (P : Partition) : List (Nat × Nat × Nat × Bool) :=
  P.image.mirrorList.map fun e => (e.2.1, e.2.2.1, e.2.2.2, true)

section

variable {wp : HostData} {w : BitVec 64}

theorem execWaypointRestoreComplete_none (h : (s.part p).restoring = none) :
    execWaypointRestoreComplete p wp s = .next s := by
  simp only [execWaypointRestoreComplete, h]

variable (h : (s.part p).restoring = some w)
include h

/-- A sound waypoint is restored once the host holds no line of it, and ends a START that waits (R306, R328). -/
theorem execWaypointRestoreComplete_sound (hs : restoreFault w wp = none) :
    execWaypointRestoreComplete p wp s =
      (let u := if (s.part p).state = .running then s else s.resetForms p
       let t := (u.restoreFrom p w ((wp.bytes.drop 64).take (natOfBytes ((wp.bytes.drop 16).take 8)))).sendRestoreDone p w
       s.afterSnoops (s.part p).restoreWrites (.next (t.finish (isStart p) 0 0 []))) := by
  unfold restoreFault at hs
  simp only [execWaypointRestoreComplete, h, hs]
  rfl

variable {k : Nat} (hk : restoreFault w wp = some k)
include hk

/-- A bad waypoint fails the START, and the partition is as it was found (R326). -/
theorem execWaypointRestoreComplete_failsStart (hn : (s.part p).state ≠ .running) :
    execWaypointRestoreComplete p wp s =
      (let t := (s.finish (isStart p) 0x0303 k []).modPart p Partition.startFailed
       .next (t.setPartState p
         (if (s.part p).state = .starting then (s.part p).before.state else (s.part p).state))) := by
  unfold restoreFault at hk
  simp only [execWaypointRestoreComplete, h, hk]
  exact if_pos hn

/-- A bad waypoint of a running member is a detected error of which it tells the lodestar. -/
theorem execWaypointRestoreComplete_detects (hr : (s.part p).state = .running) :
    execWaypointRestoreComplete p wp s =
      (let t := s.fresh.2.detect (s.fresh.1.setWidth 16) (dieUnit (s.part p).lowDie) p p w.toNat
       .next ((t.sendTrouble p (s.part p).seat.toNat 0x7005).modPart p fun P => { P with restoring := none })) := by
  unfold restoreFault at hk
  simp only [execWaypointRestoreComplete, h, hk]
  exact if_neg (not_not.2 hr)

end

/-! ### The statement -/

/-- Settles O51: each packet by the lemma of what it does once taken (`execChartUpdate_takes` to `execRestoreOrder_takes`), and
the end of a waypoint's read by what is wrong with it (`execWaypointRestoreComplete_sound` and those after it). -/
theorem recoveryCompletes : Obligations.RecoveryCompletes := by
  refine ⟨⟨fun s p c h => ?update, fun s p c h => ?commit, fun s p c h => ?acknowledge, fun s p c h => ?request,
      fun s p c h => ?ready, fun s p c => execFenceNotice_takes⟩,
    fun s p c h => ?seals, fun s p c => execWaypointWhole_takes, fun s p c h => ?order, fun s p wp w => ?restore,
    fun s p c => execRestoreDone_takes, fun s finishes => rfl⟩
  case update =>
    have htakes : exec (.chartUpdate p c) s = _ := execChartUpdate_takes h
    exact ⟨fun hheld => htakes.trans (congrArg Host.Outcome.next (if_neg (Bool.ne_false_iff.2 hheld))),
      fun hnot => htakes.trans (congrArg Host.Outcome.next (if_pos hnot))⟩
  case commit =>
    have htakes : exec (.chartCommit p c) s = _ := execChartCommit_takes h
    refine ⟨fun hheld hnewer => htakes.trans (congrArg Host.Outcome.next (if_neg ?_)),
      fun hnot => htakes.trans (congrArg Host.Outcome.next (if_pos hnot))⟩
    exact not_or.2 ⟨Bool.ne_false_iff.2 hheld, BitVec.not_le.2 hnewer⟩
  case acknowledge =>
    intro t mine
    have htakes : exec (.chartAcknowledge p c) s = _ := execChartAcknowledge_takes h
    have hmine (hm : mine) := htakes.trans (congrArg Host.Outcome.next (if_pos hm))
    refine ⟨fun hm hreserve => (hmine hm).trans ?_, fun hm hseat => (hmine hm).trans ?_,
      fun hm => htakes.trans (congrArg Host.Outcome.next (if_neg hm))⟩
    · rw [acknowledged_reserve hreserve]
    · rw [acknowledged_seat hseat]
  case request =>
    refine ⟨execSeatRequest_wakes h, fun hawake => ⟨fun hp hheld => ?_, fun hnot => ?_⟩⟩
    · exact (execSeatRequest_takes h hawake).trans (congrArg Host.Outcome.next (if_pos ⟨hp, hheld⟩))
    · refine (execSeatRequest_takes h hawake).trans (congrArg Host.Outcome.next (if_neg fun ⟨hp, hheld⟩ => ?_))
      exact hnot.elim (· hp) fun hn => absurd hheld (Bool.eq_false_iff.1 hn)
  case ready =>
    have htakes : exec (.seatReady p c) s = _ := execSeatReady_takes h
    refine ⟨fun hl hr => htakes.trans (congrArg Host.Outcome.next (if_pos ⟨hl, hr⟩)),
      fun hnot => htakes.trans (congrArg Host.Outcome.next (if_neg fun ⟨hl, hr⟩ => ?_))⟩
    exact hnot.elim (fun hn => absurd hl (Bool.eq_false_iff.1 hn)) (· hr)
  case seals =>
    intro t P w e l
    have htakes : exec (.waypointSealed p c) s = _ := execWaypointSealed_takes h
    have hlode (hl : P.isLode = true) (hs : P.lode.state ≠ .halted) :=
      htakes.trans (congrArg Host.Outcome.next (if_neg (not_or.2 ⟨Bool.ne_false_iff.2 hl, hs⟩)))
    refine ⟨fun hnot => htakes.trans (congrArg Host.Outcome.next (if_pos hnot)),
      fun hl hs hall => (hlode hl hs).trans (congrArg Host.Outcome.next (if_pos hall)),
      fun hl hs ⟨m, hm, hout⟩ => (hlode hl hs).trans (congrArg Host.Outcome.next (if_neg fun hall => hout (hall m hm)))⟩
  case order =>
    have htakes : exec (.restoreOrder p c) s = _ := execRestoreOrder_takes h
    exact ⟨fun hm => htakes.trans (congrArg Host.Outcome.next (if_pos hm)),
      fun hm => htakes.trans (congrArg Host.Outcome.next (if_neg hm))⟩
  case restore =>
    exact ⟨fun h hs hrec => (execWaypointRestoreComplete_sound h hs).trans (afterSnoops_snooped hrec),
      fun h hs hrec => (execWaypointRestoreComplete_sound h hs).trans (afterSnoops_free hrec),
      fun k h hk hn => execWaypointRestoreComplete_failsStart h hk hn,
      fun k h hk hr => execWaypointRestoreComplete_detects h hk hr, execWaypointRestoreComplete_none⟩

end Sys2Proof.Machine
end

section
/-! The laws of START, STOP and UNLOAD (R22, R267, R276, R325, R326, R328): how each is answered, and the state in which
it leaves its partition. -/

namespace Sys2Proof.Machine

variable {s : State} {r : RingIx} {c : PendCmd} {p : Nat}

/-! ### START (R276, R326, R328) -/

/-- The parameters ask for the waypoint (FROM_WAYPOINT, R328). -/
abbrev PendCmd.fromWaypoint (c : PendCmd) : Prop := c.par 65 1 = 1

/-- FIRST_STEP of a START (R328). -/
def PendCmd.firstStep (c : PendCmd) : BitVec 64 := BitVec.ofNat 64 (c.par 0 64)

section

variable (h : s.Starts r 0x0202 [.loaded, .halted] (badStart s) c)
include h

/-- A member of a bell group needs a chart (R276). -/
theorem execStartJob_noChart (hs : (s.part c.part).image.single = false) (hc : (s.part c.part).chart.held = false) :
    execStartJob r s = .next (s.answered r c 0x0203 0 []) :=
  runCmd_answers h .id (by exact if_pos ⟨hs, hc⟩)

/-- A partition in single-device operation has no waypoint (R326). -/
theorem execStartJob_noWaypoint (hs : (s.part c.part).image.single = true) (hw : c.fromWaypoint) :
    execStartJob r s = .next (s.answered r c 0x0303 1 []) := by
  refine runCmd_answers h .id ?_
  exact (if_neg fun hn => Bool.eq_false_iff.1 hn.1 hs).trans (if_pos ⟨hs, decide_eq_true hw⟩)

/-- The job begins, and the command is answered at once or when the waypoint has been read (R328). -/
theorem execStartJob_begins (hc : (s.part c.part).image.single = true ∨ (s.part c.part).chart.held = true)
    (hw : ¬((s.part c.part).image.single = true ∧ c.fromWaypoint)) :
    execStartJob r s =
      (let t := (s.started r c).beginJob c.part c.firstStep (decide c.fromWaypoint)
       .next (if c.fromWaypoint then t else (t.sendRestoreDone c.part (c.firstStep - 1)).reply r c 0 0 [])) := by
  have hchart : ¬((s.part c.part).image.single = false ∧ (s.part c.part).chart.held = false) :=
    fun ⟨hs, hn⟩ => hc.elim (Bool.eq_false_iff.1 hs) (Bool.eq_false_iff.1 hn)
  rw [execStartJob, runCmd_starts h (fun _ he => absurd he List.not_mem_nil)]
  refine congrArg Host.Outcome.next ((if_neg hchart).trans ((if_neg ?_).trans (if_congr ?_ rfl rfl)))
  · exact fun ⟨hs, hd⟩ => hw ⟨hs, of_decide_eq_true hd⟩
  · exact decide_eq_true_iff

end

/-! ### The state of a partition -/

/-- A partition's new state is not Empty, which is why nothing is asked of the map of partitions. -/
theorem setPartState_state {x : PartState} (hx : x ≠ .empty) : ((s.setPartState p x).part p).state = x := by
  have hmod : ((s.modPart p fun P => { P with state := x }).part p).state = x := by
    have hne : ({ s.part p with state := x } : Partition) ≠ {} := fun he => hx (congrArg Partition.state he)
    exact congrArg Partition.state (look_put_of_ne_default hne)
  unfold State.setPartState
  split
  · exact hmod
  · exact hmod

/-- Updates apart from the partitions, one after another. -/
theorem foldl_parts {α : Type} {g : State → α → State} (h : ∀ t a, (g t a).parts = t.parts) (l : List α) (s : State) :
    (l.foldl g s).parts = s.parts :=
  foldl_keeps (P := fun t : State => t.parts = s.parts) l rfl fun t a ht => (h t a).trans ht

theorem issueReads_parts (s : State) (p : Nat) (j : SvcJob) : (s.issueReads p j).parts = s.parts := by
  unfold State.issueReads
  split
  · rfl
  · exact foldl_parts (fun _ _ => emit_parts ..) _ _

theorem askFor_parts (s : State) (p : Nat) (step : BitVec 64) : (s.askFor p step).parts = s.parts :=
  foldl_parts (fun _ _ => issueReads_parts ..) _ _

theorem askWaypoint_parts (s : State) (p : Nat) : (s.askWaypoint p).parts = s.parts := by
  unfold State.askWaypoint
  dsimp only
  split
  · split
    · rfl
    · rfl
  · rfl

theorem part_of_parts {t u : State} (h : t.parts = u.parts) (i : Nat) : t.part i = u.part i :=
  congrArg (look ({} : Partition) · i) h

theorem modPart_parts_of {t u : State} (h : t.parts = u.parts) (p : Nat) (f : Partition → Partition) :
    (t.modPart p f).parts = (u.modPart p f).parts := by
  rw [modPart_parts, modPart_parts, part_of_parts h, h]

theorem beginJob_state (s : State) (p : Nat) (first : BitVec 64) (wp : Bool) :
    ((s.beginJob p first wp).part p).state = .starting := by
  rw [State.beginJob, part_of_parts ((askWaypoint_parts ..).trans (askFor_parts ..))]
  exact setPartState_state (by decide)

/-! ### STOP (R267) -/

section

variable (h : s.Starts r 0x0203 [.running, .starting] noParams c)
include h

theorem execStopJob_lodestar (hl : (s.part c.part).isLode = true) :
    execStopJob r s = .next (State.answered (s.modLode c.part fun L => { L with stop := true }) r c 0 0 []) :=
  runCmd_answers h (modPart_apartFromRings _ _) (by exact if_pos hl)

theorem execStopJob_member (hl : (s.part c.part).isLode = false) :
    execStopJob r s = .next (s.answered r c 0x0204 ((s.part c.part).watch.lodestar.getD 0xFFF) []) :=
  runCmd_answers h .id (by exact if_neg (Bool.eq_false_iff.1 hl))

end

/-! ### UNLOAD (R22, R325) -/

/-- The reset of a partition's forms, on the partition itself (R138). -/
def Partition.formsReset (P : Partition) : Partition :=
  { P with period := { P.period with
    signals := [], counts := [], scalars := [], arrivals := [], ended := [], rotas := [], hops := [] } }

/-- The reset of a partition's forms changes no other part of its partition, and no other partition. -/
theorem resetForms_parts (s : State) (p : Nat) : (s.resetForms p).parts = (s.modPart p Partition.formsReset).parts := by
  have hcells (f : Cell → Cell) (l : List Nat) : (l.foldl (fun t c => t.modCell c f) s).parts = s.parts :=
    foldl_parts (fun _ _ => modCell_parts ..) l s
  have hdies (f : Die → Die) (l : List Nat) (t : State) : (l.foldl (fun u d => u.modDie d f) t).parts = t.parts :=
    foldl_parts (fun _ _ => modDie_parts ..) l t
  exact modPart_parts_of ((hdies _ _ _).trans (hcells _ _)) p Partition.formsReset

theorem dropImage_part (h : SMap.wf {} s.parts = true) :
    (s.dropImage p).part p =
      { dies := (s.part p).dies, journal := (s.part p).journal, policy := (s.part p).policy, state := (s.part p).state } := by
  have hwf : SMap.wf {} (s.resetForms p).parts = true := resetForms_parts s p ▸ put_wf h
  have hreset : (s.resetForms p).part p = (s.part p).formsReset := by
    rw [part_of_parts (resetForms_parts s p), part_modPart h, if_pos rfl]
  rw [State.dropImage, part_modPart hwf, if_pos rfl, hreset]
  rfl

theorem execUnload_empties (h : s.Starts r 0x0204 [.empty, .loaded, .primed, .halted, .fenced] noParams c) :
    execUnload r s = .next
      (((((s.started r c).dropImage c.part).setPartState c.part .empty).settleBenches c.part).reply r c 0 0 []) :=
  runCmd_starts h fun _ he => absurd he List.not_mem_nil

/-! ### The statement -/

/-- Settles O22: a START by what its partition lacks (`execStartJob_noChart`, `execStartJob_noWaypoint`) or by its beginning
(`execStartJob_begins`, `beginJob_state`), a STOP by who is the lodestar, and an UNLOAD by what it leaves of the partition
(`execUnload_empties`, `dropImage_part`). -/
theorem jobCommandsComplete : Obligations.JobCommandsComplete := by
  refine ⟨⟨fun s r c h => ?start, beginJob_state⟩,
    fun s r c h => ⟨execStopJob_lodestar h, execStopJob_member h⟩, fun s r c => execUnload_empties,
    fun s p h => ?dropped⟩
  case start =>
    refine ⟨execStartJob_noChart h, execStartJob_noWaypoint h, fun hs hc hw => ?waypoint, fun hc hw => ?fresh⟩
    case waypoint =>
      have hbegins : exec (.startJob r) s = _ := execStartJob_begins h (.inr hc) fun hn => Bool.eq_false_iff.1 hs hn.1
      exact hbegins.trans (congrArg Host.Outcome.next ((if_pos hw).trans (by rw [decide_eq_true hw]; rfl)))
    case fresh =>
      have hnot : ¬c.fromWaypoint := fun hn => absurd (hw.symm.trans hn) (by decide)
      have hbegins : exec (.startJob r) s = _ := execStartJob_begins h hc fun hn => hnot hn.2
      exact hbegins.trans (congrArg Host.Outcome.next ((if_neg hnot).trans (by rw [decide_eq_false hnot]; rfl)))
  case dropped =>
    rw [dropImage_part h]
    exact ⟨rfl, rfl⟩

end Sys2Proof.Machine
end

section
/-! The laws of the exam, telemetry, record and service commands (R272, R339-R341, R420, R421, R423, R424, R441): how
each is answered. -/

namespace Sys2Proof.Machine

section

variable {s : State} {r : RingIx} {c : PendCmd}

/-! ### Exams (R421, R423, R424) -/

/-- The dies whose targets a ring may have examined: those of its own partition, or any (R424). -/
def State.ringDies (s : State) (r : RingIx) : Option (BitVec 4) :=
  if 1 ≤ r.val ∧ r.val ≤ 3 then some (s.part r.val).dies else none

/-- The target that an EXAM_RUN names (R423). -/
def PendCmd.examTarget (c : PendCmd) : Word := BitVec.ofNat 32 (c.par 0 32)

/-- Slices for these targets wait, for the command of this ring (R423). -/
def State.queueExams (s : State) (r : RingIx) (targets : List Word) : State :=
  s.modServices fun v => { v with slices := addSlices targets (fun x => { target := x, cmd := some r }) v.slices }

theorem execExamResults_answers (h : s.Starts r 0x0701 anyState badExamResults c) :
    execExamResults r s = .next (s.answered r c 0 0
      ((((typeTargets (c.par 0 4)).drop (c.par 16 16)).take (c.par 32 16)).flatMap fun x => (s.examRec x).bytes x)) :=
  runCmd_answers h .id (by rfl)

section

variable (h : s.Starts r 0x0702 anyState badExamRun c)
include h

theorem execExamRun_full (hf : c.par 32 1 = 1) :
    execExamRun r s = .next (State.finishExams ((s.started r c).queueExams r
      (s.fullExam.filter fun x => (s.examRefused (s.ringDies r) x).isNone))) := by
  rw [execExamRun, runCmd_starts h (fun _ he => absurd he List.not_mem_nil)]
  exact congrArg Host.Outcome.next (if_pos hf)

variable (hf : ¬c.par 32 1 = 1)
include hf

/-- An EXAM_RUN of one target is refused, or its slice waits (R423, R424). -/
theorem execExamRun_one :
    execExamRun r s = .next ((s.examRefused (s.ringDies r) c.examTarget).elim
      ((s.started r c).queueExams r [c.examTarget]) fun n => (s.started r c).reply r c 0x0701 n []) := by
  rw [execExamRun, runCmd_starts h (fun _ he => absurd he List.not_mem_nil)]
  refine congrArg Host.Outcome.next ((if_neg hf).trans ?_)
  change (match s.examRefused (s.ringDies r) c.examTarget with | some n => _ | none => _) = _
  cases s.examRefused (s.ringDies r) c.examTarget with
  | some n => rfl
  | none => rfl

theorem execExamRun_refused {n : Nat} (hn : s.examRefused (s.ringDies r) c.examTarget = some n) :
    execExamRun r s = .next (s.answered r c 0x0701 n []) := by
  rw [execExamRun_one h hf, hn, Option.elim_some, reply_started h]

theorem execExamRun_takes (hn : s.examRefused (s.ringDies r) c.examTarget = none) :
    execExamRun r s = .next ((s.started r c).queueExams r [c.examTarget]) := by
  rw [execExamRun_one h hf, hn, Option.elim_none]

end

theorem execExamPolicy_answers (h : s.Starts r 0x0703 anyState (fun c => c.rsv 7 25) c) :
    execExamPolicy r s = .next
      (State.answered (s.modServices fun v => { v with policy := BitVec.ofNat 7 (c.par 0 7) }) r c 0 0 []) :=
  runCmd_answers (F := fun t => t.modServices fun v => { v with policy := BitVec.ofNat 7 (c.par 0 7) }) h (fun _ _ => rfl)
    (by rfl)

/-! ### Telemetry and records (R339-R341) -/

theorem execTelemetryRead_answers {smp : TeleSample} (h : s.Starts r 0x0801 anyState (badSelector true) c) :
    execTelemetryRead r smp s = .next (s.answered r c 0 0
      ((List.range (c.par 32 32)).flatMap fun i => s.counterRecord (c.view.getD s.teleView) smp (c.par 0 8) (c.par 8 24 + i))) :=
  runCmd_answers h .id (by rfl)

theorem execTelemetryClear_clears (h : s.Starts r 0x0802 anyState (badSelector false) c) :
    execTelemetryClear r s = .next (((s.started r c).clearRecord (c.par 0 8) (c.par 8 24)).reply r c 0 0 []) :=
  runCmd_starts h fun _ he => absurd he List.not_mem_nil

/-- The error record held under a number, as its bytes (R339). -/
def Hub.recordBytes (h : Hub) (n : Nat) : List Byte :=
  match h.records.find? fun e => decide (fldN e 48 16 = n % 65536) with
  | some e => bytesOfBv 64 e
  | none => []

theorem execRecordRead_answers (h : s.Starts r 0x0803 anyState badRecordRead c) :
    execRecordRead r s =
      .next (s.answered r c 0 0 ((List.range (c.par 16 9)).flatMap fun i => s.hub.recordBytes (c.par 0 16 + i))) :=
  runCmd_answers h .id (by rfl)

/-! ### Service periods (R272, R441) -/

/-- The services' periods with those that a SERVICE_SET gives; a zero leaves a period as it is (R441). -/
def PendCmd.periodsOver (c : PendCmd) (m : SMap Nat) : SMap Nat :=
  (List.range 5).foldl (fun m k => if c.par (32 * k) 32 = 0 then m else put 0 m k (c.par (32 * k) 32)) m

theorem execServiceSet_answers (h : s.Starts r 0x0804 anyState badServiceSet c) :
    execServiceSet r s = .next (State.answered ((s.modServices fun v =>
      { v with periods := c.periodsOver s.hub.services.periods }).assertShared 44) r c 0 0 []) :=
  runCmd_answers (F := fun t => (t.modServices fun v =>
    { v with periods := c.periodsOver s.hub.services.periods }).assertShared 44) h (fun _ _ => rfl) (by rfl)

end

/-! ### The statement -/

/-- Settles O26: each command is answered on the state that its effect makes, by `runCmd_answers`; an EXAM_RUN that is not
refused leaves slices that wait (`execExamRun_takes`, `execExamRun_full`). -/
theorem serviceCommandsComplete : Obligations.ServiceCommandsComplete := by
  refine ⟨fun s r c => execExamResults_answers, fun s r c h hone => ?one, fun s r c => execExamRun_full,
    fun s r c => execExamPolicy_answers, fun s r c smp => execTelemetryRead_answers,
    fun s r c => execTelemetryClear_clears, fun s r c => execRecordRead_answers, fun s r c => execServiceSet_answers⟩
  case one =>
    have hf : ¬c.par 32 1 = 1 := fun hn => absurd (hone.symm.trans hn) (by decide)
    exact ⟨fun n => execExamRun_refused h hf, execExamRun_takes h hf⟩

end Sys2Proof.Machine
end

section
/-! The laws of received control packets (R27, R258, R369): each command of one is a reception by `State.takeCtl`, and
what becomes of a packet that the partition does not take. -/

namespace Sys2Proof.Machine

variable {s : State} {p : PartIx} {c : Control} {i : Instr} {type key : Nat}

/-- Command `i` receives control packet `c`, of type `type` and with the source of `key` (R256). -/
def State.Receives (s : State) (p : PartIx) (c : Control) (type key : Nat) (i : Instr) : Prop :=
  ∃ casc f, exec i s = s.takeCtl i p type c casc key f

/-- A reserved type is discarded and counted, whatever command it comes with (R258). -/
theorem State.Receives.reserved (hi : s.Receives p c type key i) (h : s.NoSwitch) (hr : reservedCtype c = true) :
    exec i s = .next ((s.receiveCtl p c false 999).2.dropCtl p) := by
  obtain ⟨casc, f, hexec⟩ := hi
  simp [hexec, State.takeCtl, h, hr]

theorem State.Receives.stale (hi : s.Receives p c type key i) (h : s.NoSwitch) (hr : reservedCtype c = false)
    (ht : ctype c = type) (hstale : (s.part p).staleCtl c = true) :
    exec i s = .next ((s.receiveCtl p c false key).2.dropCtl p) := by
  obtain ⟨casc, f, hexec⟩ := hi
  simp [hexec, State.takeCtl, h, hr, ht, hstale]

/-- A packet that comes during a firmware switch is admitted, and waits (R369, R384). -/
theorem State.Receives.switch (hi : s.Receives p c type key i) (h : s.fw.stage = .starting)
    (ht : reservedCtype c = true ∨ ctype c = type) :
    exec i s = .next (s.holdOver i .vc1 (if reservedCtype c then 999 else key)) := by
  obtain ⟨casc, f, hexec⟩ := hi
  have hmine : ¬(ctype c ≠ type ∧ reservedCtype c = false) :=
    fun ⟨hne, hr⟩ => ht.elim (Bool.eq_false_iff.1 hr) hne
  rw [hexec]
  exact (if_neg hmine).trans (if_pos h)

theorem State.Receives.otherType (hi : s.Receives p c type key i) (ht : ctype c ≠ type) (hr : reservedCtype c = false) :
    exec i s = .next s := by
  obtain ⟨casc, f, hexec⟩ := hi
  rw [hexec]
  exact if_pos ⟨ht, hr⟩

/-- Settles O45: every command of the list receives its packet (`Receives`), and a packet that its partition does not take
is reserved, stale, early or of another type. -/
theorem staleControlPacketsAreCounted : Obligations.StaleControlPacketsAreCounted := by
  intro s p c cmds e he
  have hall : ∀ e ∈ cmds, s.Receives p c e.1 e.2.1 e.2.2 := by
    repeat refine List.forall_mem_cons.2 ⟨by unfold State.Receives exec; exact ⟨_, _, rfl⟩, ?_⟩
    exact List.forall_mem_nil _
  have hrec := hall e he
  exact ⟨hrec.reserved, hrec.stale, hrec.switch, hrec.otherType⟩

end Sys2Proof.Machine
end

section
/-! The laws of bells and beacons (R255-R262, R266, R267, R271, R275): what each bell does once its partition takes it,
and what a hold bell is answered. -/

namespace Sys2Proof.Machine

variable {s : State} {p : PartIx} {c : Control}

/-! ### Reception -/

/-- The source that a bell asserts, or a beacon, which asserts none. -/
def bellKey (p : PartIx) (c : Control) : Nat := if ctype c = 5 then 999 else 128 + p.val

/-- A bell's or a beacon's reception: its ingress sequence number, and the state in which it takes effect. -/
def State.bellTaken (s : State) (p : PartIx) (c : Control) : BitVec 64 × State := s.receiveCtl p c true (bellKey p c)

theorem bellKey_bell (h : ctype c ≠ 5) : bellKey p c = 128 + p.val := if_neg h

theorem takeCtl_bell {i : Instr} {type : Nat} {f : BitVec 64 → State → State} (h : s.TakesCtl p type c) (ht : type ≠ 5) :
    s.takeCtl i p type c true (128 + p.val) f = .next (f (s.bellTaken p c).1 (s.bellTaken p c).2) := by
  obtain ⟨-, -, htype, -⟩ := id h
  rw [takeCtl_takes h, State.bellTaken, bellKey_bell (htype ▸ ht)]

/-- A bell or a beacon has been heard: the watch starts anew (R275). -/
def State.heard (s : State) (p : PartIx) (bell : Bool) (c : Control) : State :=
  s.modPart p fun P => { P with watch := P.watch.heard bell c }

/-! ### Bells that begin an attempt, beacons, halt bells (R259, R267, R275) -/

/-- The bell names an attempt that the partition has not begun, and that it may begin. -/
abbrev Partition.mayBegin (P : Partition) (c : Control) : Prop :=
  (P.state = .starting ∨ P.state = .running) ∧ P.inAttempt c = false

theorem execStepBell_takes (h : s.TakesCtl p 1 c) :
    execStepBell p c s =
      (let t := (s.bellTaken p c).2
       .next (if (t.part p).mayBegin c then t.bellIn p c (s.bellTaken p c).1 else t.heard p true c)) :=
  takeCtl_bell h (by decide)

/-- What a restart asks for again: the step's inputs, and the mirror's entries that are not acknowledged (R269, R317). -/
def Partition.restarted (c : Control) (P : Partition) : Partition :=
  { P.rereadInputs (ctlStep c) with mirror := { P.mirror with
    written := P.mirror.unacked.foldl (fun l i => insNat i l) P.mirror.written, unacked := [], sent := none, acked := none } }

theorem execRestartBell_takes (h : s.TakesCtl p 3 c) :
    execRestartBell p c s =
      (let t := (s.bellTaken p c).2
       .next (if (t.part p).mayBegin c then
           ((((t.resetForms p).bellIn p c (s.bellTaken p c).1)).modPart p (Partition.restarted c)).askFor p (ctlStep c)
         else t.heard p true c)) :=
  takeCtl_bell h (by decide)

/-- No step work starts, and no watch is kept (R267, R275). -/
def Partition.halted (c : Control) (P : Partition) : Partition :=
  { P with
    period := { P.period with waiting := none, isOpen := false }
    lode := { P.lode with restores := [] }
    watch := { P.watch.heard true c with running := false } }

theorem execHaltBell_takes (h : s.TakesCtl p 4 c) :
    execHaltBell p c s =
      (let t := (s.bellTaken p c).2
       .next (if (t.part p).state = .starting ∨ (t.part p).state = .running then
           ((t.stopWalks p).modPart p (Partition.halted c)).setPartState p .halted
         else t)) :=
  takeCtl_bell h (by decide)

theorem execBeacon_takes (h : s.TakesCtl p 5 c) :
    execBeacon p c s = .next ((s.bellTaken p c).2.heard p false c) := by
  obtain ⟨-, -, htype, -⟩ := id h
  rw [execBeacon, takeCtl_takes h, State.bellTaken, bellKey, if_pos htype]
  rfl

/-! ### Hold bells (R266, R271) -/

/-- The seats that an answer names, 12 bits each; 0xFFF where there is none. -/
def seatWord (l : List Nat) : Nat :=
  let seat (i : Nat) : Nat := l.getD i 0xFFF * 2 ^ (12 * i)
  seat 0 + seat 1 + seat 2 + seat 3

/-- A partition's answer to a hold bell is sent. -/
def State.sendAnswer (s : State) (p : PartIx) (c : Control) (status : Nat) (blocks : List Nat) (ready : Nat) : State :=
  s.sendCtl p (ctlSeat c) (s.ownCtl p 9 status (seatWord blocks) ready)

/-- The partition's answer to a hold bell, by its status (R266): a member that is blocked names the seats that it waits
for, a deadlocked one sends its records first, and one whose work is dropped says when it will be ready. -/
def State.answerHold (s : State) (p : PartIx) (c : Control) (num : BitVec 64) : State :=
  match s.holdStatus p with
  | 1 => s.sendAnswer p c 1 (s.blockers p) 0
  | 2 => (s.sendDeadlock p num).sendAnswer p c 2 [] 0
  | 4 =>
    let f := (s.modPart p fun P => { P with period := { P.period with saidDropped := true } }).fresh
    f.2.sendAnswer p c 4 [] (f.1.toNat % 2 ^ 32)
  | n => s.sendAnswer p c n [] 0

theorem execHoldBell_takes (h : s.TakesCtl p 2 c) :
    execHoldBell p c s =
      (let t := (s.bellTaken p c).2.heard p true c
       .next (if (t.part p).state ≠ .running then t else t.answerHold p c (s.bellTaken p c).1)) := by
  refine (takeCtl_bell h (by decide)).trans (congrArg Host.Outcome.next (if_congr Iff.rfl rfl ?_))
  unfold State.heard State.answerHold
  generalize (s.bellTaken p c).2.modPart p _ = t
  generalize t.holdStatus p = n
  split
  case h_1 => rfl
  case h_2 => rfl
  case h_3 => rfl
  case h_4 h1 h2 h4 =>
    simp only [if_neg h1, if_neg h2, if_neg h4]
    rfl

section

variable {num : BitVec 64}

theorem answerHold_blocked (h : s.holdStatus p = 1) : s.answerHold p c num = s.sendAnswer p c 1 (s.blockers p) 0 := by
  simp only [State.answerHold, h]

theorem answerHold_deadlocked (h : s.holdStatus p = 2) :
    s.answerHold p c num = (s.sendDeadlock p num).sendAnswer p c 2 [] 0 := by
  simp only [State.answerHold, h]

theorem answerHold_dropped (h : s.holdStatus p = 4) :
    s.answerHold p c num =
      (let f := (s.modPart p fun P => { P with period := { P.period with saidDropped := true } }).fresh
       f.2.sendAnswer p c 4 [] (f.1.toNat % 2 ^ 32)) := by
  simp only [State.answerHold, h]

theorem answerHold_plain (h1 : s.holdStatus p ≠ 1) (h2 : s.holdStatus p ≠ 2) (h4 : s.holdStatus p ≠ 4) :
    s.answerHold p c num = s.sendAnswer p c (s.holdStatus p) [] 0 := by
  unfold State.answerHold
  split
  case h_1 h => exact absurd h h1
  case h_2 h => exact absurd h h2
  case h_3 h => exact absurd h h4
  case h_4 => rfl

end

/-! ### The statement -/

/-- Settles O46: a bell by whether its partition may begin its attempt (`execStepBell_takes`, `execRestartBell_takes`), a
halt bell by the partition's state, and a hold bell by the status that it is answered with (`execHoldBell_takes`). -/
theorem bellsComplete : Obligations.BellsComplete := by
  intro s p c key r t P fresh heard
  refine ⟨fun h => ?step, fun h => ?restart, fun h => ?halt, fun h => execBeacon_takes h, fun h => ?hold⟩
  case step =>
    have htakes : exec (.stepBell p c) s = _ := execStepBell_takes h
    exact ⟨fun hf => htakes.trans (congrArg Host.Outcome.next (if_pos hf)),
      fun hf => htakes.trans (congrArg Host.Outcome.next (if_neg hf))⟩
  case restart =>
    have htakes : exec (.restartBell p c) s = _ := execRestartBell_takes h
    exact ⟨fun hf => htakes.trans (congrArg Host.Outcome.next (if_pos hf)),
      fun hf => htakes.trans (congrArg Host.Outcome.next (if_neg hf))⟩
  case halt =>
    have htakes : exec (.haltBell p c) s = _ := execHaltBell_takes h
    exact ⟨fun hs => htakes.trans (congrArg Host.Outcome.next (if_pos hs)),
      fun hs => htakes.trans (congrArg Host.Outcome.next (if_neg hs))⟩
  case hold =>
    have htakes : exec (.holdBell p c) s = _ := execHoldBell_takes h
    refine ⟨fun hn => htakes.trans (congrArg Host.Outcome.next (if_pos hn)), fun hr => ?_⟩
    have hanswers : exec (.holdBell p c) s = .next (heard.answerHold p c r.1) :=
      htakes.trans (congrArg Host.Outcome.next (if_neg (not_not.2 hr)))
    exact ⟨fun h1 h2 h4 => hanswers.trans (congrArg Host.Outcome.next (answerHold_plain h1 h2 h4)),
      fun h1 => hanswers.trans (congrArg Host.Outcome.next (answerHold_blocked h1)),
      fun h2 => hanswers.trans (congrArg Host.Outcome.next (answerHold_deadlocked h2)),
      fun h4 => hanswers.trans (congrArg Host.Outcome.next (answerHold_dropped h4))⟩

end Sys2Proof.Machine
end

section
/-! The laws of trouble notices, claims, watches and takeovers (R262, R267, R270, R274, R275, R305): what each does once
its partition takes it, and who takes over. -/

namespace Sys2Proof.Machine

variable {s : State} {p : PartIx} {c : Control}

/-! ### Trouble notices (R267, R275, R305) -/

/-- The seat and the REASON that a trouble notice names (R256). -/
def troubleSeat (c : Control) : Nat := fldN (arg0 c) 0 12
def troubleReason (c : Control) : Nat := fldN (arg0 c) 16 16

/-- Another member's failure, that of a seated one or of the reserve chosen for a late seat (R305). -/
abbrev Partition.failsAnother (P : Partition) (c : Control) : Prop :=
  troubleSeat c ≠ ctlSeat c ∧ troubleSeat c ≠ P.seat.toNat ∧ (seatState (P.chart.entry (troubleSeat c)) = 1 ∨
    ∃ l ∈ P.lode.late, l.seat = troubleSeat c ∧ l.reserve.isSome = true)

/-- A late seat's mirror or waypoint is not to be had (log 35). -/
def Lodestar.loses (seat : Nat) (L : Lodestar) : Lodestar :=
  { L with late := L.late.map fun l => if l.seat = seat then { l with lost := true } else l }

/-- What a trouble notice does to the lodestar while it recovers (R305). -/
def State.troubleRecovering (s : State) (p : PartIx) (c : Control) : State :=
  let P := s.part p
  if troubleReason c = 0x7005 then
    if P.lode.phase = .restore then (s.haltJob p 2).stuckStep p
    else
      let u := s.modLode p (Lodestar.loses (troubleSeat c))
      if P.lode.phase = .refill then u.orderRestore p else u
  else if P.failsAnother c then s.recover p [troubleSeat c] [] else s

/-- What a trouble notice does: to the lodestar by its state, elsewhere to the first successor (R267, R275). -/
def State.troubled (s : State) (p : PartIx) (c : Control) : State :=
  let P := s.part p
  if P.isLode = true then
    match P.lode.state with
    | .collecting => if P.lode.forStep c = true then s.hold p 1 (troubleSeat c) else s
    | .recovering => s.troubleRecovering p c
    | _ => s
  else if P.watch.lodestar = some (troubleSeat c) ∧ P.rank = 1 then s.takeOver p else s

theorem execTroubleNotice_takes (h : s.TakesCtl p 11 c) :
    execTroubleNotice p c s = .next ((s.receiveCtl p c false 38).2.troubled p c) := by
  refine (takeCtl_takes h).trans (congrArg Host.Outcome.next (if_congr Iff.rfl ?_ rfl))
  generalize (s.receiveCtl p c false 38).2 = t
  cases (t.part p).lode.state
  case recovering =>
    refine if_congr Iff.rfl rfl (if_congr ?_ rfl rfl)
    simp only [Partition.failsAnother, List.any_eq_true, Bool.and_eq_true, decide_eq_true_eq]
    rfl
  all_goals rfl

section

variable (hl : (s.part p).isLode = true)
include hl

theorem troubled_collecting (hs : (s.part p).lode.state = .collecting) :
    s.troubled p c = if (s.part p).lode.forStep c = true then s.hold p 1 (troubleSeat c) else s := by
  simp only [State.troubled, if_pos hl, hs]

theorem troubled_recovering (hs : (s.part p).lode.state = .recovering) : s.troubled p c = s.troubleRecovering p c := by
  simp only [State.troubled, if_pos hl, hs]

theorem troubled_otherState (hc : (s.part p).lode.state ≠ .collecting) (hr : (s.part p).lode.state ≠ .recovering) :
    s.troubled p c = s := by
  unfold State.troubled
  refine (if_pos hl).trans ?_
  split
  case h_1 h => exact absurd h hc
  case h_2 h => exact absurd h hr
  case h_3 => rfl

end

/-- A member that is not the lodestar: the first successor takes over for the lodestar that the notice names. -/
theorem troubled_member (hl : (s.part p).isLode = false) :
    s.troubled p c =
      if (s.part p).watch.lodestar = some (troubleSeat c) ∧ (s.part p).rank = 1 then s.takeOver p else s :=
  if_neg (Bool.eq_false_iff.1 hl)

/-! ### Claims (R275, R305) -/

/-- The claim is of a higher epoch, or of the same epoch and from a lower seat (R275). -/
abbrev Partition.yieldsTo (P : Partition) (c : Control) : Prop :=
  P.watch.epoch < ctlEpoch c ∨ P.watch.epoch = ctlEpoch c ∧ ∀ l ∈ P.watch.lodestar, ctlSeat c < l

/-- The claim's sender is the lodestar from now on. -/
def Partition.follows (c : Control) (P : Partition) : Partition :=
  { P with
    watch := { P.watch with epoch := ctlEpoch c, lodestar := some (ctlSeat c), expired := false }
    lode := { P.lode with state := .idle, phase := .none, late := [] } }

theorem execClaim_takes (h : s.TakesCtl p 12 c) :
    execClaim p c s =
      (let t := (s.receiveCtl p c true 999).2
       let P := t.part p
       let u := t.modPart p (Partition.follows c)
       .next (if P.yieldsTo c then
           if P.refilling = true then u.sendCtl p P.desk (u.ownCtl p 0x16 P.seat.toNat (P.period.step - 1).toNat 0) else u
         else t)) := by
  refine (takeCtl_takes h).trans (congrArg Host.Outcome.next (if_congr ?_ rfl rfl))
  simp only [Bool.or_eq_true, Bool.and_eq_true, decide_eq_true_eq, Partition.yieldsTo]
  cases ((s.receiveCtl p c true 999).2.part p).watch.lodestar <;> simp

/-! ### The statement -/

/-- Settles O49: a trouble notice by what it does to the lodestar in each of its states and to another member
(`execTroubleNotice_takes`, `troubled_collecting` to `troubled_member`), a claim by whether the member yields to it
(`execClaim_takes`), and the two events of a watch by their guards. -/
theorem troubleAndTakeoverComplete : Obligations.TroubleAndTakeoverComplete := by
  refine ⟨fun s p c h => ?trouble, fun s p c h => ?claim,
    fun s p => ⟨fun hw => if_pos hw, fun hw => ?quiet, fun he hr hs => ?succeeds, fun hn => ?stays⟩⟩
  case trouble =>
    intro t P seat reason
    have htakes : exec (.troubleNotice p c) s = .next (t.troubled p c) := execTroubleNotice_takes h
    have hdoes {u : State} (hu : t.troubled p c = u) : exec (.troubleNotice p c) s = .next u :=
      htakes.trans (congrArg Host.Outcome.next hu)
    exact ⟨fun hl hs hf => hdoes ((troubled_collecting hl hs).trans (if_pos hf)),
      fun hl hs hf => hdoes ((troubled_collecting hl hs).trans (if_neg (Bool.eq_false_iff.1 hf))),
      fun hl hs hr hp => hdoes ((troubled_recovering hl hs).trans ((if_pos hr).trans (if_pos hp))),
      fun hl hs hr hp => hdoes ((troubled_recovering hl hs).trans ((if_pos hr).trans (if_neg hp))),
      fun hl hs hr => hdoes ((troubled_recovering hl hs).trans (if_neg hr)),
      fun hl hc hr => hdoes (troubled_otherState hl hc hr),
      fun hl hw hr => hdoes ((troubled_member hl).trans (if_pos ⟨hw, hr⟩)),
      fun hl hn => hdoes ((troubled_member hl).trans (if_neg (not_and_or.2 hn)))⟩
  case claim =>
    have htakes : exec (.claim p c) s = _ := execClaim_takes h
    exact ⟨fun hb hr => (htakes.trans (congrArg Host.Outcome.next (if_pos hb))).trans
        (congrArg Host.Outcome.next (if_neg (Bool.eq_false_iff.1 hr))),
      fun hb hr => (htakes.trans (congrArg Host.Outcome.next (if_pos hb))).trans (congrArg Host.Outcome.next (if_pos hr)),
      fun hb => htakes.trans (congrArg Host.Outcome.next (if_neg hb))⟩
  case quiet => exact if_neg (Bool.eq_false_iff.1 hw)
  case succeeds => exact if_pos ⟨he, hr, hs⟩
  case stays =>
    refine if_neg fun ⟨he, hr, hs⟩ => ?_
    rcases hn with hn | hn | hn
    · exact absurd he (Bool.eq_false_iff.1 hn)
    · exact absurd (hn ▸ hr) (by decide)
    · exact absurd hn (Bool.eq_false_iff.1 hs)

end Sys2Proof.Machine
end

section
/-! The laws of the mirror and of refills (R287-R293, R295, R298-R303): what becomes of a part of an update, of its commit packet
and of its acknowledgement, how a seat is refilled, and what a scrub finds. -/

namespace Sys2Proof.Machine

variable {s : State} {p : PartIx} {c : Control} {pkt : Packet}

/-! ### Receiving an update (R290, R291) -/

/-- What becomes of a packet of an update: a stale one is discarded and counted, one that comes while nothing may be logged
waits, and any other has its effect (R290). -/
def State.mirrorIn (s : State) (p : PartIx) (pkt : Packet) (effect : State) : State :=
  if (s.part p).mirror.stale (mirrorHdrOf pkt) then (s.takePkt p pkt).dropCtl p
  else if (s.part p).mirror.accepts then effect else s

theorem mirrorIn_stale {t : State} (h : (s.part p).mirror.stale (mirrorHdrOf pkt) = true) :
    s.mirrorIn p pkt t = (s.takePkt p pkt).dropCtl p :=
  if_pos h

section

variable {t : State} (h : (s.part p).mirror.stale (mirrorHdrOf pkt) = false)
include h

theorem mirrorIn_taken (ha : (s.part p).mirror.accepts = true) : s.mirrorIn p pkt t = t :=
  (if_neg (Bool.eq_false_iff.1 h)).trans (if_pos ha)

theorem mirrorIn_waits (ha : (s.part p).mirror.accepts = false) : s.mirrorIn p pkt t = s :=
  (if_neg (Bool.eq_false_iff.1 h)).trans (if_neg (Bool.eq_false_iff.1 ha))

end

theorem execMirrorPacket_logs (hs : s.NoSwitch) (hk : pktKind pkt.hdr = 4) (hc : mhCommit (mirrorHdrOf pkt) = false) :
    execMirrorPacket p pkt s = .next (s.mirrorIn p pkt
      (((s.takePkt p pkt).modMirror p (Mirror.logPacket (mirrorHdrOf pkt) (pkt.payload.drop 16))).tryCommit p
        (pktLsrc pkt.hdr))) := by
  refine (defers_noSwitch hs).trans ((if_neg ?_).trans ?_)
  · exact not_or.2 ⟨Bool.eq_false_iff.1 hc, not_not.2 hk⟩
  · simp only [State.mirrorIn, apply_ite Host.Outcome.next]

theorem execMirrorCommit_notes (hs : s.NoSwitch) (hk : pktKind pkt.hdr = 4) (hc : mhCommit (mirrorHdrOf pkt) = true) :
    execMirrorCommit p pkt s = .next (s.mirrorIn p pkt
      ((((s.takePkt p pkt).assertAt 2 1).modMirror p fun m =>
        { m.logPacket (mirrorHdrOf pkt) [] with commit := some (mhOff (mirrorHdrOf pkt)) }).tryCommit p (pktLsrc pkt.hdr))) := by
  refine (defers_noSwitch hs).trans ((if_neg ?_).trans ?_)
  · exact not_or.2 ⟨Bool.ne_false_iff.2 hc, not_not.2 hk⟩
  · simp only [State.mirrorIn, apply_ite Host.Outcome.next]

/-! ### Applying an update, and its acknowledgement (R290, R292, R295) -/

/-- The log is in the body, which after a waypoint step is then copied (R290, R295). -/
def State.applied (s : State) (p : PartIx) : State :=
  s.modMirror p fun m => { m.applyLog with copying := (s.part p).waypointStep (m.committed.getD 0) }

/-- An applied update serves the refill request that waited for it (R300). -/
theorem execMirrorApplyComplete_applies (h : (s.part p).mirror.applying = true) :
    execMirrorApplyComplete p s =
      .next ((s.part p).mirror.refillTo.elim (s.applied p) fun r => (s.applied p).streamBody p r.1 r.2) := by
  refine (if_neg (Bool.ne_false_iff.2 h)).trans ?_
  cases (s.part p).mirror.refillTo with
  | none => rfl
  | some r => rfl

/-- The packet acknowledges the update that this attempt has sent (R290, 4). -/
abbrev Partition.acknowledged (P : Partition) (c : Control) : Prop :=
  ctlSeat c = P.desk ∧ P.mirror.sent = some (ctlStep c) ∧ ctlAttempt c = P.period.attempt ∧
    fldN (arg0 c) 0 32 = P.mirror.sentBytes % 2 ^ 32

theorem execMirrorAcknowledge_takes (h : s.TakesCtl p 0x10 c) :
    execMirrorAcknowledge p c s =
      (let t := (s.receiveCtl p c false 69).2
       .next (if (t.part p).acknowledged c then t.modMirror p fun m => { m with
           acked := some (ctlStep c), unacked := []
           fullDue := m.fullDue && !m.sentFull, exposed := m.exposed && !m.sentFull }
         else t)) :=
  takeCtl_takes h

theorem execWaypointCopyComplete_copying (h : (s.part p).mirror.copying = true) :
    execWaypointCopyComplete p s = .next (s.modMirror p fun m =>
      { m with copying := false, staged := some (m.committed.getD 0, (s.part p).waypointBytes), streaming := false }) :=
  if_pos h

/-! ### Refilling a seat (R291, R298-R303) -/

/-- The deskmate streams its body, at once or once it is applied (R300). -/
theorem execRefillRequest_takes (h : s.TakesCtl p 0x16 c) :
    execRefillRequest p c s =
      (let t := (s.receiveCtl p c false 39).2.assertAt 2 6
       let seat := fldN (arg0 c) 0 12
       .next (if (t.part p).mirror.applying then t.modMirror p fun m => { m with refillTo := some (seat, arg1 c) }
         else t.streamBody p seat (arg1 c))) :=
  takeCtl_takes h

section

variable (hs : s.NoSwitch) (hk : pktKind pkt.hdr = 5) (hr : (s.part p).refilling = true)

/-- A packet of the body has come: its bytes are counted (R300). -/
def State.snapshotIn (s : State) (p : PartIx) (pkt : Packet) : State :=
  (s.takePkt p pkt).modMirror p fun m => { m with refilled := m.refilled + (pkt.payload.drop 16).length }

/-- The write of HBM that a packet of the body makes, for its entry's die and address (R291). -/
def bodyWrite (pkt : Packet) (d a : Nat) : List (Nat × Nat × Nat × Bool) :=
  [(d, a + mhOff (mirrorHdrOf pkt), (pkt.payload.drop 16).length, true)]

include hs hk hr

theorem execSnapshotPacket_refilling :
    execSnapshotPacket p pkt s =
      (let h := mirrorHdrOf pkt
       let bs := pkt.payload.drop 16
       let t := s.snapshotIn p pkt
       if mhEntry h = journalEntry then .next (t.modMirror p fun m =>
         { m with inbox := writeBytes m.inbox (mhOff h) bs, inboxLen := max m.inboxLen (mhOff h + bs.length) })
       else (mirrorEntry ((s.part p).image.mirror.getD (mhEntry h) 0)).elim (.next t) fun e =>
         s.afterSnoops (bodyWrite pkt e.1 e.2.1) (.next (t.writeHbm e.1 (e.2.1 + mhOff h) bs))) := by
  refine (defers_noSwitch hs).trans ((if_neg ?_).trans (if_congr Iff.rfl rfl ?_))
  · exact not_or.2 ⟨not_not.2 hk, Bool.ne_false_iff.2 hr⟩
  · cases mirrorEntry ((s.part p).image.mirror.getD (mhEntry (mirrorHdrOf pkt)) 0) with
    | none => rfl
    | some e => rfl

theorem execSnapshotPacket_journal (hj : mhEntry (mirrorHdrOf pkt) = journalEntry) :
    execSnapshotPacket p pkt s = .next ((s.snapshotIn p pkt).modMirror p fun m => { m with
      inbox := writeBytes m.inbox (mhOff (mirrorHdrOf pkt)) (pkt.payload.drop 16)
      inboxLen := max m.inboxLen (mhOff (mirrorHdrOf pkt) + (pkt.payload.drop 16).length) }) :=
  (execSnapshotPacket_refilling hs hk hr).trans (if_pos hj)

variable (hj : mhEntry (mirrorHdrOf pkt) ≠ journalEntry)
include hj

theorem execSnapshotPacket_unused
    (he : mirrorEntry ((s.part p).image.mirror.getD (mhEntry (mirrorHdrOf pkt)) 0) = none) :
    execSnapshotPacket p pkt s = .next (s.snapshotIn p pkt) := by
  refine (execSnapshotPacket_refilling hs hk hr).trans ((if_neg hj).trans ?_)
  rw [he, Option.elim_none]

variable {d a n : Nat} (he : mirrorEntry ((s.part p).image.mirror.getD (mhEntry (mirrorHdrOf pkt)) 0) = some (d, a, n))
include he

/-- A packet of the body is written where its entry says, once the host has answered for its lines (R291, R315). -/
theorem execSnapshotPacket_entry :
    execSnapshotPacket p pkt s = s.afterSnoops (bodyWrite pkt d a)
      (.next ((s.snapshotIn p pkt).writeHbm d (a + mhOff (mirrorHdrOf pkt)) (pkt.payload.drop 16))) := by
  refine (execSnapshotPacket_refilling hs hk hr).trans ((if_neg hj).trans ?_)
  rw [he, Option.elim_some]

theorem execSnapshotPacket_writes (hu : s.Unrecorded (bodyWrite pkt d a)) :
    execSnapshotPacket p pkt s =
      .next ((s.snapshotIn p pkt).writeHbm d (a + mhOff (mirrorHdrOf pkt)) (pkt.payload.drop 16)) :=
  (execSnapshotPacket_entry hs hk hr hj he).trans (afterSnoops_free hu)

theorem execSnapshotPacket_snoops (hu : ¬s.Unrecorded (bodyWrite pkt d a)) :
    execSnapshotPacket p pkt s = .next (s.snooped (bodyWrite pkt d a)) :=
  (execSnapshotPacket_entry hs hk hr hj he).trans (afterSnoops_snooped hu)

end

theorem execSnapshotPacket_other (hs : s.NoSwitch) (h : pktKind pkt.hdr ≠ 5 ∨ (s.part p).refilling = false) :
    execSnapshotPacket p pkt s = .next s :=
  (defers_noSwitch hs).trans (if_pos h)

/-- The inputs of the interrupted step are in place (R300, 4). -/
def Partition.inputsIn (P : Partition) : Bool :=
  P.period.svc.any fun j => decide (j.step = P.period.step) && j.digest.isSome

/-- Partition `P`, as it was, says in `u` that it is refilled up to a step (R300). -/
def State.saysRefilled (u : State) (p : PartIx) (P : Partition) (step : BitVec 64) : State :=
  let v := u.modPart p fun P => { P with
    refilling := false, mirror := { P.mirror with inbox := [], inboxLen := 0, refilled := 0 } }
  v.sendCtl p (P.watch.lodestar.getD 0) (v.ownCtl p 0x17 P.seat.toNat P.mirror.refilled step.toNat)

theorem take_readBytes (m : SMap Byte) (a : Nat) {k n : Nat} (h : k ≤ n) : (readBytes m a n).take k = readBytes m a k := by
  induction k generalizing a n with
  | zero => rfl
  | succ k ih =>
    cases n with
    | zero => exact absurd h (Nat.not_succ_le_zero k)
    | succ n => exact congrArg (look 0 m a :: ·) (ih (a + 1) (Nat.le_of_succ_le_succ h))

theorem execSnapshotStreamComplete_waits (h : (s.part p).refilling = false ∨ (s.part p).inputsIn = false) :
    execSnapshotStreamComplete p s = .next s :=
  if_neg (Bool.eq_false_iff.1 (Bool.and_eq_false_iff.2 h))

/-- The seat that has it all adopts the journal that came with the body, if it is whole, and says that it is done (R300, R303). -/
theorem execSnapshotStreamComplete_done (hr : (s.part p).refilling = true) (hi : (s.part p).inputsIn = true)
    (hl : 4096 ≤ (s.part p).mirror.inboxLen) :
    execSnapshotStreamComplete p s =
      (let P := s.part p
       let bytes := readBytes P.mirror.inbox 0 P.mirror.inboxLen
       .next ((jEntryOf (bytes.take 4096)).elim ((s.assertAt 2 7).saysRefilled p P (P.period.step - 1)) fun e =>
         ((s.assertAt 2 7).adoptJournal p e (eventsOf (bytes.drop 4096))).saysRefilled p P e.step)) := by
  refine (if_pos (Bool.and_eq_true_iff.2 ⟨hr, hi⟩)).trans ?_
  simp only [State.takeJournal, take_readBytes _ _ hl]
  cases jEntryOf (readBytes (s.part p).mirror.inbox 0 4096) with
  | none => rfl
  | some e => rfl

theorem execRefillDone_takes (h : s.TakesCtl p 0x17 c) :
    execRefillDone p c s =
      (let t := (s.receiveCtl p c false 39).2
       .next (if (t.part p).isLode = true ∧ (t.part p).lode.state = .recovering then
           (t.markLate p (fldN (arg0 c) 0 12) fun l => { l with refilled := true }).refillEnd p
         else t)) := by
  refine (takeCtl_takes h).trans (congrArg Host.Outcome.next (if_congr ?_ rfl rfl))
  rw [Bool.and_eq_true, decide_eq_true_eq]

/-! ### Scrubs (R272, R292, R293) -/

/-- A scrub's new period has begun: one still under way is late, and its position stays (R272, R293). -/
def State.scrubbing (s : State) (finishes : Bool) : State :=
  ((if s.hub.services.scrubOpen then s.countLate 4 else s).servicePeriod 4 73).modServices fun v =>
    { v with scrubOpen := !finishes, scrubPos := if finishes then v.scrubPos + 1 else v.scrubPos }

/-- A bad block has made a mirror's body invalid, and the notice is raised (R293). -/
def State.bodyLost (s : State) (b : BadBlock) : State :=
  (s.modMirror b.part fun m => { m with bodyValid := false }).notice
    { reason := 0x2005, unit := dieUnit (s.part b.part).lowDie, part := b.part, loc := b.loc, detail := b.detail }

variable {b : BadBlock} {finishes : Bool}

theorem execScrubTimer_clean : execScrubTimer ⟨none, finishes⟩ s = .next (s.scrubbing finishes) := rfl

theorem bodyBad_eq (s : State) (b : BadBlock) :
    s.bodyBad b = (s.part b.part).mirroredSeat.elim (s.bodyLost b) fun q => (s.bodyLost b).emit (.bodyInvalid b.part q) := by
  unfold State.bodyBad
  cases (s.part b.part).mirroredSeat with
  | none => rfl
  | some q => rfl

/-- A bad block's scrub tells the seat that the partition mirrored before its body was lost (R293). -/
theorem execScrubTimer_bad :
    execScrubTimer ⟨some b, finishes⟩ s =
      (let t := s.scrubbing finishes
       .next ((t.part b.part).mirroredSeat.elim (t.bodyLost b) fun q => (t.bodyLost b).emit (.bodyInvalid b.part q))) :=
  congrArg Host.Outcome.next (bodyBad_eq ..)

theorem assertKey_parts (s : State) (key : Nat) : (s.assertKey key).parts = s.parts := by
  unfold State.assertKey
  split
  · rfl
  · split
    · rfl
    · rfl

theorem sendKmp_parts (s : State) (type : Nat) (signed : Bool) (payload : List Byte) :
    (s.sendKmp type signed payload).parts = s.parts := by
  unfold State.sendKmp State.kmpTo
  split
  · rfl
  · rfl

theorem storeRecord_parts (s : State) (rcd : BitVec 512) (newSecond : Bool) :
    (s.storeRecord rcd newSecond).parts = s.parts := by
  unfold State.storeRecord
  simp only
  generalize (if newSecond = true then 0 else s.hub.sentNow) = sent
  split
  case isTrue linkDown => rfl
  case isFalse linkUp =>
    split
    case isTrue underLimit => exact sendKmp_parts ..
    case isFalse withheld => rfl

theorem journalEvent_mirroredSeat (e : IngressEvent) (P : Partition) : (P.journalEvent e).mirroredSeat = P.mirroredSeat := by
  unfold Partition.journalEvent
  split
  · rfl
  · rfl

/-- A change that leaves a partition's chart and seat leaves the seat that it mirrors, on canonical states (R287). -/
theorem modPart_mirroredSeat (hs : s.Canon) {f : Partition → Partition} (hf : ∀ P, (f P).mirroredSeat = P.mirroredSeat)
    (k i : Nat) : ((s.modPart k f).part i).mirroredSeat = (s.part i).mirroredSeat := by
  obtain ⟨-, -, hparts, -⟩ := hs
  rw [part_modPart hparts]
  split
  next hk => rw [hf, hk]
  next => rfl

theorem modMirror_mirroredSeat (hs : s.Canon) (f : Mirror → Mirror) (k i : Nat) :
    ((s.modMirror k f).part i).mirroredSeat = (s.part i).mirroredSeat :=
  modPart_mirroredSeat (f := fun P => { P with mirror := f P.mirror }) hs (fun _ => rfl) k i

theorem intake_mirroredSeat (hs : s.Canon) (kind : IngressKind) (key i : Nat) :
    ((s.intake kind key).2.part i).mirroredSeat = (s.part i).mirroredSeat := by
  unfold State.intake
  split
  next => rfl
  next =>
    refine (congrArg Partition.mirroredSeat (part_of_parts (assertKey_parts ..) i)).trans ?_
    let kept (t : State) : Prop := t.Canon ∧ (t.part i).mirroredSeat = (s.part i).mirroredSeat
    exact (foldl_keeps (P := kept) _ ⟨modHub_canon hs, rfl⟩ fun t k ⟨ht, hi⟩ =>
      ⟨modPart_canon ht, (modPart_mirroredSeat ht (journalEvent_mirroredSeat _) k i).trans hi⟩).2

theorem notice_parts (s : State) (e : ErrEvent) : (s.notice e).parts = (s.intake .error 999).2.parts := by
  unfold State.notice State.makeRecord
  exact (storeRecord_parts ..).trans (modHub_parts ..)

/-- A notice changes no chart and no seat (R277). -/
theorem notice_mirroredSeat (hs : s.Canon) (e : ErrEvent) (i : Nat) :
    ((s.notice e).part i).mirroredSeat = (s.part i).mirroredSeat :=
  (congrArg Partition.mirroredSeat (part_of_parts (notice_parts s e) i)).trans (intake_mirroredSeat hs ..)

theorem bodyLost_mirroredSeat (hs : s.Canon) (b : BadBlock) (i : Nat) :
    ((s.bodyLost b).part i).mirroredSeat = (s.part i).mirroredSeat := by
  unfold State.bodyLost
  exact (notice_mirroredSeat (modMirror_canon hs) ..).trans (modMirror_mirroredSeat hs ..)

/-- On canonical states the seat told is the one that the partition mirrors once its body is lost. -/
theorem execScrubTimer_tells (hs : s.Canon) :
    execScrubTimer ⟨some b, finishes⟩ s =
      (let u := (s.scrubbing finishes).bodyLost b
       .next ((u.part b.part).mirroredSeat.elim u fun q => u.emit (.bodyInvalid b.part q))) := by
  have ht : (s.scrubbing finishes).Canon :=
    modServices_canon (servicePeriod_canon (ite_canon (countLate_canon hs) hs))
  rw [execScrubTimer_bad]
  simp only [bodyLost_mirroredSeat ht]

/-! ### The statement -/

theorem emit_ne (s : State) (o : Out) : s.emit o ≠ s := fun h =>
  absurd (congrArg (fun t : State => t.out.length) h) (by simp)

/-- A state whose map of partitions is not canonical: partition 0 is listed with a valid mirror body and no chart, and listed
again with the chart of a job whose only seat, 0, has deskmate 0xFFF. -/
def twiceListed : State :=
  { State.reset with parts :=
      [(0, { mirror := { bodyValid := true } }), (0, { chart := { seats := [(0, at' 128 12 2 1 ||| at' 128 32 12 0xFFF)] } })] }

/-- The bad block that a scrub finds in partition 0. -/
def badBlock : BadBlock := ⟨0, 0, 0⟩

/-- The first listing mirrors no seat, and the scrub tells none. -/
theorem scrub_twiceListed :
    execScrubTimer ⟨some badBlock, true⟩ twiceListed = .next ((twiceListed.scrubbing true).bodyLost badBlock) := by
  have hnone : ((twiceListed.scrubbing true).part badBlock.part).mirroredSeat = none := by decide
  refine execScrubTimer_bad.trans (congrArg Host.Outcome.next ?_)
  rw [hnone, Option.elim_none]

/-- Without its valid body the first listing reads as an unlisted partition, and the second shows. -/
theorem mirroredSeat_twiceListed :
    (((twiceListed.scrubbing true).bodyLost badBlock).part badBlock.part).mirroredSeat = some 0 := by decide

/-- Refutes O50: its clause of a bad block speaks of every state, and asks which seat partition `b.part` mirrors after its
body is lost, where the scrub has asked before. The two agree where the map of partitions is canonical
(`execScrubTimer_tells`); in `twiceListed` they differ, and the statement claims a report that is not sent. Every step
keeps the canonical form (`stepKeepsCanonical`), so no run from reset comes to such a state. What the statement means
holds: a packet of an update is logged, waits or is discarded (`execMirrorPacket_logs`, `execMirrorCommit_notes`), an update
is applied and acknowledged (`execMirrorApplyComplete_applies`, `execMirrorAcknowledge_takes`,
`execWaypointCopyComplete_copying`), and a seat is refilled (`execRefillRequest_takes`, `execSnapshotPacket_journal` to
`execSnapshotPacket_other`, `execSnapshotStreamComplete_done`, `execRefillDone_takes`). -/
theorem not_deskmatesComplete : ¬ Obligations.DeskmatesComplete := fun ⟨⟨_, _, _, _, hscrub⟩, _⟩ => by
  obtain ⟨-, hbad⟩ := hscrub twiceListed (some badBlock) true
  obtain ⟨-, htells⟩ := hbad badBlock rfl
  exact emit_ne _ _ (Host.Outcome.next.inj ((htells 0 mirroredSeat_twiceListed).symm.trans scrub_twiceListed))

end Sys2Proof.Machine
end

section
/-! The laws of the services (R272, R279, R280, R340, R401, R409-R421): what a quiz finds, when a slice is granted, and how it
ends. -/

namespace Sys2Proof.Machine

variable {s : State}

/-! ### The quiz (R279, R280) -/

/-- Every cell of a bench pair has had its quiz, or may have it now (R280). -/
def State.quizRuns (s : State) (cs : List Nat) : Prop := ∀ c ∈ cs, (s.cell c).quiz = true ∨ (s.cell c).quizFree = true

theorem quizRuns_iff (s : State) (cs : List Nat) :
    s.quizRuns cs ↔ ¬(cs.any fun c => !(s.cell c).quiz && !(s.cell c).quizFree) = true := by
  simp only [State.quizRuns, List.any_eq_true, Bool.and_eq_true, Bool.not_eq_true', not_exists, not_and,
    Bool.not_eq_false, or_iff_not_imp_left, Bool.not_eq_true]

theorem execQuizDigestsComplete_none {faulty : List (Fin 32 × BitVec 64)} (h : s.hub.services.quizPair = none) :
    execQuizDigestsComplete faulty s = .next s := by
  simp only [execQuizDigestsComplete, h]

section

variable {faulty : List (Fin 32 × BitVec 64)} {d b : Nat} (h : s.hub.services.quizPair = some (d, b))
include h

theorem execQuizDigestsComplete_waits (hn : ¬s.quizRuns (pairCells d b)) :
    execQuizDigestsComplete faulty s = .next s := by
  simp only [execQuizDigestsComplete, h]
  exact if_pos (not_not.1 (mt (quizRuns_iff ..).2 hn))

/-- A quiz that has run leaves its results, and every cell whose digest differs is a detected error (R280). -/
theorem execQuizDigestsComplete_ends (hr : s.quizRuns (pairCells d b)) :
    execQuizDigestsComplete faulty s =
      (let cs := pairCells d b
       let quiz := look 0 s.hub.services.numbers 1
       let ds := quizDigests quiz faulty
       .next ((quizFails ds).foldl (fun t i => t.detectCell (cs.getD i 0) 0x5001 (cs.getD i 0) (quizDetail ds i))
         ((cs.foldl (fun (t : State) c => t.modCell c fun x => { x with quiz := false, check := quizResults quiz })
           (s.assertAt 1 9)).modServices fun v => { v with quizPair := none }))) := by
  simp only [execQuizDigestsComplete, h]
  exact if_neg ((quizRuns_iff ..).1 hr)

end

theorem quizDigests_sound (quiz : Nat) :
    quizDigests quiz [] = List.replicate 32 (Config.quizDigest (quizResults quiz)) :=
  List.map_const' ..

/-- A digest that all 32 cells give is the common one. -/
theorem commonDigest_replicate (x : BitVec 64) : commonDigest (List.replicate 32 x) = some x := by
  refine List.find?_cons_of_pos (decide_eq_true ?_)
  rw [List.filter_eq_self.2 fun y hy => decide_eq_true (List.eq_of_mem_replicate hy), List.length_replicate]
  decide

/-- Cells without a fault agree, and none has failed (R280). -/
theorem quizFails_sound (quiz : Nat) : quizFails (quizDigests quiz []) = [] := by
  simp only [quizDigests_sound, quizFails, commonDigest_replicate, List.length_replicate, List.filter_eq_nil_iff,
    List.mem_range, decide_eq_true_eq, not_not]
  exact fun i hi => List.getD_replicate _ hi

/-! ### Slices (R401, R413-R419) -/

/-- A slice of the target that waits for its grant (R413). -/
def Slice.waitsFor (t : Word) (x : Slice) : Bool := decide (x.target = t) && !x.granted

/-- A slice of the target may be granted: one waits, the target is free, and the governor has the power (R413). -/
def State.mayGrant (s : State) (t : Word) : Bool :=
  s.hub.services.slices.any (Slice.waitsFor t) && s.sliceFree t && s.power.headroom t

/-- Where a slice of the target saves: only a bench in a form is saved (R414, R417). -/
def State.grantBase (s : State) (t : Word) : Option Nat :=
  if targetType t = 0 then (s.benchForm (targetBench t)).map (s.saveBase (targetUnit t)) else none

/-- The slice of the target that `s` finds waiting is granted in `u`, with its power (R401, R413). -/
def State.granted (s : State) (t : Word) (u : State) : State :=
  let woke := decide (targetType t = 0) && decide ((s.bench (targetBench t)).mode = .recess)
  let empty := (benchCells (targetBench t)).all fun c => (s.cell c).storageEmpty
  let v := u.modServices fun v => { v with
    slices := modSlice (Slice.waitsFor t)
      (fun x => { x with granted := true, woke := woke, saved := s.grantBase t, empty := empty }) v.slices }
  { v with power := { v.power with grantedMw := v.power.grantedMw + sliceMw t, newMw := v.power.newMw + sliceMw t } }

section

variable {t : Word} {bad : List (Fin 16 × Nat)}

theorem execSliceGrant_waits (h : s.mayGrant t = false) : execSliceGrant ⟨t, bad⟩ s = .next s :=
  if_neg (Bool.eq_false_iff.1 h)

/-- A granted slice takes its target, and saves what it has to (R414). -/
theorem execSliceGrant_grants (h : s.mayGrant t = true) :
    execSliceGrant ⟨t, bad⟩ s =
      .next (s.granted t (match s.grantBase t with
        | some a => (s.takeTarget t).save t a bad
        | none => s.takeTarget t)) :=
  if_pos h

theorem execSliceGrant_unsaved (h : s.mayGrant t = true) (hb : s.grantBase t = none) :
    execSliceGrant ⟨t, bad⟩ s = .next (s.granted t (s.takeTarget t)) := by
  rw [execSliceGrant_grants h, hb]

theorem execSliceGrant_saves {a : Nat} (h : s.mayGrant t = true) (hb : s.grantBase t = some a) :
    execSliceGrant ⟨t, bad⟩ s = .next (s.granted t ((s.takeTarget t).save t a bad)) := by
  rw [execSliceGrant_grants h, hb]

/-- Only a privileged slice has a budget that runs out (R419). -/
theorem execSliceBudgetExpiry_stays
    (h : s.examHolds t = false ∨ targetType t < 2 ∨ 4 < targetType t) : execSliceBudgetExpiry t s = .next s := by
  refine if_neg fun ⟨hholds, hlow, hhigh⟩ => ?_
  rcases h with h | h | h
  · exact absurd hholds (Bool.eq_false_iff.1 h)
  · exact absurd hlow (Nat.not_le.2 h)
  · exact absurd hhigh (Nat.not_le.2 h)

end

theorem headroom_iff (w : Power) (t : Word) :
    w.headroom t = true ↔ w.inputMw + w.newMw + sliceMw t ≤ 1000 * w.ceiling :=
  decide_eq_true_iff

/-! ### The statement -/

/-- Settles O53: each timer by its guard, a quiz by whether its cells have had it (`execQuizDigestsComplete_ends`,
`quizFails_sound`), a slice by whether it may be granted (`execSliceGrant_unsaved`, `execSliceGrant_saves`) and by whether
it holds its target when it ends. -/
theorem servicesComplete : Obligations.ServicesComplete := by
  refine ⟨fun s => ?quizTimer, fun s faulty => ⟨execQuizDigestsComplete_none, fun d b h => ?quiz⟩, quizFails_sound,
    fun s smp finishes => ?telemetry, fun s => ⟨fun hn => if_neg hn, fun hr => if_pos hr⟩, fun s t bad => ?grant,
    headroom_iff, fun s t rs => ?ends⟩
  case quizTimer =>
    exact ⟨fun hlow hhigh => if_pos ⟨hlow, hhigh⟩, fun hn => if_neg (not_and_or.2 hn)⟩
  case quiz =>
    exact ⟨execQuizDigestsComplete_ends h, execQuizDigestsComplete_waits h⟩
  case telemetry =>
    refine ⟨fun hlink hfin => congrArg Host.Outcome.next (if_pos ⟨hlink, hfin⟩),
      fun hn => congrArg Host.Outcome.next (if_neg fun ⟨hlink, hfin⟩ => ?_)⟩
    exact hn.elim (fun h => absurd hlink (Bool.eq_false_iff.1 h)) fun h => absurd hfin (Bool.eq_false_iff.1 h)
  case grant =>
    exact ⟨execSliceGrant_unsaved, fun a => execSliceGrant_saves, execSliceGrant_waits⟩
  case ends =>
    exact ⟨fun h => if_neg (Bool.ne_false_iff.2 h), fun h => ⟨if_pos h, execSliceBudgetExpiry_stays (.inl h)⟩,
      fun h hlow hhigh => if_pos ⟨h, hlow, hhigh⟩, fun h => execSliceBudgetExpiry_stays (.inr h)⟩

end Sys2Proof.Machine
end

section
/-! The laws of the step's choice of a command (R369, R384), and of cells that an exam slice holds (R414). -/

namespace Sys2Proof.Machine

variable {s : State}

/-! ### The step -/

theorem step_front {c : Instr} {rest : List Instr} (h : s.pending = c :: rest) :
    step s = exec c { s with pending := rest } := by
  simp only [step, h]

/-- The state in which the oldest deferred command takes effect: with the number that it was given when it came (R384). -/
abbrev State.resumed (s : State) (n : Option (BitVec 64)) (rest : List (Instr × Option (BitVec 64))) : State :=
  { s with deferred := rest, hub := { s.hub with given := n } }

/-- What a step makes of the outcome of a deferred command: its number is used up. -/
def afterResumed : Res → Res
  | .next t => .next { t with hub := { t.hub with given := none } }
  | o => o

/-- On an empty queue the oldest deferred command runs (R369). -/
theorem step_resumes {c : Instr} {n : Option (BitVec 64)} {rest : List (Instr × Option (BitVec 64))}
    (h : s.pending = []) (hd : s.deferred = (c, n) :: rest) (hf : s.fw.stage = .idle) :
    step s = afterResumed (exec c (s.resumed n rest)) := by
  unfold step
  split
  next hfront => exact absurd (h.symm.trans hfront) nofun
  next =>
    rw [hd, hf]
    rfl

/-- Where no deferred command may run, the block idles. -/
theorem step_idle (h : s.pending = []) (hd : s.deferred = [] ∨ s.fw.stage ≠ .idle) : step s = .next s := by
  unfold step
  simp only [h]
  split
  next hdef hstage => rcases hd with hd | hd <;> simp_all
  next => rfl

/-- Settles O1. -/
theorem stepRunsFrontCommand : Obligations.StepRunsFrontCommand := fun _ _ _ h => step_front h

/-- Settles O2: the queue is empty, so the oldest deferred command decides the step (`step_deferred`), or nothing does. -/
theorem emptyQueueSteps : Obligations.EmptyQueueSteps := by
  refine ⟨fun s c n rest h hd hf => ?_, fun s h hd => step_idle h (.inl hd), fun s h hf => step_idle h (.inr hf)⟩
  have hresumes := step_resumes h hd hf
  exact ⟨fun t ht => hresumes.trans (congrArg afterResumed ht), fun f hf => hresumes.trans (congrArg afterResumed hf),
    fun f hf => hresumes.trans (congrArg afterResumed hf)⟩

/-- Settles O5: the machine after reset is a closed term. -/
theorem resetCanonical : Obligations.ResetCanonical := by
  unfold Obligations.ResetCanonical
  decide

/-! ### Cells that an exam slice holds (R414) -/

/-- Settles O8: every event of a cell is guarded by `State.onCell`. -/
theorem pausedCellWaits : Obligations.PausedCellWaits := by
  intro s c h
  refine ⟨?events, fun _ => onCell_paused h, fun _ => onCell_paused h, fun _ => ⟨onCell_paused h, onCell_paused h⟩, fun f => ?steps,
    fun _ _ => onCell_paused h, fun _ _ => onCell_paused h,
    fun _ _ _ => ⟨onCell_paused h, onCell_paused h, onCell_paused h, onCell_paused h⟩⟩
  all_goals
    repeat refine List.forall_mem_cons.2 ⟨onCell_paused h, ?_⟩
    exact List.forall_mem_nil _

end Sys2Proof.Machine
end

section
/-! The laws of a ring's refusals (R326, R372, R391, R438) and of its replies (R319, R323). -/

namespace Sys2Proof.Machine

/-! ### Refusals (R326, R372, R391, R438) -/

/-- Command `i` is taken from ring `r`, with the checks of its opcode. -/
def State.TakesFrom (s : State) (r : RingIx) (op : Nat) (states : List PartState) (bad : PendCmd → Option Nat) (i : Instr) : Prop :=
  ∃ f acc, exec i s = s.runCmd r op states bad f acc

/-- Settles O10: every command of the list is taken from its ring (`State.TakesFrom`), where a refusal is answered before
anything else happens. -/
theorem refusedCommandsChangeNothing : Obligations.RefusedCommandsChangeNothing := by
  intro s r c e data smp x hx h
  have htakes : s.TakesFrom r x.2.1 x.2.2.1 x.2.2.2 x.1 := by
    revert x
    dsimp only
    repeat refine List.forall_mem_cons.2 ⟨fun _ => by unfold State.TakesFrom exec; exact ⟨_, _, rfl⟩, ?_⟩
    exact List.forall_mem_nil _
  obtain ⟨f, acc, hexec⟩ := htakes
  exact hexec.trans (runCmd_refused h)

/-! ### Replies (R319, R323) -/

section

variable {s : State} {r : Nat} {c : PendCmd} {status detail : Nat} {data : List Byte}

/-- The ring once a command that runs there has finished: its reply waits, unless the ring was cleared meanwhile (R319). -/
def Ring.finished (r : Nat) (c : PendCmd) (status detail : Nat) (data : List Byte) (R : Ring) : Ring :=
  { R with
    running := R.running.erase c
    done := if c.mute then R.done else R.done ++ [replyOf r c status detail data] }

theorem reply_running (h : c ∈ (s.ring r).running) :
    s.reply r c status detail data = s.modRing r (Ring.finished r c status detail data) := by
  have hrun : (s.ring r).running.contains c = true := List.contains_iff_mem.2 h
  simp only [State.reply, if_pos hrun]
  refine modRing_congr ?_
  by_cases hs : status = 0 <;> by_cases hd : c.dataMax r < data.length <;> simp [Ring.finished, replyOf, hs, hd]

theorem reply_notRunning (h : c ∉ (s.ring r).running) : s.reply r c status detail data = s := by
  have hrun : ¬(s.ring r).running.contains c = true := fun hc => h (List.contains_iff_mem.1 hc)
  simp only [State.reply, if_neg hrun]

end

/-- Settles O13: by whether the command runs on the ring (`reply_running`, `reply_notRunning`). -/
theorem replyChangesItsRingAlone : Obligations.ReplyChangesItsRingAlone := by
  intro s r c status detail data hw t
  by_cases h : c ∈ (s.ring r).running
  · have ht : t = s.modRing r (Ring.finished r c status detail data) := reply_running h
    refine ⟨?_, fun q hq => ?_, fun _ => ?_, fun hn => absurd h hn⟩
    · rw [ht]; rfl
    · rw [ht, ring_modRing_ne hq]
    · rw [ht, ring_modRing hw, if_pos rfl]; rfl
  · have ht : t = s := reply_notRunning h
    exact ⟨by rw [ht], fun q _ => by rw [ht], fun hc => absurd hc h, fun _ => by rw [ht]⟩

end Sys2Proof.Machine
end

section
/-! The laws of messages and packets that come during a firmware switch (R369, R384): each is admitted and waits, or waits as it
is. -/

namespace Sys2Proof.Machine

variable {s : State} {p : PartIx} {c : Control} {i : Instr} {type key : Nat}

theorem reservedCtype_eq_false (h : 1 ≤ ctype c ∧ ctype c ≤ 5 ∨ 8 ≤ ctype c ∧ ctype c ≤ 12 ∨ 16 ≤ ctype c ∧ ctype c ≤ 28) :
    reservedCtype c = false := by
  simp only [reservedCtype, Bool.not_eq_false', Bool.or_eq_true, decide_eq_true_eq, or_assoc]
  exact h

/-- A control packet of a type that is not reserved, received during a firmware switch, waits with its own source. -/
theorem State.Receives.waits (hi : s.Receives p c type key i) (h : s.fw.stage = .starting) (ht : ctype c = type)
    (hr : 1 ≤ type ∧ type ≤ 5 ∨ 8 ≤ type ∧ type ≤ 12 ∨ 16 ≤ type ∧ type ≤ 28) :
    exec i s = .next (s.holdOver i .vc1 key) := by
  rw [hi.switch h (.inr ht), reservedCtype_eq_false (ht ▸ hr)]
  rfl

/-- A request for a seat is received at once during a firmware switch: no partition is woken for it then. -/
theorem seatRequest_receives (h : s.fw.stage = .starting) : s.Receives p c 0x14 39 (.seatRequest p c) :=
  ⟨_, _, if_neg fun hw => hw.2.1 h⟩

theorem memberToken_receives (h : bit (arg1 c) 0 = false) : s.Receives p c 8 999 (.memberToken p c) :=
  ⟨_, _, if_neg (Bool.eq_false_iff.1 h)⟩

theorem rowToken_receives {us : Nat} (h : bit (arg1 c) 0 = true) : s.Receives p c 8 999 (.rowToken p c us) :=
  ⟨_, _, if_neg (Bool.eq_false_iff.not_left.2 h)⟩

/-- Command `i` is a KMP message of a type (R337, R338). -/
def State.TakesMessage (s : State) (m : Kmp) (type : Nat) (i : Instr) : Prop := ∃ f, exec i s = s.takeKmp i m type f

/-- The commands that a KMP message may be, by its type (R338). -/
abbrev kmpInstrs (m : Kmp) : List (Nat × Instr) :=
  [(3, .controlRequest m), (5, .firmwarePiece m), (7, .networkConfiguration m), (8, .keyManagement m)]

/-- Settles O12: control packets by `State.Receives.waits`, other packets by `State.defers`, KMP messages by `State.takeKmp`. -/
theorem switchDefersMessages : Obligations.SwitchDefersMessages := by
  intro s p c pkt ecc us h
  refine ⟨?control, fun ht hb => ?member, fun ht hb => ?row, ?packets, fun m hopen hkept => ?messages⟩
  case control =>
    intro e he
    have hreceives : s.Receives p c e.1 e.2.1 e.2.2 := by
      revert e
      repeat refine List.forall_mem_cons.2 ⟨by unfold State.Receives exec; exact ⟨_, _, rfl⟩, ?_⟩
      refine List.forall_mem_cons.2 ⟨seatRequest_receives h, ?_⟩
      repeat refine List.forall_mem_cons.2 ⟨by unfold State.Receives exec; exact ⟨_, _, rfl⟩, ?_⟩
      exact List.forall_mem_nil _
    have htype : 1 ≤ e.1 ∧ e.1 ≤ 5 ∨ 8 ≤ e.1 ∧ e.1 ≤ 12 ∨ 16 ≤ e.1 ∧ e.1 ≤ 28 := by
      clear hreceives
      revert e
      simp
    exact fun ht => hreceives.waits h ht htype
  case member => exact (memberToken_receives hb).waits h ht (by decide)
  case row => exact (rowToken_receives hb).waits h ht (by decide)
  case packets =>
    repeat refine List.forall_mem_cons.2 ⟨defers_switch h, ?_⟩
    exact List.forall_mem_nil _
  case messages =>
    have hall : ∀ e ∈ kmpInstrs m, s.TakesMessage m e.1 e.2 := by
      repeat refine List.forall_mem_cons.2 ⟨by unfold State.TakesMessage exec; exact ⟨_, rfl⟩, ?_⟩
      exact List.forall_mem_nil _
    intro e he ht
    obtain ⟨f, hexec⟩ := hall e he
    exact hexec.trans (takeKmp_switch h hopen hkept ht)

end Sys2Proof.Machine
end

section
/-! The laws of the host port (R309-R318): what CXL.mem requests and snoop responses give, when the link comes up and what its
resets leave, and where a line of the data service goes. -/

namespace Sys2Proof.Machine

variable {s : State}

/-! ### CXL.mem requests (R311-R315) -/

section

variable {line : BitVec 30} {data : BitVec 512} {be : BitVec 64}

/-- Where a line lies that the HDM window answers for: nowhere before Memory_Active (R311-R313). -/
def State.hdmHome (s : State) (line : BitVec 30) : Option (Nat × Nat) := if s.memActive then s.lineHome line else none

theorem execHostMemRead_ignored (h : s.memLink = false ∨ s.lineWaits line = true) : execHostMemRead line s = .next s := if_pos h

theorem execHostMemWrite_ignored (h : s.memLink = false ∨ s.lineWaits line = true) :
    execHostMemWrite line data be s = .next s := if_pos h

section

variable (hl : s.memLink = true) (hw : s.lineWaits line = false)
include hl hw

theorem not_ignored : ¬(s.memLink = false ∨ s.lineWaits line = true) := by simp [hl, hw]

theorem execHostMemRead_poison (hh : s.hdmHome line = none) : execHostMemRead line s = .next (s.emit (.memData line 0 true)) := by
  unfold State.hdmHome at hh
  simp only [execHostMemRead, if_neg (not_ignored hl hw), hh]

theorem execHostMemWrite_discarded (hh : s.hdmHome line = none) :
    execHostMemWrite line data be s = .next (s.emit (.memDone line)) := by
  unfold State.hdmHome at hh
  simp only [execHostMemWrite, if_neg (not_ignored hl hw), hh]

theorem execHostMemRead_mapped {d a : Nat} (hh : s.hdmHome line = some (d, a)) : execHostMemRead line s =
    .next ((s.recordLine d a).emit (.memData line (bvOfBytes 512 (s.hbmView d a 64)) false)) := by
  unfold State.hdmHome at hh
  simp only [execHostMemRead, if_neg (not_ignored hl hw), hh]

/-- A write to a mapped line stores its enabled bytes, where the region lets the host write (R314). -/
theorem execHostMemWrite_mapped {d a : Nat} (hh : s.hdmHome line = some (d, a)) : execHostMemWrite line data be s =
    if s.hostMay d a ∧ be ≠ 0 then
      .next ((s.storeHbm d a (mergeBytes be (s.readHbm d a 64) (bytesOfBv 64 data))).emit (.memDone line))
    else .next (s.emit (.memDone line)) := by
  unfold State.hdmHome at hh
  simp only [execHostMemWrite, if_neg (not_ignored hl hw), hh]

end

theorem memActive_eq_false (h : s.power.memAct = false) : s.memActive = false := by simp [State.memActive, h]

theorem hdmHome_eq_none (h : s.power.memAct = false) : s.hdmHome line = none :=
  if_neg (Bool.eq_false_iff.1 (memActive_eq_false h))

/-- Before Memory_Active a request waits for no die, so that it waits for a remap alone. -/
theorem lineWaits_inactive (h : s.power.memAct = false) (hr : s.cxl.remap = []) : s.lineWaits line = false := by
  simp only [State.lineWaits, hr, List.any_nil, Bool.false_or, memActive_eq_false h, Bool.false_and]
  split
  · rfl
  · rfl

/-- Settles O17: before Memory_Active a request waits for nothing (`lineWaits_inactive`) and finds no memory
(`hdmHome_eq_none`). -/
theorem requestsBeforeMemoryActive : Obligations.RequestsBeforeMemoryActive := fun _ _ _ _ hl hm hr =>
  ⟨execHostMemRead_poison hl (lineWaits_inactive hm hr) (hdmHome_eq_none hm),
    execHostMemWrite_discarded hl (lineWaits_inactive hm hr) (hdmHome_eq_none hm)⟩

end

/-! ### Snoop responses (R315) -/

/-- What an answered snoop leaves of the CXL port, by what the snoop filter records of the line (R315). -/
def Cxl.answered (x : Cxl) (e : Nat × Nat × Bool) : Cxl :=
  let line := (e.1, e.2.1)
  { x with
    bisnp := x.bisnp.erase e
    snoop := if e.2.2 then x.snoop.erase line else x.snoop
    shared := if e.2.2 then x.shared.erase line else if x.snoop.contains line then x.shared ++ [line] else x.shared }

theorem execBisnpResponse_answers {d : DieIx} {line : Nat} {inv : Bool}
    (h : s.cxl.bisnp.find? (fun e => decide (e.1 = d.val ∧ e.2.1 = line)) = some (d.val, line, inv)) :
    execBisnpResponse d line s = .next (State.finishRemaps { s with cxl := s.cxl.answered (d.val, line, inv) }) := by
  simp only [execBisnpResponse, h]
  rfl

theorem answered_shared {x : Cxl} {d line : Nat} (h : (d, line) ∈ x.snoop) : x.answered (d, line, false) =
    { x with bisnp := x.bisnp.erase (d, line, false), shared := x.shared ++ [(d, line)] } := by
  simp [Cxl.answered, h]

theorem answered_unrecorded {x : Cxl} {d line : Nat} (h : (d, line) ∉ x.snoop) : x.answered (d, line, false) =
    { x with bisnp := x.bisnp.erase (d, line, false) } := by
  simp [Cxl.answered, h]

/-! ### The link (R309-R311, R318) -/

section

variable {w r : Fin 8}

/-- A link may come up: none is up, the device has power beyond the mask ROM's start, PERST# is released and the balls are
not disconnected (R310, R311, R355). -/
abbrev State.linkFree (s : State) : Prop :=
  s.cxl.width = 0 ∧ s.power.on = true ∧ s.power.perstN = true ∧ 4 ≤ s.power.order ∧ s.sec.tap ≠ .extest

theorem execCxlLinkUp_free (h : s.linkFree) (flit256 : Bool) : execCxlLinkUp w r flit256 s =
    if flit256 = false then .next { s with cxl := { s.cxl with failed := true } }
    else if [1, 2, 4].contains w.val ∧ 1 ≤ r.val ∧ r.val ≤ 3 then
      .next (State.assertShared { s with cxl := { s.cxl with width := w, rate := r, failed := false } } 40)
    else .next s := by
  obtain ⟨hw, hon, hperst, hord, htap⟩ := h
  refine if_neg ?_
  simp [hw, hon, hperst, htap, Nat.not_lt.2 hord]

theorem execCxlLinkUp_busy (h : ¬s.linkFree) (flit256 : Bool) : execCxlLinkUp w r flit256 s = .next s := by
  refine if_pos ?_
  by_contra hn
  simp only [not_or, not_not, Bool.not_eq_false, Nat.not_lt, ne_eq] at hn
  exact h hn

end

/-! ### The data service (R311, R315, R317) -/

section

variable {p : PartIx} {i : Fin 256} {off : Nat} {data : BitVec 512} {j : SvcJob}

/-- The input entry that a line of the data service belongs to (R317). -/
abbrev State.inputEntry (s : State) (p : PartIx) (i : Fin 256) : BitVec 256 := (s.part p).image.inputs.getD i 0

/-- A line of the data service that has a place in its entry, while the device may read host memory (R311, R317). -/
abbrev State.mayPlace (s : State) (p : PartIx) (i : Fin 256) (off : Nat) : Prop :=
  s.cacheOk = true ∧ bit (s.inputEntry p i) 2 = true ∧ off % 64 = 0 ∧ off < inputLen (s.inputEntry p i)

/-- The job that a line is for, the oldest that wants it, changed. -/
def State.modJob (s : State) (p : PartIx) (i : Fin 256) (off : Nat) (g : SvcJob → SvcJob) : State :=
  s.modPart p fun P => { P with period := { P.period with svc := updFirst (SvcJob.wants i (off / 64)) g P.period.svc } }

/-- One more poisoned answer for a line of a job, which the ninth stops (R317). -/
def SvcJob.retried (i : Fin 256) (off : Nat) (n : Nat) (j : SvcJob) : SvcJob :=
  { j with retries := put 0 j.retries (svcKey i off) (n + 1), stopped := decide (8 ≤ n) }

/-- A job with a line in place (R317). -/
def SvcJob.placed (i : Fin 256) (off : Nat) (data : BitVec 512) (j : SvcJob) : SvcJob :=
  { j with got := put [] j.got i (insNat (off / 64) (look [] j.got i)), data := writeBytes j.data (svcKey i off) (bytesOfBv 64 data) }

/-- The write of a line of the data service to its place (R317). -/
abbrev State.lineAccess (s : State) (p : PartIx) (i : Fin 256) (off : Nat) (j : SvcJob) : List (Nat × Nat × Nat × Bool) :=
  [(fldN (s.inputEntry p i) 0 2, inputDest (s.inputEntry p i) j.step + off, 64, true)]

/-- What a line in its place leaves: its bytes, its job, and the signals of an entry that is whole (R317). -/
def State.placeLine (s : State) (p : PartIx) (i : Fin 256) (off : Nat) (data : BitVec 512) (j : SvcJob) : State :=
  let P := s.part p
  let e := s.inputEntry p i
  let j1 := j.placed i off data
  let j2 := P.seal j1
  let s1 := (s.writeHbm (fldN e 0 2) (inputDest e j.step + off) (bytesOfBv 64 data)).modJob p i off fun _ => j2
  let s2 := if j1.entryDone e i = true ∧ P.period.isOpen = true ∧ P.period.step = j.step then s1.signalInputs p [i] else s1
  if j2.digest.isSome then (s2.assertAt 2 10).compareManifest p j2 else s2

theorem mayPlace_iff : s.mayPlace p i off ↔ ¬(s.cacheOk = false ∨ bit (s.inputEntry p i) 2 = false ∨ off % 64 ≠ 0 ∨
    inputLen (s.inputEntry p i) ≤ off) := by
  simp only [State.mayPlace, not_or, Bool.not_eq_false, not_not, Nat.not_le, ne_eq]

theorem execDataServiceLine_ignored (h : ¬s.mayPlace p i off ∨ (s.part p).period.svc.find? (SvcJob.wants i (off / 64)) = none)
    (poison : Bool) : execDataServiceLine p i off data poison s = .next s := by
  by_cases hm : s.mayPlace p i off
  · simp only [execDataServiceLine, if_neg (mayPlace_iff.1 hm), h.resolve_left (not_not.2 hm)]
  · exact if_pos (not_not.1 fun hn => hm (mayPlace_iff.2 hn))

section

variable (hm : s.mayPlace p i off) (hj : (s.part p).period.svc.find? (SvcJob.wants i (off / 64)) = some j)
include hm hj

/-- A poisoned line is asked for again, eight times at most (R317). -/
theorem execDataServiceLine_poisoned : execDataServiceLine p i off data true s =
    (let n := look 0 j.retries (svcKey i off)
     let t := s.modJob p i off (SvcJob.retried i off n)
     .next (if 8 ≤ n then t else t.emit (.rdCurr (inputSrc (s.inputEntry p i) j.step + BitVec.ofNat 64 off) 64 []))) := by
  simp only [execDataServiceLine, if_neg (mayPlace_iff.1 hm), hj]
  rfl

theorem execDataServiceLine_placed : execDataServiceLine p i off data false s =
    s.afterSnoops (s.lineAccess p i off j) (.next (s.placeLine p i off data j)) := by
  simp only [execDataServiceLine, if_neg (mayPlace_iff.1 hm), hj]
  rfl

end

end

/-! ### The statement -/

/-- Settles O54: CXL.mem by where the line lies (`State.hdmHome`), a snoop response by what it was for
(`execBisnpResponse_answers`), the link by whether one may come up (`State.linkFree`), and a line of the data service by its
job and by what the snoop filter records of its place (`execDataServiceLine_placed`). -/
theorem hostPortCompletes : Obligations.HostPortCompletes := by
  refine ⟨⟨?mem, fun s line data be h => ⟨execHostMemRead_ignored h, execHostMemWrite_ignored h⟩, ?snoop⟩, ?linkUp, ?reset, ?down,
    ?service⟩
  case mem =>
    intro s line data be hl hw home
    refine ⟨fun hh => ⟨execHostMemRead_poison hl hw hh, execHostMemWrite_discarded hl hw hh⟩, fun d a hh =>
      ⟨execHostMemRead_mapped hl hw hh, fun hmay hbe => ?_, fun hno => ?_⟩⟩
    · exact (execHostMemWrite_mapped hl hw hh).trans (if_pos ⟨hmay, hbe⟩)
    · refine (execHostMemWrite_mapped hl hw hh).trans (if_neg fun hw => ?_)
      exact hno.elim (Bool.eq_false_iff.not_left.2 hw.1) hw.2
  case snoop =>
    intro s d line inv h left
    refine ⟨fun hi => ?_, fun hi hrec => ?_, fun hi hrec => ?_⟩ <;> subst hi
    · exact execBisnpResponse_answers h
    · exact (execBisnpResponse_answers h).trans (by rw [answered_shared hrec])
    · exact (execBisnpResponse_answers h).trans (by rw [answered_unrecorded hrec])
  case linkUp =>
    intro s w r free named
    have hnamed : ([1, 2, 4].contains w.val ∧ 1 ≤ r.val ∧ r.val ≤ 3) ↔ named := by simp [named]
    refine ⟨fun hf => (execCxlLinkUp_free hf _).trans (if_pos rfl), fun hf hn => ?_, fun hf hn => ?_, execCxlLinkUp_busy⟩
    · exact (execCxlLinkUp_free hf _).trans (if_pos (hnamed.2 hn))
    · exact (execCxlLinkUp_free hf _).trans (if_neg (mt hnamed.1 hn))
  case reset =>
    intro s hw
    exact ⟨if_neg hw, if_neg hw, if_neg hw, if_neg hw, fun hk => if_neg (not_or.2 ⟨hw, hk⟩), fun hk => if_pos (.inr hk),
      fun hv hu a => if_pos ⟨hw, hv, hu⟩⟩
  case down =>
    intro s hw
    exact ⟨fun k => if_pos hw, if_pos hw, if_pos (.inl hw), fun a => if_neg fun h => h.1 hw⟩
  case service =>
    intro s p i off data P e wants key set may
    refine ⟨fun j hm hj => ⟨fun hn => ?_, fun hn => ?_⟩, fun j hm hj => ⟨fun hu => ?_, fun hu => ?_⟩,
      execDataServiceLine_ignored⟩
    · exact (execDataServiceLine_poisoned hm hj).trans (congrArg Host.Outcome.next (if_pos hn))
    · exact (execDataServiceLine_poisoned hm hj).trans (congrArg Host.Outcome.next (if_neg (Nat.not_le.2 hn)))
    · exact (execDataServiceLine_placed hm hj).trans (afterSnoops_snooped hu)
    · exact (execDataServiceLine_placed hm hj).trans (afterSnoops_free hu)

end Sys2Proof.Machine
end

section
/-! The law of FW_BLOCK (R361, R363, R365): a block is refused, its read fails, or its bytes are staged; and what staging
leaves in the bitmap and in the staging area. -/

namespace Sys2Proof.Machine

variable {s : State} {r : RingIx} {c : PendCmd}

/-! ### A block that is not staged -/

theorem refusedPiece_apartFromRings : ApartFromRings State.refusedPiece := fun _ _ => rfl

theorem blockOk_iff {length off n : Nat} : blockOk length off n = true ↔
    0 < n ∧ (off + n = length ∨ n % 1024 = 0 ∧ n ≤ 0x400000 ∧ off + n ≤ length) := by
  simp [blockOk, and_assoc]

/-- A command that starts does what its meaning says; without accesses of the host to wait for. -/
theorem runCmd_does {op : Nat} {states : List PartState} {bad : PendCmd → Option Nat} {f : PendCmd → State → State}
    (h : s.Starts r op states bad c) : s.runCmd r op states bad f = .next (f c (s.started r c)) :=
  runCmd_starts h fun _ he => absurd he List.not_mem_nil

/-- A block that is not of the session being staged: none is open, it is past STATE 1, or its image is another. -/
theorem execFwBlock_otherSession {data : HostData} (h : s.Starts r 0x0502 anyState noParams c) :
    (s.fw.state = 0 → execFwBlock r data s = .next (s.refusedPiece.answered r c 0x0501 0 [])) ∧
    (s.fw.state ≠ 0 → s.fw.state ≠ 1 → execFwBlock r data s = .next (s.refusedPiece.answered r c 0x0504 s.fw.state [])) ∧
    (s.fw.state = 1 → s.fw.imageId.toNat ≠ c.par 128 64 →
      execFwBlock r data s = .next (s.refusedPiece.answered r c 0x0502 (s.fw.imageId.toNat % 2 ^ 32) [])) := by
  refine ⟨fun h0 => ?_, fun h0 h1 => ?_, fun h1 hid => ?_⟩
  all_goals refine runCmd_answers h refusedPiece_apartFromRings ?_; simp [*]

/-- A block of the session being staged that is out of place, or of a wrong size, or whose read fails. -/
theorem execFwBlock_outOfPlace {data : HostData} (h : s.Starts r 0x0502 anyState noParams c)
    (h1 : s.fw.state = 1) (hid : s.fw.imageId.toNat = c.par 128 64) :
    (c.par 64 32 % 1024 ≠ 0 ∨ s.fw.length ≤ c.par 64 32 →
      execFwBlock r data s = .next (s.refusedPiece.answered r c 0x0503 (c.par 64 32) [])) ∧
    (c.par 64 32 % 1024 = 0 → c.par 64 32 < s.fw.length → blockOk s.fw.length (c.par 64 32) (c.par 96 32) = false →
      execFwBlock r data s = .next (s.refusedPiece.answered r c 0x0106 96 [])) ∧
    (∀ k, c.par 64 32 % 1024 = 0 → c.par 64 32 < s.fw.length → blockOk s.fw.length (c.par 64 32) (c.par 96 32) = true →
      data.failAt = some k → execFwBlock r data s = .next (s.answered r c 0x0301 k [])) := by
  refine ⟨fun hoff => ?_, fun h0 hlt hbad => ?_, fun k h0 hlt hok hfail => ?_⟩
  · exact runCmd_answers h refusedPiece_apartFromRings (by simp [h1, hid, hoff])
  · exact runCmd_answers h refusedPiece_apartFromRings (by simp [h1, hid, h0, hlt, hbad])
  · exact runCmd_answers h .id (by simp [h1, hid, h0, hlt, hok, hfail])

/-- A block of the session being staged, whole and in its place. -/
theorem execFwBlock_stages {data : HostData} (h : s.Starts r 0x0502 anyState noParams c)
    (h1 : s.fw.state = 1) (hid : s.fw.imageId.toNat = c.par 128 64) (h0 : c.par 64 32 % 1024 = 0)
    (hlt : c.par 64 32 < s.fw.length) (hok : blockOk s.fw.length (c.par 64 32) (c.par 96 32) = true)
    (hread : data.failAt = none) :
    execFwBlock r data s = .next (((s.started r c).stage 0 (c.par 64 32)
      ((data.bytes ++ List.replicate (c.par 96 32) 0).take (c.par 96 32))).reply r c 0 0 []) :=
  (runCmd_does h).trans (by simp [h1, hid, h0, hlt, hok, hread, State.ok])

/-! ### What staging leaves -/

theorem mem_insNat {x y : Nat} {l : List Nat} : y ∈ insNat x l ↔ y = x ∨ y ∈ l := by
  induction l with
  | nil => simp [insNat]
  | cons z l ih =>
    rw [insNat]
    split
    case isTrue hx => simp [hx]
    case isFalse =>
      split
      · simp
      · simp only [List.mem_cons, ih]; exact or_left_comm

theorem mem_foldl_insNat {y : Nat} {xs l : List Nat} : y ∈ xs.foldl (fun l i => insNat i l) l ↔ y ∈ l ∨ y ∈ xs := by
  induction xs generalizing l with
  | nil => simp
  | cons x xs ih => simp only [List.foldl_cons, ih, mem_insNat, List.mem_cons, or_comm (a := y = x), or_assoc]

@[simp] theorem assertShared_fw (s : State) (src : Nat) : (s.assertShared src).fw = s.fw := rfl

theorem stage_pieces (s : State) (path off : Nat) (bs : List Byte) : (s.stage path off bs).fw.pieces =
    ((List.range (pieceCount bs.length)).map (off / 1024 + ·)).foldl (fun l i => insNat i l) s.fw.pieces := rfl

theorem stage_staging (s : State) (path off : Nat) (bs : List Byte) :
    (s.stage path off bs).fw.staging = writeBytes s.fw.staging off bs := rfl

/-- R365: a block that begins at a piece sets the bits of the pieces that it covers. -/
theorem mem_stage_pieces {path off : Nat} {bs : List Byte} (hoff : off % 1024 = 0) (k : Nat) :
    k ∈ (s.stage path off bs).fw.pieces ↔ k ∈ s.fw.pieces ∨ off ≤ 1024 * k ∧ 1024 * k < off + bs.length := by
  have hcover : (∃ i < pieceCount bs.length, off / 1024 + i = k) ↔ off ≤ 1024 * k ∧ 1024 * k < off + bs.length := by
    unfold pieceCount
    refine ⟨fun ⟨i, hi, hk⟩ => by omega, fun hk => ⟨k - off / 1024, by omega, by omega⟩⟩
  rw [stage_pieces, mem_foldl_insNat, ← hcover]
  simp

/-! ### The statement -/

/-- Settles O18: each refusal is a branch of FW_BLOCK answered by `runCmd_answers`; what is staged is `mem_stage_pieces`
and the law of bytes written. -/
theorem firmwareBlocksComplete : Obligations.FirmwareBlocksComplete := by
  unfold Obligations.FirmwareBlocksComplete
  refine ⟨fun s r c data h => ?commands, fun s off bs hoff hwf => ⟨mem_stage_pieces hoff, ?inside, ?outside⟩⟩
  case commands =>
    simp only [← blockOk_iff, Bool.not_eq_true]
    obtain ⟨hnone, hlate, hother⟩ := execFwBlock_otherSession (data := data) h
    refine ⟨hnone, hlate, hother, ?_, ?_, ?_, ?_⟩
    · exact fun h1 hid => (execFwBlock_outOfPlace h h1 hid).1
    · exact fun h1 hid => (execFwBlock_outOfPlace h h1 hid).2.1
    · exact fun h1 hid h0 hlt hok k => (execFwBlock_outOfPlace h h1 hid).2.2 k h0 hlt hok
    · exact fun h1 hid h0 hlt hok => execFwBlock_stages h h1 hid h0 hlt hok
  case inside =>
    intro i hi
    rw [stage_staging, look_writeBytes_in hwf i hi]
  case outside =>
    intro x hx
    rw [stage_staging, look_writeBytes_out hx]

end Sys2Proof.Machine
end

section
/-! The law of the firmware commands (R361, R362, R366-R368, R372, R373): FW_BEGIN, FW_STATUS, FW_DISCARD, FW_ACTIVATE
and FW_FUSE change the firmware's record alone, except where FW_ACTIVATE starts the device anew. -/

namespace Sys2Proof.Machine

variable {s : State} {r : RingIx} {c : PendCmd}

/-- The firmware's record changed, and nothing else. -/
def State.withFw (F : State → Firmware) (s : State) : State := { s with fw := F s }

theorem withFw_apartFromRings {F : State → Firmware} (hF : ∀ (s : State) (x : SMap Ring), F { s with rings := x } = F s) :
    ApartFromRings (State.withFw F) := fun s x => by rw [State.withFw, State.withFw, hF]

/-! ### FW_BEGIN and FW_DISCARD -/

/-- A session with nothing staged (R362). -/
def Firmware.opens (c : PendCmd) (f : Firmware) : Firmware :=
  { f with staging := [], pieces := [], state := 1, kind := BitVec.ofNat 4 (c.par 0 4), paths := 0, length := c.par 32 32
           imageId := BitVec.ofNat 64 (c.par 64 64), opened := c.num }

theorem execFwBegin_switching (h : s.Starts r 0x0501 anyState badFwBegin c) (h4 : s.fw.state = 4) :
    execFwBegin r s = .next (s.answered r c 0x0504 4 []) :=
  runCmd_answers h .id (by simp [h4])

theorem execFwBegin_resumes (h : s.Starts r 0x0501 anyState badFwBegin c) (h1 : 1 ≤ s.fw.state) (h3 : s.fw.state ≤ 3)
    (hlen : s.fw.length = c.par 32 32) (hid : s.fw.imageId.toNat = c.par 64 64) :
    execFwBegin r s = .next (s.answered r c 0 0 []) := by
  have h4 : s.fw.state ≠ 4 := by omega
  exact runCmd_answers h .id (by simp [h4, h1, h3, hlen, hid, State.ok])

/-- The states of a session's record (R361) that FW_BEGIN does not go on with. -/
theorem execFwBegin_opens (h : s.Starts r 0x0501 anyState badFwBegin c) (h4 : s.fw.state ≠ 4)
    (hnew : s.fw.state = 0 ∨ s.fw.state = 5 ∨ s.fw.length ≠ c.par 32 32 ∨ s.fw.imageId.toNat ≠ c.par 64 64) :
    execFwBegin r s = .next ((s.withFw fun t => t.fw.opens c).answered r c 0 0 []) := by
  have hother : ¬(1 ≤ s.fw.state ∧ s.fw.state ≤ 3 ∧ s.fw.length = c.par 32 32 ∧ s.fw.imageId.toNat = c.par 64 64) := by
    omega
  exact runCmd_answers h (withFw_apartFromRings fun _ _ => rfl) (by exact (if_neg h4).trans (if_neg hother))

theorem execFwDiscard_switching (h : s.Starts r 0x0505 anyState noParams c) (h4 : s.fw.state = 4) :
    execFwDiscard r s = .next (s.answered r c 0x0504 4 []) :=
  runCmd_answers h .id (by simp [h4])

theorem execFwDiscard_ends (h : s.Starts r 0x0505 anyState noParams c) (h4 : s.fw.state ≠ 4) :
    execFwDiscard r s = .next ((s.withFw fun t => t.fw.endSession).answered r c 0 0 []) :=
  runCmd_answers h (withFw_apartFromRings fun _ _ => rfl) (by exact if_neg h4)

/-! ### FW_ACTIVATE -/

theorem execFwActivate_refused (h : s.Starts r 0x0504 anyState badFwActivate c) :
    (s.fw.state = 0 → execFwActivate r s = .next (s.answered r c 0x0501 0 [])) ∧
    (s.fw.state ≠ 0 → s.fw.state ≠ 3 → execFwActivate r s = .next (s.answered r c 0x0504 s.fw.state [])) :=
  ⟨fun h0 => runCmd_answers h .id (by simp [h0]), fun h0 h3 => runCmd_answers h .id (by simp [h0, h3])⟩

/-- R372: in recovery mode the command is answered, the others are cut off, and the image is written. -/
theorem execFwActivate_recovery (h : s.Starts r 0x0504 anyState badFwActivate c) (h3 : s.fw.state = 3)
    (hrec : s.power.state = .recovery) : execFwActivate r s = .next
      (let t := (s.answered r c 0 0 []).endAll 0x0401 1
       State.coldReset { t with fw :=
         { (s.fw.writeSlot s.fw.stagedBytes).endSession with startFailed := false, switchFlag := false } }) := by
  rw [execFwActivate, runCmd_does h]
  simp only [started_fw, started_power, h3, hrec, State.ok, reply_started h, if_true, OfNat.ofNat_ne_zero, if_false,
    not_true, ne_eq]

/-- R368: the staged image waits for a boundary. -/
theorem execFwActivate_waits (h : s.Starts r 0x0504 anyState badFwActivate c) (h3 : s.fw.state = 3)
    (hrec : s.power.state ≠ .recovery) : execFwActivate r s = .next { s.started r c with fw := { s.fw with
        state := 4, stage := .waitingBoundary, window := if c.par 0 16 = 0 then 60 else c.par 0 16 } } := by
  rw [execFwActivate, runCmd_does h]
  simp only [started_fw, started_power, h3, hrec, OfNat.ofNat_ne_zero, if_false, not_true, ne_eq]

/-! ### FW_FUSE -/

theorem execFwFuse_wrongKey (h : s.Starts r 0x0506 anyState badFwFuse c) (hkey : c.par 32 32 ≠ 0x45535546) :
    execFwFuse r s = .next (s.answered r c 0x050B 1 []) :=
  runCmd_answers h .id (by exact if_pos hkey)

/-- R373: the SVN floor rises to the running firmware's. -/
theorem execFwFuse_svn (h : s.Starts r 0x0506 anyState badFwFuse c) (hkey : c.par 32 32 = 0x45535546)
    (hsvn : c.par 0 4 = 1) :
    (s.runningSvn ≤ s.fw.svnFloor → execFwFuse r s = .next (s.answered r c 0x050B 2 [])) ∧
    (s.fw.svnFloor < s.runningSvn → s.sec.unlocked = true → execFwFuse r s = .next (s.answered r c 0x050B 3 [])) ∧
    (s.fw.svnFloor < s.runningSvn → s.sec.unlocked = false → execFwFuse r s =
      .next ((s.withFw fun t => { t.fw with svnFloor := t.runningSvn }).answered r c 0 0 [])) := by
  have hrun : (s.started r c).runningSvn = s.runningSvn := rfl
  refine ⟨fun hle => ?_, fun hlt hun => ?_, fun hlt hun => ?_⟩
  · exact runCmd_answers h .id (by simp [hkey, hsvn, hrun, hle])
  · exact runCmd_answers h .id (by simp [hkey, hsvn, hrun, BitVec.not_le.2 hlt, hun])
  · refine runCmd_answers h (withFw_apartFromRings fun _ _ => rfl) ?_
    simp [hkey, hsvn, hrun, BitVec.not_le.2 hlt, hun, State.ok, State.withFw]

/-- R373: the debug-disable fuse is blown. -/
theorem execFwFuse_debug (h : s.Starts r 0x0506 anyState badFwFuse c) (hkey : c.par 32 32 = 0x45535546)
    (hdebug : c.par 0 4 = 2) :
    (s.fw.debugFuse = true → execFwFuse r s = .next (s.answered r c 0x050B 2 [])) ∧
    (s.fw.debugFuse = false → s.sec.unlocked = false → execFwFuse r s =
      .next ((s.withFw fun t => { t.fw with debugFuse := true }).answered r c 0 0 [])) := by
  refine ⟨fun hblown => ?_, fun hintact hun => ?_⟩
  · exact runCmd_answers h .id (by simp [hkey, hdebug, hblown])
  · refine runCmd_answers h (withFw_apartFromRings fun _ _ => rfl) ?_
    simp [hkey, hdebug, hintact, hun, State.ok, State.withFw]

/-! ### The statement -/

/-- Settles O24: each clause is one branch of its command. -/
theorem firmwareCommandsComplete : Obligations.FirmwareCommandsComplete := by
  unfold Obligations.FirmwareCommandsComplete
  refine ⟨⟨?begin, ?status, ?discard⟩, ?activate, ?fuse⟩
  case begin =>
    exact fun s r c h => ⟨execFwBegin_switching h, execFwBegin_resumes h, execFwBegin_opens h⟩
  case status => exact fun s r c h => (runCmd_answers h .id (by rfl) : execFwStatus r s = _)
  case discard => exact fun s r c h => ⟨execFwDiscard_switching h, execFwDiscard_ends h⟩
  case activate =>
    intro s r c h
    obtain ⟨hnone, hbusy⟩ := execFwActivate_refused h
    exact ⟨hnone, hbusy, execFwActivate_recovery h, execFwActivate_waits h⟩
  case fuse =>
    intro s r c h
    refine ⟨execFwFuse_wrongKey h, ?_, ?_, ?_, ?_, ?_⟩
    · exact fun hkey hsvn => (execFwFuse_svn h hkey hsvn).1
    · exact fun hkey hdebug => (execFwFuse_debug h hkey hdebug).1
    · exact fun hkey hsvn => (execFwFuse_svn h hkey hsvn).2.1
    · exact fun hkey hsvn => (execFwFuse_svn h hkey hsvn).2.2
    · exact fun hkey hdebug => (execFwFuse_debug h hkey hdebug).2

end Sys2Proof.Machine
end

section
/-! The law of the power commands (R391, R393, R394, R398, R406, R408): each is refused and changes nothing, or changes the
benches, the dies or the power record, apart from the rings. -/

namespace Sys2Proof.Machine

variable {s : State} {r : RingIx} {c : PendCmd}

/-! ### Updates of the benches are apart from the rings -/

theorem modBench_apartFromRings (k : Nat) (f : Bench → Bench) : ApartFromRings (·.modBench k f) := fun _ _ => rfl

/-- The benches of a mask on a die changed (R406). -/
def State.modBenchMask (c : PendCmd) (f : Bench → Bench) (s : State) : State :=
  (List.range 24).foldl (fun u b => if c.par (32 + b) 1 = 1 then u.modBench (24 * c.par 0 2 + b) f else u) s

theorem modBenchMask_apartFromRings (c : PendCmd) (f : Bench → Bench) : ApartFromRings (State.modBenchMask c f) :=
  .foldl (fun _ => .ite _ (modBench_apartFromRings _ _) .id) _

/-! ### BENCH_STATE -/

/-- A partition that is Starting or Running keeps its benches and its dies awake (R393). -/
def PartState.busy (x : PartState) : Prop := x = .running ∨ x = .starting

/-- The operand asks to go up, or the partition is not busy. -/
theorem not_downWhileBusy {x : PartState} {n : Nat} (h : n = 0 ∨ ¬x.busy) : ¬(n = 1 ∧ x.busy) :=
  fun ⟨hdown, hbusy⟩ => h.elim (by omega) (absurd hbusy)

theorem execBenchState_refused (h : s.Starts r 0x0603 anyState (fun c => lowest [c.rsv 3 29, c.rsv 56 8]) c) :
    (bit (s.part c.part).dies (c.par 0 2) = false → execBenchState r s = .next (s.answered r c 0x0107 2 [])) ∧
    (bit (s.part c.part).dies (c.par 0 2) = true → c.par 2 1 = 1 → (s.part c.part).state.busy →
      execBenchState r s = .next (s.answered r c 0x0601 1 [])) ∧
    (bit (s.part c.part).dies (c.par 0 2) = true → (c.par 2 1 = 0 ∨ ¬(s.part c.part).state.busy) → s.power.standby = true →
      execBenchState r s = .next (s.answered r c 0x0601 4 [])) := by
  refine ⟨fun hdie => ?_, fun hdie hdown hbusy => ?_, fun hdie hfree hstandby => ?_⟩
  · exact runCmd_answers h .id (by exact if_pos hdie)
  · unfold PartState.busy at hbusy
    exact runCmd_answers h .id (by simp [hdie, hdown, hbusy])
  · have hfree := not_downWhileBusy hfree
    unfold PartState.busy at hfree
    exact runCmd_answers h .id (by simp [hdie, hfree, hstandby])

/-- The benches of the mask enter Recess, or leave it. -/
theorem execBenchState_sets (h : s.Starts r 0x0603 anyState (fun c => lowest [c.rsv 3 29, c.rsv 56 8]) c)
    (hdie : bit (s.part c.part).dies (c.par 0 2) = true) (hstandby : s.power.standby = false) :
    (c.par 2 1 = 1 → ¬(s.part c.part).state.busy →
      execBenchState r s = .next ((s.modBenchMask c Bench.toRecess).answered r c 0 0 [])) ∧
    (c.par 2 1 = 0 → execBenchState r s = .next ((s.modBenchMask c Bench.toActive).answered r c 0 0 [])) := by
  refine ⟨fun hdown hbusy => ?_, fun hup => ?_⟩
  · unfold PartState.busy at hbusy
    exact runCmd_answers h (modBenchMask_apartFromRings c _) (by simp [hdie, hstandby, hdown, hbusy, State.modBenchMask, State.ok])
  · exact runCmd_answers h (modBenchMask_apartFromRings c _) (by simp [hdie, hstandby, hup, State.modBenchMask, State.ok])

/-! ### DIE_STATE -/

theorem execDieState_refused (h : s.Starts r 0x0604 anyState (fun c => c.rsv 1 31) c) :
    (c.par 0 1 = 1 → (s.part c.part).state.busy → execDieState r s = .next (s.answered r c 0x0601 2 [])) ∧
    (¬(s.part c.part).state.busy ∨ c.par 0 1 = 0 → s.power.standby = true →
      execDieState r s = .next (s.answered r c 0x0601 4 [])) := by
  refine ⟨fun hdown hbusy => ?_, fun hfree hstandby => ?_⟩
  · unfold PartState.busy at hbusy
    exact runCmd_answers h .id (by simp [hdown, hbusy])
  · have hfree := not_downWhileBusy hfree.symm
    unfold PartState.busy at hfree
    exact runCmd_answers h .id (by simp [hfree, hstandby])

/-- Every die of the partition is asked to sleep or to wake. -/
theorem execDieState_asks (h : s.Starts r 0x0604 anyState (fun c => c.rsv 1 31) c)
    (hfree : ¬(s.part c.part).state.busy ∨ c.par 0 1 = 0) (hstandby : s.power.standby = false) :
    execDieState r s = .next ((s.part c.part).dieList.foldl (fun (u : State) d =>
      u.modDie d (if c.par 0 1 = 1 then Die.sleep else Die.wake)) (s.started r c)).finishPower := by
  have hfree := not_downWhileBusy hfree.symm
  unfold PartState.busy at hfree
  exact (runCmd_does h).trans (by simp [hfree, hstandby])

/-! ### DEVICE_STANDBY and POWER_CAP -/

/-- Every partition Empty and every port Off (R391). -/
theorem idle_iff : (((List.range 4).all fun p => decide ((s.part p).state = .empty)) &&
      (List.range 4).all fun i => decide ((s.port i).state = .off)) = true ↔
    (∀ p < 4, (s.part p).state = .empty) ∧ ∀ i < 4, (s.port i).state = .off := by
  simp only [Bool.and_eq_true, List.all_eq_true, List.mem_range, decide_eq_true_eq]

theorem enterStandby_apartFromRings : ApartFromRings State.enterStandby := fun _ _ => rfl

theorem execDeviceStandby_enters (h : s.Starts r 0x0605 anyState (fun c => c.rsv 1 31) c) (hdown : c.par 0 1 = 1) :
    (s.power.standby = true → execDeviceStandby r s = .next (s.answered r c 0 0 [])) ∧
    (s.power.standby = false → (∀ p < 4, (s.part p).state = .empty) → (∀ i < 4, (s.port i).state = .off) →
      execDeviceStandby r s = .next ((s.started r c).enterStandby.reply r c 0 0 [])) ∧
    (s.power.standby = false → ((∃ p < 4, (s.part p).state ≠ .empty) ∨ ∃ i < 4, (s.port i).state ≠ .off) →
      execDeviceStandby r s = .next (s.answered r c 0x0601 3 [])) := by
  refine ⟨fun hin => ?_, fun hout hparts hports => ?_, fun hout hwhich => ?_⟩
  · exact runCmd_answers h .id (by simp [hdown, hin, State.ok])
  · have hidle := (idle_iff (s := s.started r c)).2 ⟨hparts, hports⟩
    exact (runCmd_does h).trans (by simp only [hidle, hdown, hout, started_power]; rfl)
  · have hbusy : ¬_ := mt (idle_iff (s := s.started r c)).1 fun ⟨hparts, hports⟩ =>
      hwhich.elim (fun ⟨p, hp, hne⟩ => hne (hparts p hp)) fun ⟨i, hi, hne⟩ => hne (hports i hi)
    exact runCmd_answers h .id (by simp only [hbusy, hdown, hout, started_power]; rfl)

/-- Leaving Standby wakes every die (R396); outside it nothing is to be done. -/
theorem execDeviceStandby_leaves (h : s.Starts r 0x0605 anyState (fun c => c.rsv 1 31) c) (hup : c.par 0 1 = 0) :
    (s.power.standby = false → execDeviceStandby r s = .next (s.answered r c 0 0 [])) ∧
    (s.power.standby = true → execDeviceStandby r s =
      .next (State.wakeAll { s.started r c with power := { s.power with standby := false } })) := by
  refine ⟨fun hout => runCmd_answers h .id (by simp [hup, hout, State.ok]), fun hin => ?_⟩
  exact (runCmd_does h).trans (by simp [hup, hin])

theorem execPowerCap_answers (h : s.Starts r 0x0606 anyState badCap c) :
    (s.power.stageCeiling < c.par 0 12 → execPowerCap r s = .next (s.answered r c 0x0602 s.power.stageCeiling [])) ∧
    (c.par 0 12 ≤ s.power.stageCeiling → execPowerCap r s = .next
      (State.answered { s with power := { s.power with cap := c.par 0 12, ceiling := c.par 0 12 } } r c 0 0 [])) :=
  ⟨fun hover => runCmd_answers h .id (by exact if_pos hover), fun hwithin =>
    runCmd_answers (F := fun t => { t with power := { t.power with cap := c.par 0 12, ceiling := c.par 0 12 } }) h
      (fun _ _ => rfl) (by exact if_neg (Nat.not_lt.2 hwithin))⟩

/-! ### POWER_POLICY -/

/-- A partition takes a policy, and the rails of its forms come within it (R399, R402). -/
def State.setPolicy (p : Nat) (q : PowerPolicy) (s : State) : State :=
  let t := s.modPart p fun P => { P with policy := q }
  t.mapBenches fun k b => if t.benchForm k = some p then b.under q else b

theorem execPowerPolicy_sets (h : s.Starts r 0x0602 anyState badPolicy c) : execPowerPolicy r s =
    .next (((s.started r c).setPolicy c.part
      { target := c.par 0 10, boost := decide (c.par 10 1 = 1), sprint := decide (c.par 11 1 = 1) }).reply r c 0 0 []) :=
  runCmd_does h

/-! ### The statement -/

/-- Settles O25: each clause is one branch of its command. -/
theorem powerCommandsComplete : Obligations.PowerCommandsComplete := by
  unfold Obligations.PowerCommandsComplete
  refine ⟨?status, ?policy, ?bench, ?die, ?standby, ?cap⟩
  case status => exact fun s r c h => (runCmd_answers h .id (by rfl) : execPowerStatus r s = _)
  case policy => exact fun s r c h => execPowerPolicy_sets h
  case bench =>
    intro s r c h
    obtain ⟨hother, hbusy, hstandby⟩ := execBenchState_refused h
    refine ⟨hother, hbusy, ?_, ?_, ?_⟩
    · exact fun hdie hdown hrun hstart hout => (execBenchState_sets h hdie hout).1 hdown (not_or.2 ⟨hrun, hstart⟩)
    · exact fun hdie hfree => hstandby hdie (hfree.imp_right fun hl => by simp [hl, PartState.busy])
    · exact fun hdie hup hout => (execBenchState_sets h hdie hout).2 hup
  case die =>
    intro s r c h
    obtain ⟨hbusy, hstandby⟩ := execDieState_refused h
    exact ⟨hbusy, hstandby, execDieState_asks h⟩
  case standby =>
    intro s r c h
    refine ⟨?_, ?_, ?_, fun hup => (execDeviceStandby_leaves h hup).1, fun hup => (execDeviceStandby_leaves h hup).2⟩
    · exact fun hdown => (execDeviceStandby_enters h hdown).1
    · exact fun hdown => (execDeviceStandby_enters h hdown).2.1
    · exact fun hdown => (execDeviceStandby_enters h hdown).2.2
  case cap => exact fun s r c h => execPowerCap_answers h

end Sys2Proof.Machine
end

section
/-! The law of the firmware's events (R366-R371, R384): verification, the boundary and its window, the new firmware's
start, and a failed start. -/

namespace Sys2Proof.Machine

variable {s : State}

/-! ### Verification -/

theorem execFwVerificationDone_idle (h : s.fw.state ≠ 2) : execFwVerificationDone s = .next s := if_pos h

/-- The staged image is accepted, or fails the session with its reason (R366). -/
theorem execFwVerificationDone_ends (h : s.fw.state = 2) :
    (s.verifyFails = none → execFwVerificationDone s = .next { s with fw := { s.fw with state := 3 } }) ∧
    (∀ e, s.verifyFails = some e → execFwVerificationDone s = .next { s with fw := { s.fw with
      staging := [], pieces := [], state := 5, lastFail := BitVec.ofNat 16 e } }) := by
  refine ⟨fun hok => ?_, fun e hfail => ?_⟩
  · simp [execFwVerificationDone, h, hok]
  · simp [execFwVerificationDone, h, hfail, Firmware.clear]

/-! ### The boundary -/

theorem execSwitchBoundary_waits (h : s.fw.stage ≠ .waitingBoundary ∨ s.notAtBoundary ≠ 0) (n : Fin 3) :
    execSwitchBoundary n s = .next s := if_pos h

theorem execSwitchBoundary_writes (hstage : s.fw.stage = .waitingBoundary) (hat : s.notAtBoundary = 0) {n : Fin 3} (hn : n ≠ 2) :
    execSwitchBoundary n s = .next { s.dropServices.holdClerks with fw :=
      { s.dropServices.holdClerks.fw.writeSlot s.dropServices.holdClerks.fw.stagedBytes with
        stage := .starting, switchFlag := true } } := by
  simp [execSwitchBoundary, hstage, hat, hn]

/-- Two bad writes: what the slot holds is open, and the start has failed (R369). -/
theorem execSwitchBoundary_fails (hstage : s.fw.stage = .waitingBoundary) (hat : s.notAtBoundary = 0) :
    execSwitchBoundary 2 s = .next (State.startFailure { s.dropServices.holdClerks with
      free := s.dropServices.holdClerks.free + s.dropServices.holdClerks.fw.length
      fw := s.dropServices.holdClerks.fw.writeSlot
        (freeBytes s.dropServices.holdClerks.free s.dropServices.holdClerks.fw.length) }) := by
  simp [execSwitchBoundary, hstage, hat]

/-! ### A failed start -/

@[simp] theorem deviceReset_records (s : State) : s.deviceReset.hub.records = s.hub.records := rfl
@[simp] theorem deviceReset_svnFloor (s : State) : s.deviceReset.fw.svnFloor = s.fw.svnFloor := rfl
@[simp] theorem recoveryMode_records (s : State) : s.recoveryMode.hub.records = s.hub.records := rfl

theorem recoveryMode_power (s : State) : s.recoveryMode.power =
    { s.power with state := .recovery, ready := false, standby := true, memAct := false } := rfl

theorem startFailure_fw (s : State) : s.startFailure.fw =
    { s.deviceReset.fw.endSession with startFailed := true, lastFail := 0x050D, switchFlag := false } := rfl

theorem startFailure_power (s : State) :
    s.startFailure.power = { s.deviceReset.recoveryMode.power with order := 4 } := rfl

theorem startFailure_hub (s : State) : s.startFailure.hub = s.deviceReset.recoveryMode.hub := rfl

/-! ### The statement -/

/-- Settles O57: each clause is one branch of its event; a failed start is read off `startFailure_fw` and
`startFailure_power`. -/
theorem firmwareEventsComplete : Obligations.FirmwareEventsComplete := by
  unfold Obligations.FirmwareEventsComplete
  refine ⟨fun s => ⟨?verified, ?rejected, ?unverified, ?boundary, ?noBoundary, ?window, ?noWindow, ?starting, ?notStarting⟩,
    fun s => ?failure⟩
  case verified => exact fun h => (execFwVerificationDone_ends h).1
  case rejected => exact fun e h => (execFwVerificationDone_ends h).2 e
  case unverified => exact execFwVerificationDone_idle
  case boundary => exact fun hstage hat => ⟨fun n hn => execSwitchBoundary_writes hstage hat hn, execSwitchBoundary_fails hstage hat⟩
  case noBoundary => exact execSwitchBoundary_waits
  case window => exact fun h => (if_neg (not_not.2 h) : execActivateWindowExpiry s = _)
  case noWindow => exact fun h => (if_pos h : execActivateWindowExpiry s = _)
  case starting =>
    exact fun h => ⟨(if_neg (not_not.2 h) : execFirmwareReady s = _), (if_pos h : execFirmwareReadyTimeout s = _)⟩
  case notStarting =>
    exact fun h => ⟨(if_pos h : execFirmwareReady s = _), (if_neg h : execFirmwareReadyTimeout s = _)⟩
  case failure =>
    simp [startFailure_fw, startFailure_power, startFailure_hub, recoveryMode_power, Firmware.endSession, Firmware.clear]

end Sys2Proof.Machine
end

section
/-! The law of the governor and of the supplies' faults (R398-R404): one action a sample, the end of sprint, and Off. -/

namespace Sys2Proof.Machine

variable {s : State} {g : GovSample}

/-! ### A sample's record and its action -/

/-- The state once the millisecond before a sample has ended, where the sample begins a new one. -/
def State.afterMs (g : GovSample) (s : State) : State :=
  if g.newMs then State.endRateMs { s with power := s.power.endMs s.sprinting } else s

/-- The limits that the sample is near (R398). -/
def State.limitsNear (g : GovSample) (s : State) : Nat := nearLimits (s.afterMs g).power.ceiling g

/-- The state with the sample's readings recorded, and clerk 3's thermal source asserted where a temperature is near its
limit (R398, R400). -/
def State.sampled (g : GovSample) (s : State) : State :=
  let s0 := s.afterMs g
  let act := s.limitsNear g
  let s1 : State := { s0 with power := { s0.power with
    inputMw := g.powerMw, newMw := 0, msHot := s0.power.msHot || decide (16 * 75 < g.tj16)
    limits := s0.power.limits ||| BitVec.ofNat 8 act } }
  if 8 ≤ act then s1.assertAt 3 9 else s1

/-- The governor's action lowers a rail. -/
def State.lowers (s : State) : Bool := (List.range 96).any fun k => decide ((s.governDown.bench k).mv < (s.bench k).mv)

theorem execGovernorSample_notReady (h : s.power.state ≠ .ready) : execGovernorSample g s = .next s := if_pos h

/-- Near a limit, the governor lowers; a rail lowered by the power limit is a pace loss by power (R398, R401). -/
theorem execGovernorSample_near (h : s.power.state = .ready) (hnear : s.limitsNear g ≠ 0) :
    (s.limitsNear g % 2 = 1 → (s.sampled g).lowers = true → execGovernorSample g s =
      .next (((s.sampled g).governDown.assertAt 3 1).modServices fun v => { v with limitedNow := true })) ∧
    (s.limitsNear g % 2 = 0 ∨ (s.sampled g).lowers = false → execGovernorSample g s = .next (s.sampled g).governDown) := by
  have hdown : execGovernorSample g s = .next (if s.limitsNear g % 2 = 1 ∧ (s.sampled g).lowers then
      ((s.sampled g).governDown.assertAt 3 1).modServices fun v => { v with limitedNow := true }
      else (s.sampled g).governDown) := (if_neg (not_not.2 h)).trans (if_pos hnear)
  refine ⟨fun hpower hlow => hdown.trans (congrArg _ (if_pos ⟨hpower, hlow⟩)), fun hother => ?_⟩
  refine hdown.trans (congrArg _ (if_neg ?_))
  rintro ⟨hpower, hlow⟩
  exact hother.elim (by omega) (by simp [hlow])

/-- With no limit near, a millisecond of room raises (R399). -/
theorem execGovernorSample_room (h : s.power.state = .ready) (hfar : s.limitsNear g = 0) :
    (g.room1ms = true → g.newMs = true → execGovernorSample g s = .next ((s.sampled g).governUp g).markSprint) ∧
    (g.room1ms = false ∨ g.newMs = false → execGovernorSample g s = .next (s.sampled g)) := by
  have hup : execGovernorSample g s = if g.room1ms ∧ g.newMs then .next ((s.sampled g).governUp g).markSprint
      else .next (s.sampled g) := (if_neg (not_not.2 h)).trans (if_neg (not_not.2 hfar))
  refine ⟨fun hroom hnew => hup.trans (if_pos ⟨hroom, hnew⟩), fun hother => hup.trans (if_neg ?_)⟩
  rintro ⟨hroom, hnew⟩
  simp [hroom, hnew] at hother

/-! ### Sprint and wear -/

theorem execSprintLimit_below (h : s.power.sprintTime < 200) : execSprintLimit s = .next s := if_neg (Nat.not_le.2 h)

/-- The state with the hour's wear in the sum of the last 24 hours (R403). -/
def State.wornHour (s : State) : State :=
  { s with power := { s.power with
      wearHours := (s.power.wearHours ++ [s.power.wearNow]).drop ((s.power.wearHours ++ [s.power.wearNow]).length - 24)
      wearNow := 0 } }

theorem execWearHour_on (h : s.power.on = true) : execWearHour s =
    if s.wornHour.power.wearSum < wearAllowance then .next s.wornHour
    else .next { s.wornHour.endSprints with power :=
      { s.wornHour.endSprints.power with limits := s.wornHour.endSprints.power.limits ||| 64 } } :=
  if_neg (by simp [h])

/-! ### Faults of the supplies -/

/-- A stage that runs stops (R404): the last one's stop turns the device off. -/
theorem execStageFault_stops {k : Fin 4} {code : BitVec 64} (hon : s.power.on = true) (hk : bit s.power.stages k = true) :
    execStageFault k code s = if s.power.stages &&& ~~~(1#4 <<< k.val) = 0 then .next s.powerOff
    else .next (State.notice { s with power :=
        { s.power with
          stages := s.power.stages &&& ~~~(1#4 <<< k.val)
          ceiling := min s.power.cap { s.power with stages := s.power.stages &&& ~~~(1#4 <<< k.val) }.stageCeiling } }
      { reason := 0xA001, unit := 4, part := 0, loc := BitVec.ofNat 32 k, detail := code }) :=
  if_neg (by simp [hon, hk])

theorem execOverTemperatureStop_off (h : s.power.on = false) : execOverTemperatureStop s = .next s := if_neg (by simp [h])

/-! ### The statement -/

/-- Settles O58: the governor by `execGovernorSample_near` and `execGovernorSample_room`, the rest one branch a clause. -/
theorem governorAndSuppliesComplete : Obligations.GovernorAndSuppliesComplete := by
  unfold Obligations.GovernorAndSuppliesComplete
  refine ⟨⟨fun s g => ?sample, fun s => ?sprint, fun s => ?wear⟩, fun s k code hon hk => ?stage,
    fun s k code h => ?noStage, fun s => ?supply, fun s => ?off⟩
  case sample =>
    refine ⟨?_, ?_, ?_, ?_, execGovernorSample_notReady⟩
    · exact fun h hnear => (execGovernorSample_near h hnear).1
    · exact fun h hnear => (execGovernorSample_near h hnear).2
    · exact fun h hfar => (execGovernorSample_room h hfar).1
    · exact fun h hfar => (execGovernorSample_room h hfar).2
  case sprint => exact ⟨fun h => (if_pos h : execSprintLimit s = _), execSprintLimit_below⟩
  case wear =>
    refine ⟨fun hon hless => ?_, fun hon hworn => ?_, fun hoff => (if_pos hoff : execWearHour s = _)⟩
    · exact (execWearHour_on hon).trans (if_pos hless)
    · exact (execWearHour_on hon).trans (if_neg (Nat.not_lt.2 hworn))
  case stage => exact ⟨fun hleft => (execStageFault_stops hon hk).trans (if_neg hleft),
    fun hlast => (execStageFault_stops hon hk).trans (if_pos hlast)⟩
  case noStage => exact (if_pos h : execStageFault k code s = _)
  case supply => exact ⟨rfl, rfl, fun hon => (if_pos hon : execOverTemperatureStop s = _), execOverTemperatureStop_off⟩
  case off => simp [State.powerOff, State.coldReset, Firmware.afterReset, Mgmt.afterReset]

end Sys2Proof.Machine
end

section
/-! The law of the dies' shut-down and wake, of the start-up sequence and of the reset pins (R371, R395, R396, R422,
R432-R438). -/

namespace Sys2Proof.Machine

variable {s : State} {d : DieIx} {b : BootSample}

/-! ### A die shuts down -/

theorem modDie_congr {d : Nat} {f g : Die → Die} (h : f (s.die d) = g (s.die d)) : s.modDie d f = s.modDie d g := by
  unfold State.modDie
  rw [h]

/-- Changing cells one after another leaves the dies as they are. -/
theorem foldl_modCell_dies (l : List Nat) (at' : Nat → Nat) (f : Cell → Cell) (s : State) :
    (l.foldl (fun t i => t.modCell (at' i) f) s).dies = s.dies :=
  foldl_keeps (P := fun t : State => t.dies = s.dies) l rfl fun _ _ h => h

/-- The loss of its logic leaves a die in its mode (R391). -/
theorem loseLogic_mode (h : SMap.wf {} s.dies = true) (d : Nat) : ((s.loseLogic d).die d).mode = (s.die d).mode := by
  have hd := foldl_modCell_dies (List.range 384) (384 * d + ·) Cell.afterDormant s
  unfold State.loseLogic
  rw [die_modDie (by rw [hd]; exact h), if_pos rfl]
  exact congrArg (fun m => (look {} m d).mode) hd

/-- A die is on its way down, or is asked to come up again before it is (R395, R397). -/
def Die.goingDown (D : Die) : Prop := D.mode = .shuttingDown ∨ D.mode = .pendingUp

theorem execShutdownEventComplete_other (h : ¬(s.die d).goingDown) : execShutdownEventComplete d s = .next s :=
  if_pos (not_or.1 h)

theorem execShutdownEventComplete_first (h : (s.die d).goingDown) (h1 : (s.die d).event = 1) :
    (s.quiet d = true → execShutdownEventComplete d s = .next (s.modDie d fun D => { D with event := 2 })) ∧
    (s.quiet d = false → execShutdownEventComplete d s = .next s) := by
  have hgo := mt not_or.2 (not_not.2 h)
  refine ⟨fun hquiet => ?_, fun hbusy => ?_⟩
  · simp [execShutdownEventComplete, hgo, h1, hquiet]
  · simp [execShutdownEventComplete, hgo, h1, hbusy]

theorem execShutdownEventComplete_second (h : (s.die d).goingDown) (h2 : (s.die d).event = 2) :
    execShutdownEventComplete d s = .next (s.modDie d fun D => { D with event := 3, clamped := true }) := by
  simp [execShutdownEventComplete, mt not_or.2 (not_not.2 h), h2]

/-- With its state retained, a die goes on down, or comes up again. -/
theorem execShutdownEventComplete_third (h : (s.die d).goingDown) (h3 : (s.die d).event = 3) :
    ((s.die d).mode ≠ .pendingUp → execShutdownEventComplete d s =
      .next (s.modDie d fun D => { D with retained := true, event := 4 })) ∧
    ((s.die d).mode = .pendingUp → execShutdownEventComplete d s =
      .next (s.modDie d fun D => { D with retained := true, mode := .waking, event := 1 })) := by
  have hrun : execShutdownEventComplete d s = .next (s.modDie d fun D =>
      if D.mode = .pendingUp then { D with retained := true, mode := .waking, event := 1 }
      else { D with retained := true, event := 4 }) := by
    simp [execShutdownEventComplete, mt not_or.2 (not_not.2 h), h3]
  exact ⟨fun hdown => hrun.trans (congrArg _ (modDie_congr (if_neg hdown))),
    fun hup => hrun.trans (congrArg _ (modDie_congr (if_pos hup)))⟩

/-- Without power at last, a die is Dormant, or wakes again. -/
theorem execShutdownEventComplete_fourth (h : (s.die d).goingDown) (h4 : (s.die d).event = 4)
    (hwf : SMap.wf {} s.dies = true) : execShutdownEventComplete d s =
      .next (((s.loseLogic d).modDie d fun D => { D with
        railsOff := true, refsStopped := true
        mode := if decide ((s.die d).mode = .pendingUp) then .waking else .dormant
        event := if decide ((s.die d).mode = .pendingUp) then 1 else 0 }).finishPower) := by
  have hrun : execShutdownEventComplete d s = .next (((s.loseLogic d).modDie d fun D =>
      let E := { D with railsOff := true, refsStopped := true }
      if D.mode = .pendingUp then { E with mode := .waking, event := 1 }
      else { E with mode := .dormant, event := 0 }).finishPower) := by
    simp [execShutdownEventComplete, mt not_or.2 (not_not.2 h), h4]
  rw [hrun]
  refine congrArg (fun t : State => (.next t.finishPower : Res)) (modDie_congr ?_)
  simp only [loseLogic_mode hwf]
  by_cases hup : (s.die d).mode = .pendingUp <;> simp [hup]

/-! ### The start-up sequence -/

/-- The sequence goes on while the device has power and COLD_N is high (R435). -/
def State.bootsOn (s : State) : Prop :=
  s.power.on = true ∧ s.power.vinHigh = true ∧ s.power.coldN = true ∧ s.power.state = .starting

theorem execColdStart_boots (h : s.bootsOn) : execColdStart b s = .next (s.boot b) := if_pos h

theorem execColdStart_other (h : ¬s.bootsOn) : execColdStart b s = .next s := if_neg h

/-- The order of the sequence goes on by one (R435). -/
def State.nextOrder (n : Nat) (t : State) : State := { t with power := { t.power with order := n + 1 } }

/-- Orders 1 to 4 only count: each is an event of the supplies. -/
theorem boot_supplies (h : s.power.order < 4) : s.boot b = s.nextOrder s.power.order := by
  obtain h | h | h | h : s.power.order = 0 ∨ s.power.order = 1 ∨ s.power.order = 2 ∨ s.power.order = 3 := by omega
  all_goals simp [State.boot, State.nextOrder, h]

/-- Orders 8, 9 and 11: a step of the wake of all dies (R396). -/
theorem boot_wakes (h : s.power.order = 7 ∨ s.power.order = 8 ∨ s.power.order = 10) :
    s.boot b = ((List.range 4).foldl State.wakeStep s).nextOrder s.power.order := by
  obtain h | h | h := h
  all_goals simp only [State.boot, State.nextOrder, h]

/-- Order 10: the training of the stacks, which holds the start where it fails (R438). -/
theorem boot_trains (h : s.power.order = 9) :
    (b.badStacks = 0 → s.boot b = ((List.range 4).foldl State.wakeStep s).nextOrder s.power.order) ∧
    (b.badStacks ≠ 0 → s.boot b = s.startHold 10 b.badStacks 0) := by
  refine ⟨fun hok => ?_, fun hbad => ?_⟩
  · simp only [State.boot, State.nextOrder, h, hok, if_true]
  · simp only [State.boot, h, hbad, if_false]

theorem boot_exams (h : s.power.order = 11) : s.boot b = (s.examAll b.exams).nextOrder s.power.order := by
  simp only [State.boot, State.nextOrder, h]

/-- The sequence ends with the full exam (R422). -/
theorem boot_over (h : 12 ≤ s.power.order) : s.boot b = s := by
  obtain ⟨n, hn⟩ := Nat.exists_eq_add_of_le' h
  simp [State.boot, hn]

/-! ### A start hold -/

/-- The wake step of this order is in progress: at start-up, or as the device leaves Standby (R438). -/
def State.stepDue (s : State) (order : Nat) : Prop :=
  (s.power.state = .starting ∧ order = s.power.order + 1) ∨
  (s.power.state = .ready ∧ (∀ d < 4, (s.die d).mode = .waking) ∧ ∃ d < 4, 7 + (s.die d).event = order)

theorem execStartHold_eq (order : Fin 16) (failed : BitVec 12) (dies : BitVec 4) (s : State) :
    (8 ≤ order.val ∧ order.val ≤ 11 ∧ s.stepDue order →
      execStartHold order failed dies s = .next (s.startHold order failed dies)) ∧
    (¬(8 ≤ order.val ∧ order.val ≤ 11 ∧ s.stepDue order) → execStartHold order failed dies s = .next s) := by
  have hdue : s.stepDue order ↔ ((decide (s.power.state = .starting) && decide (order.val = s.power.order + 1)) ||
      (decide (s.power.state = .ready) && ((List.range 4).all fun d => decide ((s.die d).mode = .waking)) &&
        (List.range 4).any fun d => decide (7 + (s.die d).event = order.val))) = true := by
    simp only [State.stepDue, Bool.or_eq_true, Bool.and_eq_true, decide_eq_true_eq, List.all_eq_true, List.any_eq_true,
      List.mem_range, and_assoc]
  rw [hdue]
  exact ⟨fun h => if_pos h, fun h => if_neg h⟩

/-! ### The pins -/

theorem execVinRise_eq (s : State) :
    (s.power.on = false → s.power.coldN = true →
      execVinRise s = .next (State.coldReset { s with power := { s.power with vinHigh := true } })) ∧
    (s.power.on = true ∨ s.power.coldN = false →
      execVinRise s = .next { s with power := { s.power with vinHigh := true } }) :=
  ⟨fun hoff hcold => if_neg (by simp [hoff, hcold]), fun h => if_pos h⟩

theorem execColdNRelease_low (h : s.power.coldN = false) :
    (s.power.vinHigh = true → execColdNRelease true s =
      .next (State.coldReset { s with power := { s.power with coldN := true } })) ∧
    (s.power.vinHigh = false → execColdNRelease true s = .next { s with power := { s.power with coldN := true } }) ∧
    execColdNRelease false s = .next { s with power := { s.power with coldN := true } } := by
  refine ⟨fun hvin => ?_, fun hvin => ?_, ?_⟩
  all_goals simp [execColdNRelease, *]

theorem execPerstAssert_high (h : s.power.perstN = true) :
    (s.power.on = true → 3 ≤ s.power.order → execPerstAssert true s =
      .next (State.deviceReset { s with power := { s.power with perstN := false } })) ∧
    (s.power.on = false ∨ s.power.order < 3 →
      execPerstAssert true s = .next { s with power := { s.power with perstN := false } }) ∧
    execPerstAssert false s = .next { s with power := { s.power with perstN := false } } := by
  refine ⟨fun hon horder => ?_, fun hoff => ?_, ?_⟩
  · simp [execPerstAssert, h, hon, horder]
  · have hnot : ¬(s.power.on = true ∧ 3 ≤ s.power.order) := by
      rintro ⟨hon, horder⟩
      exact hoff.elim (by simp [hon]) (by omega)
    simp [execPerstAssert, h, hnot]
  · simp [execPerstAssert, h]

/-! ### The statement -/

/-- Settles O59: each clause is one event of a die, one order of the sequence or one pin. -/
theorem startUpCompletes : Obligations.StartUpCompletes := by
  unfold Obligations.StartUpCompletes
  refine ⟨⟨fun s d hdown => ?down, fun s d h1 h2 => execShutdownEventComplete_other (not_or.2 ⟨h1, h2⟩), fun s d => ?wake⟩,
    fun s b hon hvin hcold hstart => ?boot, fun s b h => ?noBoot, fun s ms => ?ready, fun s order failed dies => ?hold,
    fun s => ?pins⟩
  case down =>
    refine ⟨?_, ?_, execShutdownEventComplete_second hdown, ?_, ?_, execShutdownEventComplete_fourth hdown⟩
    · exact fun h1 => (execShutdownEventComplete_first hdown h1).1
    · exact fun h1 => (execShutdownEventComplete_first hdown h1).2
    · exact fun h3 hup => (execShutdownEventComplete_third hdown h3).1 (of_decide_eq_false hup)
    · exact fun h3 hup => (execShutdownEventComplete_third hdown h3).2 (of_decide_eq_true hup)
  case wake =>
    refine ⟨fun hmode hready => (if_pos ⟨hmode, hready⟩ : execWakeStepComplete d s = _), fun h => ?_⟩
    exact (if_neg (not_and_or.2 h) : execWakeStepComplete d s = _)
  case boot =>
    have hrun : exec (.coldStart b) s = .next (s.boot b) := execColdStart_boots ⟨hon, hvin, hcold, hstart⟩
    simp only [hrun]
    refine ⟨fun h => congrArg _ (boot_supplies h), fun h => ?_, fun h => ?_, fun h => ?_, fun h => congrArg _ (boot_wakes h),
      fun h hok => congrArg _ ((boot_trains h).1 hok), fun h hbad => congrArg _ ((boot_trains h).2 hbad),
      fun h => congrArg _ (boot_exams h), fun h => congrArg _ (boot_over h)⟩
    all_goals simp only [State.boot, h]
  case noBoot =>
    refine execColdStart_other fun ⟨hon, hvin, hcold, hstart⟩ => ?_
    simp [hon, hvin, hcold, hstart] at h
  case ready =>
    refine ⟨fun hstart horder => (if_pos ⟨hstart, horder⟩ : execStartupReady ms s = _), fun h => ?_⟩
    exact (if_neg (not_and_or.2 h) : execStartupReady ms s = _)
  case hold =>
    obtain ⟨hdue, hnot⟩ := execStartHold_eq order failed dies s
    exact ⟨hdue, hnot, rfl, rfl, rfl⟩
  case pins =>
    obtain ⟨hrise, hmoved⟩ := execVinRise_eq s
    refine ⟨hrise, hmoved, fun h => (execColdNRelease_low h).1, fun h => (execColdNRelease_low h).2.1,
      fun h => (execColdNRelease_low h).2.2, fun h _ => (if_pos h : execColdNRelease _ s = _),
      fun h => (execPerstAssert_high h).1, fun h => (execPerstAssert_high h).2.1,
      fun h => (execPerstAssert_high h).2.2, fun h _ => (if_pos h : execPerstAssert _ s = _), rfl⟩

end Sys2Proof.Machine
end

section
/-! The law of the test access port and of the debug unlock (R355-R357, R432). -/

namespace Sys2Proof.Machine

variable {s : State}

/-! ### The instructions of the port -/

/-- A port that trains, verifies or is up has a link to lose (R252). -/
def PortState.live (x : PortState) : Bool := x == .train || x == .verify || x == .up

/-- EXTEST takes down the ports that have a link (R355). -/
theorem portDown_if_live (t : State) (i : Nat) :
    (match (t.port i).state with
      | .train | .verify | .up => t.portDown i
      | _ => t) = if (t.port i).state.live then t.portDown i else t := by
  cases (t.port i).state <;> rfl

theorem execExtest_eq (s : State) : execExtest s =
    .next ((List.range 4).foldl (fun v i => if (v.port i).state.live then v.portDown i else v)
      (if (s.tapTo .extest).mgmtDown.cxl.width = 0 then (s.tapTo .extest).mgmtDown else (s.tapTo .extest).mgmtDown.linkDown)) := by
  simp only [← portDown_if_live]
  rfl

/-! ### The debug unlock -/

/-- The challenge of an unlock: bytes that the manual leaves open (R356). -/
def State.challenge (s : State) : List Byte := (List.range 4).flatMap fun i => bytesOfBv 8 (Config.freeWord (s.free + i))

theorem challenge_length (s : State) : s.challenge.length = 32 := rfl

theorem execDebugUnlock_closed (h : s.fw.debugFuse = true ∨ s.power.on = false ∨ s.power.order < 3) :
    execDebugUnlock s = .next (s.tapTo .unlock) := if_pos h

theorem execDebugUnlock_open (hfuse : s.fw.debugFuse = false) (hon : s.power.on = true) (horder : 3 ≤ s.power.order) :
    execDebugUnlock s = .next ((State.assertShared { s.tapTo .unlock with
      free := (s.tapTo .unlock).free + 4, sec := { (s.tapTo .unlock).sec with challenge := some s.challenge } } 47).emit
        (.tdo (bytesOfBv 8 Config.serial ++ s.challenge))) :=
  if_neg (by simp [hfuse, hon, horder])

/-- A response to the challenge: its key is the authority's, and signed the serial number and the challenge (R356). -/
theorem execUnlockResponse_answers {key sig ch : List Byte} (h : s.sec.challenge = some ch) :
    execUnlockResponse key sig s =
      if shake256 key 64 = Config.debugKeyDigest ∧ ed448Verify key (bytesOfBv 8 Config.serial ++ ch) sig [] = true then
        .next s.unlock
      else .next { s with sec := { s.sec with challenge := none } } := by
  rw [execUnlockResponse, h]

/-! ### The statement -/

/-- Settles O60: each instruction is one equation, and the unlock's end state is read off `State.unlock`. -/
theorem testAccessCompletes : Obligations.TestAccessCompletes := by
  unfold Obligations.TestAccessCompletes
  refine ⟨fun s => ⟨rfl, rfl, rfl, rfl, rfl, execExtest_eq s⟩, fun s => ⟨execDebugUnlock_closed, fun hfuse hon horder => ?_⟩,
    fun s key sig ch h => ⟨fun hok => ?_, fun hbad => ?_⟩, fun s key sig h => ?_, fun s => ⟨rfl, rfl, rfl, rfl, rfl, rfl, rfl⟩⟩
  · exact ⟨s.challenge, challenge_length s, execDebugUnlock_open hfuse hon horder⟩
  · exact (execUnlockResponse_answers h).trans (if_pos hok)
  · exact (execUnlockResponse_answers h).trans (if_neg hbad)
  · show execUnlockResponse key sig s = _
    rw [execUnlockResponse, h]

end Sys2Proof.Machine
end

section
/-! The law of the interrupt controller (R379-R383, R386, R387): completion, routes, delivery, and what a completion fault
leaves at the clerks. -/

namespace Sys2Proof.Machine

variable {s : State} {k : ClerkIx}

/-! ### Completion and delivery -/

theorem execCompleteWrite_inService {v : Byte} (h : (s.clerk k).isSrc = v) (hv : v ≠ 0xFF) :
    execCompleteWrite k v s = .next ((s.modClerk k fun c => { c with isSrc := 0xFF, vector := none }).modHub fun h =>
      { h with log := takeEvents (srcKey k v.toNat) (s.clerk k).isCount.toNat h.log }) :=
  (if_neg (h ▸ hv)).trans (if_pos h)

theorem execCompleteWrite_other {v : Byte} (hnone : (s.clerk k).isSrc ≠ 0xFF) (h : (s.clerk k).isSrc ≠ v) :
    execCompleteWrite k v s = .next (s.completionFault k 0 v) :=
  (if_neg hnone).trans (if_neg h)

theorem ready_iff {c : Clerk} : c.ready = true ↔ c.gie = true ∧ c.held = false ∧ c.isSrc = 0xFF := by
  simp [Clerk.ready, and_assoc]

theorem execInterruptDelivery_delivers {n : Nat} {posts : List ClerkIx} (hready : (s.clerk k).ready = true)
    (hlow : lowestBit ((s.clerk k).pending &&& (s.clerk k).enable) 64 = some n) :
    execInterruptDelivery k posts s =
      .next (posts.foldl (fun t q => t.assertAt q (24 + k.val)) (s.modClerk k (Clerk.deliver n))) := by
  simp only [execInterruptDelivery, hready, hlow, if_true]

theorem execInterruptDelivery_idle {posts : List ClerkIx}
    (h : (s.clerk k).ready = true → lowestBit ((s.clerk k).pending &&& (s.clerk k).enable) 64 = none) :
    execInterruptDelivery k posts s = .next s := by
  have hnone : (if (s.clerk k).ready then lowestBit ((s.clerk k).pending &&& (s.clerk k).enable) 64 else none) = none := by
    split
    · exact h ‹_›
    · rfl
  simp only [execInterruptDelivery, hnone]

/-! ### Routes -/

/-- The low bits of a field of `x % 2 ^ w` are those of `x`. -/
theorem mod_div_mod_two_pow {w lo len : Nat} (h : lo + len ≤ w) (x : Nat) :
    x % 2 ^ w / 2 ^ lo % 2 ^ len = x / 2 ^ lo % 2 ^ len := by
  refine Nat.eq_of_testBit_eq fun i => ?_
  simp only [Nat.testBit_mod_two_pow, Nat.testBit_div_two_pow]
  by_cases hi : i < len
  · simp [hi, show i + lo < w by omega]
  · simp [hi]

theorem fldN_eq {w : Nat} (v : BitVec w) (lo len : Nat) : fldN v lo len = v.toNat / 2 ^ lo % 2 ^ len := by
  simp [fldN, BitVec.extractLsb'_toNat, Nat.shiftRight_eq_div_pow]

/-- A field that was set reads back. -/
theorem fldN_setField {w lo len n : Nat} (v : BitVec w) (h : lo + len ≤ w) (hn : n < 2 ^ len) :
    fldN (setField v lo len n) lo len = n := by
  have hparts : v.toNat - fldN v lo len * 2 ^ lo + n % 2 ^ len * 2 ^ lo =
      v.toNat % 2 ^ lo + 2 ^ lo * (n + 2 ^ len * (v.toNat / 2 ^ lo / 2 ^ len)) := by
    rw [fldN_eq, Nat.mod_eq_of_lt hn, Nat.mul_add, Nat.mul_comm _ (2 ^ lo), Nat.mul_comm n]
    have hlow := Nat.mod_add_div v.toNat (2 ^ lo)
    have hhigh := congrArg (2 ^ lo * ·) (Nat.mod_add_div (v.toNat / 2 ^ lo) (2 ^ len))
    simp only [Nat.mul_add] at hhigh
    omega
  rw [setField, fldN_eq, BitVec.toNat_ofNat, mod_div_mod_two_pow h, hparts, Nat.add_mul_div_left _ _ (Nat.two_pow_pos lo),
    Nat.div_eq_of_lt (Nat.mod_lt _ (Nat.two_pow_pos lo)), Nat.zero_add, Nat.add_mul_mod_self_left, Nat.mod_eq_of_lt hn]

/-- Source `n` is no longer pending at a clerk, with nothing on its count. -/
def Clerk.forget (n : Nat) (c : Clerk) : Clerk :=
  { c with pending := c.pending &&& ~~~(1#64 <<< n), counts := put 0 c.counts n 0 }

/-- A clerk takes source `n` over as clerk `o` had it. -/
def Clerk.takeOver (n : Nat) (o c : Clerk) : Clerk :=
  { c with pending := c.pending ||| (o.pending &&& (1#64 <<< n)), counts := put 0 c.counts n (look 0 o.counts n) }

/-- The route of shared source `32 + src` names clerk `k` (R383). -/
def State.setRoute (s : State) (src k : Nat) : State :=
  s.modHub fun h => { h with route := setField h.route (2 * src) 2 k }

@[simp] theorem setRoute_clerks (s : State) (src k : Nat) : (s.setRoute src k).hub.clerks = s.hub.clerks := rfl
@[simp] theorem setRoute_clerk (s : State) (src k i : Nat) : (s.setRoute src k).clerk i = s.clerk i := rfl

theorem routeOf_setRoute (s : State) {src k : Nat} (hsrc : src < 32) (hk : k < 4) :
    (s.setRoute src k).routeOf (32 + src) = k := by
  unfold State.routeOf
  rw [Nat.add_sub_cancel_left]
  exact fldN_setField s.hub.route (by omega) hk

/-- The state once a source has moved from one clerk to another (R383). -/
def State.moveSource (s : State) (src old k : Nat) : State :=
  ((s.setRoute src k).modClerk old (Clerk.forget (32 + src))).modClerk k (Clerk.takeOver (32 + src) (s.clerk old))

theorem execRouteWrite_moves {src : Fin 32} (h : s.routeOf (32 + src.val) ≠ k.val) :
    execRouteWrite src k s = .next (s.moveSource src (s.routeOf (32 + src.val)) k) := if_neg h

/-- The clerks that the source moves from and to. -/
theorem moveSource_clerks (hw : SMap.wf {} s.hub.clerks = true) {src old k : Nat} (h : old ≠ k) :
    (s.moveSource src old k).clerk old = (s.clerk old).forget (32 + src) ∧
    (s.moveSource src old k).clerk k = (s.clerk old).takeOver (32 + src) (s.clerk k) := by
  have hw' : SMap.wf {} (s.setRoute src k).hub.clerks = true := hw
  have hput : SMap.wf {} ((s.setRoute src k).modClerk old (Clerk.forget (32 + src))).hub.clerks = true := put_wf hw
  unfold State.moveSource
  refine ⟨?_, ?_⟩
  · rw [clerk_modClerk_ne h, clerk_modClerk hw', if_pos rfl, setRoute_clerk]
  · rw [clerk_modClerk hput, if_pos rfl, clerk_modClerk_ne (Ne.symm h), setRoute_clerk]

/-! ### Completion faults -/

/-- What a completion fault says of itself (R386). -/
def Clerk.faultFields (c : Clerk) : BitVec 3 × Byte × Byte := (c.fault, c.faultSrc, c.faultWr)

/-- Source 0 is asserted and in service at once (R386). -/
def Clerk.serveZero (c : Clerk) : Clerk := (Clerk.assert 0 c).deliver 0

@[simp] theorem abandon_faultFields (cause : Nat) (wr : Byte) (c : Clerk) :
    (c.abandon cause wr).faultFields = (BitVec.ofNat 3 (2 ^ cause), c.isSrc, wr) := rfl
@[simp] theorem pendAgain_faultFields (src n : Nat) (c : Clerk) : (c.pendAgain src n).faultFields = c.faultFields := rfl
@[simp] theorem serveZero_faultFields (c : Clerk) : c.serveZero.faultFields = c.faultFields := rfl
@[simp] theorem serveZero_isSrc (c : Clerk) : c.serveZero.isSrc = 0 := rfl

theorem pendAgain_pending {src n : Nat} (h : src < 64) (c : Clerk) : (c.pendAgain src n).pending.getLsbD src = true := by
  simp [Clerk.pendAgain, h]

theorem pendAgain_count {src n : Nat} {c : Clerk} (h : SMap.wf 0 c.counts = true) :
    look 0 (c.pendAgain src n).counts src = satAdd (look 0 c.counts src) n := look_put_same h

/-- The service of source 0 leaves the other sources pending as they were. -/
theorem serveZero_pending {n : Nat} (h : n ≠ 0) (c : Clerk) : c.serveZero.pending.getLsbD n = c.pending.getLsbD n := by
  have hbit : (1#64 <<< 0).getLsbD n = false := by
    rw [BitVec.shiftLeft_zero, BitVec.getLsbD_one]
    simp [h]
  by_cases hn : n < 64
  · simp only [Clerk.serveZero, Clerk.assert, Clerk.deliver, BitVec.getLsbD_and, BitVec.getLsbD_or, BitVec.getLsbD_not,
      hbit, hn, decide_true, Bool.or_false, Bool.not_false, Bool.and_true]
  · simp only [BitVec.getLsbD_of_ge _ n (Nat.not_lt.1 hn)]

theorem serveZero_count {n : Nat} (h : n ≠ 0) (c : Clerk) : look 0 c.serveZero.counts n = look 0 c.counts n := by
  unfold Clerk.serveZero Clerk.deliver Clerk.assert
  rw [look_put_ne h, look_put_ne h]

theorem abandon_clerks_wf {cause : Nat} {wr : Byte} (k : Nat) (h : SMap.wf {} s.hub.clerks = true) :
    SMap.wf {} (s.abandon k cause wr).hub.clerks = true := by
  unfold State.abandon
  simp only
  split
  · exact put_wf h
  · exact put_wf (put_wf h)

theorem abandon_eq_hub (s : State) (k cause : Nat) (wr : Byte) :
    s.abandon k cause wr = { s with hub := (s.abandon k cause wr).hub } ∧
    (s.abandon k cause wr).hub.reports = s.hub.reports := by
  unfold State.abandon
  simp only
  split <;> exact ⟨rfl, rfl⟩

/-- The faulting clerk keeps the fault, and the clerk at which the source is delivered next holds the source again. -/
theorem abandon_faultFields_clerk {cause : Nat} {wr : Byte} (k : Nat) (h : SMap.wf {} s.hub.clerks = true) :
    ((s.abandon k cause wr).clerk k).faultFields = (BitVec.ofNat 3 (2 ^ cause), (s.clerk k).isSrc, wr) := by
  have hput : SMap.wf {} (s.modClerk k (Clerk.abandon cause wr)).hub.clerks = true := put_wf h
  have hk : (s.modClerk k (Clerk.abandon cause wr)).clerk k = (s.clerk k).abandon cause wr := by
    rw [clerk_modClerk h, if_pos rfl]
  unfold State.abandon
  simp only
  split
  · rw [hk, abandon_faultFields]
  · rw [clerk_modClerk hput]
    split
    case isTrue hq => rw [pendAgain_faultFields, ← hq, hk, abandon_faultFields]
    case isFalse => rw [hk, abandon_faultFields]

theorem abandon_pendsAgain {cause : Nat} {wr : Byte} (k : Nat) (h : SMap.wf {} s.hub.clerks = true)
    (hsrc : (s.clerk k).isSrc ≠ 0xFF) :
    ∃ c : Clerk, c.counts = (s.clerk (s.nextClerk k (s.clerk k).isSrc.toNat)).counts ∧
      (s.abandon k cause wr).clerk (s.nextClerk k (s.clerk k).isSrc.toNat) =
        c.pendAgain (s.clerk k).isSrc.toNat (s.clerk k).isCount.toNat := by
  have hput : SMap.wf {} (s.modClerk k (Clerk.abandon cause wr)).hub.clerks = true := put_wf h
  refine ⟨(s.modClerk k (Clerk.abandon cause wr)).clerk (s.nextClerk k (s.clerk k).isSrc.toNat), ?_, ?_⟩
  · rw [clerk_modClerk h]
    split
    case isTrue hq => rw [hq]; rfl
    case isFalse => rfl
  · unfold State.abandon
    simp only [if_neg hsrc]
    rw [clerk_modClerk hput, if_pos rfl]

/-- A completion fault, up to the clerk failure that it may be (R387). -/
def State.faulted (s : State) (k cause : Nat) (wr : Byte) : State :=
  ((s.abandon k cause wr).modClerk k Clerk.serveZero).detect 0x9001 4 0 (k + 2 ^ cause * 256)
    ((s.clerk k).isSrc.toNat + wr.toNat * 256)

theorem completionFault_failure {k cause : Nat} {wr : Byte} (h : (s.clerk k).isSrc = 0) :
    s.completionFault k cause wr = (s.faulted k cause wr).startFailure := if_pos h

theorem completionFault_faulted {k cause : Nat} {wr : Byte} (h : (s.clerk k).isSrc ≠ 0) :
    s.completionFault k cause wr = s.faulted k cause wr := if_neg h

theorem faulted_clerk {k cause : Nat} {wr : Byte} (h : SMap.wf {} s.hub.clerks = true) (i : Nat) :
    (s.faulted k cause wr).clerk i =
      if i = k then ((s.abandon k cause wr).clerk k).serveZero else (s.abandon k cause wr).clerk i :=
  clerk_modClerk (abandon_clerks_wf k h) ..

theorem faulted_frame (s : State) (k cause : Nat) (wr : Byte) :
    s.faulted k cause wr = { s with hub := (s.faulted k cause wr).hub } ∧
    (s.faulted k cause wr).hub.reports.length = s.hub.reports.length + 1 := by
  obtain ⟨hhub, hreports⟩ := abandon_eq_hub s k cause wr
  refine ⟨?_, ?_⟩
  · unfold State.faulted
    rw [hhub]
    rfl
  · unfold State.faulted State.detect
    simp only [modHub_hub, List.length_append, List.length_singleton]
    exact congrArg (List.length · + 1) hreports

/-- The abandoned source is pending again, with its count added back, where it is delivered next (R386). -/
theorem faulted_pendsAgain {cause : Nat} {wr : Byte} (k : Nat) (h : SMap.wf {} s.hub.clerks = true)
    (hn : (s.clerk k).isSrc.toNat ≠ 0) (hlt : (s.clerk k).isSrc.toNat < 64)
    (hwf : SMap.wf 0 (s.clerk (s.nextClerk k (s.clerk k).isSrc.toNat)).counts = true) :
    ((s.faulted k cause wr).clerk (s.nextClerk k (s.clerk k).isSrc.toNat)).pending.getLsbD (s.clerk k).isSrc.toNat = true ∧
    look 0 ((s.faulted k cause wr).clerk (s.nextClerk k (s.clerk k).isSrc.toNat)).counts (s.clerk k).isSrc.toNat =
      satAdd (look 0 (s.clerk (s.nextClerk k (s.clerk k).isSrc.toNat)).counts (s.clerk k).isSrc.toNat)
        (s.clerk k).isCount.toNat := by
  have hsrc : (s.clerk k).isSrc ≠ 0xFF := fun he => by rw [he] at hlt; exact absurd hlt (by decide)
  obtain ⟨c, hcounts, hagain⟩ := abandon_pendsAgain (cause := cause) (wr := wr) k h hsrc
  have hpend := pendAgain_pending (n := (s.clerk k).isCount.toNat) hlt c
  have hcount := pendAgain_count (src := (s.clerk k).isSrc.toNat) (n := (s.clerk k).isCount.toNat) (c := c)
    (by rw [hcounts]; exact hwf)
  rw [hcounts] at hcount
  rw [faulted_clerk h]
  split
  case isTrue hq =>
    rw [serveZero_pending hn, serveZero_count hn]
    rw [hq] at hagain hcount ⊢
    rw [hagain]
    exact ⟨hpend, hcount⟩
  case isFalse =>
    rw [hagain]
    exact ⟨hpend, hcount⟩

/-! ### The statement -/

/-- Settles O28: completion and delivery one branch a clause, a route by `moveSource_clerks`, a completion fault by
`faulted_clerk`. -/
theorem clerksComplete : Obligations.ClerksComplete := by
  unfold Obligations.ClerksComplete
  refine ⟨⟨fun s k v => execCompleteWrite_inService, fun s k v h => (if_pos h : execCompleteWrite k v s = _),
    fun s k v => execCompleteWrite_other, fun s k on => rfl, ?route, ?deliver, ?idle,
    fun s k h => (if_neg h : execHandlerOverdue k s = _)⟩, fun s k cause wr hw => ⟨?failure, ?fault, ?again⟩⟩
  case route =>
    intro s src k hw h
    obtain ⟨hold, hnew⟩ := moveSource_clerks (src := src.val) hw h
    exact ⟨_, execRouteWrite_moves h, routeOf_setRoute s src.isLt k.isLt, hold, hnew, rfl⟩
  case deliver =>
    exact fun s k n posts hgie hheld hsrc hlow => execInterruptDelivery_delivers (ready_iff.2 ⟨hgie, hheld, hsrc⟩) hlow
  case idle =>
    intro s k posts h
    refine execInterruptDelivery_idle fun hready => ?_
    obtain ⟨hgie, hheld, hsrc⟩ := ready_iff.1 hready
    simpa [hgie, hheld, hsrc] using h
  case failure =>
    intro h
    rw [completionFault_failure h]
    rfl
  case fault =>
    intro h
    obtain ⟨hframe, hreports⟩ := faulted_frame s k cause wr
    have hk := (faulted_clerk (k := k) (cause := cause) (wr := wr) hw k).trans (if_pos rfl)
    have hfields := abandon_faultFields_clerk (cause := cause) (wr := wr) k hw
    simp only [completionFault_faulted h, hk]
    rw [← serveZero_faultFields] at hfields
    obtain ⟨hfault, hsrc, hwr⟩ := (Prod.mk.injEq ..).mp hfields |>.imp_right (Prod.mk.injEq ..).mp
    exact ⟨serveZero_isSrc _, hfault, hsrc, hwr, hframe, hreports⟩
  case again =>
    intro n q hn hlt hwf
    have h0 : (s.clerk k).isSrc ≠ 0 := fun he => hn (congrArg BitVec.toNat he)
    rw [completionFault_faulted h0]
    exact faulted_pendsAgain k hw hn hlt hwf

end Sys2Proof.Machine
end

section
/-! The law of the SPDM responder (R350-R354, R357): a request is not answered, comes too early, or is answered on the
state that admits it; the requests within a session find it open or ready. -/

namespace Sys2Proof.Machine

variable {s : State} {t : Transport} {need : Nat → Bool} {f : State → State}

/-! ### What becomes of a request -/

theorem takeSpdm_silent (h : s.spdmRuns t = false) : s.takeSpdm t need f = .next s := if_pos h

theorem takeSpdm_early (h : s.Answers t) (hn : need ((s.spdmIn t).spdm.conn t) = false) :
    s.takeSpdm t need f = .next ((s.spdmIn t).spdmError t 4) := by
  simp [State.takeSpdm, show s.spdmRuns t = true from h, hn]

theorem inSession_found {n : Nat} {ready : Bool} (h : s.Answers t) (hn : agreed ((s.spdmIn t).spdm.conn t) = true)
    (hs : (s.spdmIn t).spdm.sessions.any (Session.isSess t n ready) = true) :
    s.inSession t n ready f = .next (f (s.spdmIn t)) :=
  (takeSpdm_answers h hn).trans (congrArg _ (if_pos hs))

theorem inSession_none {n : Nat} {ready : Bool} (h : s.Answers t) (hn : agreed ((s.spdmIn t).spdm.conn t) = true)
    (hs : (s.spdmIn t).spdm.sessions.any (Session.isSess t n ready) = false) :
    s.inSession t n ready f = .next ((s.spdmIn t).spdmError t 2) :=
  (takeSpdm_answers h hn).trans (congrArg _ (if_neg (by simp [hs])))

/-! ### The connection -/

theorem execGetCapabilities_early (h : s.Answers t) (hc : (s.spdmIn t).spdm.conn t ≠ 1) :
    execGetCapabilities t s = .next ((s.spdmIn t).spdmError t 4) :=
  takeSpdm_early h (decide_eq_false hc)

theorem execNegotiateAlgorithms_eq (h : s.Answers t) (a : AlgorithmOffer) :
    ((s.spdmIn t).spdm.conn t = 2 → acceptsAll a = true → execNegotiateAlgorithms t a s =
      .next (((s.spdmIn t).connTo t 3).respond t 0x63 [] false)) ∧
    ((s.spdmIn t).spdm.conn t = 2 → acceptsAll a = false → execNegotiateAlgorithms t a s =
      .next ((s.spdmIn t).spdmError t 1)) ∧
    ((s.spdmIn t).spdm.conn t ≠ 2 → execNegotiateAlgorithms t a s = .next ((s.spdmIn t).spdmError t 4)) := by
  refine ⟨fun hc ha => ?_, fun hc ha => ?_, fun hc => takeSpdm_early h (decide_eq_false hc)⟩
  · exact (takeSpdm_answers h (decide_eq_true hc)).trans (congrArg _ (if_pos ha))
  · exact (takeSpdm_answers h (decide_eq_true hc)).trans (congrArg _ (if_neg (by simp [ha])))

/-! ### Certificates and measurements -/

section

variable (h : s.Answers t) (hn : agreed ((s.spdmIn t).spdm.conn t) = true)

include h hn

theorem execGetCertificate_eq (slot : Byte) (off len : Nat) :
    (slot = 0 → off < (s.spdmIn t).chain.length → execGetCertificate t slot off len s =
      .next ((s.spdmIn t).respond t 0x02 (((s.spdmIn t).chain.drop off).take (min len 4088)) false)) ∧
    (slot ≠ 0 ∨ (s.spdmIn t).chain.length ≤ off → execGetCertificate t slot off len s = .next ((s.spdmIn t).spdmError t 1)) := by
  refine ⟨fun hslot hoff => (takeSpdm_answers h hn).trans (congrArg _ (if_neg ?_)),
    fun hbad => (takeSpdm_answers h hn).trans (congrArg _ (if_pos hbad))⟩
  rintro (hne | hle)
  · exact hne hslot
  · exact absurd hoff (Nat.not_lt.2 hle)

theorem execChallenge_eq (nonce : BitVec 256) :
    ((s.spdmIn t).signs = true → execChallenge t nonce s =
      .next ((s.spdmIn t).nonce.2.respond t 0x03 (sha3x512 (s.spdmIn t).chain ++ (s.spdmIn t).nonce.1) true)) ∧
    ((s.spdmIn t).signs = false → execChallenge t nonce s = .next ((s.spdmIn t).spdmError t 5)) :=
  ⟨fun hs => (takeSpdm_answers h hn).trans (congrArg _ (if_pos hs)),
    fun hs => (takeSpdm_answers h hn).trans (congrArg _ (if_neg (by simp [hs])))⟩

/-- A signed answer that no key can sign is refused (R357). -/
theorem execGetMeasurements_unsigned (ix : Byte) (nonce : BitVec 256) (hs : (s.spdmIn t).signs = false) :
    execGetMeasurements t ix nonce true s = .next ((s.spdmIn t).spdmError t 5) :=
  (takeSpdm_answers h hn).trans (congrArg _ (if_pos (by simp [hs])))

/-- The measurements that an index names (R353). -/
theorem execGetMeasurements_eq (ix : Byte) (nonce : BitVec 256) (sign : Bool) (hs : sign = true → (s.spdmIn t).signs = true) :
    execGetMeasurements t ix nonce sign s = .next
      (if ix = 0 then (s.spdmIn t).respond t 0x60 [9] sign
      else if ix = 0xFF then (s.spdmIn t).respond t 0x60 ((List.range 9).flatMap fun i => (s.spdmIn t).block (i + 1)) sign
      else if ix.toNat ≤ 9 then (s.spdmIn t).respond t 0x60 ((s.spdmIn t).block ix.toNat) sign
      else (s.spdmIn t).spdmError t 1) := by
  refine (takeSpdm_answers h hn).trans (congrArg _ (if_neg ?_))
  cases sign
  · simp
  · simp [hs rfl]

/-! ### Sessions -/

theorem execKeyExchange_refused (pub : List Byte) :
    (4 ≤ (s.spdmIn t).spdm.sessions.length → execKeyExchange t pub s = .next ((s.spdmIn t).spdmError t 0x0A)) ∧
    ((s.spdmIn t).spdm.sessions.length < 4 → pub.length ≠ 96 → execKeyExchange t pub s =
      .next ((s.spdmIn t).spdmError t 1)) ∧
    ((s.spdmIn t).spdm.sessions.length < 4 → pub.length = 96 → (s.spdmIn t).signs = false →
      execKeyExchange t pub s = .next ((s.spdmIn t).spdmError t 5)) := by
  refine ⟨fun hfull => ?_, fun hroom hlen => ?_, fun hroom hlen hs => ?_⟩
  · exact (takeSpdm_answers h hn).trans (congrArg _ (if_pos hfull))
  · exact (takeSpdm_answers h hn).trans (congrArg _ ((if_neg (Nat.not_le.2 hroom)).trans (if_pos hlen)))
  · exact (takeSpdm_answers h hn).trans
      (congrArg _ ((if_neg (Nat.not_le.2 hroom)).trans ((if_neg (not_not.2 hlen)).trans (if_pos hs))))

/-- The state with one more session, not ready yet, under keys from the exchange (R351). -/
def State.openSession (t : Transport) (pub : List Byte) (u : State) : State :=
  { u.nonce.2 with spdm := { u.spdm with
    sessions := u.spdm.sessions ++ [{ num := u.spdm.next, transport := t, keys := Config.sessionKeys u.nonce.1 pub }]
    next := u.spdm.next + 1 } }

theorem execKeyExchange_opens (pub : List Byte) (hroom : (s.spdmIn t).spdm.sessions.length < 4) (hlen : pub.length = 96)
    (hs : (s.spdmIn t).signs = true) : execKeyExchange t pub s =
      .next (((s.spdmIn t).openSession t pub).nonce.2.respond t 0x64
        (bytesOfNat 2 (s.spdmIn t).spdm.next ++ ((s.spdmIn t).openSession t pub).nonce.1) true) :=
  (takeSpdm_answers h hn).trans (congrArg _ ((if_neg (Nat.not_le.2 hroom)).trans
    ((if_neg (not_not.2 hlen)).trans (if_neg (by simp [hs])))))

end

/-! ### Requests that every connection takes alike -/

/-- The instruction is a request for a connection that has agreed on algorithms (R351). -/
def State.AsksAgreed (s : State) (t : Transport) (i : Instr) : Prop := ∃ f, exec i s = s.takeSpdm t agreed f

/-- The instruction is a request (R351). -/
def State.AsksSpdm (s : State) (t : Transport) (i : Instr) : Prop := ∃ need f, exec i s = s.takeSpdm t need f

theorem asksSpdm_of_agreed {i : Instr} (h : s.AsksAgreed t i) : s.AsksSpdm t i :=
  let ⟨f, hf⟩ := h
  ⟨agreed, f, hf⟩

theorem asksAgreed_of_inSession {i : Instr} {n : Nat} {ready : Bool} (h : exec i s = s.inSession t n ready f) :
    s.AsksAgreed t i := ⟨_, h⟩

theorem asksAgreed_requests (s : State) (t : Transport) (slot : Byte) (off len n : Nat) (nonce : BitVec 256) (sign : Bool)
    (pub : List Byte) (km : IdeKm) : ∀ c ∈ [Instr.getDigests t, .getCertificate t slot off len, .challenge t nonce,
      .getMeasurements t slot nonce sign, .keyExchange t pub, .finish t n sign, .heartbeat t n, .keyUpdate t n,
      .endSession t n, .vendorDefinedRequest t n km], s.AsksAgreed t c := by
  simp only [List.forall_mem_cons]
  exact ⟨⟨_, (rfl : execGetDigests t s = s.takeSpdm t agreed _)⟩,
    ⟨_, (rfl : execGetCertificate t slot off len s = s.takeSpdm t agreed _)⟩,
    ⟨_, (rfl : execChallenge t nonce s = s.takeSpdm t agreed _)⟩,
    ⟨_, (rfl : execGetMeasurements t slot nonce sign s = s.takeSpdm t agreed _)⟩,
    ⟨_, (rfl : execKeyExchange t pub s = s.takeSpdm t agreed _)⟩,
    asksAgreed_of_inSession (rfl : execFinish t n sign s = s.inSession t n false _),
    asksAgreed_of_inSession (rfl : execHeartbeat t n s = s.inSession t n true _),
    asksAgreed_of_inSession (rfl : execKeyUpdate t n s = s.inSession t n true _),
    asksAgreed_of_inSession (rfl : execEndSession t n s = s.inSession t n true _),
    asksAgreed_of_inSession (rfl : execVendorDefinedRequest t n km s = s.inSession t n true _),
    fun _ hc => absurd hc List.not_mem_nil⟩

theorem asksSpdm_connection (s : State) (t : Transport) (a : AlgorithmOffer) :
    ∀ c ∈ [Instr.getVersion t, .getCapabilities t, .negotiateAlgorithms t a], s.AsksSpdm t c := by
  simp only [List.forall_mem_cons]
  exact ⟨⟨_, _, (rfl : execGetVersion t s = s.takeSpdm t _ _)⟩, ⟨_, _, (rfl : execGetCapabilities t s = s.takeSpdm t _ _)⟩,
    ⟨_, _, (rfl : execNegotiateAlgorithms t a s = s.takeSpdm t _ _)⟩, fun _ hc => absurd hc List.not_mem_nil⟩

/-! ### The statement -/

/-- Settles O56: each request is answered by `takeSpdm_answers`, comes too early by `takeSpdm_early`, or finds no
responder by `takeSpdm_silent`. -/
theorem attestationCompletes : Obligations.AttestationCompletes := by
  unfold Obligations.AttestationCompletes
  refine ⟨⟨fun s t h => ?connection, fun s t h hn => ?agreed, fun s t h hn slot off len n nonce sign pub km c hc => ?early,
    fun s t h a slot off len n nonce sign pub km c hc => ?silent⟩, fun s t n h hn => ⟨?opened, ?unopened, ?ready, ?unready⟩⟩
  case connection =>
    refine ⟨(takeSpdm_answers h rfl : execGetVersion t s = _), fun hc => ?_, execGetCapabilities_early h, ?_, ?_, ?_⟩
    · exact (takeSpdm_answers h (decide_eq_true hc) : execGetCapabilities t s = _)
    · exact fun a => (execNegotiateAlgorithms_eq h a).1
    · exact fun a => (execNegotiateAlgorithms_eq h a).2.1
    · exact fun a => (execNegotiateAlgorithms_eq h a).2.2
  case agreed =>
    refine ⟨(takeSpdm_answers h hn : execGetDigests t s = _), ?_, ?_, ?_, ?_, fun nonce ix sign hs => ?_, ?_, fun pub => ?_⟩
    · exact fun slot off len => (execGetCertificate_eq h hn slot off len).1
    · exact fun slot off len => (execGetCertificate_eq h hn slot off len).2
    · exact fun nonce => (execChallenge_eq h hn nonce).1
    · exact fun nonce => (execChallenge_eq h hn nonce).2
    · have hix := execGetMeasurements_eq h hn ix nonce sign hs
      refine ⟨fun h0 => ?_, fun hall => ?_, fun h0 h9 => ?_, fun hall h9 => ?_⟩
      · exact hix.trans (congrArg _ (if_pos h0))
      · exact hix.trans (congrArg _ ((if_neg (by rw [hall]; decide)).trans (if_pos hall)))
      · have hall : ix ≠ 0xFF := fun he => by rw [he] at h9; exact absurd h9 (by decide)
        exact hix.trans (congrArg _ ((if_neg h0).trans ((if_neg hall).trans (if_pos h9))))
      · have h0 : ix ≠ 0 := fun he => by rw [he] at h9; exact absurd h9 (by decide)
        exact hix.trans (congrArg _ ((if_neg h0).trans ((if_neg hall).trans (if_neg (Nat.not_le.2 h9)))))
    · exact fun nonce ix => execGetMeasurements_unsigned h hn ix nonce
    · exact ⟨execKeyExchange_opens h hn pub, execKeyExchange_refused h hn pub⟩
  case early =>
    obtain ⟨f, hf⟩ := asksAgreed_requests s t slot off len n nonce sign pub km c hc
    exact hf.trans (takeSpdm_early h hn)
  case silent =>
    have hasks : s.AsksSpdm t c := by
      obtain hc | hc := List.mem_append.1 (show c ∈ [Instr.getVersion t, .getCapabilities t, .negotiateAlgorithms t a] ++ _ from hc)
      · exact asksSpdm_connection s t a c hc
      · exact asksSpdm_of_agreed (asksAgreed_requests s t slot off len n nonce sign pub km c hc)
    obtain ⟨need, f, hf⟩ := hasks
    exact hf.trans (takeSpdm_silent h)
  case opened =>
    exact fun hs => ⟨(inSession_found h hn hs : execFinish t n true s = _), (inSession_found h hn hs : execFinish t n false s = _)⟩
  case unopened => exact fun hs b => (inSession_none h hn hs : execFinish t n b s = _)
  case ready =>
    intro hs
    refine ⟨(inSession_found h hn hs : execHeartbeat t n s = _), (inSession_found h hn hs : execKeyUpdate t n s = _),
      (inSession_found h hn hs : execEndSession t n s = _), ?_, ?_⟩
    · rintro km rfl
      exact (inSession_found h hn hs : execVendorDefinedRequest .doe n km s = _)
    · rintro km rfl
      exact (inSession_found h hn hs : execVendorDefinedRequest .i3c n km s = _)
  case unready =>
    exact fun hs => ⟨(inSession_none h hn hs : execHeartbeat t n s = _), (inSession_none h hn hs : execKeyUpdate t n s = _),
      (inSession_none h hn hs : execEndSession t n s = _),
      fun km => (inSession_none h hn hs : execVendorDefinedRequest t n km s = _)⟩

end Sys2Proof.Machine
end

section
/-! The law of the management port (R336-R338, R342-R347, R369, R378, R384): KMP requests, the management link, addresses
and echoes, and the commands of the board bus. -/

namespace Sys2Proof.Machine

variable {s : State} {m : Kmp}

/-! ### KMP requests -/

theorem takeKmp_discarded {i : Instr} {type : Nat} {f : BitVec 64 → State → State}
    (h : s.mgmtOpen m = false ∨ kmpKept m = false ∨ kmpType m ≠ type) : s.takeKmp i m type f = .next s := if_pos h

/-- The command that a control request carries, on the state that admits it (R342). -/
def State.requested (s : State) (m : Kmp) : PendCmd := (requestCmd m (s.kmpIn m).1).seen (s.kmpIn m).2.teleView

/-- Why a control request is rejected, if it is (R343). -/
def State.requestReason (s : State) (m : Kmp) : Option Nat :=
  (s.kmpIn m).2.kmpReason m (requestParses m) (opPermission (s.requested m).opcode).isSome
    ((opPermission (s.requested m).opcode).getD 0)

theorem execControlRequest_rejected (h : s.TakesKmp m 3) {n : Nat} (hwhy : s.requestReason m = some n) :
    execControlRequest m s = .next ((s.kmpIn m).2.reject m n) := by
  refine (takeKmp_takes h).trans ?_
  unfold State.requestReason State.requested at hwhy
  simp only [hwhy]

/-- An accepted request joins the fifth ring, or is answered there where its header is bad (R342). -/
theorem execControlRequest_accepted (h : s.TakesKmp m 3) (hwhy : s.requestReason m = none) :
    ((s.requested m).header 4 = none → execControlRequest m s =
      .next (((s.kmpIn m).2.acceptSeq m).modRing 4 fun R => { R with pend := R.pend ++ [s.requested m] })) ∧
    (∀ e, (s.requested m).header 4 = some e → execControlRequest m s =
      .next (((s.kmpIn m).2.acceptSeq m).modRing 4 fun R => { R with done := R.done ++
        [{ cmd := s.requested m, status := BitVec.ofNat 16 e.1, detail := BitVec.ofNat 32 e.2 }] })) := by
  unfold State.requestReason at hwhy
  unfold State.requested at hwhy ⊢
  refine ⟨fun hgood => (takeKmp_takes h).trans ?_, fun e hbad => (takeKmp_takes h).trans ?_⟩
  · simp only [hwhy, hgood]
  · simp only [hwhy, hbad]

/-- A piece fits the open session, or is counted as refused (R364). -/
theorem execFirmwarePiece_eq (h : s.TakesKmp m 5) : execFirmwarePiece m s = .next
    (if kmpSigned m = false ∧ kmpLen m = m.payload.length ∧ (s.kmpIn m).2.fw.takesPiece m.payload = true then
      (s.kmpIn m).2.stage 1 (1024 * fldN (bvOfBytes 256 (m.payload.take 32)) 96 14) (m.payload.drop 32)
    else (s.kmpIn m).2.refusedPiece) := takeKmp_takes h

theorem execNetworkConfiguration_stored (h : s.TakesKmp m 7) {n : NetworkConfig} (hparse : Config.parseNetwork m.payload = some n)
    (hwhy : (s.kmpIn m).2.kmpReason m true true 5 = none) : execNetworkConfiguration m s =
      .next { (s.kmpIn m).2.acceptSeq m with mgmt := { ((s.kmpIn m).2.acceptSeq m).mgmt with
        ipv4 := n.ipv4, ipv6 := n.ipv6, vlan := n.vlan, collector := n.collector } } := by
  refine (takeKmp_takes h).trans ?_
  simp only [hparse, Option.isSome_some, hwhy]

theorem execNetworkConfiguration_rejected (h : s.TakesKmp m 7) {e : Nat}
    (hwhy : (s.kmpIn m).2.kmpReason m (Config.parseNetwork m.payload).isSome true 5 = some e) :
    execNetworkConfiguration m s = .next ((s.kmpIn m).2.reject m e) := by
  refine (takeKmp_takes h).trans ?_
  simp only [hwhy]

/-- A key change that would leave no slot with the Keys permission, or one over I3C once a slot holds a key, is barred
(R345, R347). -/
def State.keyChangeBarred (s : State) (m : Kmp) (e : KeyChange) : Bool :=
  (m.viaI3c && !noKeys (s.kmpIn m).2.mgmt.keys) || !keysHeld (changeKey e ((s.kmpIn m).2.acceptSeq m).mgmt.keys)

theorem execKeyManagement_changes (h : s.TakesKmp m 8) {e : KeyChange} (hparse : Config.parseKeyChange m.payload = some e)
    (hwhy : (s.kmpIn m).2.kmpReason m true true 6 = none) : execKeyManagement m s =
      .next (if s.keyChangeBarred m e then (s.kmpIn m).2.reject m 3
        else { (s.kmpIn m).2.acceptSeq m with mgmt :=
          { ((s.kmpIn m).2.acceptSeq m).mgmt with keys := changeKey e ((s.kmpIn m).2.acceptSeq m).mgmt.keys } }) := by
  refine (takeKmp_takes h).trans ?_
  simp only [hparse, Option.isSome_some, hwhy]
  rfl

theorem execKeyManagement_rejected (h : s.TakesKmp m 8) {e : Nat}
    (hwhy : (s.kmpIn m).2.kmpReason m (Config.parseKeyChange m.payload).isSome true 6 = some e) :
    execKeyManagement m s = .next ((s.kmpIn m).2.reject m e) := by
  refine (takeKmp_takes h).trans ?_
  simp only [hwhy]

theorem takesMessage_of_mem : ∀ e ∈ kmpInstrs m, s.TakesMessage m e.1 e.2 := by
  repeat refine List.forall_mem_cons.2 ⟨by unfold State.TakesMessage exec; exact ⟨_, rfl⟩, ?_⟩
  exact List.forall_mem_nil _

/-! ### The management link -/

theorem execAnnouncementTimer_down (h : s.mgmt.linkUp = false) :
    (s.mgmt.trained = true → s.connected = true → execAnnouncementTimer s = .next (s.mgmt.kept.foldl State.sendKept
      (State.assertShared { s with mgmt := { s.mgmt with linkUp := true, kept := [] } } 41)).announce) ∧
    (s.mgmt.trained = false ∨ s.connected = false → execAnnouncementTimer s = .next s) := by
  have hdown : ¬(s.mgmt.linkUp = true) := by simp [h]
  refine ⟨fun ht hc => (if_neg hdown).trans (if_pos ⟨ht, hc⟩), fun hno => (if_neg hdown).trans (if_neg ?_)⟩
  rintro ⟨ht, hc⟩
  simp [ht, hc] at hno

theorem execManagementLinkLoss_eq (s : State) :
    (s.mgmt.linkUp = true → execManagementLinkLoss s =
      .next (State.assertShared { s with mgmt := { s.mgmt with linkUp := false } } 41)) ∧
    (s.mgmt.linkUp = false → execManagementLinkLoss s = .next s) :=
  ⟨fun h => congrArg _ (if_pos h), fun h => congrArg _ (if_neg (by simp [h]))⟩

/-! ### Addresses and echoes -/

theorem execArpRequest_eq (hup : s.mgmt.linkUp = true) (ip : BitVec 32) :
    (s.mgmt.ipv4 = some ip → execArpRequest ip s = .next (s.emit (.arp macAddr ip))) ∧
    (s.mgmt.ipv4 ≠ some ip → execArpRequest ip s = .next s) :=
  ⟨fun h => if_pos ⟨hup, h⟩, fun h => if_neg fun hc => h hc.2⟩

theorem execNeighborSolicitation_eq (hup : s.mgmt.linkUp = true) (ip : BitVec 128) :
    (ip = linkLocal ∨ s.mgmt.ipv6 = some ip → execNeighborSolicitation ip s = .next (s.emit (.advert macAddr ip))) ∧
    (ip ≠ linkLocal → s.mgmt.ipv6 ≠ some ip → execNeighborSolicitation ip s = .next s) :=
  ⟨fun h => if_pos ⟨hup, h⟩, fun h1 h2 => if_neg fun hc => not_or.2 ⟨h1, h2⟩ hc.2⟩

theorem execEchoRequest_eq (hup : s.mgmt.linkUp = true) (e : Echo) :
    (e.v6 = true ∨ s.mgmt.ipv4 ≠ none → execEchoRequest e s = .next (s.emit (.echo e))) ∧
    (e.v6 = false → s.mgmt.ipv4 = none → execEchoRequest e s = .next s) := by
  refine ⟨fun h => if_pos ⟨hup, h.imp_right Option.isSome_iff_ne_none.2⟩, fun h1 h2 => if_neg ?_⟩
  rintro ⟨-, hv6 | hip⟩
  · simp [h1] at hv6
  · simp [h2] at hip

/-! ### The board bus -/

/-- The board bus is served from order 4 of the start-up sequence (R436). -/
theorem busServed (hon : s.power.on = true) (horder : 4 ≤ s.power.order) : ¬(s.power.on = false ∨ s.power.order < 4) := by
  rintro (hoff | hlt)
  · simp [hon] at hoff
  · omega

theorem execMctpControl_served (hon : s.power.on = true) (horder : 4 ≤ s.power.order) :
    (∀ eid, execMctpControl (.setEndpointId eid) s = if eid = 0 ∨ eid = 0xFF then
      .next ((s.admitted .i3c 7).emit (.mctp 1 [2, 0, (s.admitted .i3c 7).mgmt.eid, 0]))
      else .next (State.emit { s.admitted .i3c 7 with mgmt := { (s.admitted .i3c 7).mgmt with eid := eid } }
        (.mctp 1 [0, 0, eid, 0]))) ∧
    execMctpControl .getEndpointId s = .next ((s.admitted .i3c 7).emit (.mctp 2 [0, (s.admitted .i3c 7).mgmt.eid, 0, 0])) ∧
    execMctpControl .getVersionSupport s =
      .next ((s.admitted .i3c 7).emit (.mctp 4 ([0, 1] ++ bytesOfBv 4 Config.mctpVersion))) ∧
    execMctpControl .getMessageTypeSupport s =
      .next ((s.admitted .i3c 7).emit (.mctp 5 [0, 4, 0x00, 0x05, 0x06, 0x7F])) :=
  ⟨fun _ => if_neg (busServed hon horder), if_neg (busServed hon horder), if_neg (busServed hon horder),
    if_neg (busServed hon horder)⟩

/-- The two bytes of a value, the low one first. -/
theorem bytesOfBv_two (v : BitVec 16) : bytesOfBv 2 v = [fld v 0 8, fld v 8 8] := by
  have hlow : BitVec.ofNat 8 v.toNat = fld v 0 8 := BitVec.eq_of_toNat_eq (by simp)
  have hhigh : BitVec.ofNat 8 (v.toNat / 256) = fld v 8 8 :=
    BitVec.eq_of_toNat_eq (by simp [Nat.shiftRight_eq_div_pow])
  simp only [bytesOfBv, bytesOfNat, hlow, hhigh]

section

variable {cc : I3cCommand} (hon : s.power.on = true) (horder : 4 ≤ s.power.order)

/-- The state in which a command of the board bus takes effect, with the management port changed. -/
def State.busTo (s : State) (f : Mgmt → Mgmt) : State :=
  { s.admitted .i3c 7 with mgmt := f (s.admitted .i3c 7).mgmt }

include hon horder

/-- The broadcasts are taken with or without a dynamic address (R346). -/
theorem execI3cCommonCommand_broadcast (n : BitVec 16) (b : Byte) :
    execI3cCommonCommand .rstdaa s = .next (s.busTo fun m => { m with dynAddr := none }) ∧
    execI3cCommonCommand .enec s = .next (s.busTo fun m => { m with ibiOff := false }) ∧
    execI3cCommonCommand .disec s = .next (s.busTo fun m => { m with ibiOff := true }) ∧
    execI3cCommonCommand (.setmwl n) s = .next (s.busTo fun m => { m with mwl := n }) ∧
    execI3cCommonCommand (.setmrl n) s = .next (s.busTo fun m => { m with mrl := n }) ∧
    execI3cCommonCommand (.rstact b) s = .next (s.busTo fun m => { m with rstAct := b }) := by
  have hserved := busServed hon horder
  exact ⟨if_neg hserved, if_neg hserved, if_neg hserved, if_neg hserved, if_neg hserved, if_neg hserved⟩

/-- Without a dynamic address the device answers ENTDAA alone (R346). -/
theorem execI3cCommonCommand_unaddressed (hd : (s.admitted .i3c 7).mgmt.dynAddr = none) (a : BitVec 7) :
    (∃ bs, bs.length = 8 ∧ execI3cCommonCommand (.entdaa a) s =
      .next ((s.busTo fun m => { m with dynAddr := some a }).emit (.i3c bs))) ∧
    ∀ cc ∈ [I3cCommand.setnewda a, .getpid, .getbcr, .getdcr, .getstatus, .getcaps, .getmwl, .getmrl],
      execI3cCommonCommand cc s = .next (s.admitted .i3c 7) := by
  have hserved := busServed hon horder
  refine ⟨⟨(bytesOfBv 6 (Config.i3cPid Config.serial)).reverse ++ [Config.i3cBcr, Config.i3cDcr], rfl, ?_⟩, ?_⟩
  · simp only [execI3cCommonCommand, if_neg hserved, hd]
    rfl
  · repeat refine List.forall_mem_cons.2 ⟨by simp only [execI3cCommonCommand, if_neg hserved, hd], ?_⟩
    exact List.forall_mem_nil _

/-- With a dynamic address the device answers what asks for its own values (R346). -/
theorem execI3cCommonCommand_addressed {x : BitVec 7} (hd : (s.admitted .i3c 7).mgmt.dynAddr = some x) (a : BitVec 7) :
    execI3cCommonCommand (.entdaa a) s = .next (s.admitted .i3c 7) ∧
    execI3cCommonCommand (.setnewda a) s = .next (s.busTo fun m => { m with dynAddr := some a }) ∧
    execI3cCommonCommand .getpid s =
      .next ((s.admitted .i3c 7).emit (.i3c (bytesOfBv 6 (Config.i3cPid Config.serial)).reverse)) ∧
    execI3cCommonCommand .getbcr s = .next ((s.admitted .i3c 7).emit (.i3c [Config.i3cBcr])) ∧
    execI3cCommonCommand .getdcr s = .next ((s.admitted .i3c 7).emit (.i3c [Config.i3cDcr])) ∧
    execI3cCommonCommand .getstatus s = .next ((s.admitted .i3c 7).fresh.2.emit
      (.i3c (bytesOfBv 2 ((s.admitted .i3c 7).fresh.1.setWidth 16)))) ∧
    execI3cCommonCommand .getcaps s = .next ((s.admitted .i3c 7).emit (.i3c (bytesOfBv 4 Config.i3cCaps))) ∧
    execI3cCommonCommand .getmwl s = .next ((s.admitted .i3c 7).emit
      (.i3c [fld (s.admitted .i3c 7).mgmt.mwl 8 8, fld (s.admitted .i3c 7).mgmt.mwl 0 8])) ∧
    execI3cCommonCommand .getmrl s = .next ((s.admitted .i3c 7).emit
      (.i3c [fld (s.admitted .i3c 7).mgmt.mrl 8 8, fld (s.admitted .i3c 7).mgmt.mrl 0 8])) := by
  have hserved := busServed hon horder
  simp [execI3cCommonCommand, hserved, hd, bytesOfBv_two, State.busTo]

end

/-! ### The statement -/

/-- Settles O55: each clause is one branch of its message or event. -/
theorem managementCompletes : Obligations.ManagementCompletes := by
  unfold Obligations.ManagementCompletes
  refine ⟨⟨fun s m h => ?control, fun s m h => ?piece, fun s m h => ?network, fun s m h => ?keys, fun s m e he => ?kept⟩,
    fun s => ⟨fun hup => ?linkUp, fun hdown => (execAnnouncementTimer_down hdown).1, fun hdown => ?linkDown⟩,
    fun s ip4 ip6 e hup => ?addresses, fun s eid hon horder => ?mctp,
    fun s m h => (if_pos h : execMctpControl m s = _), fun s a n b hon horder => ?i3c,
    fun s cc h => (if_pos h : execI3cCommonCommand cc s = _)⟩
  case control =>
    refine ⟨fun n hwhy => execControlRequest_rejected h hwhy, fun hwhy => (execControlRequest_accepted h hwhy).1, ?_⟩
    exact fun e hwhy => (execControlRequest_accepted h hwhy).2 e
  case piece =>
    exact ⟨fun hfits => (execFirmwarePiece_eq h).trans (congrArg _ (if_pos hfits)),
      fun hnot => (execFirmwarePiece_eq h).trans (congrArg _ (if_neg hnot))⟩
  case network =>
    exact ⟨fun n hparse hwhy => execNetworkConfiguration_stored h hparse hwhy,
      fun e hwhy => execNetworkConfiguration_rejected h hwhy⟩
  case keys =>
    refine ⟨fun e hparse hwhy => ⟨fun hbars => ?_, fun hopen => ?_⟩, fun e hwhy => execKeyManagement_rejected h hwhy⟩
    · exact (execKeyManagement_changes h hparse hwhy).trans (congrArg _ (if_pos hbars))
    · exact (execKeyManagement_changes h hparse hwhy).trans (congrArg _ (if_neg (Bool.eq_false_iff.1 hopen)))
  case kept =>
    obtain ⟨f, hexec⟩ := takesMessage_of_mem (s := s) e he
    exact ⟨fun h => hexec.trans (takeKmp_discarded h),
      fun hstart hopen hkept htype => hexec.trans (takeKmp_switch hstart hopen hkept htype)⟩
  case linkUp =>
    exact ⟨(if_pos hup : execAnnouncementTimer s = _), (execManagementLinkLoss_eq s).1 hup⟩
  case linkDown =>
    exact ⟨(execManagementLinkLoss_eq s).2 hdown, (execAnnouncementTimer_down hdown).2⟩
  case addresses =>
    obtain ⟨harp, hnoArp⟩ := execArpRequest_eq hup ip4
    obtain ⟨hadvert, hnoAdvert⟩ := execNeighborSolicitation_eq hup ip6
    exact ⟨harp, hnoArp, hadvert, hnoAdvert, execEchoRequest_eq hup e⟩
  case mctp =>
    obtain ⟨hset, hget, hversion, htypes⟩ := execMctpControl_served hon horder
    refine ⟨fun h0 hff => ?_, fun hbad => ?_, hget, ⟨_, hversion⟩, htypes⟩
    · exact (hset eid).trans (if_neg (not_or.2 ⟨h0, hff⟩))
    · exact (hset eid).trans (if_pos hbad)
  case i3c =>
    obtain ⟨hrstdaa, henec, hdisec, hmwl, hmrl, hrstact⟩ := execI3cCommonCommand_broadcast hon horder n b
    refine ⟨fun hd => (execI3cCommonCommand_unaddressed hon horder hd a).1, fun hd => ?_, fun hd => ?_, hrstdaa, henec, hdisec,
      hmwl, hmrl, hrstact, fun hd => ?_, fun hd => ?_⟩
    · obtain ⟨x, hx⟩ := Option.ne_none_iff_exists'.1 hd
      obtain ⟨hentdaa, hsetnewda, -⟩ := execI3cCommonCommand_addressed hon horder hx a
      exact ⟨hentdaa, hsetnewda⟩
    · exact (execI3cCommonCommand_unaddressed hon horder hd a).2 _ List.mem_cons_self
    · obtain ⟨x, hx⟩ := Option.ne_none_iff_exists'.1 hd
      obtain ⟨-, -, hpid, hbcr, hdcr, hstatus, hcaps, hgetmwl, hgetmrl⟩ := execI3cCommonCommand_addressed hon horder hx a
      refine ⟨⟨_, rfl, hpid⟩, ?_, ⟨_, rfl, hstatus⟩, ⟨_, rfl, hcaps⟩, hgetmwl, hgetmrl⟩
      rintro cc (rfl | rfl)
      · exact ⟨_, hbcr⟩
      · exact ⟨_, hdcr⟩
    · exact fun cc hcc => (execI3cCommonCommand_unaddressed hon horder hd a).2 cc (List.mem_cons_of_mem _ hcc)

end Sys2Proof.Machine
end

section
/-! The law of a ring command that completes (R323-R326, R393, R436, R441): it is taken off its ring, and runs on or is
answered OK. What a command does apart from the rings keeps that, and so does every OK that any command gets. -/

namespace Sys2Proof.Machine

variable {s t u : State} {r : RingIx} {c : PendCmd}

/-! ### A command that its ring has let go -/

/-- Command `c`, the first that waited on ring `r` in state `s`, waits there no longer in state `t`: it runs, or its
answer is OK or OK_TRUNCATED (R323, R326). -/
structure State.Taken (s : State) (r : RingIx) (c : PendCmd) (t : State) : Prop where
  wf : SMap.wf {} t.rings = true
  pend : (t.ring r).pend = (s.ring r).pend.tail
  goes : c ∈ (t.ring r).running ∨ ∃ q ∈ (t.ring r).done, q.cmd = c ∧ q.status.toNat ≤ 1

/-- Nothing that is apart from the rings takes it back. -/
theorem State.Taken.of_rings (h : s.Taken r c t) (hu : u.rings = t.rings) : s.Taken r c u := by
  have hring : u.ring r = t.ring r := congrArg (look ({} : Ring) · r.val) hu
  exact ⟨by rw [hu]; exact h.wf, by rw [hring]; exact h.pend, by rw [hring]; exact h.goes⟩

/-- A status that is OK or OK_TRUNCATED. -/
theorem replyOf_ok (r : Nat) (c : PendCmd) (detail : Nat) (data : List Byte) :
    (replyOf r c 0 detail data).cmd = c ∧ (replyOf r c 0 detail data).status.toNat ≤ 1 := by
  unfold replyOf
  split
  · exact ⟨rfl, Nat.le_refl 1⟩
  · exact ⟨rfl, Nat.zero_le 1⟩

/-- Nor does an OK that any command gets, itself among them. -/
theorem State.Taken.reply (h : s.Taken r c t) (hm : c.mute = false) (q : Nat) (x : PendCmd) (detail : Nat) (data : List Byte) :
    s.Taken r c (t.reply q x 0 detail data) := by
  by_cases hx : x ∈ (t.ring q).running
  case neg => rw [reply_notRunning hx]; exact h
  rw [reply_running hx]
  refine ⟨put_wf h.wf, ?_, ?_⟩
  · rw [ring_modRing h.wf]
    split
    case isTrue hq => rw [← hq]; exact h.pend
    case isFalse => exact h.pend
  · rw [ring_modRing h.wf]
    split
    case isFalse => exact h.goes
    case isTrue hq =>
      subst hq
      obtain hrun | ⟨y, hy, hcmd⟩ := h.goes
      · by_cases hxc : x = c
        · subst hxc
          refine .inr ⟨_, ?_, replyOf_ok r x detail data⟩
          simp [Ring.finished, hm]
        · exact .inl ((List.mem_erase_of_ne (Ne.symm hxc)).2 hrun)
      · refine .inr ⟨y, ?_, hcmd⟩
        unfold Ring.finished
        dsimp only
        split
        · exact hy
        · exact List.mem_append_left _ hy

theorem State.Taken.finish (h : s.Taken r c t) (hm : c.mute = false) (f : PendCmd → Bool) (detail : Nat) (data : List Byte) :
    s.Taken r c (t.finish f 0 detail data) :=
  foldl_keeps (P := s.Taken r c) _ h fun _ _ hv =>
    foldl_keeps (P := s.Taken r c) _ hv fun _ _ hw => hw.reply hm _ _ _ _

/-! ### The command that starts -/

section

variable {op : Nat} {states : List PartState} {bad : PendCmd → Option Nat}

theorem started_taken (h : s.Starts r op states bad c) : s.Taken r c (s.started r c) := by
  obtain ⟨-, -, -, -, -, -, -, -, -, -, -, hw⟩ := h
  have hr : (s.started r c).ring r = { s.ring r with pend := (s.ring r).pend.tail, running := (s.ring r).running ++ [c] } := by
    unfold State.started
    rw [ring_modRing hw, if_pos rfl]
  exact ⟨put_wf hw, by rw [hr], .inl (by rw [hr]; simp)⟩

/-- The command leaves its ring and goes on, where it starts. -/
def State.Completes (s : State) (r : RingIx) (c : PendCmd) (i : Instr) : Prop := ∃ t, exec i s = .next t ∧ s.Taken r c t

variable {i : Instr}

theorem completes_goes (h : s.Starts r op states bad c) (hexec : exec i s = .next t) (ht : t.rings = (s.started r c).rings) :
    s.Completes r c i := ⟨t, hexec, (started_taken h).of_rings ht⟩

theorem completes_replies {detail : Nat} {data : List Byte} (h : s.Starts r op states bad c)
    (hexec : exec i s = .next (t.reply r c 0 detail data)) (ht : t.rings = (s.started r c).rings) : s.Completes r c i := by
  obtain ⟨-, -, -, -, -, -, -, -, -, hm, -, -⟩ := id h
  exact ⟨_, hexec, ((started_taken h).of_rings ht).reply hm _ _ _ _⟩

theorem completes_answers {detail : Nat} {data : List Byte} (h : s.Starts r op states bad c)
    (hexec : exec i s = .next (t.answered r c 0 detail data)) (ht : t.rings = s.rings) : s.Completes r c i := by
  have hring : t.ring r = s.ring r := congrArg (look ({} : Ring) · r.val) ht
  have hstart : (t.started r c).rings = (s.started r c).rings := by
    simp only [State.started, modRing_rings, hring, ht]
  have hsame : ({ t.started r c with rings := s.rings } : State) = t := by
    rw [← ht]
    rfl
  refine completes_replies (t := t.started r c) (detail := detail) (data := data) h ?_ hstart
  rw [hexec, reply_started_of h hstart, hsame]

end

/-! ### What leaves the rings as they are -/

theorem foldl_rings {α : Type} {f : State → α → State} (h : ∀ t a, (f t a).rings = t.rings) (l : List α) (s : State) :
    (l.foldl f s).rings = s.rings :=
  foldl_keeps (P := fun t : State => t.rings = s.rings) l rfl fun t a ht => (h t a).trans ht

@[simp] theorem setPartState_rings (s : State) (p : Nat) (x : PartState) : (s.setPartState p x).rings = s.rings := by
  unfold State.setPartState
  dsimp only
  split <;> rfl

@[simp] theorem mapBenches_rings (s : State) (f : Nat → Bench → Bench) : (s.mapBenches f).rings = s.rings :=
  foldl_rings (fun _ _ => modDie_rings ..) _ s

@[simp] theorem settleBenches_rings (s : State) (p : Nat) : (s.settleBenches p).rings = s.rings :=
  foldl_rings (fun _ _ => modDie_rings ..) _ s

/-- A form's reset is apart from the rings (R163). -/
@[simp] theorem resetForms_rings (s : State) (p : Nat) : (s.resetForms p).rings = s.rings := by
  unfold State.resetForms
  dsimp only [modPart_rings]
  rw [foldl_rings fun _ _ => modDie_rings .., foldl_rings fun _ _ => modCell_rings ..]

@[simp] theorem dropImage_rings (s : State) (p : Nat) : (s.dropImage p).rings = s.rings := resetForms_rings s p

@[simp] theorem placePacket_rings (s : State) (p dx dy : Nat) (pkt : Packet) : (s.placePacket p dx dy pkt).rings = s.rings := by
  unfold State.placePacket
  dsimp only
  split
  · rfl
  · split
    · split <;> rfl
    · rfl

@[simp] theorem sendCtl_rings (s : State) (p seat : Nat) (c : Control) : (s.sendCtl p seat c).rings = s.rings := by
  unfold State.sendCtl State.sendPacket State.sendMarked
  dsimp only
  split
  · split
    · exact placePacket_rings ..
    · rfl
  · split
    · exact placePacket_rings ..
    · rfl

@[simp] theorem issueReads_rings (s : State) (p : Nat) (j : SvcJob) : (s.issueReads p j).rings = s.rings := by
  unfold State.issueReads
  split
  · rfl
  · exact foldl_rings (fun _ _ => emit_rings ..) _ s

@[simp] theorem askFor_rings (s : State) (p : Nat) (step : BitVec 64) : (s.askFor p step).rings = s.rings :=
  foldl_rings (fun t j => issueReads_rings t p j) _ s

@[simp] theorem askWaypoint_rings (s : State) (p : Nat) : (s.askWaypoint p).rings = s.rings := by
  unfold State.askWaypoint
  dsimp only
  split
  · split <;> rfl
  · rfl

@[simp] theorem resetVersions_rings (s : State) (p : Nat) : (s.resetVersions p).rings = s.rings :=
  foldl_rings (fun _ _ => foldl_rings (fun _ _ => modDie_rings ..) _ _) _ s

@[simp] theorem beginJob_rings (s : State) (p : Nat) (first : BitVec 64) (wp : Bool) : (s.beginJob p first wp).rings = s.rings := by
  unfold State.beginJob
  simp only [askWaypoint_rings, askFor_rings, setPartState_rings]
  cases wp
  · simp only [Bool.false_eq_true, if_false, resetVersions_rings]
    rw [foldl_rings fun _ _ => modDie_rings .., modPart_rings, resetForms_rings]
  · rfl

@[simp] theorem snoopRange_rings (s : State) (d a n : Nat) (inv : Bool) : (s.snoopRange d a n inv).rings = s.rings :=
  foldl_rings (fun _ _ => emit_rings ..) _ s

@[simp] theorem writeHbm_rings (s : State) (d a : Nat) (bs : List Byte) : (s.writeHbm d a bs).rings = s.rings := by
  unfold State.writeHbm State.storeHbm
  dsimp only
  split
  · exact snoopRange_rings ..
  · exact snoopRange_rings ..

@[simp] theorem hostWrite_rings (s : State) (d a : Nat) (bs : List Byte) : (s.hostWrite d a bs).rings = s.rings := by
  unfold State.hostWrite
  split
  · rfl
  · refine foldl_rings (fun t e => ?_) _ s
    split
    · exact writeHbm_rings ..
    · exact writeHbm_rings ..
    · rfl

@[simp] theorem clearRecord_rings (s : State) (kind i : Nat) : (s.clearRecord kind i).rings = s.rings := by
  unfold State.clearRecord
  split <;> rfl

@[simp] theorem setPolicy_rings (p : Nat) (q : PowerPolicy) (s : State) : (s.setPolicy p q).rings = s.rings :=
  mapBenches_rings ..

@[simp] theorem wakeAll_rings (s : State) : s.wakeAll.rings = s.rings := rfl

/-! ### Commands that others' answers follow -/

/-- R313: the apertures whose lines the host has all answered for are mapped anew, each APERTURE_MAP with an OK. -/
theorem State.Taken.finishRemaps (h : s.Taken r c t) (hm : c.mute = false) : s.Taken r c t.finishRemaps := by
  unfold State.finishRemaps
  refine foldl_keeps (P := s.Taken r c) _ h fun v e hv => ?_
  split
  · refine State.Taken.finish ?_ hm _ _ _
    exact hv.of_rings rfl
  · exact hv

/-- R424: the exams without a slice left are over, each EXAM_RUN with an OK. -/
theorem State.Taken.finishExams (h : s.Taken r c t) (hm : c.mute = false) : s.Taken r c t.finishExams := by
  refine foldl_keeps (P := s.Taken r c) _ h fun v e hv => ?_
  dsimp only
  split
  · exact hv
  · exact hv.reply hm _ _ _ _

theorem State.Taken.finishPower (h : s.Taken r c t) (hm : c.mute = false) : s.Taken r c t.finishPower := h.finish hm _ _ _

end Sys2Proof.Machine
end

section
/-! The ring commands complete (R323-R326, R393, R436, R441): each, where its own rules let it, is taken off its ring. -/

namespace Sys2Proof.Machine

variable {s : State} {r : RingIx} {c : PendCmd} {data : HostData} {smp : TeleSample}

/-! ### Host set-up -/

theorem identify_completes (h : s.Starts r 0x0101 anyState noParams c) : s.Completes r c (.identify r) :=
  completes_replies h (runCmd_does h : execIdentify r s = _) rfl

theorem featureRead_completes (h : s.Starts r 0x0102 anyState noParams c) : s.Completes r c (.featureRead r) :=
  completes_replies h (runCmd_does h : execFeatureRead r s = _) rfl

theorem status_completes (h : s.Starts r 0x0205 anyState noParams c) : s.Completes r c (.status r) :=
  completes_replies h (runCmd_does h : execStatus r s = _) rfl

theorem partitionSet_completes (h : s.Starts r 0x0103 anyState (fun c => lowest [badMasks c.masks, c.rsv 16 16]) c)
    (he : ∀ p < 4, (s.part p).state = .empty) : s.Completes r c (.partitionSet r) :=
  completes_answers h (execPartitionSet_empty h he) ((takeMasks_apartFromRings c).rings_eq s)

theorem fabricConfig_completes (h : s.Starts r 0x0104 anyState (badFabric s) c) (hoff : ∀ i < 4, (s.port i).state = .off) :
    s.Completes r c (.fabricConfig r) :=
  completes_answers h (execFabricConfig_off h (portsOn_eq_nil.2 hoff)) rfl

theorem portEnable_completes (h : s.Starts r 0x0105 anyState (fun c => c.rsv 8 24) c) : s.Completes r c (.portEnable r) :=
  completes_replies h (runCmd_does h : execPortEnable r s = _) (foldl_rings (fun _ _ => by
    split
    · exact (setPort_apartFromRings _ _).rings_eq _
    · rfl) _ _)

/-! ### Jobs -/

theorem loadImage_completes (h : s.Starts r 0x0201 [.empty, .loaded, .halted, .fenced] badLoad c)
    (hread : data.failAt = none) (hreport : (s.loadReport c (c.imageBytes data)).reason = 0) :
    s.Completes r c (.loadImage r data) :=
  completes_goes h (execLoadImage_accepted h hread hreport) rfl

theorem startJob_completes (h : s.Starts r 0x0202 [.loaded, .halted] (badStart s) c)
    (hc : if (s.part c.part).image.single = true then c.par 65 1 = 0 else (s.part c.part).chart.held = true) :
    s.Completes r c (.startJob r) := by
  have hchart : (s.part c.part).image.single = true ∨ (s.part c.part).chart.held = true := by
    split at hc
    · exact .inl ‹_›
    · exact .inr hc
  have hwaypoint : ¬((s.part c.part).image.single = true ∧ c.fromWaypoint) := by
    rintro ⟨hs, hw⟩
    rw [if_pos hs] at hc
    exact absurd (hw.symm.trans hc) (by decide)
  have hrun := execStartJob_begins h hchart hwaypoint
  by_cases hw : c.fromWaypoint
  · exact completes_goes h (hrun.trans (congrArg _ (if_pos hw))) (beginJob_rings ..)
  · exact completes_replies h (hrun.trans (congrArg _ (if_neg hw))) ((sendCtl_rings ..).trans (beginJob_rings ..))

theorem stopJob_completes (h : s.Starts r 0x0203 [.running, .starting] noParams c) (hl : (s.part c.part).isLode = true) :
    s.Completes r c (.stopJob r) :=
  completes_answers h (execStopJob_lodestar h hl) rfl

theorem unload_completes (h : s.Starts r 0x0204 [.empty, .loaded, .primed, .halted, .fenced] noParams c) :
    s.Completes r c (.unload r) :=
  completes_replies h (execUnload_empties h) (by simp)

/-! ### HBM, apertures and the journal -/

theorem writeHbm_completes (h : s.Starts r 0x0301 [.loaded, .halted, .running] (badSpan true) c)
    (hdie : bit (s.part c.part).dies (c.par 64 2) = true)
    (hsnoop : s.cxl.mustSnoop (c.par 64 2) (c.par 96 40) (c.par 160 32) true = []) (hread : data.failAt = none) :
    s.Completes r c (.writeHbm r data) := by
  have hrun : execWriteHbm r data s = .next (((s.started r c).hostWrite (c.par 64 2) (c.par 96 40)
      ((data.bytes ++ List.replicate (c.par 160 32) 0).take (c.par 160 32))).reply r c 0 0 []) := by
    rw [execWriteHbm, runCmd_starts h (by simpa [hdie] using hsnoop)]
    simp [hdie, hread, State.ok]
  exact completes_replies h hrun (hostWrite_rings ..)

theorem readHbm_completes (h : s.Starts r 0x0302 [.loaded, .primed, .starting, .running, .halted, .fenced] (badSpan false) c)
    (hdie : bit (s.part c.part).dies (c.par 64 2) = true)
    (hsnoop : s.cxl.mustSnoop (c.par 64 2) (c.par 96 40) (c.par 160 32) false = []) : s.Completes r c (.readHbm r) := by
  have hrun : execReadHbm r s = .next ((s.started r c).reply r c 0 0
      ((s.started r c).hbmView (c.par 64 2) (c.par 96 40) (c.par 160 32))) := by
    rw [execReadHbm, runCmd_starts h (by simpa [hdie] using hsnoop)]
    simp [hdie]
  exact completes_replies h hrun rfl

/-- With no line of the aperture recorded, the map changes at once (R313). -/
theorem apertureMap_completes (h : s.Starts r 0x0303 anyState badAperture c)
    (hdie : c.part = 0 ∨ c.par 31 1 = 1 ∨ bit (s.part c.part).dies (c.par 4 2) = true)
    {a : Fin 16} (ha : c.par 0 4 = a.val) (hnone : look none s.cxl.apertures a = none) : s.Completes r c (.apertureMap r) := by
  have hpart : ¬(c.part ≠ 0 ∧ c.par 31 1 = 0 ∧ bit (s.part c.part).dies (c.par 4 2) = false) := by
    rintro ⟨h1, h2, h3⟩
    obtain h0 | h0 | h0 := hdie
    · exact h1 h0
    · omega
    · simp [h3] at h0
  have hix : c.par 0 4 % 16 = a := by rw [ha]; exact Nat.mod_eq_of_lt a.isLt
  have hrun : execApertureMap r s = .next (State.finishRemaps { s.started r c with cxl := { s.cxl with
      remap := s.cxl.remap ++ [(a, c.aperture)] } }) := by
    rw [execApertureMap, runCmd_does h]
    simp only [started_part, started_cxl, if_neg hpart, hix, Fin.eta, hnone]
  obtain ⟨-, -, -, -, -, -, -, -, -, hm, -, -⟩ := id h
  refine ⟨_, hrun, State.Taken.finishRemaps ?_ hm⟩
  exact (started_taken h).of_rings rfl

theorem journalRead_completes
    (h : s.Starts r 0x0304 [.loaded, .primed, .starting, .running, .halted, .fenced] badJournalRead c) :
    s.Completes r c (.journalRead r) :=
  completes_replies h (runCmd_does h : execJournalRead r s = _) rfl

/-! ### Charts -/

theorem chartLoad_completes (h : s.Starts r 0x0401 [.loaded, .halted, .primed] badChart c)
    (hprimed : ¬((s.part c.part).state = .primed ∧ (s.part c.part).chart.held = true))
    (hchart : s.chartRefused (s.part c.part) c.chart = none) : s.Completes r c (.chartLoad r) := by
  have hgroups : (s.started r c).chartRefused (s.part c.part) c.chart = none := hchart
  have hrun := (runCmd_does h : execChartLoad r s = _)
  simp only [started_part, if_neg hprimed, hgroups] at hrun
  exact completes_replies h hrun rfl

theorem chartRead_completes (h : s.Starts r 0x0402 anyState noParams c) (hheld : (s.part c.part).chart.held = true) :
    s.Completes r c (.chartRead r) :=
  completes_replies h ((runCmd_does h : execChartRead r s = _).trans (congrArg _ (if_pos hheld))) rfl

/-! ### Firmware -/

theorem fwBegin_completes (h : s.Starts r 0x0501 anyState badFwBegin c) (h4 : s.fw.state ≠ 4) : s.Completes r c (.fwBegin r) := by
  by_cases hsame : 1 ≤ s.fw.state ∧ s.fw.state ≤ 3 ∧ s.fw.length = c.par 32 32 ∧ s.fw.imageId.toNat = c.par 64 64
  · obtain ⟨h1, h3, hlen, hid⟩ := hsame
    exact completes_answers h (execFwBegin_resumes h h1 h3 hlen hid) rfl
  · have hrun := (runCmd_does h : execFwBegin r s = _).trans (congrArg _ ((if_neg h4).trans (if_neg hsame)))
    exact completes_replies h hrun rfl

theorem fwBlock_completes (h : s.Starts r 0x0502 anyState noParams c) (h1 : s.fw.state = 1)
    (hid : s.fw.imageId.toNat = c.par 128 64) (h0 : c.par 64 32 % 1024 = 0) (hlt : c.par 64 32 < s.fw.length)
    (hok : blockOk s.fw.length (c.par 64 32) (c.par 96 32) = true) (hread : data.failAt = none) :
    s.Completes r c (.fwBlock r data) :=
  completes_replies h (execFwBlock_stages h h1 hid h0 hlt hok hread) rfl

theorem fwStatus_completes (h : s.Starts r 0x0503 anyState noParams c) : s.Completes r c (.fwStatus r) :=
  completes_replies h (runCmd_does h : execFwStatus r s = _) rfl

theorem fwActivate_completes (h : s.Starts r 0x0504 anyState badFwActivate c) (h3 : s.fw.state = 3)
    (hrec : s.power.state ≠ .recovery) : s.Completes r c (.fwActivate r) :=
  completes_goes h (execFwActivate_waits h h3 hrec) rfl

theorem fwDiscard_completes (h : s.Starts r 0x0505 anyState noParams c) (h4 : s.fw.state ≠ 4) :
    s.Completes r c (.fwDiscard r) :=
  completes_answers h (execFwDiscard_ends h h4) rfl

theorem fwFuse_completes (h : s.Starts r 0x0506 anyState badFwFuse c) (hkey : c.par 32 32 = 0x45535546)
    (hun : s.sec.unlocked = false)
    (hfuse : c.par 0 4 = 1 ∧ s.fw.svnFloor < s.runningSvn ∨ c.par 0 4 = 2 ∧ s.fw.debugFuse = false) :
    s.Completes r c (.fwFuse r) := by
  obtain ⟨hsvn, hlt⟩ | ⟨hdebug, hintact⟩ := hfuse
  · exact completes_answers h ((execFwFuse_svn h hkey hsvn).2.2 hlt hun) rfl
  · exact completes_answers h ((execFwFuse_debug h hkey hdebug).2 hintact hun) rfl

/-! ### Power -/

theorem powerStatus_completes (h : s.Starts r 0x0601 anyState noParams c) : s.Completes r c (.powerStatus r) :=
  completes_replies h (runCmd_does h : execPowerStatus r s = _) rfl

theorem powerPolicy_completes (h : s.Starts r 0x0602 anyState badPolicy c) : s.Completes r c (.powerPolicy r) :=
  completes_replies h (execPowerPolicy_sets h) (setPolicy_rings ..)

theorem benchState_completes (h : s.Starts r 0x0603 anyState (fun c => lowest [c.rsv 3 29, c.rsv 56 8]) c)
    (hdie : bit (s.part c.part).dies (c.par 0 2) = true) (hstandby : s.power.standby = false)
    (hfree : c.par 2 1 = 0 ∨ ¬(s.part c.part).state.busy) : s.Completes r c (.benchState r) := by
  have hrings := fun f => (modBenchMask_apartFromRings c f).rings_eq s
  obtain ⟨hdown, hup⟩ := execBenchState_sets h hdie hstandby
  by_cases h0 : c.par 2 1 = 0
  · exact completes_answers h (hup h0) (hrings _)
  · have h1 : c.par 2 1 = 1 := by
      have hlt : c.par 2 1 < 2 := Nat.mod_lt _ (by decide)
      omega
    exact completes_answers h (hdown h1 (hfree.resolve_left h0)) (hrings _)

theorem dieState_completes (h : s.Starts r 0x0604 anyState (fun c => c.rsv 1 31) c) (hstandby : s.power.standby = false)
    (hfree : c.par 0 1 = 0 ∨ ¬(s.part c.part).state.busy) : s.Completes r c (.dieState r) := by
  obtain ⟨-, -, -, -, -, -, -, -, -, hm, -, -⟩ := id h
  refine ⟨_, execDieState_asks h hfree.symm hstandby, ((started_taken h).of_rings ?_).finishPower hm⟩
  exact foldl_rings (fun _ _ => modDie_rings ..) _ _

theorem deviceStandby_completes (h : s.Starts r 0x0605 anyState (fun c => c.rsv 1 31) c)
    (hc : c.par 0 1 = 0 ∨ s.power.standby = true ∨
      ((∀ p < 4, (s.part p).state = .empty) ∧ ∀ i < 4, (s.port i).state = .off)) : s.Completes r c (.deviceStandby r) := by
  have hbit : c.par 0 1 = 0 ∨ c.par 0 1 = 1 := by
    have hlt : c.par 0 1 < 2 := Nat.mod_lt _ (by decide)
    omega
  cases hin : s.power.standby
  · obtain hup | hdown := hbit
    · exact completes_answers h ((execDeviceStandby_leaves h hup).1 hin) rfl
    · obtain h0 | h0 | ⟨hparts, hports⟩ := hc
      · omega
      · simp [hin] at h0
      · exact completes_replies h ((execDeviceStandby_enters h hdown).2.1 hin hparts hports) rfl
  · obtain hup | hdown := hbit
    · exact completes_goes h ((execDeviceStandby_leaves h hup).2 hin) (wakeAll_rings _)
    · exact completes_answers h ((execDeviceStandby_enters h hdown).1 hin) rfl

theorem powerCap_completes (h : s.Starts r 0x0606 anyState badCap c) (hcap : c.par 0 12 ≤ s.power.stageCeiling) :
    s.Completes r c (.powerCap r) :=
  completes_answers h ((execPowerCap_answers h).2 hcap) rfl

/-! ### Exams, telemetry, records and services -/

theorem examResults_completes (h : s.Starts r 0x0701 anyState badExamResults c) : s.Completes r c (.examResults r) :=
  completes_answers h (execExamResults_answers h) rfl

theorem examRun_completes (h : s.Starts r 0x0702 anyState badExamRun c)
    (hc : c.par 32 1 = 1 ∨ s.examRefused (s.ringDies r) c.examTarget = none) : s.Completes r c (.examRun r) := by
  obtain ⟨-, -, -, -, -, -, -, -, -, hm, -, -⟩ := id h
  by_cases hfull : c.par 32 1 = 1
  · refine ⟨_, execExamRun_full h hfull, State.Taken.finishExams ?_ hm⟩
    exact (started_taken h).of_rings rfl
  · exact completes_goes h (execExamRun_takes h hfull (hc.resolve_left hfull)) rfl

theorem examPolicy_completes (h : s.Starts r 0x0703 anyState (fun c => c.rsv 7 25) c) : s.Completes r c (.examPolicy r) :=
  completes_answers h (execExamPolicy_answers h) rfl

theorem telemetryRead_completes (h : s.Starts r 0x0801 anyState (badSelector true) c) :
    s.Completes r c (.telemetryRead r smp) :=
  completes_answers h (execTelemetryRead_answers h) rfl

theorem telemetryClear_completes (h : s.Starts r 0x0802 anyState (badSelector false) c) :
    s.Completes r c (.telemetryClear r) :=
  completes_replies h (execTelemetryClear_clears h) (clearRecord_rings ..)

theorem recordRead_completes (h : s.Starts r 0x0803 anyState badRecordRead c) : s.Completes r c (.recordRead r) :=
  completes_answers h (execRecordRead_answers h) rfl

theorem serviceSet_completes (h : s.Starts r 0x0804 anyState badServiceSet c) : s.Completes r c (.serviceSet r) :=
  completes_answers h (execServiceSet_answers h) rfl

/-! ### The statement -/

/-- What the statement says of a command that completes. -/
theorem State.Completes.taken {i : Instr} (h : s.Completes r c i) : ∃ t, exec i s = .next t ∧
    (t.ring r).pend = (s.ring r).pend.tail ∧
      (c ∈ (t.ring r).running ∨ ∃ q ∈ (t.ring r).done, q.cmd = c ∧ q.status.toNat ≤ 1) :=
  let ⟨t, hexec, ht⟩ := h
  ⟨t, hexec, ht.pend, ht.goes⟩

/-- A device reset leaves every ring as it is after reset (R432). -/
theorem deviceReset_completes (h : s.Starts r 0x0106 anyState noParams c) :
    ∃ t, exec (.deviceReset r) s = .next t ∧ t.rings = State.reset.rings :=
  ⟨_, execDeviceReset_answers h, rfl⟩

/-- Settles O11: one command after another, by its law above. -/
theorem ringCommandsComplete : Obligations.RingCommandsComplete := by
  unfold Obligations.RingCommandsComplete
  intro s r c data smp P busy idle own here block
  refine ⟨?_, deviceReset_completes⟩
  simp only [List.forall_mem_cons]
  refine ⟨fun h _ => (identify_completes h).taken, fun h _ => (featureRead_completes h).taken,
    fun h hc => (partitionSet_completes h hc).taken, fun h hc => (fabricConfig_completes h hc).taken,
    fun h _ => (portEnable_completes h).taken, fun h hc => (loadImage_completes h hc.1 hc.2).taken,
    fun h hc => (startJob_completes h hc).taken, fun h hc => (stopJob_completes h hc).taken,
    fun h _ => (unload_completes h).taken, fun h _ => (status_completes h).taken,
    fun h ⟨⟨hdie, hsnoop⟩, hread⟩ => (writeHbm_completes h hdie hsnoop hread).taken,
    fun h ⟨hdie, hsnoop⟩ => (readHbm_completes h hdie hsnoop).taken,
    fun h ⟨hdie, _, a, ha, hnone⟩ => (apertureMap_completes h hdie ha hnone).taken,
    fun h _ => (journalRead_completes h).taken, fun h hc => (chartLoad_completes h hc.1 hc.2).taken,
    fun h hc => (chartRead_completes h hc).taken, fun h hc => (fwBegin_completes h hc).taken,
    fun h ⟨⟨h1, hid, h0, hlt, hok⟩, hread⟩ => (fwBlock_completes h h1 hid h0 hlt (blockOk_iff.2 hok) hread).taken,
    fun h _ => (fwStatus_completes h).taken, fun h hc => (fwActivate_completes h hc.1 hc.2).taken,
    fun h hc => (fwDiscard_completes h hc).taken, fun h ⟨hkey, hun, hfuse⟩ => (fwFuse_completes h hkey hun hfuse).taken,
    fun h _ => (powerStatus_completes h).taken, fun h _ => (powerPolicy_completes h).taken,
    fun h ⟨hdie, hstandby, hfree⟩ => (benchState_completes h hdie hstandby hfree).taken,
    fun h hc => (dieState_completes h hc.1 hc.2).taken, fun h hc => (deviceStandby_completes h hc).taken,
    fun h hc => (powerCap_completes h hc).taken, fun h _ => (examResults_completes h).taken,
    fun h hc => (examRun_completes h hc).taken, fun h _ => (examPolicy_completes h).taken,
    fun h _ => (telemetryRead_completes h).taken, fun h _ => (telemetryClear_completes h).taken,
    fun h _ => (recordRead_completes h).taken, fun h _ => (serviceSet_completes h).taken,
    fun _ hx => absurd hx List.not_mem_nil⟩

end Sys2Proof.Machine
end

section
/-! Frame laws of the firmware record: the operations of the hub, the links and the fabric (R359, R373). -/

namespace Sys2Proof.Machine

-- One proof after another: hundreds of them at once, in one text with the model, take more threads than the check allows.
set_option Elab.async false

variable {s : State}

/-! ### What an operation says of the fuses -/

/-- The fuses: the debug-disable fuse and the SVN floor (R359, R373). -/
def Firmware.fuses (f : Firmware) : Bool × BitVec 6 := (f.debugFuse, f.svnFloor)

@[simp] theorem Firmware.writeSlot_fuses (f : Firmware) (bs : List Byte) : (f.writeSlot bs).fuses = f.fuses := by
  unfold Firmware.writeSlot
  dsimp only
  split <;> rfl

/-- State `t` has the firmware record of `s`. Lemmas about an operation that is given as a function take it in this form,
which `simp` can discharge. -/
def State.SameFw (s t : State) : Prop := t.fw = s.fw

/-- State `t` has the fuses of `s`. -/
def State.SameFuses (s t : State) : Prop := t.fw.fuses = s.fw.fuses

@[simp] theorem sameFw_iff {t : State} : s.SameFw t ↔ t.fw = s.fw := ⟨id, id⟩

@[simp] theorem sameFuses_iff {t : State} : s.SameFuses t ↔ t.fw.fuses = s.fw.fuses := ⟨id, id⟩

@[simp] theorem ite_fw {p : Prop} [Decidable p] (a b : State) : (if p then a else b).fw = if p then a.fw else b.fw :=
  apply_ite State.fw p a b

@[simp] theorem foldl_fw {α : Type} {f : State → α → State} (hf : ∀ t a, State.SameFw t (f t a)) (l : List α)
    (s : State) : (l.foldl f s).fw = s.fw :=
  foldl_keeps (P := fun t : State => t.fw = s.fw) l rfl fun t a ht => (hf t a).trans ht

/-- The state that an outcome leaves, if it leaves one, has the fuses of `s`. -/
def FusesKept (s : State) (r : Res) : Prop := ∀ t, r = .next t → s.SameFuses t

@[simp] theorem next_fusesKept {t : State} : FusesKept s (.next t) ↔ s.SameFuses t :=
  ⟨fun h => h t rfl, fun h u hu => by
    injection hu with hu
    exact hu ▸ h⟩

@[simp] theorem ite_fusesKept {p : Prop} [Decidable p] {a b : Res} :
    FusesKept s (if p then a else b) ↔ (p → FusesKept s a) ∧ (¬p → FusesKept s b) := by
  split <;> simp_all

@[simp] theorem onCell_fusesKept {c : Nat} {r : Res} (hr : FusesKept s r) : FusesKept s (s.onCell c r) := by
  simp [State.onCell, hr]

@[simp] theorem defers_fusesKept {i : Instr} {r : Res} (hr : FusesKept s r) : FusesKept s (s.defers i r) := by
  simp [State.defers, hr]

/-! ### The hub, packets, error records, bytes and services -/

@[simp] theorem fresh_fw : s.fresh.2.fw = s.fw := rfl
@[simp] theorem assertAt_fw {k src : Nat} : (s.assertAt k src).fw = s.fw := rfl
@[simp] theorem assertKey_fw {key : Nat} : (s.assertKey key).fw = s.fw := by simp [State.assertKey]

@[simp] theorem setPartState_fw {p : Nat} {x : PartState} : (s.setPartState p x).fw = s.fw := by
  simp [State.setPartState]

@[simp] theorem intake_fw {kind : IngressKind} {key : Nat} : (s.intake kind key).2.fw = s.fw := by
  unfold State.intake
  split
  · rfl
  · simp

@[simp] theorem holdOver_fw {i : Instr} {kind : IngressKind} {key : Nat} : (s.holdOver i kind key).fw = s.fw := by
  simp [State.holdOver]

@[simp] theorem admitted_fw {kind : IngressKind} {key : Nat} : (s.admitted kind key).fw = s.fw := by
  simp [State.admitted]

@[simp] theorem kmpTo_fw {hdr : BitVec 256} {payload : List Byte} {signed : Bool} {dest : KmpDest} :
    (s.kmpTo hdr payload signed dest).fw = s.fw := by
  unfold State.kmpTo
  dsimp only
  split <;> simp

@[simp] theorem sendKmp_fw {type : Nat} {signed : Bool} {payload : List Byte} :
    (s.sendKmp type signed payload).fw = s.fw := by
  unfold State.sendKmp
  split <;> simp

@[simp] theorem storeRecord_fw {rcd : BitVec 512} {newSecond : Bool} : (s.storeRecord rcd newSecond).fw = s.fw := by
  simp [State.storeRecord]

@[simp] theorem makeRecord_fw {e : ErrEvent} {num : BitVec 64} : (s.makeRecord e num).fw = s.fw := by
  simp [State.makeRecord]

@[simp] theorem notice_fw {e : ErrEvent} : (s.notice e).fw = s.fw := by simp [State.notice]

@[simp] theorem detect_fw {reason : BitVec 16} {unit : Fin 5} {part loc detail : Nat} :
    (s.detect reason unit part loc detail).fw = s.fw :=
  rfl

@[simp] theorem detectCell_fw {c : Nat} {reason : BitVec 16} {loc detail : Nat} :
    (s.detectCell c reason loc detail).fw = s.fw :=
  rfl

@[simp] theorem countFabric_fw {port unit lo len n : Nat} : (s.countFabric port unit lo len n).fw = s.fw := rfl

@[simp] theorem placePacket_fw {p dx dy : Nat} {pkt : Packet} : (s.placePacket p dx dy pkt).fw = s.fw := by
  simp [State.placePacket]

@[simp] theorem sendMarked_fw {mark : Bool} {p seat ddie kind vc addr tag : Nat} {payload : List Byte} :
    (s.sendMarked mark p seat ddie kind vc addr tag payload).fw = s.fw := by
  simp [State.sendMarked]

@[simp] theorem sendPacket_fw {p seat ddie kind vc addr tag : Nat} {payload : List Byte} :
    (s.sendPacket p seat ddie kind vc addr tag payload).fw = s.fw := by
  simp [State.sendPacket]

@[simp] theorem sendDirect_fw {p dx dy seat kind vc : Nat} {payload : List Byte} :
    (s.sendDirect p dx dy seat kind vc payload).fw = s.fw := by
  simp [State.sendDirect]

@[simp] theorem sendCtl_fw {p seat : Nat} {c : Control} : (s.sendCtl p seat c).fw = s.fw := by simp [State.sendCtl]

@[simp] theorem sendTrouble_fw {p seat reason : Nat} : (s.sendTrouble p seat reason).fw = s.fw := by
  unfold State.sendTrouble
  dsimp only
  (repeat' split) <;> simp

@[simp] theorem takeDelivered_fw {p : PartIx} {f : Packet → Bool} : (s.takeDelivered p f).fw = s.fw := by
  unfold State.takeDelivered
  dsimp only
  split <;> simp

@[simp] theorem snoopRange_fw {d a n : Nat} {inv : Bool} : (s.snoopRange d a n inv).fw = s.fw :=
  foldl_fw (fun _ _ => emit_fw ..) _ _

@[simp] theorem afterSnoops_fusesKept {u : State} {acc : List (Nat × Nat × Nat × Bool)} {r : Res} (hu : s.SameFw u)
    (hr : FusesKept s r) : FusesKept s (u.afterSnoops acc r) := by
  have hu : u.fw = s.fw := hu
  simp [State.afterSnoops, hr, hu]

@[simp] theorem storeHbm_fw {d a : Nat} {bs : List Byte} : (s.storeHbm d a bs).fw = s.fw := by
  unfold State.storeHbm
  dsimp only
  split <;> simp

@[simp] theorem writeHbm_fw {d a : Nat} {bs : List Byte} : (s.writeHbm d a bs).fw = s.fw := by simp [State.writeHbm]
@[simp] theorem serviceRead_fw {d a n : Nat} : (s.serviceRead d a n).2.fw = s.fw := by simp [State.serviceRead]
@[simp] theorem hbmCorrected_fw {d a : Nat} : (s.hbmCorrected d a).fw = s.fw := rfl
@[simp] theorem addTally_fw {t : BitVec 14} {n off : Nat} : (s.addTally t n off).fw = s.fw := by simp [State.addTally]

@[simp] theorem addOwn_fw {p : Nat} {t : BitVec 14} {n off : Nat} : (s.addOwn p t n off).fw = s.fw := by
  simp [State.addOwn]

/-! ### The resets of the device, Off, recovery mode, and the staging session's clearing -/

@[simp] theorem deviceReset_fuses : s.deviceReset.fw.fuses = s.fw.fuses := rfl
@[simp] theorem coldReset_fuses : s.coldReset.fw.fuses = s.fw.fuses := rfl
@[simp] theorem powerOff_fuses : s.powerOff.fw.fuses = s.fw.fuses := rfl
@[simp] theorem recoveryMode_fw : s.recoveryMode.fw = s.fw := rfl
@[simp] theorem startFailure_fuses : s.startFailure.fw.fuses = s.fw.fuses := rfl

/-! ### The interrupt controller: completion, GIE, routes, delivery, overdue handlers -/

@[simp] theorem abandon_fw {k cause : Nat} {wr : Byte} : (s.abandon k cause wr).fw = s.fw := by simp [State.abandon]

@[simp] theorem completionFault_fuses {k cause : Nat} {wr : Byte} :
    (s.completionFault k cause wr).fw.fuses = s.fw.fuses := by
  unfold State.completionFault
  dsimp only
  split <;> simp

@[simp] theorem execCompleteWrite_fusesKept {k : ClerkIx} {v : Byte} : FusesKept s (execCompleteWrite k v s) := by
  unfold execCompleteWrite
  dsimp only
  (repeat' split) <;> simp

@[simp] theorem execGieWrite_fusesKept {k : ClerkIx} {on : Bool} : FusesKept s (execGieWrite k on s) := by
  simp [execGieWrite]

@[simp] theorem execRouteWrite_fusesKept {src : Fin 32} {k : ClerkIx} : FusesKept s (execRouteWrite src k s) := by
  simp [execRouteWrite]

@[simp] theorem execInterruptDelivery_fusesKept {k : ClerkIx} {posts : List ClerkIx} :
    FusesKept s (execInterruptDelivery k posts s) := by
  unfold execInterruptDelivery
  dsimp only
  split <;> simp

@[simp] theorem execHandlerOverdue_fusesKept {k : ClerkIx} : FusesKept s (execHandlerOverdue k s) := by
  unfold execHandlerOverdue
  (repeat' split) <;> simp

/-! ### Bench domains: Recess and Active -/

@[simp] theorem modBench_fw {k : Nat} {f : Bench → Bench} : (s.modBench k f).fw = s.fw := rfl
@[simp] theorem settleBenches_fw {p : Nat} : (s.settleBenches p).fw = s.fw := by simp [State.settleBenches]

/-! ### Flits, retry, credits and link states -/

@[simp] theorem countFec_fw {port u : Nat} {fec : Fec} : (s.countFec port u fec).fw = s.fw := by simp [State.countFec]

@[simp] theorem takeFlit_fw {port u type : Nat} {flit : Flit} {fec : Fec} {f :
    State → State} (hf : ∀ t, State.SameFw t (f t)) : (s.takeFlit port u type flit fec f).fw = s.fw := by
  have hf : ∀ t, (f t).fw = t.fw := hf
  unfold State.takeFlit
  dsimp only
  (repeat' split) <;> simp [hf]

@[simp] theorem execDataFlit_fusesKept {port : PortIx} {u : UnitIx} {rx : RxFlit} :
    FusesKept s (execDataFlit port u rx s) := by
  simp [execDataFlit]

@[simp] theorem execIdleFlit_fusesKept {port : PortIx} {u : UnitIx} {rx : RxFlit} :
    FusesKept s (execIdleFlit port u rx s) := by
  simp [execIdleFlit]

@[simp] theorem execControlFlit_fusesKept {port : PortIx} {u : UnitIx} {rx : RxFlit} :
    FusesKept s (execControlFlit port u rx s) := by
  simp [execControlFlit]

@[simp] theorem execFlitSlot_fusesKept {port : PortIx} {w : UnitSlot} : FusesKept s (execFlitSlot port w s) := by
  simp [execFlitSlot]

@[simp] theorem portDown_fw {port : Nat} : (s.portDown port).fw = s.fw := rfl
@[simp] theorem portTo_fw {port : Nat} {x : PortState} : (s.portTo port x).fw = s.fw := rfl
@[simp] theorem retrainUnit_fw {port u : Nat} : (s.retrainUnit port u).fw = s.fw := by simp [State.retrainUnit]

@[simp] theorem execReplayLimit_fusesKept {port : PortIx} {u : UnitIx} {fec : Bool} :
    FusesKept s (execReplayLimit port u fec s) := by
  simp [execReplayLimit]

@[simp] theorem execLaneSignalLoss_fusesKept {port : PortIx} {lane : Fin 36} :
    FusesKept s (execLaneSignalLoss port lane s) := by
  simp [execLaneSignalLoss]

@[simp] theorem execRetrainComplete_fusesKept {port : PortIx} {u : UnitIx} {ok : Bool} :
    FusesKept s (execRetrainComplete port u ok s) := by
  simp [execRetrainComplete]

@[simp] theorem execDetectSignal_fusesKept {port : PortIx} {quads : BitVec 8} :
    FusesKept s (execDetectSignal port quads s) := by
  simp [execDetectSignal]

@[simp] theorem execDetectTimeout_fusesKept {port : PortIx} : FusesKept s (execDetectTimeout port s) := by
  simp [execDetectTimeout]

@[simp] theorem execTrainComplete_fusesKept {port : PortIx} {nb : Neighbour} :
    FusesKept s (execTrainComplete port nb s) := by
  simp [execTrainComplete]

@[simp] theorem execTrainTimeout_fusesKept {port : PortIx} : FusesKept s (execTrainTimeout port s) := by
  simp [execTrainTimeout]

@[simp] theorem execVerifyComplete_fusesKept {port : PortIx} {pass : BitVec 9} :
    FusesKept s (execVerifyComplete port pass s) := by
  unfold execVerifyComplete
  (repeat' split) <;> simp

/-! ### Packets through the device: quad ownership, routing, escape, multicast, delivery -/

@[simp] theorem toOutput_fw {port unit : Nat} {cls esc : Bool} {pkt : Packet} :
    (s.toOutput port unit cls esc pkt).fw = s.fw :=
  rfl

@[simp] theorem candidates_fw {inp : Input} {c : Cand} (hc : c ∈ s.candidates inp) : c.taken.fw = s.fw := by
  unfold State.candidates at hc
  split at hc
  · obtain ⟨e, -, rfl⟩ := List.mem_map.1 hc
    rfl
  · obtain ⟨e, -, he⟩ := List.mem_filterMap.1 hc
    split at he
    · injection he with he
      subst he
      rfl
    · cases he
  · obtain ⟨e, -, he⟩ := List.mem_filterMap.1 hc
    split at he
    · cases he
    · obtain ⟨x, -, rfl⟩ := Option.map_eq_some_iff.1 he
      rfl

@[simp] theorem passTurn_fw {t : State} {inp : Input} {c : Cand} {out q : Nat} :
    (s.passTurn inp c out q t).fw = t.fw := by
  unfold State.passTurn
  split <;> simp

@[simp] theorem deliver_fw {src : Source} {cls : Bool} {pkt : Packet} : (s.deliver src cls pkt).fw = s.fw := rfl

@[simp] theorem carry_fw {inp : Input} {c : Cand} {r : Route} (hc : c.taken.fw = s.fw) :
    (s.carry inp c r).fw = s.fw := by
  unfold State.carry
  split <;> simp [hc]

@[simp] theorem moveFirst_fw {inp : Input} : (s.moveFirst inp).fw = s.fw := by
  unfold State.moveFirst
  split
  · exact carry_fw (candidates_fw (List.mem_of_find?_eq_some ‹_›))
  · rfl

@[simp] theorem execPacketRoute_fusesKept {src : Input} : FusesKept s (execPacketRoute src s) := by
  simp [execPacketRoute]

@[simp] theorem execPacketSend_fusesKept {port : PortIx} {u : UnitIx} {vc : Fin 8} :
    FusesKept s (execPacketSend port u vc s) := by
  unfold execPacketSend
  dsimp only
  split <;> simp

@[simp] theorem execPacketEscape_fusesKept {src : Input} : FusesKept s (execPacketEscape src s) := by
  unfold execPacketEscape
  split
  case h_1 c _ _ _ _ h =>
    obtain ⟨x, hx, hr⟩ := List.exists_of_findSome?_eq_some h
    obtain ⟨y, -, hy⟩ := Option.map_eq_some_iff.1 hr
    obtain rfl : x = c := congrArg Prod.fst hy
    simp [candidates_fw hx]
  case h_2 => simp

@[simp] theorem dropRelays_fw : s.dropRelays.fw = s.fw := by
  unfold State.dropRelays
  dsimp only
  (repeat' split) <;> simp

@[simp] theorem execMulticastRelay_fusesKept : FusesKept s (execMulticastRelay s) := by simp [execMulticastRelay]

@[simp] theorem execMirrorBridgeWait_fusesKept {port : PortIx} {u : UnitIx} :
    FusesKept s (execMirrorBridgeWait port u s) := by
  unfold execMirrorBridgeWait
  split
  case h_1 c _ _ _ _ h =>
    obtain ⟨x, hx, hr⟩ := List.exists_of_findSome?_eq_some h
    obtain ⟨y, -, hy⟩ := Option.map_eq_some_iff.1 hr
    obtain rfl : x = c := congrArg Prod.fst hy
    simp [candidates_fw hx]
  case h_2 => simp

end Sys2Proof.Machine
end

section
/-! Frame laws of the firmware record: the operations of the cells, the dies and a partition's step (R359, R373). -/

namespace Sys2Proof.Machine

-- One proof after another: hundreds of them at once, in one text with the model, take more threads than the check allows.
set_option Elab.async false

variable {s : State}

/-! ### Queues and stream charts: pushes and pops, reading and writing streams -/

@[simp] theorem freeBytes_fw {n : Nat} : (s.freeBytes n).2.fw = s.fw := rfl
@[simp] theorem countStream_fw {c st lo len n : Nat} : (s.countStream c st lo len n).fw = s.fw := rfl
@[simp] theorem corrected_fw {c kind : Nat} : (s.corrected c kind).fw = s.fw := rfl

@[simp] theorem checked_fw {ecc : Ecc} {bs : List LByte} {count err :
    State → State} (hcount : ∀ t, State.SameFw t (count t))
    (herr : ∀ t, State.SameFw t (err t)) : (s.checked ecc bs count err).2.fw = s.fw := by
  have hcount : ∀ t, (count t).fw = t.fw := hcount
  have herr : ∀ t, (err t).fw = t.fw := herr
  cases ecc <;> simp [State.checked, hcount, herr]

@[simp] theorem seeWords_fw {eff : Nat → Ecc → State → State} {errs : WordErrs} (heff : ∀ w x t, State.SameFw t
    (eff w x t)) (ws : List Nat) (seen : List (Nat × Nat)) : (s.seeWords eff errs ws seen).2.fw = s.fw := by
  induction ws generalizing s seen with
  | nil => rfl
  | cons w ws ih =>
    unfold State.seeWords
    dsimp only
    split
    · exact ih seen
    · exact (ih _).trans (heff ..)

@[simp] theorem csSeen_fw {c w : Nat} {x : Ecc} : (csSeen c w x s).fw = s.fw := by
  unfold csSeen
  split <;> simp

@[simp] theorem csRead_fw {c agent a n : Nat} {errs : WordErrs} {seen : List (Nat × Nat)} :
    (s.csRead c agent a n errs seen).2.2.fw = s.fw := by
  simp [State.csRead]

@[simp] theorem csStore_fw {c agent a : Nat} {bs : List Byte} {errs : WordErrs} :
    (s.csStore c agent a bs errs).fw = s.fw := by
  simp [State.csStore]

@[simp] theorem execQueuePush_fusesKept {c : CellIx} {q : QueueIx} {e : Entry} : FusesKept s (execQueuePush c q e s) := by
  simp [execQueuePush]

@[simp] theorem countWait_fw {c st : Nat} : (s.countWait c st).fw = s.fw := rfl

@[simp] theorem consume_fw {t : State} {c q : Nat} {e : Entry} (hc : s.consume c q = some (e, t)) : t.fw = s.fw := by
  obtain ⟨r, -, hr⟩ := Option.map_eq_some_iff.1 hc
  obtain rfl := congrArg Prod.snd hr
  simp

@[simp] theorem modStream_fw {c st : Nat} {f : Stream → Stream} : (s.modStream c st f).fw = s.fw := rfl

@[simp] theorem sendRead_fw {c ctx blk addr : Nat} {hdr : ChartHdr} : (s.sendRead c ctx blk addr hdr).fw = s.fw := by
  unfold State.sendRead
  dsimp only
  split <;> simp

@[simp] theorem issueReq_fw {c st : Nat} {r : Req} : (s.issueReq c st r).fw = s.fw := by simp [State.issueReq]

@[simp] theorem issueReqs_fw {c : Nat} {gather : Bool} {n : Nat} : (State.issueReqs c gather n s).fw = s.fw := by
  induction n generalizing s with
  | zero => rfl
  | succ n ih =>
    unfold State.issueReqs
    dsimp only
    split
    · rfl
    · split
      · rfl
      · rw [ih, modCell_fw]
        split <;> simp

@[simp] theorem putOne_fw {st : Nat} {hdr : ChartHdr} {agent c : Nat} {errs : WordErrs} {acc :
    State × List (Nat × Nat)} {p : Put} : (State.putOne st hdr agent c errs acc p).1.fw = acc.1.fw := by
  unfold State.putOne
  dsimp only
  (repeat' split) <;> simp

@[simp] theorem settleRead_fw {c q : Nat} : (s.settleRead c q).fw = s.fw := rfl

@[simp] theorem foldl_putOne_fw {st : Nat} {hdr : ChartHdr} {agent c : Nat} {errs : WordErrs} (l : List Put)
    (acc : State × List (Nat × Nat)) : (l.foldl (State.putOne st hdr agent c errs) acc).1.fw = acc.1.fw :=
  foldl_keeps (P := fun a : State × List (Nat × Nat) => a.1.fw = acc.1.fw) l rfl fun _ _ h => putOne_fw.trans h

@[simp] theorem execStreamEntryStart_fusesKept {c : CellIx} {st : StreamIx} {errs : WordErrs} :
    FusesKept s (execStreamEntryStart c st errs s) := by
  refine onCell_fusesKept ?_
  dsimp only
  (repeat' split) <;> simp

@[simp] theorem returned_fw {c st : Nat} {r : Req} {bs : List LByte} : (s.returned c st r bs).fw = s.fw := by
  simp [State.returned]

@[simp] theorem visitBank_fw {d a : Nat} : (s.visitBank d a).fw = s.fw := rfl
@[simp] theorem portTurn_fw {c : Nat} : (s.portTurn c).fw = s.fw := rfl
@[simp] theorem noteBank_fw {c st a : Nat} : (s.noteBank c st a).fw = s.fw := by simp [State.noteBank]

@[simp] theorem execMemoryReturn_fusesKept {c : CellIx} {st : StreamIx} {errs : WordErrs} {k : Nat} :
    FusesKept s (execMemoryReturn c st errs k s) := by
  refine onCell_fusesKept ?_
  dsimp only
  split
  · simp
  · split
    · simp
    · split
      · simp
        rw [seeWords_fw fun w x t => ?_]
        · simp
        · split <;> simp
      · simp
    · simp
    · simp

@[simp] theorem flushRemote_fw {c st : Nat} {last : Bool} : (s.flushRemote c st last).fw = s.fw := by
  unfold State.flushRemote
  dsimp only
  (repeat' split) <;> simp

@[simp] theorem packRemote_fw {c st off : Nat} {bs : List Byte} : (s.packRemote c st off bs).fw = s.fw := by
  simp [State.packRemote]

@[simp] theorem writePoison_fw {c st n new : Nat} : (s.writePoison c st n new).fw = s.fw := by
  simp [State.writePoison]

@[simp] theorem takeOne_fw {c st : Nat} {e : Entry} {k : Take} : (State.takeOne c st e s k).fw = s.fw := by
  unfold State.takeOne
  dsimp only
  (repeat' split) <;> simp

@[simp] theorem settleWrite_fw {c st : Nat} : (s.settleWrite c st).fw = s.fw := by simp [State.settleWrite]

@[simp] theorem popOut_fw {t : State} {c q : Nat} {e : Entry} (hc : s.popOut c q = some (e, t)) : t.fw = s.fw := by
  obtain ⟨r, -, hr⟩ := Option.map_eq_some_iff.1 hc
  obtain rfl := congrArg Prod.snd hr
  simp

@[simp] theorem execWriteStreamEntry_fusesKept {c : CellIx} {st : StreamIx} :
    FusesKept s (execWriteStreamEntry c st s) := by
  refine onCell_fusesKept ?_
  dsimp only
  split
  · split
    · simp
    case h_2 hpop => simp [popOut_fw hpop]
  · simp

@[simp] theorem execWriteAccepted_fusesKept {c : CellIx} {x : WriteAt} : FusesKept s (execWriteAccepted c x s) := by
  unfold execWriteAccepted
  dsimp only
  split <;> simp

/-! ### The flag computations: poison bits and their consumption under a policy, the taint of tile slots -/

@[simp] theorem consumePoison_fw {c : Nat} {op : Op} {e : Entry} {n : Nat} : (s.consumePoison c op e n).fw = s.fw := by
  simp [State.consumePoison]

/-! ### Lane generators, and how elements fill lanes and entries -/

@[simp] theorem seedLanes_fw {c lo pass : Nat} : (s.seedLanes c lo pass).fw = s.fw := rfl

@[simp] theorem pull_fw {c : Nat} {op : Op} {q fmt need n : Nat} {buf : List InByte} :
    (State.pull c op q fmt need n buf s).2.fw = s.fw := by
  induction n generalizing s buf with
  | zero => rfl
  | succ n ih =>
    unfold State.pull
    split
    · rfl
    · split
      · rfl
      · rw [ih, consumePoison_fw, consume_fw ‹_›]

/-! ### Remote writes and reads at their receivers, and the remote gateway's turns -/

@[simp] theorem arrived_fw {g : GatePkt} : (s.arrived g).fw = s.fw := by simp [State.arrived]

@[simp] theorem answerRead_fw {g : GatePkt} {bs : List Byte} : (s.answerRead g bs).fw = s.fw := by
  simp [State.answerRead]

@[simp] theorem toGateway_fw {g : GatePkt} : (s.toGateway g).fw = s.fw := by simp [State.toGateway]

@[simp] theorem remoteTurn_fw {d pc : Nat} : (s.remoteTurn d pc).fw = s.fw := by
  unfold State.remoteTurn
  split <;> simp

@[simp] theorem execRemoteWritePacket_fusesKept {p : PartIx} {pkt : Packet} :
    FusesKept s (execRemoteWritePacket p pkt s) := by
  simp [execRemoteWritePacket]

@[simp] theorem execReadRequest_fusesKept {p : PartIx} {pkt : Packet} {ecc : Ecc} :
    FusesKept s (execReadRequest p pkt ecc s) := by
  simp [execReadRequest]

@[simp] theorem execReadResponse_fusesKept {p : PartIx} {pkt : Packet} : FusesKept s (execReadResponse p pkt s) := by
  unfold execReadResponse
  dsimp only
  split <;> simp

/-! ### HBM turns and weight-cache fills -/

@[simp] theorem countAccepted_fw {d pc : Nat} : (s.countAccepted d pc).fw = s.fw := rfl

@[simp] theorem readTurn_fw {d pc c : Nat} : (s.readTurn d pc c).fw = s.fw := by
  unfold State.readTurn
  dsimp only
  (repeat' split) <;> simp

@[simp] theorem fillTurn_fw {d pc : Nat} : (s.fillTurn d pc).fw = s.fw := by
  unfold State.fillTurn
  dsimp only
  split <;> simp

@[simp] theorem writeTurn_fw {d pc c : Nat} : (s.writeTurn d pc c).fw = s.fw := by
  unfold State.writeTurn
  dsimp only
  (repeat' split) <;> simp

@[simp] theorem execHbmTurn_fusesKept {d : DieIx} {pc : Fin 96} : FusesKept s (execHbmTurn d pc s) := by
  simp [execHbmTurn]

@[simp] theorem fillBlock_fw {d a : Nat} {x : Ecc} : (s.fillBlock d a x).fw = s.fw := by
  unfold State.fillBlock
  split <;> simp

@[simp] theorem execWeightCacheFill_fusesKept {d : DieIx} {x : LineRead} : FusesKept s (execWeightCacheFill d x s) := by
  unfold execWeightCacheFill
  split <;> simp

/-! ### The sequencer, descriptors, signals and control descriptors -/

@[simp] theorem modSeq_fw {c : Nat} {f : Seq → Seq} : (s.modSeq c f).fw = s.fw := rfl
@[simp] theorem putSet_fw {c k : Nat} {r : Option RegSet} : (s.putSet c k r).fw = s.fw := rfl
@[simp] theorem chainFetch_fw {c n : Nat} : (s.chainFetch c n).fw = s.fw := by simp [State.chainFetch]
@[simp] theorem chainRead_fw {c n : Nat} : (s.chainRead c n).fw = s.fw := rfl
@[simp] theorem launch_fw {p : Nat} {w : BitVec 64} {off : Nat} : (s.launch p w off).fw = s.fw := rfl

@[simp] theorem signal_fw {c : Nat} {ev : FormEvent} {num off : Nat} {w : BitVec 64} :
    (s.signal c ev num off w).fw = s.fw := by
  unfold State.signal
  dsimp only
  (repeat' split) <;> simp

@[simp] theorem execTallySignal_fusesKept {p : PartIx} : FusesKept s (execTallySignal p s) := by
  unfold execTallySignal
  split <;> simp

@[simp] theorem clampFlag_fw {c : Nat} : (s.clampFlag c).fw = s.fw := by
  unfold State.clampFlag
  split <;> simp

@[simp] theorem onControl_fusesKept {c op : Nat} {act : State → State} (h : ∀ t, State.SameFw t (act t)) :
    FusesKept s (s.onControl c op act) := by
  have h : ∀ t, (act t).fw = t.fw := h
  unfold State.onControl
  (repeat' split) <;> simp [h]

@[simp] theorem execLoop_fusesKept {c : CellIx} : FusesKept s (execLoop c s) := by
  refine onCell_fusesKept ?_
  dsimp only
  split
  · simp
  · exact onControl_fusesKept fun t => by simp

@[simp] theorem execLoopExitSignal_fusesKept {c : CellIx} : FusesKept s (execLoopExitSignal c s) := by
  unfold execLoopExitSignal
  dsimp only
  split <;> simp

@[simp] theorem execBranch_fusesKept {c : CellIx} : FusesKept s (execBranch c s) := by
  refine onCell_fusesKept ?_
  dsimp only
  split
  · simp
  · exact onControl_fusesKept fun t => by simp

@[simp] theorem execSetCount_fusesKept {c : CellIx} : FusesKept s (execSetCount c s) := by
  refine onCell_fusesKept ?_
  dsimp only
  split
  · simp
  · exact onControl_fusesKept fun t => by simp

@[simp] theorem execFeature_fusesKept {c : CellIx} : FusesKept s (execFeature c s) :=
  onCell_fusesKept (onControl_fusesKept fun t => by simp)

@[simp] theorem execSkipPad_fusesKept {c : CellIx} : FusesKept s (execSkipPad c s) :=
  onCell_fusesKept (onControl_fusesKept fun t => by simp)

@[simp] theorem execEndWalk_fusesKept {c : CellIx} : FusesKept s (execEndWalk c s) :=
  onCell_fusesKept (onControl_fusesKept fun t => by simp)

@[simp] theorem execJoin_fusesKept {c : CellIx} : FusesKept s (execJoin c s) := by
  refine onCell_fusesKept ?_
  dsimp only
  split
  · split <;> simp
  · split
    · simp
    · refine onControl_fusesKept fun t => ?_
      split <;> simp

@[simp] theorem execJoinSignal_fusesKept {f : FormIx} : FusesKept s (execJoinSignal f s) := by
  unfold execJoinSignal
  split <;> simp

@[simp] theorem execDescriptorLoad_fusesKept {c : CellIx} {ecc : Ecc} : FusesKept s (execDescriptorLoad c ecc s) := by
  unfold execDescriptorLoad
  dsimp only
  (repeat' split) <;> simp

@[simp] theorem completeSet_fw {c k : Nat} {r : RegSet} {o : Nat} : (s.completeSet c k r o).fw = s.fw := by
  simp [State.completeSet]

@[simp] theorem issueSet_fw {c k : Nat} {r : RegSet} : (s.issueSet c k r).fw = s.fw := by simp [State.issueSet]

@[simp] theorem execDescriptorIssue_fusesKept {c : CellIx} : FusesKept s (execDescriptorIssue c s) := by
  unfold execDescriptorIssue
  split <;> simp

@[simp] theorem execDescriptorComplete_fusesKept {c : CellIx} {k : Fin 4} :
    FusesKept s (execDescriptorComplete c k s) := by
  simp [execDescriptorComplete]
  (repeat' split) <;> simp

@[simp] theorem execNop_fusesKept {c : CellIx} : FusesKept s (execNop c s) := by
  unfold execNop
  split <;> simp

@[simp] theorem execMove_fusesKept {c : CellIx} : FusesKept s (execMove c s) := by
  unfold execMove
  split <;> simp

@[simp] theorem signalInputs_fw {p : Nat} {ix : List Nat} : (s.signalInputs p ix).fw = s.fw := by
  simp [State.signalInputs]

@[simp] theorem execFormPeriodEnd_fusesKept {f : FormIx} : FusesKept s (execFormPeriodEnd f s) := by
  unfold execFormPeriodEnd
  dsimp only
  (repeat' split) <;> simp

/-! ### The outer-product engine, tile slots and drains -/

@[simp] theorem modSlot_fw {c sl : Nat} {f : Slot → Slot} : (s.modSlot c sl f).fw = s.fw := rfl
@[simp] theorem release_fw {c : Nat} {op : Op} : (s.release c op).fw = s.fw := rfl

@[simp] theorem loadEntry_fw {c : Nat} {op : Op} {k : Nat} {e : Entry} : (s.loadEntry c op k e).fw = s.fw := by
  simp [State.loadEntry]

@[simp] theorem loadSlot_fw {c n : Nat} : (State.loadSlot c n s).fw = s.fw := by
  induction n generalizing s with
  | zero => rfl
  | succ n ih =>
    unfold State.loadSlot
    split
    · split
      · split
        · rw [ih, modCell_fw, loadEntry_fw, consume_fw ‹_›]
        · rfl
      · rfl
    · rfl

@[simp] theorem engineTake_fw {c : Nat} {e : EngineRun} : (s.engineTake c e).fw = s.fw := rfl
@[simp] theorem drainTake_fw {c : Nat} {op : Op} : (s.drainTake c op).fw = s.fw := rfl

@[simp] theorem takeToken_fw {c sl : Nat} : (s.takeToken c sl).fw = s.fw := by
  unfold State.takeToken
  dsimp only
  (repeat' split) <;> simp

@[simp] theorem execSlotTokenTake_fusesKept {c : CellIx} {sl : SlotIx} : FusesKept s (execSlotTokenTake c sl s) := by
  unfold execSlotTokenTake
  dsimp only
  split <;> simp

@[simp] theorem execEngine_fusesKept {c : CellIx} : FusesKept s (execEngine c s) := by
  unfold execEngine
  dsimp only
  split <;> simp

@[simp] theorem popSide_fw {c q fwd : Nat} : (s.popSide c q fwd).2.fw = s.fw := by
  unfold State.popSide
  split
  · rw [modCell_fw, consume_fw ‹_›]
  · rfl

@[simp] theorem takeSide_fw {c : Nat} {e : EngineRun} {col : Bool} : (s.takeSide c e col).2.2.fw = s.fw := by
  unfold State.takeSide
  dsimp only
  (repeat' split) <;> simp

@[simp] theorem siteFault_fw {c : Nat} {e : EngineRun} {f : Option SiteFault} : (s.siteFault c e f).fw = s.fw := by
  unfold State.siteFault
  split <;> simp

@[simp] theorem engineEnd_fw {c : Nat} {e : EngineRun} : (s.engineEnd c e).fw = s.fw := by simp [State.engineEnd]

@[simp] theorem engineStep_fw {c : Nat} {e : EngineRun} {fault : Option SiteFault} :
    (s.engineStep c e fault).fw = s.fw := by
  simp [State.engineStep]

@[simp] theorem tryStep_fw {c : Nat} {mode : Option Nat} {fault : Option SiteFault} :
    (s.tryStep c mode fault).fw = s.fw := by
  unfold State.tryStep
  split <;> simp

@[simp] theorem execEngineStep_fusesKept {c : CellIx} {fault : Option SiteFault} :
    FusesKept s (execEngineStep c fault s) := by
  simp [execEngineStep]

@[simp] theorem execMultiplyAdd_fusesKept {c : CellIx} {fault : Option SiteFault} :
    FusesKept s (execMultiplyAdd c fault s) := by
  simp [execMultiplyAdd]

@[simp] theorem execAbsoluteDifference_fusesKept {c : CellIx} {fault : Option SiteFault} :
    FusesKept s (execAbsoluteDifference c fault s) := by
  simp [execAbsoluteDifference]

@[simp] theorem execSquaredDifference_fusesKept {c : CellIx} {fault : Option SiteFault} :
    FusesKept s (execSquaredDifference c fault s) := by
  simp [execSquaredDifference]

@[simp] theorem execMinPlus_fusesKept {c : CellIx} {fault : Option SiteFault} : FusesKept s (execMinPlus c fault s) := by
  simp [execMinPlus]

@[simp] theorem execMaxPlus_fusesKept {c : CellIx} {fault : Option SiteFault} : FusesKept s (execMaxPlus c fault s) := by
  simp [execMaxPlus]

@[simp] theorem execCompareAndCount_fusesKept {c : CellIx} {fault : Option SiteFault} :
    FusesKept s (execCompareAndCount c fault s) := by
  simp [execCompareAndCount]

@[simp] theorem execDrain_fusesKept {c : CellIx} : FusesKept s (execDrain c s) := by
  unfold execDrain
  dsimp only
  (repeat' split) <;> simp

@[simp] theorem drainRow_fw {c : Nat} {d : DrainRun} : (s.drainRow c d).fw = s.fw := by simp [State.drainRow]

@[simp] theorem execDrainStart_fusesKept {c : CellIx} : FusesKept s (execDrainStart c s) := by
  unfold execDrainStart
  split <;> simp

@[simp] theorem execSlotBufferPush_fusesKept {c : CellIx} {sl : SlotIx} : FusesKept s (execSlotBufferPush c sl s) := by
  unfold execSlotBufferPush
  dsimp only
  split <;> simp

/-! ### The vector engine's VECTOR operations -/

@[simp] theorem execVector_fusesKept {c : CellIx} : FusesKept s (execVector c s) := by
  unfold execVector
  dsimp only
  split <;> simp

@[simp] theorem vecEnd_fw {c : Nat} {v : VecRun} : (s.vecEnd c v).fw = s.fw := by simp [State.vecEnd]
@[simp] theorem vecOut_fw {c : Nat} {v : VecRun} {r : List InElem} : (s.vecOut c v r).1.fw = s.fw := rfl

@[simp] theorem vecTake_fw {c : Nat} {v : VecRun} {q1 q2 : Option (Nat × Nat)} : (s.vecTake c v q1 q2).1.fw = s.fw := by
  unfold State.vecTake
  dsimp only
  (repeat' split) <;> simp

@[simp] theorem vecStep_fw {c fn : Nat} {work : State → VecRun → State × VecRun} (hwork : ∀ v, s.SameFw (work s v).1) :
    (s.vecStep c fn work).fw = s.fw := by
  unfold State.vecStep
  split
  · split
    · split
      · exact vecEnd_fw.trans (hwork _)
      · exact vecEnd_fw
    · rfl
  · rfl

@[simp] theorem lanesOf_fw {c : Nat} {f : List Val → Val} {q1 q2 : Option (Nat × Nat)} {v : VecRun} :
    (lanesOf c f q1 q2 s v).1.fw = s.fw := by
  unfold lanesOf
  dsimp only
  split <;> simp

@[simp] theorem execVecAdd_fusesKept {c : CellIx} : FusesKept s (execVecAdd c s) := by simp [execVecAdd]
@[simp] theorem execVecFma_fusesKept {c : CellIx} : FusesKept s (execVecFma c s) := by simp [execVecFma]
@[simp] theorem execConvert_fusesKept {c : CellIx} : FusesKept s (execConvert c s) := by simp [execConvert]

@[simp] theorem popParam_fw {c q n : Nat} {v : VecRun} : (s.popParam c q n v).1.fw = s.fw := by
  unfold State.popParam
  split
  · rfl
  · split
    · exact consumePoison_fw.trans (consume_fw ‹_›)
    · rfl

@[simp] theorem dequantOne_fw {c : Nat} {t : State} {v : VecRun} : (dequantOne c t v).1.fw = t.fw := by
  unfold dequantOne
  dsimp only
  (repeat' split) <;> simp

@[simp] theorem execDequant_fusesKept {c : CellIx} : FusesKept s (execDequant c s) := by simp [execDequant]

@[simp] theorem splitFp32One_fw {c : Nat} {t : State} {v : VecRun} : (splitFp32One c t v).1.fw = t.fw := by
  unfold splitFp32One
  dsimp only
  split <;> simp

@[simp] theorem execSplitFp32_fusesKept {c : CellIx} : FusesKept s (execSplitFp32 c s) := by simp [execSplitFp32]

@[simp] theorem splitBf16One_fw {c : Nat} {t : State} {v : VecRun} : (splitBf16One c t v).1.fw = t.fw := by
  unfold splitBf16One
  dsimp only
  (repeat' split) <;> simp

@[simp] theorem execSplitBf16_fusesKept {c : CellIx} : FusesKept s (execSplitBf16 c s) := by simp [execSplitBf16]

@[simp] theorem optimOne_fw {c : Nat} {t : State} {v : VecRun} : (optimOne c t v).1.fw = t.fw := by
  unfold optimOne
  dsimp only
  (repeat' split) <;> simp

@[simp] theorem execOptim_fusesKept {c : CellIx} : FusesKept s (execOptim c s) := by simp [execOptim]

/-! ### Reductions and the gradient ring -/

@[simp] theorem countRed_fw {d kind lo len n : Nat} : (s.countRed d kind lo len n).fw = s.fw := rfl

@[simp] theorem sendRed_fw {p : Nat} {b : Bucket} {seat : Nat} {payload : List Byte} :
    (s.sendRed p b seat payload).fw = s.fw := by
  simp [State.sendRed]

@[simp] theorem putRun_fw {d : Nat} {r : Run} : (s.putRun d r).fw = s.fw := rfl

@[simp] theorem flushRun_fw {p : Nat} {b : Bucket} {r : Run} : (s.flushRun p b r).fw = s.fw := by
  simp [State.flushRun]

@[simp] theorem contribution_fw {p : Nat} {b : Bucket} {bn e n : Nat} {bad : Option (Nat × Ecc)} :
    (s.contribution p b bn e n bad).2.fw = s.fw := by
  unfold State.contribution
  dsimp only
  (repeat' split) <;> simp

@[simp] theorem stopRun_fw {b : Bucket} {r : Run} : (s.stopRun b r).fw = s.fw := rfl

@[simp] theorem writeResult_fw {b : Bucket} {e : Nat} {vs : List Val} : (s.writeResult b e vs).fw = s.fw := by
  simp [State.writeResult]

@[simp] theorem firstChunk_fw {p : Nat} {b : Bucket} {r : Run} {g : Place} {bad : Option (Nat × Ecc)} :
    (s.firstChunk p b r g bad).2.fw = s.fw := by
  unfold State.firstChunk
  dsimp only
  generalize (if bkOwnerMode b then 0 else g.pos) = c
  split
  · rfl
  · refine foldl_keeps (P := fun a : Run × State => a.2.fw = s.fw) _ rfl fun acc q h => ?_
    split
    · exact h
    · split <;> exact contribution_fw.trans h

@[simp] theorem execRunStart_fusesKept {d : DieIx} {kind : Fin 4} {bad : Option (Nat × Ecc)} :
    FusesKept s (execRunStart d kind bad s) := by
  unfold execRunStart
  dsimp only
  (repeat' split) <;> simp

@[simp] theorem dropRed_fw {pkt : Packet} : (s.dropRed pkt).fw = s.fw := rfl
@[simp] theorem redError_fw {p : Nat} {pkt : Packet} {hdr : BitVec 128} : (s.redError p pkt hdr).fw = s.fw := rfl

@[simp] theorem takeRed_fw {p : PartIx} {pkt : Packet} {type : Nat} {f :
    State → BitVec 128 → List Byte → Bucket → Place → Run → State}
    (hf : ∀ t h body b g r, State.SameFw t (f t h body b g r)) : (s.takeRed p pkt type f).fw = s.fw := by
  have hf : ∀ t h body b g r, (f t h body b g r).fw = t.fw := hf
  unfold State.takeRed
  dsimp only
  (repeat' split) <;> simp [hf]

@[simp] theorem execReductionOpen_fusesKept {p : PartIx} {pkt : Packet} : FusesKept s (execReductionOpen p pkt s) := by
  simp [execReductionOpen]

@[simp] theorem execReductionPartial_fusesKept {p : PartIx} {pkt : Packet} {bad : Option (Nat × Ecc)} :
    FusesKept s (execReductionPartial p pkt bad s) := by
  refine defers_fusesKept (afterSnoops_fusesKept rfl (next_fusesKept.2 (congrArg Firmware.fuses
    (takeRed_fw fun t h body b g r => ?_))))
  dsimp only
  split
  · simp
  · split <;> simp

@[simp] theorem execReductionFinal_fusesKept {p : PartIx} {pkt : Packet} :
    FusesKept s (execReductionFinal p pkt s) := by
  refine defers_fusesKept (afterSnoops_fusesKept rfl (next_fusesKept.2 (congrArg Firmware.fuses
    (takeRed_fw fun t h body b g r => ?_))))
  simp

@[simp] theorem execRunComplete_fusesKept {d : DieIx} {x : RunEnd} : FusesKept s (execRunComplete d x s) := by
  unfold execRunComplete
  dsimp only
  (repeat' split) <;> simp

/-! ### Bells and the step period on a member -/

@[simp] theorem cascade_fw {p : Nat} {c : Control} : (s.cascade p c).fw = s.fw := by simp [State.cascade]
@[simp] theorem relayOn_fw {p root : Nat} {c : Control} : (s.relayOn p root c).fw = s.fw := by simp [State.relayOn]
@[simp] theorem dropCtl_fw {p : Nat} : (s.dropCtl p).fw = s.fw := rfl

@[simp] theorem receiveCtl_fw {p : PartIx} {c : Control} {casc : Bool} {key : Nat} :
    (s.receiveCtl p c casc key).2.fw = s.fw := by
  simp [State.receiveCtl]

@[simp] theorem takeCtl_fusesKept {i : Instr} {p : PartIx} {type key : Nat} {c : Control} {casc : Bool}
    {f : BitVec 64 → State → State} (hf : ∀ n t, State.SameFw t (f n t)) :
    FusesKept s (s.takeCtl i p type c casc key f) := by
  have hf : ∀ n t, (f n t).fw = t.fw := hf
  simp [State.takeCtl, hf]

@[simp] theorem stopWalks_fw {p : Nat} : (s.stopWalks p).fw = s.fw := by simp [State.stopWalks]
@[simp] theorem resetForms_fw {p : Nat} : (s.resetForms p).fw = s.fw := by simp [State.resetForms]
@[simp] theorem issueReads_fw {p : Nat} {j : SvcJob} : (s.issueReads p j).fw = s.fw := by simp [State.issueReads]
@[simp] theorem askFor_fw {p : Nat} {step : BitVec 64} : (s.askFor p step).fw = s.fw := by simp [State.askFor]

@[simp] theorem askWaypoint_fw {p : Nat} : (s.askWaypoint p).fw = s.fw := by
  unfold State.askWaypoint
  dsimp only
  split <;> simp

@[simp] theorem beginReads_fw {p : Nat} {step : BitVec 64} : (s.beginReads p step).fw = s.fw := by
  simp [State.beginReads]

@[simp] theorem bellIn_fw {p : Nat} {c : Control} {num : BitVec 64} : (s.bellIn p c num).fw = s.fw := by
  simp [State.bellIn]

@[simp] theorem execStepBell_fusesKept {p : PartIx} {ctl : Control} : FusesKept s (execStepBell p ctl s) :=
  takeCtl_fusesKept fun n t => by simp

@[simp] theorem execRestartBell_fusesKept {p : PartIx} {ctl : Control} : FusesKept s (execRestartBell p ctl s) :=
  takeCtl_fusesKept fun n t => by simp

@[simp] theorem execHaltBell_fusesKept {p : PartIx} {ctl : Control} : FusesKept s (execHaltBell p ctl s) :=
  takeCtl_fusesKept fun n t => by simp

@[simp] theorem execBeacon_fusesKept {p : PartIx} {ctl : Control} : FusesKept s (execBeacon p ctl s) :=
  takeCtl_fusesKept fun n t => by simp

@[simp] theorem execPeriodStart_fusesKept {p : PartIx} : FusesKept s (execPeriodStart p s) := by
  unfold execPeriodStart
  dsimp only
  (repeat' split) <;> simp

@[simp] theorem resetVersions_fw {p : Nat} : (s.resetVersions p).fw = s.fw := by simp [State.resetVersions]

@[simp] theorem sendMirror_fw {p seat ddie kind vc : Nat} {full : Bool} {step : BitVec 64} {attempt : BitVec 8} {entry
    : Nat} {bs : List Byte} : (s.sendMirror p seat ddie kind vc full step attempt entry bs).fw = s.fw := by
  simp [State.sendMirror]

@[simp] theorem sendUpdate_fw {p : Nat} {e : JEntry} : (s.sendUpdate p e).fw = s.fw := by
  unfold State.sendUpdate
  dsimp only
  rw [modPart_fw, sendPacket_fw, sendMirror_fw]
  exact foldl_keeps (P := fun a : State × Nat => a.1.fw = s.fw) _ rfl fun _ _ h => sendMirror_fw.trans h

@[simp] theorem closeNow_fw {p : Nat} {e : JEntry} : (s.closeNow p e).fw = s.fw := by simp [State.closeNow]

@[simp] theorem execPeriodClose_fusesKept {p : PartIx} : FusesKept s (execPeriodClose p s) := by
  unfold execPeriodClose
  dsimp only
  split
  · generalize hu : (if (s.part p).period.versions = true then s else _) = u
    have hfw : u.fw = s.fw := by
      rw [← hu]
      simp
    (repeat' split) <;> simp [hfw]
  · simp

/-! ### The lodestar: roll call, patience, holds, decisions, succession, and the recovery sequence it runs -/

@[simp] theorem modLode_fw {p : Nat} {f : Lodestar → Lodestar} : (s.modLode p f).fw = s.fw := rfl

@[simp] theorem ringBell_fw {p type : Nat} {step : BitVec 64} {attempt : BitVec 8} :
    (s.ringBell p type step attempt).fw = s.fw := by
  simp [State.ringBell]

@[simp] theorem haltJob_fw {p cause : Nat} : (s.haltJob p cause).fw = s.fw := by simp [State.haltJob]

@[simp] theorem partNotice_fw {p : Nat} {reason : BitVec 16} {loc detail : Nat} :
    (s.partNotice p reason loc detail).fw = s.fw := by
  simp [State.partNotice]

@[simp] theorem stuckStep_fw {p : Nat} : (s.stuckStep p).fw = s.fw := by simp [State.stuckStep]
@[simp] theorem hold_fw {p cause named : Nat} : (s.hold p cause named).fw = s.fw := by simp [State.hold]

@[simp] theorem ringing_fw {p us : Nat} : (s.ringing p us).fw = s.fw := by
  unfold State.ringing
  dsimp only
  split <;> simp

@[simp] theorem cascadeAll_fw {p : Nat} {c : Control} : (s.cascadeAll p c).fw = s.fw := by simp [State.cascadeAll]

@[simp] theorem issueGen_fw {p : Nat} {changes : List (Nat × BitVec 128)} : (s.issueGen p changes).fw = s.fw := by
  simp [State.issueGen]

@[simp] theorem requestSeat_fw {p seat i : Nat} : (s.requestSeat p seat i).fw = s.fw := by simp [State.requestSeat]

@[simp] theorem requestSeats_fw {t : State} {p : Nat} {l : List Nat} (ht :
    s.requestSeats p l = some t) : t.fw = s.fw := by
  induction l generalizing s with
  | nil => exact congrArg State.fw (Option.some.inj ht).symm
  | cons q l ih =>
    unfold State.requestSeats at ht
    split at ht
    · exact (ih ht).trans requestSeat_fw
    · cases ht

@[simp] theorem seatAll_fw {p : Nat} : (s.seatAll p).fw = s.fw := by simp [State.seatAll]

@[simp] theorem orderRestore_fw {p : Nat} : (s.orderRestore p).fw = s.fw := by
  unfold State.orderRestore
  dsimp only
  split <;> simp

@[simp] theorem replay_fw {p : Nat} {step : BitVec 64} {attempt : BitVec 8} : (s.replay p step attempt).fw = s.fw := by
  simp [State.replay]

@[simp] theorem refillEnd_fw {p : Nat} : (s.refillEnd p).fw = s.fw := by simp [State.refillEnd]

@[simp] theorem advance_fw {p : Nat} : (s.advance p).fw = s.fw := by
  unfold State.advance
  dsimp only
  split
  · rfl
  · split
    · split
      · simp [requestSeats_fw ‹_›]
      · simp
    · split <;> simp
    · rfl

@[simp] theorem recover_fw {p : Nat} {seats kept : List Nat} : (s.recover p seats kept).fw = s.fw := by
  simp [State.recover]

@[simp] theorem restartStep_fw {p : Nat} {P : Partition} : (State.decideStep.restartStep p s P).fw = s.fw := by
  unfold State.decideStep.restartStep
  split <;> simp

@[simp] theorem decideStep_fw {p : Nat} : (s.decideStep p).fw = s.fw := by
  unfold State.decideStep
  dsimp only
  split
  · split <;> simp
  · split
    · rw [modLode_fw]
      split <;> simp
    · split <;> simp

@[simp] theorem holdEnd_fw {p us : Nat} : (s.holdEnd p us).fw = s.fw := by simp [State.holdEnd]

@[simp] theorem execMemberToken_fusesKept {p : PartIx} {ctl : Control} : FusesKept s (execMemberToken p ctl s) := by
  simp [execMemberToken]

@[simp] theorem execRowToken_fusesKept {p : PartIx} {ctl : Control} {us : Nat} : FusesKept s (execRowToken p ctl us s) := by
  simp [execRowToken]

@[simp] theorem execHoldAnswer_fusesKept {p : PartIx} {ctl : Control} {us : Nat} :
    FusesKept s (execHoldAnswer p ctl us s) :=
  takeCtl_fusesKept fun n t => by simp

@[simp] theorem execSlowNotice_fusesKept {p : PartIx} {ctl : Control} : FusesKept s (execSlowNotice p ctl s) :=
  takeCtl_fusesKept fun n t => by simp

@[simp] theorem execPaceChange_fusesKept {p : PartIx} {tj : BitVec 64} {msPassed : Bool} :
    FusesKept s (execPaceChange p tj msPassed s) := by
  unfold execPaceChange
  dsimp only
  (repeat' split) <;> simp

@[simp] theorem timer_fw : s.timer.fw = s.fw := by simp [State.timer]

@[simp] theorem execPatienceExpiry_fusesKept {p : PartIx} : FusesKept s (execPatienceExpiry p s) := by
  simp [execPatienceExpiry]

@[simp] theorem execAnswerWindowExpiry_fusesKept {p : PartIx} : FusesKept s (execAnswerWindowExpiry p s) := by
  simp [execAnswerWindowExpiry]

@[simp] theorem execExaminationAllowanceExpiry_fusesKept {p : PartIx} :
    FusesKept s (execExaminationAllowanceExpiry p s) := by
  simp [execExaminationAllowanceExpiry]

@[simp] theorem execBeaconTimer_fusesKept {p : PartIx} : FusesKept s (execBeaconTimer p s) := by
  simp [execBeaconTimer]

@[simp] theorem execFirstStepTimeout_fusesKept {p : PartIx} : FusesKept s (execFirstStepTimeout p s) := by
  simp [execFirstStepTimeout]

@[simp] theorem takeOver_fw {p : Nat} : (s.takeOver p).fw = s.fw := by simp [State.takeOver]

@[simp] theorem execTroubleNotice_fusesKept {p : PartIx} {ctl : Control} : FusesKept s (execTroubleNotice p ctl s) := by
  refine takeCtl_fusesKept fun n t => ?_
  dsimp only
  split
  · split
    · split <;> simp
    · split
      · split
        · simp
        · split <;> simp
      · split <;> simp
    · simp
  · split <;> simp

@[simp] theorem execClaim_fusesKept {p : PartIx} {ctl : Control} : FusesKept s (execClaim p ctl s) :=
  takeCtl_fusesKept fun n t => by simp

@[simp] theorem execWatchExpiry_fusesKept {p : PartIx} : FusesKept s (execWatchExpiry p s) := by
  simp [execWatchExpiry]

@[simp] theorem execTakeover_fusesKept {p : PartIx} : FusesKept s (execTakeover p s) := by simp [execTakeover]

end Sys2Proof.Machine
end

section
/-! Frame laws of the firmware record: the ring commands, the charts, the services and the exams (R359, R373). -/

namespace Sys2Proof.Machine

-- One proof after another: hundreds of them at once, in one text with the model, take more threads than the check allows.
set_option Elab.async false

variable {s : State}

/-! ### The mirror on the deskmate, refills, waypoints and scrubs -/

@[simp] theorem modMirror_fw {p : Nat} {f : Mirror → Mirror} : (s.modMirror p f).fw = s.fw := rfl

@[simp] theorem tryCommit_fw {p seat : Nat} : (s.tryCommit p seat).fw = s.fw := by
  unfold State.tryCommit
  dsimp only
  split <;> simp

@[simp] theorem takePkt_fw {p : PartIx} {pkt : Packet} : (s.takePkt p pkt).fw = s.fw := by simp [State.takePkt]

@[simp] theorem execMirrorPacket_fusesKept {p : PartIx} {pkt : Packet} : FusesKept s (execMirrorPacket p pkt s) := by
  simp [execMirrorPacket]

@[simp] theorem execMirrorCommit_fusesKept {p : PartIx} {pkt : Packet} : FusesKept s (execMirrorCommit p pkt s) := by
  simp [execMirrorCommit]

@[simp] theorem streamBody_fw {p seat : Nat} {step : BitVec 64} : (s.streamBody p seat step).fw = s.fw := by
  simp [State.streamBody]

@[simp] theorem execRefillRequest_fusesKept {p : PartIx} {ctl : Control} : FusesKept s (execRefillRequest p ctl s) :=
  takeCtl_fusesKept fun n t => by simp

@[simp] theorem execMirrorApplyComplete_fusesKept {p : PartIx} : FusesKept s (execMirrorApplyComplete p s) := by
  unfold execMirrorApplyComplete
  dsimp only
  (repeat' split) <;> simp

@[simp] theorem execMirrorAcknowledge_fusesKept {p : PartIx} {ctl : Control} :
    FusesKept s (execMirrorAcknowledge p ctl s) :=
  takeCtl_fusesKept fun n t => by simp

@[simp] theorem execSnapshotPacket_fusesKept {p : PartIx} {pkt : Packet} :
    FusesKept s (execSnapshotPacket p pkt s) := by
  unfold execSnapshotPacket
  dsimp only
  (repeat' split) <;> simp

@[simp] theorem adoptJournal_fw {p : Nat} {e : JEntry} {events : List IngressEvent} :
    (s.adoptJournal p e events).fw = s.fw := by
  simp [State.adoptJournal]

@[simp] theorem takeJournal_fw {p : Nat} {bs : List Byte} : (s.takeJournal p bs).fw = s.fw := by
  unfold State.takeJournal
  split <;> simp

@[simp] theorem execSnapshotStreamComplete_fusesKept {p : PartIx} : FusesKept s (execSnapshotStreamComplete p s) := by
  simp [execSnapshotStreamComplete]

@[simp] theorem servicePeriod_fw {k key : Nat} : (s.servicePeriod k key).fw = s.fw := by simp [State.servicePeriod]
@[simp] theorem countLate_fw {k : Nat} : (s.countLate k).fw = s.fw := rfl

@[simp] theorem execWaypointCopyComplete_fusesKept {p : PartIx} : FusesKept s (execWaypointCopyComplete p s) := by
  simp [execWaypointCopyComplete]

@[simp] theorem waypointPeriod_fw {finishes : Bool} {p : Nat} : (s.waypointPeriod finishes p).fw = s.fw := by
  unfold State.waypointPeriod
  dsimp only
  split <;> simp

@[simp] theorem execWaypointTimer_fusesKept {finishes : Bool} : FusesKept s (execWaypointTimer finishes s) := by
  simp [execWaypointTimer]

@[simp] theorem bodyBad_fw {b : BadBlock} : (s.bodyBad b).fw = s.fw := by
  unfold State.bodyBad
  split <;> simp

@[simp] theorem execScrubTimer_fusesKept {x : ScrubPeriod} : FusesKept s (execScrubTimer x s) := by
  unfold execScrubTimer
  dsimp only
  split <;> simp

@[simp] theorem execBodyInvalidReport_fusesKept {p : PartIx} : FusesKept s (execBodyInvalidReport p s) := by
  simp [execBodyInvalidReport]

/-! ### Commands from the rings: submit entries, starting and finishing, replies -/

@[simp] theorem reply_fw {r : Nat} {c : PendCmd} {status detail : Nat} {data : List Byte} :
    (s.reply r c status detail data).fw = s.fw := by
  simp [State.reply]

@[simp] theorem ok_fw {r : Nat} {c : PendCmd} : (s.ok r c).fw = s.fw := by simp [State.ok]

@[simp] theorem finish_fw {f : PendCmd → Bool} {status detail : Nat} {data : List Byte} :
    (s.finish f status detail data).fw = s.fw := by
  simp [State.finish]

@[simp] theorem sendReply_fw {q : Reply} : (s.sendReply q).fw = s.fw := by simp [State.sendReply]

@[simp] theorem writeReply_fw {r : Nat} : (s.writeReply r).fw = s.fw := by
  unfold State.writeReply
  dsimp only
  split <;> simp

@[simp] theorem wakePart_fw {p : Nat} : (s.wakePart p).fw = s.fw := by simp [State.wakePart]

@[simp] theorem runCmd_fusesKept {r : RingIx} {op : Nat} {states : List PartState} {bad : PendCmd → Option Nat}
    {f : PendCmd → State → State} {acc : PendCmd → List (Nat × Nat × Nat × Bool)}
    (hf : ∀ c t, State.SameFuses t (f c t)) : FusesKept s (s.runCmd r op states bad f acc) := by
  have hf : ∀ c t, (f c t).fw.fuses = t.fw.fuses := hf
  intro t ht
  rcases runCmd_cases ht with rfl | ⟨c, rest, -, -, ⟨e, -, rfl⟩ | ⟨-, -, -, rfl⟩ | ⟨-, rfl | rfl⟩⟩
  · exact rfl
  · simp
  · simp
  · simp
  · simp [hf]

/-! ### Chart generations, reserves, waypoint notices and restores -/

@[simp] theorem dropSends_fw {p : Nat} : (s.dropSends p).fw = s.fw := rfl
@[simp] theorem fence_fw {p lode : Nat} : (s.fence p lode).fw = s.fw := by simp [State.fence]
@[simp] theorem takeSeat_fw {p seat : Nat} : (s.takeSeat p seat).fw = s.fw := by simp [State.takeSeat]

@[simp] theorem tryInstall_fw {p lode : Nat} : (s.tryInstall p lode).fw = s.fw := by
  unfold State.tryInstall
  dsimp only
  (repeat' split) <;> simp

@[simp] theorem execChartUpdate_fusesKept {p : PartIx} {ctl : Control} : FusesKept s (execChartUpdate p ctl s) :=
  takeCtl_fusesKept fun n t => by simp

@[simp] theorem execChartCommit_fusesKept {p : PartIx} {ctl : Control} : FusesKept s (execChartCommit p ctl s) :=
  takeCtl_fusesKept fun n t => by simp

@[simp] theorem execChartAcknowledge_fusesKept {p : PartIx} {ctl : Control} :
    FusesKept s (execChartAcknowledge p ctl s) :=
  takeCtl_fusesKept fun n t => by simp

@[simp] theorem execSeatRequest_fusesKept {p : PartIx} {ctl : Control} : FusesKept s (execSeatRequest p ctl s) := by
  simp [execSeatRequest]

@[simp] theorem markLate_fw {p seat : Nat} {f : LateSeat → LateSeat} : (s.markLate p seat f).fw = s.fw := rfl

@[simp] theorem execSeatReady_fusesKept {p : PartIx} {ctl : Control} : FusesKept s (execSeatReady p ctl s) :=
  takeCtl_fusesKept fun n t => by simp

@[simp] theorem execRefillDone_fusesKept {p : PartIx} {ctl : Control} : FusesKept s (execRefillDone p ctl s) :=
  takeCtl_fusesKept fun n t => by simp

@[simp] theorem execFenceNotice_fusesKept {p : PartIx} {ctl : Control} : FusesKept s (execFenceNotice p ctl s) :=
  takeCtl_fusesKept fun n t => by simp

@[simp] theorem execWaypointSealed_fusesKept {p : PartIx} {ctl : Control} : FusesKept s (execWaypointSealed p ctl s) :=
  takeCtl_fusesKept fun n t => by simp

@[simp] theorem execWaypointWhole_fusesKept {p : PartIx} {ctl : Control} : FusesKept s (execWaypointWhole p ctl s) :=
  takeCtl_fusesKept fun n t => by simp

@[simp] theorem execRestoreOrder_fusesKept {p : PartIx} {ctl : Control} : FusesKept s (execRestoreOrder p ctl s) :=
  takeCtl_fusesKept fun n t => by simp

@[simp] theorem restoreFrom_fw {p : Nat} {w : BitVec 64} {data : List Byte} : (s.restoreFrom p w data).fw = s.fw := by
  unfold State.restoreFrom
  simp only [modPart_fw, takeJournal_fw]
  exact foldl_keeps (P := fun a : State × List Byte => a.1.fw = s.fw) _ rfl fun _ _ h => writeHbm_fw.trans h

@[simp] theorem sendRestoreDone_fw {p : Nat} {w : BitVec 64} : (s.sendRestoreDone p w).fw = s.fw := by
  simp [State.sendRestoreDone]

@[simp] theorem execWaypointRestoreComplete_fusesKept {p : PartIx} {wp : HostData} :
    FusesKept s (execWaypointRestoreComplete p wp s) := by
  unfold execWaypointRestoreComplete
  dsimp only
  (repeat' split) <;> simp

@[simp] theorem tryFirst_fw {p : Nat} : (s.tryFirst p).fw = s.fw := by
  unfold State.tryFirst
  dsimp only
  (repeat' split) <;> simp

@[simp] theorem execRestoreDone_fusesKept {p : PartIx} {ctl : Control} : FusesKept s (execRestoreDone p ctl s) :=
  takeCtl_fusesKept fun n t => by simp

/-! ### The device-wide, partition and memory commands of the host -/

@[simp] theorem execIdentify_fusesKept {r : RingIx} : FusesKept s (execIdentify r s) :=
  runCmd_fusesKept fun c t => by simp

@[simp] theorem execFeatureRead_fusesKept {r : RingIx} : FusesKept s (execFeatureRead r s) :=
  runCmd_fusesKept fun c t => by simp

@[simp] theorem execStatus_fusesKept {r : RingIx} : FusesKept s (execStatus r s) :=
  runCmd_fusesKept fun c t => by simp

@[simp] theorem execPartitionSet_fusesKept {r : RingIx} : FusesKept s (execPartitionSet r s) := by
  refine runCmd_fusesKept fun c t => ?_
  split <;> simp

@[simp] theorem execFabricConfig_fusesKept {r : RingIx} : FusesKept s (execFabricConfig r s) :=
  runCmd_fusesKept fun c t => by simp

@[simp] theorem setPort_fw {i : Nat} {on : Bool} : (s.setPort i on).fw = s.fw := by
  unfold State.setPort
  split <;> simp

@[simp] theorem execPortEnable_fusesKept {r : RingIx} : FusesKept s (execPortEnable r s) :=
  runCmd_fusesKept fun c t => by simp

@[simp] theorem endAll_fw {status detail : Nat} : (s.endAll status detail).fw = s.fw := by
  refine foldl_fw (fun t r => ?_) _ _
  simp

@[simp] theorem execDeviceReset_fusesKept {r : RingIx} : FusesKept s (execDeviceReset r s) :=
  runCmd_fusesKept fun c t => by simp

@[simp] theorem beginJob_fw {p : Nat} {first : BitVec 64} {fromWp : Bool} : (s.beginJob p first fromWp).fw = s.fw := by
  simp [State.beginJob]

@[simp] theorem execStartJob_fusesKept {r : RingIx} : FusesKept s (execStartJob r s) :=
  runCmd_fusesKept fun c t => by simp

@[simp] theorem execStopJob_fusesKept {r : RingIx} : FusesKept s (execStopJob r s) :=
  runCmd_fusesKept fun c t => by simp

@[simp] theorem dropImage_fw {p : Nat} : (s.dropImage p).fw = s.fw := by simp [State.dropImage]

@[simp] theorem execUnload_fusesKept {r : RingIx} : FusesKept s (execUnload r s) :=
  runCmd_fusesKept fun c t => by simp

@[simp] theorem hostWrite_fw {d a : Nat} {bs : List Byte} : (s.hostWrite d a bs).fw = s.fw := by
  unfold State.hostWrite
  split
  · rfl
  · refine foldl_fw (fun t e => ?_) _ _
    split <;> simp

@[simp] theorem execWriteHbm_fusesKept {r : RingIx} {data : HostData} : FusesKept s (execWriteHbm r data s) := by
  unfold execWriteHbm
  dsimp only
  (repeat' split) <;> simp

@[simp] theorem execReadHbm_fusesKept {r : RingIx} : FusesKept s (execReadHbm r s) :=
  runCmd_fusesKept fun c t => by simp

@[simp] theorem finishRemaps_fw : s.finishRemaps.fw = s.fw := by simp [State.finishRemaps]

@[simp] theorem execApertureMap_fusesKept {r : RingIx} : FusesKept s (execApertureMap r s) := by
  refine runCmd_fusesKept fun c t => ?_
  dsimp only
  split
  · simp
  · simp only [sameFuses_iff, finishRemaps_fw]
    split <;> simp

@[simp] theorem execJournalRead_fusesKept {r : RingIx} : FusesKept s (execJournalRead r s) :=
  runCmd_fusesKept fun c t => by simp

@[simp] theorem execChartLoad_fusesKept {r : RingIx} : FusesKept s (execChartLoad r s) := by
  refine runCmd_fusesKept fun c t => ?_
  dsimp only
  split
  · simp
  · split <;> simp

@[simp] theorem execChartRead_fusesKept {r : RingIx} : FusesKept s (execChartRead r s) :=
  runCmd_fusesKept fun c t => by simp

/-! ### What a detected error does -/

@[simp] theorem dropPeriod_fw {reason p : Nat} : (s.dropPeriod reason p).fw = s.fw := by simp [State.dropPeriod]
@[simp] theorem reexamine_fw {unit : Nat} : (s.reexamine unit).fw = s.fw := rfl
@[simp] theorem takeReport_fw {e : ErrEvent} : (s.takeReport e).fw = s.fw := rfl

@[simp] theorem execErrorReport_fusesKept {e : ErrEvent} : FusesKept s (execErrorReport e s) := by
  simp [execErrorReport]

@[simp] theorem examPassed_fw {p : Nat} : (s.examPassed p).fw = s.fw := by simp [State.examPassed]
@[simp] theorem reenable_fw {unit : Nat} : (s.reenable unit).fw = s.fw := by simp [State.reenable]

@[simp] theorem execReexaminationComplete_fusesKept {unit : Fin 5} {passed : Bool} :
    FusesKept s (execReexaminationComplete unit passed s) := by
  simp [execReexaminationComplete]

/-! ### Telemetry, record and service commands, the telemetry and quiz services -/

@[simp] theorem execTelemetryTimer_fusesKept {x : TelePeriod} : FusesKept s (execTelemetryTimer x s) := by
  unfold execTelemetryTimer
  dsimp only
  (repeat' split) <;> simp

@[simp] theorem clearRecord_fw {kind i : Nat} : (s.clearRecord kind i).fw = s.fw := by
  unfold State.clearRecord
  split <;> simp

@[simp] theorem execTelemetryRead_fusesKept {r : RingIx} {smp : TeleSample} : FusesKept s (execTelemetryRead r smp s) :=
  runCmd_fusesKept fun c t => by simp

@[simp] theorem execTelemetryClear_fusesKept {r : RingIx} : FusesKept s (execTelemetryClear r s) :=
  runCmd_fusesKept fun c t => by simp

@[simp] theorem execRecordRead_fusesKept {r : RingIx} : FusesKept s (execRecordRead r s) :=
  runCmd_fusesKept fun c t => by simp

@[simp] theorem execServiceSet_fusesKept {r : RingIx} : FusesKept s (execServiceSet r s) :=
  runCmd_fusesKept fun c t => by simp

@[simp] theorem execQuizTimer_fusesKept : FusesKept s (execQuizTimer s) := by
  unfold execQuizTimer
  dsimp only
  (repeat' split) <;> simp

@[simp] theorem execQuizDigestsComplete_fusesKept {faulty : List (Fin 32 × BitVec 64)} :
    FusesKept s (execQuizDigestsComplete faulty s) := by
  unfold execQuizDigestsComplete
  dsimp only
  (repeat' split) <;> simp

/-! ### Exams: slices, grants, results and commands -/

@[simp] theorem modRec_fw {t : Word} {f : ExamRec → ExamRec} : (s.modRec t f).fw = s.fw := rfl

@[simp] theorem examOutcome_fw {t : Word} {o : ExamOutcome} : (s.examOutcome t o).fw = s.fw := by
  simp [State.examOutcome]

@[simp] theorem examOutcomes_fw {t : Word} {empty : Bool} {rs : List ExamOutcome} :
    (s.examOutcomes t empty rs).fw = s.fw := by
  simp [State.examOutcomes]

@[simp] theorem examAll_fw {es : List (Word × List ExamOutcome)} : (s.examAll es).fw = s.fw := by simp [State.examAll]

@[simp] theorem save_fw {t : Word} {base : Nat} {bad : List (Fin 16 × Nat)} : (s.save t base bad).fw = s.fw := by
  simp [State.save]

@[simp] theorem restoreBench_fw {t : Word} {base : Nat} : (s.restoreBench t base).fw = s.fw := by
  simp [State.restoreBench]

@[simp] theorem takeTarget_fw {t : Word} : (s.takeTarget t).fw = s.fw := by
  unfold State.takeTarget
  split <;> simp

@[simp] theorem releaseTarget_fw {x : Slice} : (s.releaseTarget x).fw = s.fw := by
  unfold State.releaseTarget
  dsimp only
  split
  · refine (modBench_fw.trans (foldl_fw (fun t c => modCell_fw ..) _ _)).trans ?_
    split <;> simp
  · split <;> simp

@[simp] theorem execSliceGrant_fusesKept {g : SliceStart} : FusesKept s (execSliceGrant g s) := by
  unfold execSliceGrant
  dsimp only
  (repeat' split) <;> simp

@[simp] theorem lateSlices_fw : s.lateSlices.fw = s.fw := by simp [State.lateSlices]
@[simp] theorem execExamTimer_fusesKept : FusesKept s (execExamTimer s) := by simp [execExamTimer]
@[simp] theorem finishExams_fw : s.finishExams.fw = s.fw := by simp [State.finishExams]

@[simp] theorem endSlice_fw {t : Word} {f : Slice → State → State} (hf : ∀ a t, State.SameFw t (f a t)) :
    (s.endSlice t f).fw = s.fw := by
  have hf : ∀ a t, (f a t).fw = t.fw := hf
  unfold State.endSlice
  split
  · rfl
  · dsimp only
    split <;> simp [hf]

@[simp] theorem execExamSliceComplete_fusesKept {t : Word} {rs : List ExamOutcome} :
    FusesKept s (execExamSliceComplete t rs s) := by
  simp [execExamSliceComplete]

@[simp] theorem execSliceBudgetExpiry_fusesKept {t : Word} : FusesKept s (execSliceBudgetExpiry t s) := by
  simp [execSliceBudgetExpiry]

@[simp] theorem execExamResults_fusesKept {r : RingIx} : FusesKept s (execExamResults r s) :=
  runCmd_fusesKept fun c t => by simp

@[simp] theorem execExamRun_fusesKept {r : RingIx} : FusesKept s (execExamRun r s) := by
  refine runCmd_fusesKept fun c t => ?_
  dsimp only
  split
  · simp
  · split <;> simp

@[simp] theorem execExamPolicy_fusesKept {r : RingIx} : FusesKept s (execExamPolicy r s) :=
  runCmd_fusesKept fun c t => by simp

end Sys2Proof.Machine
end

section
/-! Frame laws of the firmware record: mesh routes, the row engine, the CXL port, and loading (R359, R373). -/

namespace Sys2Proof.Machine

-- One proof after another: hundreds of them at once, in one text with the model, take more threads than the check allows.
set_option Elab.async false

variable {s : State}

/-! ### Mesh routes, their rotas, and the consumer's pop of a queue -/

@[simp] theorem crossHop_fw {t : State} {p : Nat} {hops : List (Nat × Nat)} {k : Nat} (ht :
    s.crossHop p hops k = some t) : t.fw = s.fw := by
  obtain ⟨r, -, rfl⟩ := Option.map_eq_some_iff.1 ht
  simp

@[simp] theorem moveEntries_fw {p : Nat} {hops : List (Nat × Nat)} {far : Nat × Nat} {l acc : List (Nat × Entry)} :
    (State.moveEntries p hops far l acc s).2.fw = s.fw := by
  induction l generalizing acc s with
  | nil => rfl
  | cons a l ih =>
    obtain ⟨k, e⟩ := a
    unfold State.moveEntries
    dsimp only
    split
    · split <;> simp [ih]
    · split
      · exact ih
      · split
        · exact ih.trans (crossHop_fw ‹_›)
        · exact ih

@[simp] theorem routeStep_fw {c x : Nat} : (s.routeStep c x).fw = s.fw := by
  unfold State.routeStep
  dsimp only
  split
  · split
    · split
      · simp
      · split
        · simp [crossHop_fw ‹_›]
        · simp
    · simp
  · rfl

@[simp] theorem execQueuePop_fusesKept {c : CellIx} {q : QueueIx} {out : Option (Fin 4)} :
    FusesKept s (execQueuePop c q out s) := by
  refine onCell_fusesKept ?_
  split
  · simp
  · split
    · split
      · split
        · simp [popOut_fw ‹_›]
        · simp
      · simp
    · split
      · simp [consume_fw ‹_›]
      · simp

/-! ### The row engine -/

@[simp] theorem execRow_fusesKept {c : CellIx} : FusesKept s (execRow c s) := by
  unfold execRow
  dsimp only
  split <;> simp

@[simp] theorem rowPush_fw {c : Nat} {op : Op} {fmt : Nat} {crossed : Bool} {l : List (List RElem)} {o : OutBuf} :
    (State.rowPush c op fmt crossed l s o).1.fw = s.fw := by
  induction l generalizing s o with
  | nil => rfl
  | cons v vs ih => exact ih.trans (setCell_fw ..)

@[simp] theorem rowPull_fw {c : Nat} {op : Op} {i : Option RowIn} {n : Nat} {buf : List InByte} :
    (s.rowPull c op i n buf).2.1.fw = s.fw := by
  unfold State.rowPull
  split <;> simp

@[simp] theorem rowEnd_fw {c : Nat} {r : RowRun} {ended : Bool} : (s.rowEnd c r ended).fw = s.fw := by
  simp [State.rowEnd]

@[simp] theorem rowStep_fw {c fn : Nat} {work : Cell → RowRun → List RElem → List RElem → List RElem
    → RowOut × List LVal × List LVal} : (s.rowStep c fn work).fw = s.fw := by
  unfold State.rowStep
  dsimp only
  (repeat' split) <;> simp

@[simp] theorem execSoftmaxForward_fusesKept {c : CellIx} : FusesKept s (execSoftmaxForward c s) := by
  simp [execSoftmaxForward]

@[simp] theorem execSoftmaxBackward_fusesKept {c : CellIx} : FusesKept s (execSoftmaxBackward c s) := by
  simp [execSoftmaxBackward]

@[simp] theorem execNormalisationForward_fusesKept {c : CellIx} : FusesKept s (execNormalisationForward c s) := by
  simp [execNormalisationForward]

@[simp] theorem execNormalisationBackward_fusesKept {c : CellIx} : FusesKept s (execNormalisationBackward c s) := by
  simp [execNormalisationBackward]

@[simp] theorem orthoOne_fw {c : Nat} {r : RowRun} : (s.orthoOne c r).fw = s.fw := by simp [State.orthoOne]

@[simp] theorem execOrthonormalisation_fusesKept {c : CellIx} : FusesKept s (execOrthonormalisation c s) := by
  unfold execOrthonormalisation
  split <;> simp

/-! ### SCALAR operations: each cell's partial, and the combination over a form -/

@[simp] theorem execScalar_fusesKept {c : CellIx} : FusesKept s (execScalar c s) := by
  unfold execScalar
  dsimp only
  split <;> simp

@[simp] theorem givePartial_fw {c : Nat} {r : ScalRun} : (s.givePartial c r).fw = s.fw := by
  unfold State.givePartial
  split <;> simp

@[simp] theorem scalStep_fw {c fn : Nat} : (s.scalStep c fn).fw = s.fw := by
  unfold State.scalStep
  split
  · rfl
  · dsimp only
    split
    · rfl
    · split
      · rfl
      · split <;> simp [consume_fw ‹_›]

@[simp] theorem execScalarSum_fusesKept {c : CellIx} : FusesKept s (execScalarSum c s) := by simp [execScalarSum]

@[simp] theorem execScalarSumOfSquares_fusesKept {c : CellIx} : FusesKept s (execScalarSumOfSquares c s) := by
  simp [execScalarSumOfSquares]

@[simp] theorem execScalarMaximum_fusesKept {c : CellIx} : FusesKept s (execScalarMaximum c s) := by
  simp [execScalarMaximum]

@[simp] theorem execScalarMinimum_fusesKept {c : CellIx} : FusesKept s (execScalarMinimum c s) := by
  simp [execScalarMinimum]

@[simp] theorem execNanCount_fusesKept {c : CellIx} : FusesKept s (execNanCount c s) := by simp [execNanCount]

@[simp] theorem execInfinityCount_fusesKept {c : CellIx} : FusesKept s (execInfinityCount c s) := by
  simp [execInfinityCount]

/-! ### The hold bell: the member's answer, and deadlock records -/

@[simp] theorem sendDeadlock_fw {p : Nat} {num : BitVec 64} : (s.sendDeadlock p num).fw = s.fw := by
  simp [State.sendDeadlock]

@[simp] theorem execHoldBell_fusesKept {p : PartIx} {ctl : Control} : FusesKept s (execHoldBell p ctl s) := by
  refine takeCtl_fusesKept fun n t => ?_
  dsimp only
  split
  · simp
  · split <;> split <;> simp

/-! ### The CXL port: the HDM window, the snoop filter, the data service, the link -/

@[simp] theorem recordLine_fw {d a : Nat} : (s.recordLine d a).fw = s.fw := by
  unfold State.recordLine
  dsimp only
  (repeat' split) <;> simp

@[simp] theorem execHostMemRead_fusesKept {line : BitVec 30} : FusesKept s (execHostMemRead line s) := by
  simp [execHostMemRead]
  (repeat' split) <;> simp

@[simp] theorem execHostMemWrite_fusesKept {line : BitVec 30} {data : BitVec 512} {be : BitVec 64} :
    FusesKept s (execHostMemWrite line data be s) := by
  simp [execHostMemWrite]
  (repeat' split) <;> simp

@[simp] theorem execBisnpResponse_fusesKept {d : DieIx} {line : Nat} : FusesKept s (execBisnpResponse d line s) := by
  unfold execBisnpResponse
  split <;> simp

@[simp] theorem execH2dSnoop_fusesKept {addr : BitVec 64} : FusesKept s (execH2dSnoop addr s) := by
  simp [execH2dSnoop]

@[simp] theorem compareManifest_fw {p : Nat} {j : SvcJob} : (s.compareManifest p j).fw = s.fw := by
  unfold State.compareManifest
  split <;> simp

@[simp] theorem execDataServiceLine_fusesKept {p : PartIx} {i : Fin 256} {off : Nat} {data : BitVec 512} {poison
    : Bool} : FusesKept s (execDataServiceLine p i off data poison s) := by
  unfold execDataServiceLine
  dsimp only
  (repeat' split) <;> simp

@[simp] theorem execCxlLinkUp_fusesKept {width rate : Fin 8} {flit256 : Bool} :
    FusesKept s (execCxlLinkUp width rate flit256 s) := by
  simp [execCxlLinkUp]

@[simp] theorem resetRings_fw : s.resetRings.fw = s.fw := rfl

@[simp] theorem reissueReads_fw : s.reissueReads.fw = s.fw := by
  refine foldl_fw (fun t p => ?_) _ _
  simp

@[simp] theorem linkDown_fw : s.linkDown.fw = s.fw := by
  unfold State.linkDown
  simp

@[simp] theorem execCxlLinkReset_fusesKept {kind : LinkReset} : FusesKept s (execCxlLinkReset kind s) := by
  unfold execCxlLinkReset
  dsimp only
  (repeat' split) <;> simp

@[simp] theorem execViralReceived_fusesKept : FusesKept s (execViralReceived s) := by simp [execViralReceived]

@[simp] theorem execIdeIntegrityFailure_fusesKept : FusesKept s (execIdeIntegrityFailure s) := by
  simp [execIdeIntegrityFailure]

/-! ### Loading a program image: LOAD's verdict, and the copy of an accepted image -/

@[simp] theorem execLoadImage_fusesKept {r : RingIx} {img : HostData} : FusesKept s (execLoadImage r img s) := by
  refine runCmd_fusesKept fun c t => ?_
  dsimp only
  split <;> simp

@[simp] theorem copySegment_fw {image : Image} {bytes : List Byte} {g : BitVec 128} :
    (State.copySegment image bytes s g).fw = s.fw := by
  unfold State.copySegment
  dsimp only
  split <;> simp

@[simp] theorem takeImage_fw {p : Nat} {l : Loading} {bytes : List Byte} : (s.takeImage p l bytes).fw = s.fw := by
  simp [State.takeImage]

@[simp] theorem loseImage_fw {p : Nat} {l : Loading} {bytes : List Byte} : (s.loseImage p l bytes).fw = s.fw := by
  simp [State.loseImage]

@[simp] theorem execLoaderReadComplete_fusesKept {r : RingIx} {img : HostData} :
    FusesKept s (execLoaderReadComplete r img s) := by
  unfold execLoaderReadComplete
  dsimp only
  (repeat' split) <;> simp

/-! ### Measurements and identity, the announcement -/

@[simp] theorem issueKey_fw : s.issueKey.fw = s.fw := by simp [State.issueKey]
@[simp] theorem announce_fw : s.announce.fw = s.fw := by simp [State.announce]
@[simp] theorem mgmtDown_fw : s.mgmtDown.fw = s.fw := by simp [State.mgmtDown]

@[simp] theorem takeKmp_fusesKept {i : Instr} {m : Kmp} {type : Nat} {f : BitVec 64 → State → State}
    (hf : ∀ n t, State.SameFuses t (f n t)) : FusesKept s (s.takeKmp i m type f) := by
  have hf : ∀ n t, (f n t).fw.fuses = t.fw.fuses := hf
  simp [State.takeKmp, hf]

end Sys2Proof.Machine
end

section
/-! Frame laws of the fuses: firmware, management, power, SPDM, start-up and test access (R359, R373). -/

namespace Sys2Proof.Machine

-- One proof after another: hundreds of them at once, in one text with the model, take more threads than the check allows.
set_option Elab.async false

variable {s : State}

/-! ### Replacing the firmware -/

@[simp] theorem refusedPiece_fuses : s.refusedPiece.fw.fuses = s.fw.fuses := rfl
@[simp] theorem stage_fuses {path off : Nat} {bs : List Byte} : (s.stage path off bs).fw.fuses = s.fw.fuses := rfl

@[simp] theorem execFwBegin_fusesKept {r : RingIx} : FusesKept s (execFwBegin r s) := by
  refine runCmd_fusesKept fun c t => ?_
  dsimp only
  split
  · simp
  · split
    · simp
    · exact (congrArg Firmware.fuses ok_fw).trans rfl

@[simp] theorem execFwBlock_fusesKept {r : RingIx} {data : HostData} : FusesKept s (execFwBlock r data s) := by
  refine runCmd_fusesKept fun c t => ?_
  dsimp only
  (repeat' split) <;> simp

@[simp] theorem execFwStatus_fusesKept {r : RingIx} : FusesKept s (execFwStatus r s) :=
  runCmd_fusesKept fun c t => by simp

@[simp] theorem execFwDiscard_fusesKept {r : RingIx} : FusesKept s (execFwDiscard r s) := by
  refine runCmd_fusesKept fun c t => ?_
  split
  · simp
  · exact (congrArg Firmware.fuses ok_fw).trans rfl

@[simp] theorem execFwVerificationDone_fusesKept : FusesKept s (execFwVerificationDone s) := by
  unfold execFwVerificationDone
  (repeat' split) <;> exact next_fusesKept.2 rfl

@[simp] theorem execFwActivate_fusesKept {r : RingIx} : FusesKept s (execFwActivate r s) := by
  refine runCmd_fusesKept fun c t => ?_
  dsimp only
  split
  · simp
  · split
    · simp
    · split
      · exact coldReset_fuses.trans (Firmware.writeSlot_fuses t.fw _)
      · rfl

@[simp] theorem dropServices_fw : s.dropServices.fw = s.fw := by
  unfold State.dropServices
  dsimp only
  refine (foldl_fw (fun t p => ?_) _ _).trans (lateSlices_fw.trans ?_) <;> split <;> simp

@[simp] theorem holdClerks_fw : s.holdClerks.fw = s.fw := rfl
@[simp] theorem restartClerks_fw : s.restartClerks.fw = s.fw := rfl

@[simp] theorem execSwitchBoundary_fusesKept {badWrites : Fin 3} : FusesKept s (execSwitchBoundary badWrites s) := by
  have hfw : s.dropServices.holdClerks.fw = s.fw := by simp
  unfold execSwitchBoundary
  generalize s.dropServices.holdClerks = u at hfw
  dsimp only
  split
  · simp
  · rw [hfw]
    split
    · exact next_fusesKept.2 (startFailure_fuses.trans (Firmware.writeSlot_fuses ..))
    · exact next_fusesKept.2 (Firmware.writeSlot_fuses s.fw _)

@[simp] theorem execActivateWindowExpiry_fusesKept : FusesKept s (execActivateWindowExpiry s) := by
  unfold execActivateWindowExpiry
  dsimp only
  split
  · simp
  · refine next_fusesKept.2 ((congrArg Firmware.fuses finish_fw).trans (?_ :
    (s.admitted .timer 999).fw.fuses = s.fw.fuses))
    simp

@[simp] theorem execFirmwareReady_fusesKept : FusesKept s (execFirmwareReady s) := by
  unfold execFirmwareReady
  dsimp only
  split
  · simp
  · exact next_fusesKept.2 ((congrArg Firmware.fuses (announce_fw.trans (finish_fw.trans issueKey_fw))).trans rfl)

@[simp] theorem execFirmwareReadyTimeout_fusesKept : FusesKept s (execFirmwareReadyTimeout s) := by
  unfold execFirmwareReadyTimeout
  split <;> simp

/-! ### The management port, KMP and I3C -/

@[simp] theorem execArpRequest_fusesKept {ip : BitVec 32} : FusesKept s (execArpRequest ip s) := by
  simp [execArpRequest]

@[simp] theorem execNeighborSolicitation_fusesKept {ip : BitVec 128} : FusesKept s (execNeighborSolicitation ip s) := by
  simp [execNeighborSolicitation]

@[simp] theorem execEchoRequest_fusesKept {m : Echo} : FusesKept s (execEchoRequest m s) := by simp [execEchoRequest]
@[simp] theorem sendKept_fw {rcd : BitVec 512} : (s.sendKept rcd).fw = s.fw := by simp [State.sendKept]

@[simp] theorem execAnnouncementTimer_fusesKept : FusesKept s (execAnnouncementTimer s) := by
  simp [execAnnouncementTimer]

@[simp] theorem execManagementLinkLoss_fusesKept : FusesKept s (execManagementLinkLoss s) := by
  simp [execManagementLinkLoss]

@[simp] theorem reject_fw {m : Kmp} {reason : Nat} : (s.reject m reason).fw = s.fw := by simp [State.reject]
@[simp] theorem acceptSeq_fw {m : Kmp} : (s.acceptSeq m).fw = s.fw := by simp [State.acceptSeq]

@[simp] theorem execControlRequest_fusesKept {m : Kmp} : FusesKept s (execControlRequest m s) := by
  refine takeKmp_fusesKept fun n t => ?_
  dsimp only
  split <;> simp

@[simp] theorem execFirmwarePiece_fusesKept {m : Kmp} : FusesKept s (execFirmwarePiece m s) := by
  refine takeKmp_fusesKept fun n t => ?_
  split <;> simp

@[simp] theorem execNetworkConfiguration_fusesKept {m : Kmp} : FusesKept s (execNetworkConfiguration m s) := by
  refine takeKmp_fusesKept fun n t => ?_
  split <;> simp

@[simp] theorem execKeyManagement_fusesKept {m : Kmp} : FusesKept s (execKeyManagement m s) := by
  refine takeKmp_fusesKept fun n t => ?_
  split
  · dsimp only
    split <;> simp
  · simp
  · simp

@[simp] theorem execMctpControl_fusesKept {m : MctpControl} : FusesKept s (execMctpControl m s) := by
  unfold execMctpControl
  dsimp only
  (repeat' split) <;> simp

@[simp] theorem execI3cCommonCommand_fusesKept {cc : I3cCommand} : FusesKept s (execI3cCommonCommand cc s) := by
  unfold execI3cCommonCommand
  split
  · simp
  · have hfw : (s.admitted .i3c 7).fw = s.fw := by simp
    generalize s.admitted .i3c 7 = u at hfw
    dsimp only
    cases cc <;> cases u.mgmt.dynAddr <;> simp [hfw]

/-! ### Power states, the governor, sprint and wear, conversion faults, the power commands -/

@[simp] theorem mapBenches_fw {f : Nat → Bench → Bench} : (s.mapBenches f).fw = s.fw :=
  foldl_fw (fun _ _ => modBench_fw) _ _

@[simp] theorem endSprints_fw : s.endSprints.fw = s.fw := mapBenches_fw
@[simp] theorem governDown_fw : s.governDown.fw = s.fw := by simp [State.governDown]
@[simp] theorem governUp_fw {g : GovSample} : (s.governUp g).fw = s.fw := mapBenches_fw
@[simp] theorem endRateMs_fw : s.endRateMs.fw = s.fw := rfl
@[simp] theorem markSprint_fw : s.markSprint.fw = s.fw := by simp [State.markSprint]

@[simp] theorem execGovernorSample_fusesKept {g : GovSample} : FusesKept s (execGovernorSample g s) := by
  simp [execGovernorSample]

@[simp] theorem execSprintLimit_fusesKept : FusesKept s (execSprintLimit s) := by simp [execSprintLimit]
@[simp] theorem execWearHour_fusesKept : FusesKept s (execWearHour s) := by simp [execWearHour]

@[simp] theorem loseLogic_fw {d : Nat} : (s.loseLogic d).fw = s.fw :=
  (modDie_fw ..).trans (foldl_fw (fun _ _ => modCell_fw ..) _ _)

@[simp] theorem finishPower_fw : s.finishPower.fw = s.fw := by simp [State.finishPower]

@[simp] theorem execShutdownEventComplete_fusesKept {d : DieIx} : FusesKept s (execShutdownEventComplete d s) := by
  unfold execShutdownEventComplete
  dsimp only
  split
  · simp
  · split
    · split <;> simp
    · simp
    · simp
    · exact next_fusesKept.2 (congrArg Firmware.fuses (finishPower_fw.trans ((modDie_fw ..).trans loseLogic_fw)))
    · simp

@[simp] theorem wakeStep_fw {d : Nat} : (s.wakeStep d).fw = s.fw := by
  unfold State.wakeStep
  split
  · simp
  · simp
  · simp
  · exact (modDie_fw ..).trans loseLogic_fw
  · rfl

@[simp] theorem execWakeStepComplete_fusesKept {d : DieIx} : FusesKept s (execWakeStepComplete d s) := by
  simp [execWakeStepComplete]

@[simp] theorem execStageFault_fusesKept {k : Fin 4} {code : BitVec 64} : FusesKept s (execStageFault k code s) := by
  unfold execStageFault
  dsimp only
  (repeat' split) <;> simp

@[simp] theorem execInputUndervoltage_fusesKept : FusesKept s (execInputUndervoltage s) := by
  unfold execInputUndervoltage
  dsimp only
  (repeat' split) <;> simp

@[simp] theorem execOverTemperatureStop_fusesKept : FusesKept s (execOverTemperatureStop s) := by
  unfold execOverTemperatureStop
  dsimp only
  (repeat' split) <;> simp

@[simp] theorem execPowerStatus_fusesKept {r : RingIx} : FusesKept s (execPowerStatus r s) :=
  runCmd_fusesKept fun c t => by simp

@[simp] theorem execPowerPolicy_fusesKept {r : RingIx} : FusesKept s (execPowerPolicy r s) :=
  runCmd_fusesKept fun c t => by simp

@[simp] theorem execBenchState_fusesKept {r : RingIx} : FusesKept s (execBenchState r s) :=
  runCmd_fusesKept fun c t => by simp

@[simp] theorem execDieState_fusesKept {r : RingIx} : FusesKept s (execDieState r s) := by
  unfold execDieState
  dsimp only
  (repeat' split) <;> simp

@[simp] theorem enterStandby_fw : s.enterStandby.fw = s.fw := rfl
@[simp] theorem wakeAll_fw : s.wakeAll.fw = s.fw := rfl

@[simp] theorem execDeviceStandby_fusesKept {r : RingIx} : FusesKept s (execDeviceStandby r s) :=
  runCmd_fusesKept fun c t => by simp

@[simp] theorem execPowerCap_fusesKept {r : RingIx} : FusesKept s (execPowerCap r s) :=
  runCmd_fusesKept fun c t => by simp

/-! ### The host's command rings and the registers that writes reach -/

@[simp] theorem readEntries_fw {r : Nat} {subs : List Submit} : (s.readEntries r subs).fw = s.fw := by
  simp [State.readEntries]

@[simp] theorem execDoorbell_fusesKept {r : HostRing} {tail : Byte} {subs : List Submit} :
    FusesKept s (execDoorbell r tail subs s) := by
  simp [execDoorbell]

@[simp] theorem execRepHeadWrite_fusesKept {r : HostRing} {head : Byte} : FusesKept s (execRepHeadWrite r head s) := by
  simp [execRepHeadWrite]

@[simp] theorem execRingEnableWrite_fusesKept {r : HostRing} {on : Option (List Submit)} :
    FusesKept s (execRingEnableWrite r on s) := by
  unfold execRingEnableWrite
  split <;> simp

@[simp] theorem execRegisterWrite_fusesKept {reg : Reg} {v : BitVec 64} : FusesKept s (execRegisterWrite reg v s) := by
  unfold execRegisterWrite
  split <;> simp

@[simp] theorem execCommandReply_fusesKept {r : RingIx} : FusesKept s (execCommandReply r s) := by
  simp [execCommandReply]

/-! ### The SPDM responder -/

@[simp] theorem respond_fw {t : Transport} {code : Byte} {bytes : List Byte} {signed : Bool} :
    (s.respond t code bytes signed).fw = s.fw :=
  rfl

@[simp] theorem spdmError_fw {t : Transport} {e : Byte} : (s.spdmError t e).fw = s.fw := rfl

@[simp] theorem spdmIn_fw {t : Transport} : (s.spdmIn t).fw = s.fw := by
  unfold State.spdmIn
  split <;> simp

@[simp] theorem takeSpdm_fusesKept {t : Transport} {need : Nat → Bool} {f : State → State}
    (hf : ∀ u, State.SameFw u (f u)) : FusesKept s (s.takeSpdm t need f) := by
  have hf : ∀ u, (f u).fw = u.fw := hf
  simp [State.takeSpdm, hf]

@[simp] theorem inSession_fusesKept {t : Transport} {sess : Nat} {ready : Bool} {f : State → State}
    (hf : ∀ u, State.SameFw u (f u)) : FusesKept s (s.inSession t sess ready f) := by
  have hf : ∀ u, (f u).fw = u.fw := hf
  simp [State.inSession, hf]

@[simp] theorem connTo_fw {t : Transport} {n : Nat} : (s.connTo t n).fw = s.fw := rfl

@[simp] theorem execGetVersion_fusesKept {t : Transport} : FusesKept s (execGetVersion t s) := by
  simp [execGetVersion]

@[simp] theorem execGetCapabilities_fusesKept {t : Transport} : FusesKept s (execGetCapabilities t s) := by
  simp [execGetCapabilities]

@[simp] theorem execNegotiateAlgorithms_fusesKept {t : Transport} {a : AlgorithmOffer} :
    FusesKept s (execNegotiateAlgorithms t a s) := by
  simp [execNegotiateAlgorithms]

@[simp] theorem execGetDigests_fusesKept {t : Transport} : FusesKept s (execGetDigests t s) := by
  simp [execGetDigests]

@[simp] theorem execGetCertificate_fusesKept {t : Transport} {slot : Byte} {off len : Nat} :
    FusesKept s (execGetCertificate t slot off len s) := by
  simp [execGetCertificate]

@[simp] theorem nonce_fw : s.nonce.2.fw = s.fw := rfl

@[simp] theorem execChallenge_fusesKept {t : Transport} {nonce : BitVec 256} : FusesKept s (execChallenge t nonce s) := by
  simp [execChallenge]

@[simp] theorem execGetMeasurements_fusesKept {t : Transport} {ix : Byte} {nonce : BitVec 256} {sign : Bool} :
    FusesKept s (execGetMeasurements t ix nonce sign s) := by
  simp [execGetMeasurements]

@[simp] theorem execKeyExchange_fusesKept {t : Transport} {pub : List Byte} : FusesKept s (execKeyExchange t pub s) := by
  simp [execKeyExchange]

@[simp] theorem modSessions_fw {f : List Session → List Session} : (s.modSessions f).fw = s.fw := rfl

@[simp] theorem execFinish_fusesKept {t : Transport} {sess : Nat} {macOk : Bool} :
    FusesKept s (execFinish t sess macOk s) := by
  simp [execFinish]

@[simp] theorem execHeartbeat_fusesKept {t : Transport} {sess : Nat} : FusesKept s (execHeartbeat t sess s) := by
  simp [execHeartbeat]

@[simp] theorem execKeyUpdate_fusesKept {t : Transport} {sess : Nat} : FusesKept s (execKeyUpdate t sess s) := by
  simp [execKeyUpdate]

@[simp] theorem execEndSession_fusesKept {t : Transport} {sess : Nat} : FusesKept s (execEndSession t sess s) := by
  simp [execEndSession]

@[simp] theorem execVendorDefinedRequest_fusesKept {t : Transport} {sess : Nat} {km : IdeKm} :
    FusesKept s (execVendorDefinedRequest t sess km s) := by
  unfold execVendorDefinedRequest
  split <;> simp

/-! ### Start-up and resets by pins -/

@[simp] theorem startHold_fw {order : Nat} {failed : BitVec 12} {dies : BitVec 4} :
    (s.startHold order failed dies).fw = s.fw := by
  simp [State.startHold]

@[simp] theorem bootRecovery_fw : s.bootRecovery.fw = s.fw := rfl

@[simp] theorem bootLoader_fuses {ok : Bool} : (s.bootLoader ok).fw.fuses = s.fw.fuses := by
  unfold State.bootLoader
  dsimp only
  (repeat' split) <;> rfl

@[simp] theorem bootRunning_fuses {ok : Bool} : (s.bootRunning ok).fw.fuses = s.fw.fuses := by
  unfold State.bootRunning
  dsimp only
  (repeat' split) <;> rfl

@[simp] theorem bootFirmware_fuses : s.bootFirmware.fw.fuses = s.fw.fuses := by
  refine (congrArg Firmware.fuses (wakeAll_fw.trans issueKey_fw)).trans ?_
  dsimp only
  split <;> rfl

@[simp] theorem boot_fuses {st : BootSample} : (s.boot st).fw.fuses = s.fw.fuses := by
  have hwake : ((List.range 4).foldl State.wakeStep s).fw = s.fw := foldl_fw (fun _ _ => wakeStep_fw) _ _
  unfold State.boot
  dsimp only
  split
  case h_11 =>
    split
    · exact congrArg Firmware.fuses hwake
    · simp
  all_goals simp [hwake]

@[simp] theorem execColdStart_fusesKept {st : BootSample} : FusesKept s (execColdStart st s) := by
  unfold execColdStart
  split <;> simp

@[simp] theorem execStartupReady_fusesKept {ms : Word} : FusesKept s (execStartupReady ms s) := by
  simp [execStartupReady]

@[simp] theorem execStartHold_fusesKept {order : Fin 16} {failed : BitVec 12} {dies : BitVec 4} :
    FusesKept s (execStartHold order failed dies s) := by
  simp [execStartHold]

@[simp] theorem execVinRise_fusesKept : FusesKept s (execVinRise s) := by
  unfold execVinRise
  dsimp only
  (repeat' split) <;> simp

@[simp] theorem execColdNAssert_fusesKept : FusesKept s (execColdNAssert s) := by
  unfold execColdNAssert
  dsimp only
  (repeat' split) <;> simp

@[simp] theorem execColdNRelease_fusesKept {held10us : Bool} : FusesKept s (execColdNRelease held10us s) := by
  unfold execColdNRelease
  dsimp only
  (repeat' split) <;> simp

@[simp] theorem execPerstAssert_fusesKept {held1us : Bool} : FusesKept s (execPerstAssert held1us s) := by
  unfold execPerstAssert
  dsimp only
  (repeat' split) <;> simp

@[simp] theorem execPerstRelease_fusesKept : FusesKept s (execPerstRelease s) := by simp [execPerstRelease]

/-! ### The test access port and debug unlock -/

@[simp] theorem tapTo_fw {i : TapInstr} : (s.tapTo i).fw = s.fw := rfl
@[simp] theorem execTrstNAssert_fusesKept : FusesKept s (execTrstNAssert s) := by simp [execTrstNAssert]
@[simp] theorem execBypass_fusesKept : FusesKept s (execBypass s) := by simp [execBypass]
@[simp] theorem execIdcode_fusesKept : FusesKept s (execIdcode s) := by simp [execIdcode]
@[simp] theorem execSamplePreload_fusesKept : FusesKept s (execSamplePreload s) := by simp [execSamplePreload]
@[simp] theorem execClamp_fusesKept : FusesKept s (execClamp s) := by simp [execClamp]

@[simp] theorem execExtest_fusesKept : FusesKept s (execExtest s) := by
  unfold execExtest
  dsimp only
  refine next_fusesKept.2 (congrArg Firmware.fuses ((foldl_fw (fun t i => ?_) _ _).trans ?_))
  · split <;> simp
  · split <;> simp

@[simp] theorem execDebugUnlock_fusesKept : FusesKept s (execDebugUnlock s) := by simp [execDebugUnlock]
@[simp] theorem zeroise_fuses : s.zeroise.fw.fuses = s.fw.fuses := rfl
@[simp] theorem unlock_fuses : s.unlock.fw.fuses = s.fw.fuses := by simp [State.unlock]

@[simp] theorem execUnlockResponse_fusesKept {key sig : List Byte} : FusesKept s (execUnlockResponse key sig s) := by
  unfold execUnlockResponse
  dsimp only
  (repeat' split) <;> simp

end Sys2Proof.Machine
end

section
/-! No command and no step takes a fuse back (R359, R373). -/

namespace Sys2Proof.Machine

-- One proof after another: hundreds of them at once, in one text with the model, take more threads than the check allows.
set_option Elab.async false

variable {s : State}

/-! ### FW_FUSE, every command, and the step -/

/-- The fuses of `g` are those of `f`, or more are blown: a blown debug-disable fuse stays blown, and the SVN floor is
no lower. -/
def Firmware.FusesLe (f g : Firmware) : Prop := (f.debugFuse = true → g.debugFuse = true) ∧ f.svnFloor ≤ g.svnFloor

theorem fusesLe_of_fuses_eq {f g : Firmware} (h : g.fuses = f.fuses) : f.FusesLe g := by
  obtain ⟨hdebug, hsvn⟩ := Prod.mk.inj h
  exact ⟨fun hb => hdebug.trans hb, BitVec.le_of_eq hsvn.symm⟩

/-- The state that an outcome leaves, if it leaves one, has no fuse of `s` taken back. -/
def FusesRise (s : State) (r : Res) : Prop := ∀ t, r = .next t → s.fw.FusesLe t.fw

theorem FusesKept.rise {r : Res} (h : FusesKept s r) : FusesRise s r := fun t ht => fusesLe_of_fuses_eq (h t ht)

/-- FW_FUSE blows the debug-disable fuse, or raises the SVN floor to the running firmware's SVN where that is higher
(R373). -/
theorem execFwFuse_fusesRise {r : RingIx} : FusesRise s (execFwFuse r s) := by
  intro t ht
  rcases runCmd_cases ht with rfl | ⟨c, rest, -, -, ⟨e, -, rfl⟩ | ⟨-, -, -, rfl⟩ | ⟨-, rfl | rfl⟩⟩
  · exact fusesLe_of_fuses_eq rfl
  · exact fusesLe_of_fuses_eq (by simp)
  · exact fusesLe_of_fuses_eq (by simp)
  · exact fusesLe_of_fuses_eq (by simp)
  · generalize hu : s.started r c = u
    have hfw : u.fw = s.fw := by simp [← hu]
    rw [← hfw]
    dsimp only
    split
    · exact fusesLe_of_fuses_eq (by simp)
    · by_cases hsvn : c.par 0 4 = 1
      · simp only [hsvn, decide_true, if_true, decide_eq_true_eq]
        split
        · exact fusesLe_of_fuses_eq (by simp)
        case isFalse hlow =>
          split
          · exact fusesLe_of_fuses_eq (by simp)
          · rw [ok_fw]
            exact ⟨id, BitVec.le_of_lt (BitVec.not_le.1 hlow)⟩
      · simp only [hsvn, decide_false, Bool.false_eq_true, if_false]
        split
        · exact fusesLe_of_fuses_eq (by simp)
        · split
          · exact fusesLe_of_fuses_eq (by simp)
          · rw [ok_fw]
            exact ⟨fun _ => rfl, BitVec.le_refl _⟩

/-- No command takes a fuse back. -/
theorem exec_fusesRise {i : Instr} : FusesRise s (exec i s) := by
  cases i with
  | fwFuse r => exact execFwFuse_fusesRise
  | _ => exact FusesKept.rise (by simp [exec])

/-- Settles O4: a step is the front command's or a deferred one's, on a state with the fuses of `s` (`exec_fusesRise`). -/
theorem fusesOnlyBlow : Obligations.FusesOnlyBlow := by
  intro s t ht
  suffices h : FusesRise s (step s) from h t ht
  unfold step
  split
  · exact exec_fusesRise (s := { s with pending := _ })
  · split
    case h_1 c rest _ _ =>
      intro u hu
      split at hu
      case h_1 v hv =>
        injection hu with hu
        exact hu ▸ exec_fusesRise (s := s.resumed c.2 rest) v hv
      case h_2 hne => exact absurd hu (hne u)
    · exact FusesKept.rise (next_fusesKept.2 rfl)

end Sys2Proof.Machine
end
